-- ==== Sys2Proof/Word.lean ====
section
/-! DEFINITION. The word types of the Korfigus 640 (R5, R40, R21) and the cutting of a number into bit fields. -/

namespace Sys2Proof

/-- A 64-bit instruction word, scalar register or doubleword (R5, R21, R40). -/
abbrev Word := BitVec 64

/-- One 32-bit lane of a grid line, a queue entry or a K register (R22, R25). -/
abbrev Lane := BitVec 32

/-- The smallest addressable unit of memory (R6). -/
abbrev Byte := BitVec 8

end Sys2Proof
end

