-- ==== Sys2Proof/Machine/Bits.lean ====
section
/-! DEFINITION. Bit fields, sign extension and bit counts of registers and words (R5, R44, R48, R83). -/

namespace Sys2Proof.Machine

/-- Bits [p + n - 1 : p] of a value, as a number. -/
def bits {w : Nat} (v : BitVec w) (p n : Nat) : Nat := (v.toNat / 2 ^ p) % 2 ^ n

/-- Bit p of a value. -/
def bitAt {w : Nat} (v : BitVec w) (p : Nat) : Bool := v.toNat / 2 ^ p % 2 = 1

/-- A field set in a word: bits [p + n - 1 : p] := v. -/
def setField (x : Word) (p n v : Nat) : Word :=
  BitVec.ofNat 64 (x.toNat - (x.toNat / 2 ^ p % 2 ^ n) * 2 ^ p + v % 2 ^ n * 2 ^ p)

/-- The two's-complement value of a field, extended to 64 bits. -/
def sext {n : Nat} (v : BitVec n) : Word := v.signExtend 64

/-- The two's-complement value of the low n bits of a number. -/
def signed (n v : Nat) : Int := if v % 2 ^ n < 2 ^ (n - 1) then (v % 2 ^ n : Nat) else (v % 2 ^ n : Nat) - (2 ^ n : Nat)

/-- The number of ones in the low n bits. -/
def popCount : Nat → Nat → Nat
  | 0, _ => 0
  | n + 1, v => v % 2 + popCount n (v / 2)

/-- The number of leading zeros of an n-bit number. -/
def leadZeros : Nat → Nat → Nat
  | 0, _ => 0
  | n + 1, v => if v / 2 ^ n % 2 = 1 then 0 else 1 + leadZeros n v

/-- The number of trailing zeros of an n-bit number. -/
def trailZeros : Nat → Nat → Nat
  | 0, _ => 0
  | n + 1, v => if v % 2 = 1 then 0 else 1 + trailZeros n (v / 2)

/-- The bytes of a 64-bit value in reverse order (R83). -/
def byteSwap : Nat → Nat → Nat → Nat
  | 0, _, acc => acc
  | n + 1, v, acc => byteSwap n (v / 256) (acc * 256 + v % 256)

/-- The position of the highest one: floor(log2 n), 0 for 0. -/
def log2 (n : Nat) : Nat := Nat.log2 n

/-- The greatest number whose square is at most n, by binary search over `fuel` bits. -/
def isqrtGo : Nat → Nat → Nat → Nat
  | 0, _, r => r
  | k + 1, n, r => isqrtGo k n (if (r + 2 ^ k) * (r + 2 ^ k) ≤ n then r + 2 ^ k else r)

/-- The integer square root of a number below 2^(2·fuel). -/
def isqrt (fuel n : Nat) : Nat := isqrtGo fuel n 0

/-- ⌈a / b⌉. -/
def ceilDiv (a b : Nat) : Nat := (a + b - 1) / b

end Sys2Proof.Machine
end

