-- ==== Sys2Proof/Syntax.lean ====
section
/-! DEFINITION. The instructions and steps of the device: one constructor of `Instr` per row of
spec/opcode_table.json. Operand fields are decoded: no raw encoding reaches the machine. -/

namespace Sys2Proof

/-- The four streams of a core (R11). -/
inductive Strm | c | l | v | s
  deriving DecidableEq, Repr

/-- The header of a single-stream word (R40): the idle count and the four token bits. -/
structure Hdr where
  idle : BitVec 10
  wp : Bool
  wn : Bool
  pp : Bool
  pn : Bool
  deriving DecidableEq, Repr

/-- Rounding modes (R52). -/
inductive Rnd | rne | rtz | rdn | sr
  deriving DecidableEq, Repr

/-- Scopes (R53). -/
inductive Scp | core | cluster | partition | device | pod
  deriving DecidableEq, Repr

/-- Access widths of the CM format (R55): 64, 8, 16 and 32 bits. -/
inductive Sz | d | b | h | w
  deriving DecidableEq, Repr

/-- Lane types (R51). -/
inductive LaneTy | i32 | ui32 | f32 | bf16x2 | f16x2 | i16x2 | ui8x4 | cb16
  deriving DecidableEq, Repr

/-- The lane types of the floating-point arithmetic (R146, column F). -/
inductive FTy | f32 | bf16x2 | f16x2
  deriving DecidableEq, Repr

/-- The lane types of the integer arithmetic (R146, column W). -/
inductive WTy | i32 | ui32 | i16x2 | ui8x4
  deriving DecidableEq, Repr

/-- The lane types of `scan` and `red` (R146). -/
inductive RTy | i32 | ui32 | f32
  deriving DecidableEq, Repr

/-- A source designator (R23). -/
inductive Src
  | row (i : BitVec 6) | col (i : BitVec 6) | dia (i : BitVec 6)
  | lq (n : BitVec 3) | pk (n : BitVec 3) | k (n : BitVec 4) | lane | zero
  deriving DecidableEq, Repr

/-- A destination designator (R23). -/
inductive Dst
  | row (i : BitVec 6) | col (i : BitVec 6) | dia (i : BitVec 6)
  | sq (n : BitVec 3) | void
  deriving DecidableEq, Repr

/-- A grid line (R22). -/
inductive Line | row (i : BitVec 6) | col (i : BitVec 6) | dia (i : BitVec 6)
  deriving DecidableEq, Repr

/-- The destination of `ldb` and `lda` (R123). -/
inductive LqLine | lq (n : BitVec 3) | line (x : Line)
  deriving DecidableEq, Repr

/-- The source of `sta` (R123). -/
inductive SqLine | sq (n : BitVec 3) | line (x : Line)
  deriving DecidableEq, Repr

/-- The branch conditions of CB and AB (R56). -/
inductive Cnd | eq | ne | lt | ge | ltu | geu | al
  deriving DecidableEq, Repr

/-- The conditions of `icmp` and `waita` (R94, R157). -/
inductive ICnd | eq | ne | lt | ge | ltu | geu
  deriving DecidableEq, Repr

/-- The conditions of `fcmp` (R154). -/
inductive FCnd | eq | ne | lt | ge | le | gt | un | ord
  deriving DecidableEq, Repr

/-- The operations of `amo` (R90). -/
inductive AmoOp | add | and | or | xor | min | max | minu | maxu | swap
  deriving DecidableEq, Repr

/-- The operations of `scan` and `red` (R162). -/
inductive LaneOp | add | min | max | xor | or | and
  deriving DecidableEq, Repr

/-- The engines of a core (R100). -/
inductive Eng | array | copy | xe
  deriving DecidableEq, Repr

/-- The domain types (R35). -/
inductive DomTy | vlg | gfb | spb | acb | xe | maq | wbb | ce
  deriving DecidableEq, Repr

/-- The address modes of AQ (R49). -/
inductive Md | none | post | pre
  deriving DecidableEq, Repr

/-- The conversions at operand fetch (R124). -/
inductive Cv | none | bf16 | f16 | i8 | pk
  deriving DecidableEq, Repr

/-- Who makes a register access or a mailbox request (R340, R343). -/
inductive Party | host | sapwood
  deriving DecidableEq, Repr

/-- A power domain of a core or of a cluster (R35): for the types 0 to 4 `owner` is a core number,
for the types 5 to 7 a cluster number. -/
structure DomRef where
  owner : Nat
  ty : DomTy
  ix : Nat
  deriving DecidableEq, Repr

/-- The instructions and steps: every row of spec/opcode_table.json is one constructor. The first
group are the instruction words, each with its header; the constructors after `allBrk` are the
steps of the device that are no word. -/
inductive Instr
  /-- R43, R83: no operation. -/
  | cNop (h : Hdr)
  /-- R83: `c.add D, A, B`. -/
  | cAdd (h : Hdr) (d : BitVec 5) (a : BitVec 5) (b : BitVec 5)
  /-- R83: `c.sub D, A, B`. -/
  | cSub (h : Hdr) (d : BitVec 5) (a : BitVec 5) (b : BitVec 5)
  /-- R83: `c.and D, A, B`. -/
  | cAnd (h : Hdr) (d : BitVec 5) (a : BitVec 5) (b : BitVec 5)
  /-- R83: `c.or D, A, B`. -/
  | cOr (h : Hdr) (d : BitVec 5) (a : BitVec 5) (b : BitVec 5)
  /-- R83: `c.xor D, A, B`. -/
  | cXor (h : Hdr) (d : BitVec 5) (a : BitVec 5) (b : BitVec 5)
  /-- R83: `c.andn D, A, B`. -/
  | cAndn (h : Hdr) (d : BitVec 5) (a : BitVec 5) (b : BitVec 5)
  /-- R83: `c.shl D, A, B`. -/
  | cShl (h : Hdr) (d : BitVec 5) (a : BitVec 5) (b : BitVec 5)
  /-- R83: `c.shr D, A, B`. -/
  | cShr (h : Hdr) (d : BitVec 5) (a : BitVec 5) (b : BitVec 5)
  /-- R83: `c.sra D, A, B`. -/
  | cSra (h : Hdr) (d : BitVec 5) (a : BitVec 5) (b : BitVec 5)
  /-- R83: `c.rol D, A, B`. -/
  | cRol (h : Hdr) (d : BitVec 5) (a : BitVec 5) (b : BitVec 5)
  /-- R83: `c.mul D, A, B`. -/
  | cMul (h : Hdr) (d : BitVec 5) (a : BitVec 5) (b : BitVec 5)
  /-- R83: `c.mulh D, A, B`. -/
  | cMulh (h : Hdr) (d : BitVec 5) (a : BitVec 5) (b : BitVec 5)
  /-- R83: `c.mulhu D, A, B`. -/
  | cMulhu (h : Hdr) (d : BitVec 5) (a : BitVec 5) (b : BitVec 5)
  /-- R83: `c.div D, A, B`. -/
  | cDiv (h : Hdr) (d : BitVec 5) (a : BitVec 5) (b : BitVec 5)
  /-- R83: `c.divu D, A, B`. -/
  | cDivu (h : Hdr) (d : BitVec 5) (a : BitVec 5) (b : BitVec 5)
  /-- R83: `c.rem D, A, B`. -/
  | cRem (h : Hdr) (d : BitVec 5) (a : BitVec 5) (b : BitVec 5)
  /-- R83: `c.remu D, A, B`. -/
  | cRemu (h : Hdr) (d : BitVec 5) (a : BitVec 5) (b : BitVec 5)
  /-- R83: `c.min D, A, B`. -/
  | cMin (h : Hdr) (d : BitVec 5) (a : BitVec 5) (b : BitVec 5)
  /-- R83: `c.max D, A, B`. -/
  | cMax (h : Hdr) (d : BitVec 5) (a : BitVec 5) (b : BitVec 5)
  /-- R83: `c.minu D, A, B`. -/
  | cMinu (h : Hdr) (d : BitVec 5) (a : BitVec 5) (b : BitVec 5)
  /-- R83: `c.maxu D, A, B`. -/
  | cMaxu (h : Hdr) (d : BitVec 5) (a : BitVec 5) (b : BitVec 5)
  /-- R83: `c.slt D, A, B`. -/
  | cSlt (h : Hdr) (d : BitVec 5) (a : BitVec 5) (b : BitVec 5)
  /-- R83: `c.sltu D, A, B`. -/
  | cSltu (h : Hdr) (d : BitVec 5) (a : BitVec 5) (b : BitVec 5)
  /-- R83: `c.seq D, A, B`. -/
  | cSeq (h : Hdr) (d : BitVec 5) (a : BitVec 5) (b : BitVec 5)
  /-- R83: `c.sne D, A, B`. -/
  | cSne (h : Hdr) (d : BitVec 5) (a : BitVec 5) (b : BitVec 5)
  /-- R83: `c.clz D, A`. -/
  | cClz (h : Hdr) (d : BitVec 5) (a : BitVec 5)
  /-- R83: `c.ctz D, A`. -/
  | cCtz (h : Hdr) (d : BitVec 5) (a : BitVec 5)
  /-- R83: `c.popc D, A`. -/
  | cPopc (h : Hdr) (d : BitVec 5) (a : BitVec 5)
  /-- R83: `c.bswap D, A`. -/
  | cBswap (h : Hdr) (d : BitVec 5) (a : BitVec 5)
  /-- R85. -/
  | cAddi (h : Hdr) (d : BitVec 5) (a : BitVec 5) (imm : BitVec 30)
  /-- R85. -/
  | cAndi (h : Hdr) (d : BitVec 5) (a : BitVec 5) (imm : BitVec 30)
  /-- R85. -/
  | cOri (h : Hdr) (d : BitVec 5) (a : BitVec 5) (imm : BitVec 30)
  /-- R85. -/
  | cXori (h : Hdr) (d : BitVec 5) (a : BitVec 5) (imm : BitVec 30)
  /-- R85: IMM30[29:6] reserved. -/
  | cShli (h : Hdr) (d : BitVec 5) (a : BitVec 5) (amt : BitVec 6)
  /-- R85: IMM30[29:6] reserved. -/
  | cShri (h : Hdr) (d : BitVec 5) (a : BitVec 5) (amt : BitVec 6)
  /-- R85: IMM30[29:6] reserved. -/
  | cSrai (h : Hdr) (d : BitVec 5) (a : BitVec 5) (amt : BitVec 6)
  /-- R85. -/
  | cSlti (h : Hdr) (d : BitVec 5) (a : BitVec 5) (imm : BitVec 30)
  /-- R85. -/
  | cSltui (h : Hdr) (d : BitVec 5) (a : BitVec 5) (imm : BitVec 30)
  /-- R85. -/
  | cLi (h : Hdr) (d : BitVec 5) (imm : BitVec 30)
  /-- R85. -/
  | cLih (h : Hdr) (d : BitVec 5) (a : BitVec 5) (imm : BitVec 30)
  /-- R85. -/
  | cAddpc (h : Hdr) (d : BitVec 5) (imm : BitVec 30)
  /-- R111. -/
  | cMtk (h : Hdr) (a : BitVec 5) (k : BitVec 4)
  /-- R111: IDX[4] set names the S set. -/
  | cMtp (h : Hdr) (a : BitVec 5) (inS : Bool) (p : BitVec 4)
  /-- R86. -/
  | cLd (h : Hdr) (d : BitVec 5) (a : BitVec 5) (cls : BitVec 4) (scp : Scp) (sz : Sz) (sx : Bool) (ofs : BitVec 20)
  /-- R86: D is the register stored. -/
  | cSt (h : Hdr) (d : BitVec 5) (a : BitVec 5) (cls : BitVec 4) (scp : Scp) (sz : Sz) (ofs : BitVec 20)
  /-- R86. -/
  | cLdx (h : Hdr) (d : BitVec 5) (a : BitVec 5) (b : BitVec 5) (cls : BitVec 4) (scp : Scp) (sx : Bool) (sz : Sz)
  /-- R86: D is the register stored. -/
  | cStx (h : Hdr) (d : BitVec 5) (a : BitVec 5) (b : BitVec 5) (cls : BitVec 4) (scp : Scp) (sz : Sz)
  /-- R90. -/
  | cAmo (h : Hdr) (d : BitVec 5) (a : BitVec 5) (b : BitVec 5) (cls : BitVec 4) (scp : Scp) (w32 : Bool) (opn : AmoOp)
  /-- R91. -/
  | cCas (h : Hdr) (d : BitVec 5) (a : BitVec 5) (b : BitVec 5) (e : BitVec 5) (cls : BitVec 4) (scp : Scp) (w32 : Bool)
  /-- R94. -/
  | cWaita (h : Hdr) (d : BitVec 5) (a : BitVec 5) (b : BitVec 5) (slot : BitVec 3) (cnd : ICnd)
  /-- R93. -/
  | cFence (h : Hdr) (scp : Scp) (mask : BitVec 16)
  /-- R95. -/
  | cB (h : Hdr) (a : BitVec 5) (b : BitVec 5) (cnd : Cnd) (ofs : BitVec 27)
  /-- R95. -/
  | cJ (h : Hdr) (ofs : BitVec 35)
  /-- R95. -/
  | cJal (h : Hdr) (d : BitVec 5) (ofs : BitVec 35)
  /-- R95. -/
  | cJr (h : Hdr) (d : BitVec 5) (a : BitVec 5)
  /-- R105. -/
  | cRclaim (h : Hdr) (d : BitVec 5) (idx : BitVec 6) (scp : Scp)
  /-- R105. -/
  | cRpub (h : Hdr) (a : BitVec 5) (idx : BitVec 6) (scp : Scp) (mask : BitVec 16)
  /-- R105. -/
  | cRwaitf (h : Hdr) (d : BitVec 5) (idx : BitVec 6) (scp : Scp)
  /-- R105. -/
  | cRrel (h : Hdr) (a : BitVec 5) (idx : BitVec 6) (scp : Scp) (mask : BitVec 16)
  /-- R105. -/
  | cRwaite (h : Hdr) (idx : BitVec 6) (scp : Scp)
  /-- R107. -/
  | cBar (h : Hdr) (d : BitVec 5) (idx : BitVec 6) (scp : Scp) (mask : BitVec 16)
  /-- R98: FN16[5:0] holds n - 1. -/
  | cLease (h : Hdr) (d : BitVec 5) (n1 : BitVec 6)
  /-- R99. -/
  | cUlease (h : Hdr)
  /-- R100. -/
  | cCbatch (h : Hdr) (d : BitVec 5) (eng : Eng)
  /-- R101. -/
  | cWaitb (h : Hdr) (a : BitVec 5) (eng : Eng)
  /-- R102. -/
  | cLpf (h : Hdr) (a : BitVec 5) (b : BitVec 5)
  /-- R108. -/
  | cTcfg (h : Hdr) (a : BitVec 5) (b : BitVec 5) (idx : BitVec 6)
  /-- R109. -/
  | cTrel (h : Hdr) (idx : BitVec 6)
  /-- R110. -/
  | cFtset (h : Hdr) (a : BitVec 5) (idx : BitVec 5)
  /-- R141, R143. -/
  | cWake (h : Hdr) (dt : DomTy) (mask : BitVec 32)
  /-- R141, R144. -/
  | cSleep (h : Hdr) (dt : DomTy) (ret : Bool) (mask : BitVec 32)
  /-- R141, R145. -/
  | cWstat (h : Hdr) (dt : DomTy) (mask : BitVec 32)
  /-- R115. -/
  | cTrap (h : Hdr) (code : BitVec 16)
  /-- R116. -/
  | cEret (h : Hdr)
  /-- R113. -/
  | cMfsr (h : Hdr) (d : BitVec 5) (n : BitVec 16)
  /-- R113. -/
  | cMtsr (h : Hdr) (a : BitVec 5) (n : BitVec 16)
  /-- R117. -/
  | cRdtb (h : Hdr) (d : BitVec 5)
  /-- R117. -/
  | cMark (h : Hdr) (code : BitVec 16)
  /-- R112. -/
  | cRecv (h : Hdr) (d : BitVec 5)
  /-- R118. -/
  | cIter (h : Hdr)
  /-- R43: no operation. -/
  | lNop (h : Hdr)
  /-- R122. -/
  | lPset (h : Hdr) (p : BitVec 4) (imm : BitVec 36)
  /-- R122. -/
  | lPadd (h : Hdr) (p : BitVec 4) (imm : BitVec 36)
  /-- R123. -/
  | lLdq (h : Hdr) (p : BitVec 4) (x : BitVec 3) (ty : LaneTy) (cv : Cv) (md : Md) (inc : BitVec 20)
  /-- R123. -/
  | lLdg (h : Hdr) (p : BitVec 4) (x : Line) (ty : LaneTy) (cv : Cv) (md : Md) (inc : BitVec 20)
  /-- R123. -/
  | lLdb (h : Hdr) (p : BitVec 4) (x : LqLine) (ty : LaneTy) (cv : Cv) (md : Md) (inc : BitVec 20)
  /-- R123. -/
  | lLda (h : Hdr) (p : BitVec 4) (x : LqLine) (ty : LaneTy) (pk : Bool) (md : Md) (inc : BitVec 20)
  /-- R122. -/
  | lLrs (h : Hdr) (p : BitVec 4) (ring : BitVec 4)
  /-- R129. -/
  | lLdm (h : Hdr) (p : BitVec 4) (x : BitVec 3) (cls : BitVec 4) (scp : Scp) (stride : BitVec 18)
  /-- R129. -/
  | lLdgx (h : Hdr) (p : BitVec 4) (x : BitVec 3) (cls : BitVec 4) (scp : Scp) (row : BitVec 6)
  /-- R141, R143. -/
  | lWake (h : Hdr) (dt : DomTy) (mask : BitVec 32)
  /-- R141, R144. -/
  | lSleep (h : Hdr) (dt : DomTy) (ret : Bool) (mask : BitVec 32)
  /-- R141, R145. -/
  | lWstat (h : Hdr) (dt : DomTy) (mask : BitVec 32)
  /-- R43: no operation. -/
  | sNop (h : Hdr)
  /-- R122. -/
  | sPset (h : Hdr) (p : BitVec 4) (imm : BitVec 36)
  /-- R122. -/
  | sPadd (h : Hdr) (p : BitVec 4) (imm : BitVec 36)
  /-- R123. -/
  | sStq (h : Hdr) (p : BitVec 4) (x : BitVec 3) (ty : LaneTy) (cv : Cv) (md : Md) (inc : BitVec 20)
  /-- R123. -/
  | sStg (h : Hdr) (p : BitVec 4) (x : Line) (ty : LaneTy) (cv : Cv) (md : Md) (inc : BitVec 20)
  /-- R123. -/
  | sSta (h : Hdr) (p : BitVec 4) (x : SqLine) (ty : LaneTy) (md : Md) (inc : BitVec 20)
  /-- R122. -/
  | sSrs (h : Hdr) (p : BitVec 4) (ring : BitVec 4)
  /-- R129. -/
  | sStm (h : Hdr) (p : BitVec 4) (x : BitVec 3) (cls : BitVec 4) (scp : Scp) (stride : BitVec 18)
  /-- R129. -/
  | sStsx (h : Hdr) (p : BitVec 4) (x : BitVec 3) (cls : BitVec 4) (scp : Scp) (row : BitVec 6)
  /-- R129, R130. -/
  | sVamo (h : Hdr) (p : BitVec 4) (x : BitVec 3) (cls : BitVec 4) (scp : Scp) (ty : LaneTy) (stride : BitVec 18)
  /-- R141, R143. -/
  | sWake (h : Hdr) (dt : DomTy) (mask : BitVec 32)
  /-- R141, R144. -/
  | sSleep (h : Hdr) (dt : DomTy) (ret : Bool) (mask : BitVec 32)
  /-- R141, R145. -/
  | sWstat (h : Hdr) (dt : DomTy) (mask : BitVec 32)
  /-- R43: no operation. -/
  | vNop (h : Hdr)
  /-- R146, R152. -/
  | vFadd (h : Hdr) (d : Dst) (a : Src) (b : Src) (ty : FTy) (z : BitVec 3) (rnd : Rnd)
  /-- R146, R152. -/
  | vFsub (h : Hdr) (d : Dst) (a : Src) (b : Src) (ty : FTy) (z : BitVec 3) (rnd : Rnd)
  /-- R146, R152. -/
  | vFmul (h : Hdr) (d : Dst) (a : Src) (b : Src) (ty : FTy) (z : BitVec 3) (rnd : Rnd)
  /-- R146, R152. -/
  | vFma (h : Hdr) (d : Dst) (a : Src) (b : Src) (c : Src) (ty : FTy) (z : BitVec 3) (rnd : Rnd)
  /-- R146, R152. -/
  | vFms (h : Hdr) (d : Dst) (a : Src) (b : Src) (c : Src) (ty : FTy) (z : BitVec 3) (rnd : Rnd)
  /-- R146, R152. -/
  | vFnma (h : Hdr) (d : Dst) (a : Src) (b : Src) (c : Src) (ty : FTy) (z : BitVec 3) (rnd : Rnd)
  /-- R146, R153. -/
  | vFmin (h : Hdr) (d : Dst) (a : Src) (b : Src) (ty : FTy) (z : BitVec 3)
  /-- R146, R153. -/
  | vFmax (h : Hdr) (d : Dst) (a : Src) (b : Src) (ty : FTy) (z : BitVec 3)
  /-- R154. -/
  | vFcmp (h : Hdr) (d : Dst) (a : Src) (b : Src) (zt : BitVec 3) (cnd : FCnd) (z : BitVec 3)
  /-- R146, R153. -/
  | vFabs (h : Hdr) (d : Dst) (a : Src) (ty : FTy) (z : BitVec 3)
  /-- R146, R153. -/
  | vFneg (h : Hdr) (d : Dst) (a : Src) (ty : FTy) (z : BitVec 3)
  /-- R146, R155. -/
  | vExp2 (h : Hdr) (d : Dst) (a : Src) (z : BitVec 3) (rnd : Rnd)
  /-- R146, R155. -/
  | vLog2 (h : Hdr) (d : Dst) (a : Src) (z : BitVec 3) (rnd : Rnd)
  /-- R146, R155. -/
  | vRcp (h : Hdr) (d : Dst) (a : Src) (z : BitVec 3) (rnd : Rnd)
  /-- R146, R155. -/
  | vRsq (h : Hdr) (d : Dst) (a : Src) (z : BitVec 3) (rnd : Rnd)
  /-- R156. -/
  | vIadd (h : Hdr) (d : Dst) (a : Src) (b : Src) (ty : WTy) (z : BitVec 3)
  /-- R156. -/
  | vIsub (h : Hdr) (d : Dst) (a : Src) (b : Src) (ty : WTy) (z : BitVec 3)
  /-- R156. -/
  | vImul (h : Hdr) (d : Dst) (a : Src) (b : Src) (ty : WTy) (z : BitVec 3)
  /-- R156. -/
  | vImulh (h : Hdr) (d : Dst) (a : Src) (b : Src) (ty : WTy) (z : BitVec 3)
  /-- R156. -/
  | vImulhu (h : Hdr) (d : Dst) (a : Src) (b : Src) (ty : WTy) (z : BitVec 3)
  /-- R156. -/
  | vIand (h : Hdr) (d : Dst) (a : Src) (b : Src) (z : BitVec 3)
  /-- R156. -/
  | vIor (h : Hdr) (d : Dst) (a : Src) (b : Src) (z : BitVec 3)
  /-- R156. -/
  | vIxor (h : Hdr) (d : Dst) (a : Src) (b : Src) (z : BitVec 3)
  /-- R156. -/
  | vIandn (h : Hdr) (d : Dst) (a : Src) (b : Src) (z : BitVec 3)
  /-- R156. -/
  | vIshl (h : Hdr) (d : Dst) (a : Src) (b : Src) (ty : WTy) (z : BitVec 3)
  /-- R156. -/
  | vIshr (h : Hdr) (d : Dst) (a : Src) (b : Src) (ty : WTy) (z : BitVec 3)
  /-- R156. -/
  | vIsra (h : Hdr) (d : Dst) (a : Src) (b : Src) (ty : WTy) (z : BitVec 3)
  /-- R156. -/
  | vImin (h : Hdr) (d : Dst) (a : Src) (b : Src) (ty : WTy) (z : BitVec 3)
  /-- R156. -/
  | vImax (h : Hdr) (d : Dst) (a : Src) (b : Src) (ty : WTy) (z : BitVec 3)
  /-- R156. -/
  | vIminu (h : Hdr) (d : Dst) (a : Src) (b : Src) (ty : WTy) (z : BitVec 3)
  /-- R156. -/
  | vImaxu (h : Hdr) (d : Dst) (a : Src) (b : Src) (ty : WTy) (z : BitVec 3)
  /-- R156. -/
  | vIpopc (h : Hdr) (d : Dst) (a : Src) (z : BitVec 3)
  /-- R156. -/
  | vIclz (h : Hdr) (d : Dst) (a : Src) (z : BitVec 3)
  /-- R157. -/
  | vIcmp (h : Hdr) (d : Dst) (a : Src) (b : Src) (zt : BitVec 3) (cnd : ICnd) (z : BitVec 3)
  /-- R156. -/
  | vIabs (h : Hdr) (d : Dst) (a : Src) (ty : WTy) (z : BitVec 3)
  /-- R156, R158. -/
  | vClmul (h : Hdr) (d : Dst) (a : Src) (b : Src) (z : BitVec 3)
  /-- R158. -/
  | vBcmp8 (h : Hdr) (d : Dst) (a : Src) (byte : BitVec 8) (z : BitVec 3)
  /-- R158. -/
  | vBpack (h : Hdr) (d : Dst) (a : Src) (z : BitVec 3)
  /-- R159: `ty` is the destination type, `src` the source type. -/
  | vCvt (h : Hdr) (d : Dst) (a : Src) (b : Src) (el : Bool) (src : LaneTy) (ty : LaneTy) (z : BitVec 3) (rnd : Rnd)
  /-- R160. -/
  | vQblk (h : Hdr) (d : Dst) (a : Src) (e5m2 : Bool) (z : BitVec 3) (rnd : Rnd)
  /-- R161. -/
  | vDqblk (h : Hdr) (d : Dst) (a : Src) (e5m2 : Bool) (z : BitVec 3) (rnd : Rnd)
  /-- R162. -/
  | vScan (h : Hdr) (d : Dst) (a : Src) (ex : Bool) (op : LaneOp) (ty : RTy) (z : BitVec 3) (rnd : Rnd)
  /-- R162. -/
  | vRed (h : Hdr) (d : Dst) (a : Src) (op : LaneOp) (ty : RTy) (z : BitVec 3) (rnd : Rnd)
  /-- R163. -/
  | vPerm (h : Hdr) (d : Dst) (a : Src) (b : Src) (z : BitVec 3)
  /-- R163. -/
  | vRot (h : Hdr) (d : Dst) (a : Src) (n : BitVec 6)
  /-- R163. -/
  | vBcast (h : Hdr) (d : Dst) (a : Src) (src : BitVec 6) (z : BitVec 3)
  /-- R164. -/
  | vCmul (h : Hdr) (d : Dst) (a : Src) (b : Src) (z : BitVec 3) (rnd : Rnd)
  /-- R164. -/
  | vCmulc (h : Hdr) (d : Dst) (a : Src) (b : Src) (z : BitVec 3) (rnd : Rnd)
  /-- R164. -/
  | vCma (h : Hdr) (d : Dst) (a : Src) (b : Src) (c : Src) (z : BitVec 3) (rnd : Rnd)
  /-- R164. -/
  | vCmac (h : Hdr) (d : Dst) (a : Src) (b : Src) (c : Src) (z : BitVec 3) (rnd : Rnd)
  /-- R164. -/
  | vCabs2 (h : Hdr) (d : Dst) (a : Src) (z : BitVec 3) (rnd : Rnd)
  /-- R165. -/
  | vMov (h : Hdr) (d : Dst) (a : Src) (z : BitVec 3)
  /-- R165. -/
  | vSel (h : Hdr) (d : Dst) (a : Src) (b : Src) (c : Src) (z : BitVec 3)
  /-- R47, R165. -/
  | vSetk (h : Hdr) (k : BitVec 4) (imm : BitVec 24)
  /-- R166. -/
  | vZand (h : Hdr) (zd : BitVec 3) (za : BitVec 3) (zb : BitVec 3) (z : BitVec 3)
  /-- R166. -/
  | vZor (h : Hdr) (zd : BitVec 3) (za : BitVec 3) (zb : BitVec 3) (z : BitVec 3)
  /-- R166. -/
  | vZxor (h : Hdr) (zd : BitVec 3) (za : BitVec 3) (zb : BitVec 3) (z : BitVec 3)
  /-- R166. -/
  | vZcnt (h : Hdr) (d : Dst) (za : BitVec 3) (z : BitVec 3)
  /-- R167. -/
  | vSend (h : Hdr) (a : Src)
  /-- R141, R143. -/
  | vWake (h : Hdr) (dt : DomTy) (mask : BitVec 32)
  /-- R141, R144. -/
  | vSleep (h : Hdr) (dt : DomTy) (ret : Bool) (mask : BitVec 32)
  /-- R141, R145. -/
  | vWstat (h : Hdr) (dt : DomTy) (mask : BitVec 32)
  /-- R139. -/
  | allNop (idle : BitVec 10)
  /-- R135. -/
  | allStart (idle : BitVec 10)
  /-- R136. -/
  | allEnd (idle : BitVec 10)
  /-- R137. -/
  | allLoop (idle : BitVec 10) (lp : BitVec 2) (src : Bool) (count : BitVec 17) (end20 : BitVec 20)
  /-- R138. -/
  | allBr (idle : BitVec 10) (a : BitVec 5) (b : BitVec 5) (cnd : Cnd) (ofs : BitVec 27)
  /-- R135. -/
  | allRealign (idle : BitVec 10)
  /-- R139. -/
  | allBrk (idle : BitVec 10)
  /-- R72: a word that is not an instruction, with its ILLEGAL detail code (R70), at a stream's head. -/
  | illegalWord (detail : Nat)
  /-- R177: the running array command of a cluster is an `mma`: its arithmetic. -/
  | arrayMma (cl : Nat)
  /-- R179, R219: the same for `mmas`. -/
  | arrayMmas (cl : Nat)
  /-- R180: the same for `mzero`. -/
  | arrayMzero (cl : Nat)
  /-- R181, R213: the same for `drain`. -/
  | arrayDrain (cl : Nat)
  /-- R183: one slot of the started `copy` of a core. -/
  | ceCopy (core : Nat)
  /-- R184: one slot of a `gath`. -/
  | ceGath (core : Nat)
  /-- R184: one slot of a `scat`. -/
  | ceScat (core : Nat)
  /-- R185: one slot of a `wfill`. -/
  | ceWfill (core : Nat)
  /-- R186: the write of a `flagw`. -/
  | ceFlagw (core : Nat)
  /-- R187: the next page of a `pref`. -/
  | cePref (core : Nat)
  /-- R216: the arithmetic of a running `fwd`. -/
  | xeFwd (core : Nat)
  /-- R217: the arithmetic of a running `inv`. -/
  | xeInv (core : Nat)
  /-- R189: a running `tagset`. -/
  | xeTagset (core : Nat)
  /-- R96, R239: a waiting GO of a core pushes. -/
  | goPush (core : Nat)
  /-- R192, R193: an engine starts its oldest startable command of a core. -/
  | commandStart (core : Nat) (eng : Eng)
  /-- R182: the slot of this cycle of a cluster's copy engine. -/
  | copyEngineSlot (cl : Nat)
  /-- R170, R188, R240: a command whose work is done completes. -/
  | commandComplete (core : Nat) (eng : Eng)
  /-- R97: a waiting RESULT load pops its record. -/
  | resultLoad (core : Nat)
  /-- R87: the reply of a waiting C access. -/
  | cLoadReply (core : Nat)
  /-- R93, R238. -/
  | fenceRelease (core : Nat)
  /-- R94, R386. -/
  | waitaRelease (core : Nat)
  /-- R103, R105: the home of ring (or barrier) `n` of a partition applies one operation. -/
  | homeApply (part : Nat) (bar : Bool) (n : Nat)
  /-- R388. -/
  | syncRelease (core : Nat)
  /-- R195. -/
  | leaseGrant (cl : Nat)
  /-- R98. -/
  | leaseTimeout (cl : Nat)
  /-- R101, R172. -/
  | waitbRelease (core : Nat)
  /-- R112. -/
  | recvRelease (core : Nat)
  /-- R232, R278. -/
  | iterAnswer (core : Nat)
  /-- R145. -/
  | wstatRelease (core : Nat) (st : Strm)
  /-- R19, R20: the oldest due V (or C to V, L, S) result lands. -/
  | vResultWrite (core : Nat)
  /-- R126, R132. -/
  | lqFill (core : Nat)
  /-- R126. -/
  | gridLoadLand (core : Nat)
  /-- R235. -/
  | directAccessPerform (core : Nat)
  /-- R133, R223: the filled head of a coupled SQ moves. -/
  | couplingTransfer (core : Nat) (sq : BitVec 3)
  /-- R234, R236: the oldest entry of a class FIFO performs. -/
  | perform (core : Nat) (cls : BitVec 4)
  /-- R368. -/
  | sliceEntryApply (slice : Nat)
  /-- R243: the oldest entry of a class FIFO finds its lease expired. -/
  | leaseExpiry (core : Nat) (cls : BitVec 4)
  /-- R298: the oldest walk of a cluster returns. -/
  | walkReturn (cl : Nat)
  /-- R316. -/
  | atomicResend (core : Nat) (cls : BitVec 4)
  /-- R143: the head of a core's (or lease's) wake queue starts. -/
  | domainWakeStart (lease : Bool) (n : Nat)
  /-- R143. -/
  | domainAwake (dom : DomRef)
  /-- R144. -/
  | domainPowerOff (dom : DomRef)
  /-- R136, R384. -/
  | launchEnd (core : Nat)
  /-- R377. -/
  | ballastFadeStart (cl : Nat)
  /-- R377. -/
  | ballastFadeEnd (cl : Nat)
  /-- R305: a due fault of a core whose stop waited is taken. -/
  | faultStop (core : Nat)
  /-- R310, R311. -/
  | snapshotDeliver (core : Nat)
  /-- R313. -/
  | fwd (core : Nat)
  /-- R294, R295: a beacon at the router of a cluster, or, with 160 and 161, of a host link; until the next one the copy drifts by
  `drift` ns. -/
  | timeBeacon (cl : Nat) (drift : Int)
  /-- R374, R376: a window boundary; `watts` is the average power measured. -/
  | railWindow (cl : Nat) (watts : Nat)
  /-- R271, R272. -/
  | rcbAccept (part : Nat)
  /-- R273. -/
  | regionDispatch (part : Nat)
  /-- R267 step 8, R274, R275, of the region of an acceptance number (R272). -/
  | launchStart (part : Nat) (order : Nat)
  /-- R276, of the region of an acceptance number. -/
  | regionEnd (part : Nat) (order : Nat)
  /-- R318. -/
  | preemptDone (part : Nat)
  /-- R310, R318. -/
  | resumeRestart (part : Nat)
  /-- R382. -/
  | placementDone (part : Nat)
  /-- R383. -/
  | sliceExpiry (core : Nat)
  /-- R383. -/
  | bankRestart (core : Nat)
  /-- R333. -/
  | sample (core : Nat)
  /-- R338. -/
  | replayRelease (core : Nat) (st : Strm)
  /-- R343. -/
  | mailboxComplete
  /-- R293. -/
  | invalidationCompletion (tag : Nat)
  /-- R12, R13, R225. -/
  | instructionFetch (core : Nat) (st : Strm)
  /-- R374. -/
  | railSwitchEnd (cl : Nat)
  /-- R191. -/
  | xeSiblingPull (core : Nat)
  /-- R9, R370: a write of a device register at its BAR0 offset. -/
  | regWrite (who : Party) (off : Nat) (val : BitVec 64)
  /-- R295. -/
  | beaconTimeout (cl : Nat)
  /-- R378. -/
  | thermalTrip (code : BitVec 8) (sensor : Nat)
  /-- R342: the two signature checks come out as given (R342 steps 1 and 4). -/
  | coldReset (hwOk : Bool) (swOk : Bool)
  /-- R271. -/
  | doorbell (part : Nat) (tail : BitVec 16)
  /-- R317, R318. -/
  | pctlPreempt (part : Nat) (regid : Nat)
  /-- R317, R318. -/
  | pctlResume (part : Nat) (regid : Nat)
  /-- R317, R318. -/
  | pctlEnd (part : Nat) (regid : Nat)
  /-- R313, R317. -/
  | pctlOneResume (part : Nat) (regid : Nat) (lcore : Nat)
  /-- R313, R317. -/
  | pctlOneEnd (part : Nat) (regid : Nat) (lcore : Nat)
  /-- R382. -/
  | bsharePlace (part : Nat) (slice : BitVec 16) (regid : Nat)
  /-- R382. -/
  | bshareStop (part : Nat) (slice : BitVec 16)
  /-- R336. -/
  | dbghalt (part : Nat)
  /-- R370. -/
  | sqcfgWrite (part : Nat) (val : BitVec 64)
  /-- R328. -/
  | tlostRead (part : Nat)
  /-- R295. -/
  | tbstatRead (cl : Nat)
  /-- R354. -/
  | linkStatusRead (peer : Bool) (router : Nat) (port : Nat)
  /-- R343, R344. -/
  | mbNonce (who : Party)
  /-- R346. -/
  | mbUnlock (who : Party)
  /-- R343, R344. -/
  | mbQuote (who : Party)
  /-- R343, R344. -/
  | mbExtend (who : Party)
  /-- R343, R344. -/
  | mbIdent (who : Party)
  /-- R343, R344. -/
  | mbPsetup (who : Party)
  /-- R352: a link end receives a flit. -/
  | flitReceive (peer : Bool) (router : Nat) (port : Nat) (seq : BitVec 8) (crcOk : Bool)
  /-- R353. -/
  | linkRetrain (peer : Bool) (router : Nat) (port : Nat)
  /-- R353: `bad` marks the lanes that failed training. -/
  | retrainEnd (peer : Bool) (router : Nat) (port : Nat) (bad : BitVec 32)
  /-- R351. -/
  | linkLoss (peer : Bool) (router : Nat) (port : Nat)
  /-- R351. -/
  | routeTableApply (router : Nat) (dest : Nat)
  /-- R292: a host translation completion for the oldest request of a cluster: `page` is the base address covered, of 2^`log2` bytes. -/
  | atsCompletion (cl : Nat) (page : Nat) (log2 : Nat) (pa : Nat) (r : Bool) (w : Bool)
  /-- R293. -/
  | atsInvalidationRequest (part : Nat) (tag : Nat)
  /-- R294, R372: the host is `ahead` ns ahead of the beacon. -/
  | ptmExchange (ahead : Int)
  /-- R358: below 96, the slice; from 96 upward, an error in one stored bit (R361; DESIGN CHOICE, log 75). -/
  | sliceStopsAnswering (slice : Nat)
  /-- R371. -/
  | hostLinkDown
  /-- R369. -/
  | hostLinkUp (link : BitVec 1) (width : Nat)
  /-- R369, R360: a host request of a partition's functions: a write of bytes, or a read of `len` bytes (the numbers of the windows:
  DESIGN CHOICE, log 80). -/
  | hostAccess (part : Nat) (wr : Bool) (pa : Nat) (data : List (BitVec 8)) (len : Nat)
  /-- R373, R360: an access from a peer device. -/
  | peerAccess (wr : Bool) (pa : Nat) (data : List (BitVec 8)) (len : Nat)
  /-- R299, R340: an aligned 64-bit store by Sapwood, or its read of a register (the numbers: DESIGN CHOICE, log 80). -/
  | managementCoreAccess (pa : Nat) (val : BitVec 64)
  deriving DecidableEq, Repr

end Sys2Proof
end

