-- ==== Sys2Proof/Machine/Float.lean ====
section
/-! DEFINITION. Number formats and rounding (R197 to R206): every operation forms its exact value and rounds it once. -/

namespace Sys2Proof.Machine

/-- A floating-point format (R197): exponent bits, fraction bits, bias; `inf` says whether it has infinities. -/
structure Fmt where
  eb : Nat
  mb : Nat
  bias : Nat
  inf : Bool
  deriving DecidableEq, Repr

/-- FP32 (R197). -/
def fp32 : Fmt := { eb := 8, mb := 23, bias := 127, inf := true }

/-- BF16 (R197). -/
def bf16 : Fmt := { eb := 8, mb := 7, bias := 127, inf := true }

/-- FP16 (R197). -/
def fp16 : Fmt := { eb := 5, mb := 10, bias := 15, inf := true }

/-- FP8 E4M3 (R197). -/
def e4m3 : Fmt := { eb := 4, mb := 3, bias := 7, inf := false }

/-- FP8 E5M2 (R197). -/
def e5m2 : Fmt := { eb := 5, mb := 2, bias := 15, inf := true }

/-- A value: NaN, an infinity, or ±m × 2^e with its sign kept for zero. -/
inductive FV
  | nan
  | inf (neg : Bool)
  | num (neg : Bool) (m : Nat) (e : Int)
  deriving DecidableEq, Repr

/-- The sign bit of a pattern. -/
def Fmt.neg (f : Fmt) (x : Nat) : Bool := x / 2 ^ (f.eb + f.mb) % 2 = 1

/-- The magnitude of a pattern: all bits but the sign. -/
def Fmt.mag (f : Fmt) (x : Nat) : Nat := x % 2 ^ (f.eb + f.mb)

/-- The magnitude of infinity, or of the NaN that takes its place in E4M3. -/
def Fmt.top (f : Fmt) : Nat := if f.inf then (2 ^ f.eb - 1) * 2 ^ f.mb else 2 ^ (f.eb + f.mb) - 1

/-- Whether a pattern is a NaN (R197). -/
def Fmt.isNan (f : Fmt) (x : Nat) : Bool := if f.inf then f.top < f.mag x else f.mag x == f.top

/-- Whether a pattern is an infinity (R197). -/
def Fmt.isInf (f : Fmt) (x : Nat) : Bool := f.inf && f.mag x == f.top

/-- The canonical NaN (R200). -/
def Fmt.qnan (f : Fmt) : Nat := if f.inf then f.top + 2 ^ (f.mb - 1) else f.top

/-- The largest finite magnitude (R197). -/
def Fmt.maxMag (f : Fmt) : Nat := f.top - 1

/-- The value of a pattern (R197). -/
def Fmt.val (f : Fmt) (x : Nat) : FV :=
  if f.isNan x then .nan
  else if f.isInf x then .inf (f.neg x)
  else
    let ex := f.mag x / 2 ^ f.mb
    let fr := f.mag x % 2 ^ f.mb
    if ex = 0 then .num (f.neg x) fr (1 - (f.bias : Int) - f.mb)
    else .num (f.neg x) (2 ^ f.mb + fr) ((ex : Int) - f.bias - f.mb)

/-- A pattern from a sign and a magnitude. -/
def Fmt.sign (f : Fmt) (neg : Bool) (mag : Nat) : Nat := (if neg then 2 ^ (f.eb + f.mb) else 0) + mag

/-- Rounds m × 2^(-shift), with `sticky` for a nonzero part below, to an integer by RND (R201, R203); `r` are the 16
random bits. -/
def roundShift (rnd : Rnd) (r : Nat) (neg : Bool) (m shift : Nat) (sticky : Bool) : Nat :=
  let q := m / 2 ^ shift
  let rem := m % 2 ^ shift
  if rem = 0 ∧ !sticky then q
  else
    match rnd with
    | .rne =>
      if 2 * rem < 2 ^ shift then q
      else if 2 * rem = 2 ^ shift ∧ !sticky then q + q % 2
      else if shift = 0 then q
      else q + 1
    | .rtz => q
    | .rdn => if neg then q + 1 else q
    | .sr => (m * 2 ^ 16 / 2 ^ shift + r) / 2 ^ 16

/-- What a result beyond the largest finite magnitude becomes (R152). -/
def Fmt.overflow (f : Fmt) (rnd : Rnd) (neg : Bool) : Nat :=
  match rnd with
  | .rne => f.sign neg f.top
  | .sr => f.sign neg f.top
  | .rtz => f.sign neg f.maxMag
  | .rdn => f.sign neg (if neg then f.top else f.maxMag)

/-- The magnitude pattern of q units of 2^(u), where u is the unit exponent that the rounding chose; it may have carried
into the next binade. The pattern of a normal number is its exponent field followed by its fraction, so that a carry
of the fraction moves the exponent field by one. -/
def Fmt.pack (f : Fmt) (q : Nat) (u : Int) : Nat := ((u + f.mb + f.bias - 1).toNat) * 2 ^ f.mb + q

/-- The rounded magnitude of ±m × 2^e (m nonzero), which may lie beyond the largest finite one (R201). -/
def Fmt.roundMag (f : Fmt) (rnd : Rnd) (r : Nat) (neg : Bool) (m : Nat) (e : Int) (sticky : Bool) : Nat :=
  let top := e + (Nat.log2 m : Int)
  let u := max top (1 - (f.bias : Int)) - f.mb
  let q := if e < u then roundShift rnd r neg m (u - e).toNat sticky
    else roundShift rnd r neg (m * 2 ^ (e - u).toNat) 0 sticky
  f.pack q u

/-- Rounds ±m × 2^e to the format (R201), with the overflow of R152; a nonzero value that rounds to zero keeps its
sign. -/
def Fmt.round (f : Fmt) (rnd : Rnd) (r : Nat) (neg : Bool) (m : Nat) (e : Int) (sticky : Bool) : Nat :=
  if m = 0 ∧ !sticky then f.sign neg 0
  else
    let g := f.roundMag rnd r neg (if m = 0 then 1 else 2 * m + (if sticky then 1 else 0)) (if m = 0 then e - 200 else e - 1) sticky
    if f.top ≤ g then f.overflow rnd neg else f.sign neg g

/-- The pattern of a value rounded to the format (R200, R201). -/
def Fmt.ofVal (f : Fmt) (rnd : Rnd) (r : Nat) : FV → Nat
  | .nan => f.qnan
  | .inf neg => f.sign neg f.top
  | .num neg m e => f.round rnd r neg m e false

/-- The sign inverted. -/
def FV.negate : FV → FV
  | .nan => .nan
  | .inf n => .inf (!n)
  | .num n m e => .num (!n) m e

/-- The exact product (R152): 0 × ∞ is invalid; the sign of a zero is the exclusive-or. -/
def FV.mul : FV → FV → FV
  | .nan, _ => .nan
  | _, .nan => .nan
  | .inf a, .inf b => .inf (a != b)
  | .inf a, .num b m _ => if m = 0 then .nan else .inf (a != b)
  | .num a m _, .inf b => if m = 0 then .nan else .inf (a != b)
  | .num a m e, .num b n k => .num (a != b) (m * n) (e + k)

/-- A value times 2^k, exactly. -/
def FV.scale (k : Int) : FV → FV
  | .num n m e => .num n m (e + k)
  | v => v

/-- The exact sum of two values under a rounding mode, which fixes the sign of an exact zero (R152): zeros of one sign keep
it; another exact zero sum is +0, and -0 under RND 2. -/
def FV.add (rnd : Rnd) : FV → FV → FV
  | .nan, _ => .nan
  | _, .nan => .nan
  | .inf a, .inf b => if a = b then .inf a else .nan
  | .inf a, .num _ _ _ => .inf a
  | .num _ _ _, .inf b => .inf b
  | .num a m e, .num b n k =>
    if m = 0 ∧ n = 0 then .num (if a = b then a else rnd == .rdn) 0 0
    else
      let lo := min e k
      let x : Int := (if a then -1 else 1) * (m * 2 ^ (e - lo).toNat : Nat)
      let y : Int := (if b then -1 else 1) * (n * 2 ^ (k - lo).toNat : Nat)
      if x + y = 0 then .num (rnd == .rdn) 0 0 else .num (x + y < 0) (x + y).natAbs lo

/-- The exact sum of several terms: a sum of zeros of one sign is a zero of that sign, and a zero that arises on the way
adds nothing to later terms (R152). -/
def FV.sum (rnd : Rnd) : List FV → FV
  | [] => .num false 0 0
  | [v] => v
  | v :: vs => FV.add rnd v (FV.sum rnd vs)

/-- Whether a value is not finite. -/
def FV.isNan : FV → Bool
  | .nan => true
  | _ => false

/-- Whether a value is an infinity. -/
def FV.isInf : FV → Bool
  | .inf _ => true
  | _ => false

/-! ## Stochastic rounding (R203 to R205) -/

/-- The mixing of R204. -/
def mix (x0 : BitVec 32) : BitVec 32 :=
  let x1 := x0 ^^^ (x0 >>> 16)
  let x2 := x1 * 0x7FEB352D
  let x3 := x2 ^^^ (x2 >>> 15)
  let x4 := x3 * 0x846CA68B
  x4 ^^^ (x4 >>> 16)

/-- The 16 random bits of an element (R204). -/
def random16 (seed seq : BitVec 32) (index : Nat) : Nat :=
  (mix (seed ^^^ (seq * 0x9E3779B9) ^^^ (BitVec.ofNat 32 index * 0x85EBCA6B))).toNat % 2 ^ 16

/-! ## Non-rounding operations (R153, R154) -/

/-- The order key of a pattern that is no NaN, with -0 below +0. -/
def Fmt.key (f : Fmt) (x : Nat) : Int := if f.neg x then -(f.mag x : Int) - 1 else f.mag x

/-- The order key of a pattern that is no NaN, with -0 equal to +0. -/
def Fmt.keyEq (f : Fmt) (x : Nat) : Int := if f.neg x then -(f.mag x : Int) else f.mag x

/-- `fmin` (R153). -/
def Fmt.fmin (f : Fmt) (a b : Nat) : Nat :=
  if f.isNan a then (if f.isNan b then f.qnan else b)
  else if f.isNan b then a
  else if f.key b < f.key a then b else a

/-- `fmax` (R153). -/
def Fmt.fmax (f : Fmt) (a b : Nat) : Nat :=
  if f.isNan a then (if f.isNan b then f.qnan else b)
  else if f.isNan b then a
  else if f.key a < f.key b then b else a

/-- `fabs` (R153). -/
def Fmt.fabs (f : Fmt) (a : Nat) : Nat := if f.isNan a then f.qnan else f.mag a

/-- `fneg` (R153). -/
def Fmt.fneg (f : Fmt) (a : Nat) : Nat := if f.isNan a then f.qnan else f.sign (!f.neg a) (f.mag a)

/-- The conditions of `fcmp` (R154). -/
def fcndHolds (c : FCnd) (a b : Nat) : Bool :=
  let nan := fp32.isNan a || fp32.isNan b
  match c with
  | .eq => !nan && fp32.keyEq a == fp32.keyEq b
  | .ne => nan || fp32.keyEq a != fp32.keyEq b
  | .lt => !nan && fp32.keyEq a < fp32.keyEq b
  | .ge => !nan && fp32.keyEq b ≤ fp32.keyEq a
  | .le => !nan && fp32.keyEq a ≤ fp32.keyEq b
  | .gt => !nan && fp32.keyEq b < fp32.keyEq a
  | .un => nan
  | .ord => !nan

/-- One format to another: NaN to the canonical NaN, a finite value rounded, an infinity kept (R159, R200). -/
def Fmt.convert (f g : Fmt) (rnd : Rnd) (r x : Nat) : Nat := g.ofVal rnd r (f.val x)

/-! ## Transcendental functions (R155)

The value is formed to 320 bits below the point, with the part below kept as a sticky bit, and rounded once. -/

/-- The bits below the point. -/
def fixBits : Nat := 320

/-- Σ z^(2k+1)/(2k+1) for k from `k`, with z and the power as fixed-point numbers. -/
def atanhGo : Nat → Nat → Nat → Nat → Nat
  | 0, _, _, _ => 0
  | n + 1, z2, pw, k => pw / (2 * k + 1) + atanhGo n z2 (pw * z2 / 2 ^ fixBits) (k + 1)

/-- ln((1 + z)/(1 - z)) = 2 atanh z, fixed-point, for 0 ≤ z ≤ 1/3. -/
def lnRatio (num den : Nat) : Nat :=
  let z := num * 2 ^ fixBits / den
  2 * atanhGo 110 (z * z / 2 ^ fixBits) z 0

/-- ln 2, fixed-point. -/
def ln2 : Nat := lnRatio 1 3

/-- Σ x^k/k! from the term given, fixed-point. -/
def expGo : Nat → Nat → Nat → Nat → Nat
  | 0, _, _, _ => 0
  | n + 1, x, term, k => term + expGo n x (term * x / 2 ^ fixBits / k) (k + 1)

/-- 2^A rounded (R155). -/
def exp2Bits (rnd : Rnd) (r : Nat) : FV → Nat
  | .nan => fp32.qnan
  | .inf neg => if neg then 0 else fp32.top
  | .num neg m e =>
    if m = 0 then fp32.round rnd r false 1 0 false
    else if 9 ≤ e + Nat.log2 m then
      (if neg then fp32.round rnd r false 0 (-400) true else fp32.overflow rnd false)
    else
      -- A as a fixed-point integer, exact because e is at least -149
      let x : Int := (if neg then -1 else 1) * (m * 2 ^ (e + fixBits).toNat : Nat)
      let n := x / (2 ^ fixBits : Nat)
      let f := (x % (2 ^ fixBits : Nat)).toNat
      if f = 0 then fp32.round rnd r false 1 n false
      else fp32.round rnd r false (expGo 90 (f * ln2 / 2 ^ fixBits) (2 ^ fixBits) 1) (n - fixBits) true

/-- log2 A rounded (R155). -/
def log2Bits (rnd : Rnd) (r : Nat) : FV → Nat
  | .nan => fp32.qnan
  | .inf neg => if neg then fp32.qnan else fp32.top
  | .num neg m e =>
    if m = 0 then fp32.sign true fp32.top
    else if neg then fp32.qnan
    else
      let l := Nat.log2 m
      let n := e + (l : Int)
      if m = 2 ^ l then fp32.round rnd r (n < 0) n.natAbs 0 false
      else
        let y := lnRatio (m - 2 ^ l) (m + 2 ^ l) * 2 ^ fixBits / ln2
        let v : Int := n * (2 ^ fixBits : Nat) + y
        if v < 0 then fp32.round rnd r true (-v - 1).toNat (-(fixBits : Int)) true
        else fp32.round rnd r false v.toNat (-(fixBits : Int)) true

/-- 1/A rounded (R155). -/
def rcpBits (rnd : Rnd) (r : Nat) : FV → Nat
  | .nan => fp32.qnan
  | .inf neg => fp32.sign neg 0
  | .num neg m e =>
    if m = 0 then fp32.sign neg fp32.top
    else fp32.round rnd r neg (2 ^ 120 / m) (-120 - e) (2 ^ 120 % m != 0)

/-- 1/√A rounded (R155). -/
def rsqBits (rnd : Rnd) (r : Nat) : FV → Nat
  | .nan => fp32.qnan
  | .inf neg => if neg then fp32.qnan else 0
  | .num neg m e =>
    if m = 0 then fp32.sign neg fp32.top
    else if neg then fp32.qnan
    else
      let m' := if e % 2 = 0 then m else 2 * m
      let e' := if e % 2 = 0 then e else e - 1
      let q := isqrt 101 (2 ^ 200 / m')
      fp32.round rnd r false q (-100 - e' / 2) (q * q * m' != 2 ^ 200)

/-! ## Integers -/

/-- A value rounded to an integer by RND (R159, R213); an infinity and a NaN are the caller's. -/
def roundInt (rnd : Rnd) (r : Nat) (neg : Bool) (m : Nat) (e : Int) : Int :=
  let q := if 0 ≤ e then m * 2 ^ e.toNat else roundShift rnd r neg m (-e).toNat false
  if neg then -(q : Int) else q

/-- Clamps an integer. -/
def clamp (lo hi v : Int) : Int := if v < lo then lo else if hi < v then hi else v

/-- FP32 to an integer range (R159): rounded, then saturated; a NaN gives 0. -/
def toIntRange (rnd : Rnd) (lo hi : Int) : FV → Int
  | .nan => 0
  | .inf neg => if neg then lo else hi
  | .num neg m e => clamp lo hi (roundInt rnd 0 neg m e)

/-! ## Block scales (R198, R211, R212) -/

/-- The largest exponent floor(log2 |v|) over the finite nonzero values of a block. -/
def blockTop : List FV → Option Int
  | [] => none
  | .num _ m e :: vs =>
    if m = 0 then blockTop vs
    else
      let t := e + (Nat.log2 m : Int)
      match blockTop vs with
      | some u => some (max t u)
      | none => some t
  | _ :: vs => blockTop vs

/-- The block scale (R211): EMAX is 8 for E4M3 and 15 for E5M2. -/
def blockScale (two : Bool) (vs : List FV) : Nat :=
  match blockTop vs with
  | none => 127
  | some t => (clamp 0 254 (t - (if two then 15 else 8) + 127)).toNat

/-- The FP8 format of a choice. -/
def fp8 (two : Bool) : Fmt := if two then e5m2 else e4m3

/-- An element quantised under a scale (R212): beyond the largest finite magnitude it saturates. The Bool says that it
did. -/
def quantise (two : Bool) (rnd : Rnd) (r s : Nat) (v : FV) : Nat × Bool :=
  let f := fp8 two
  match v with
  | .nan => (if two then 0x7E else 0x7F, false)
  | .inf neg => (if two then f.sign neg f.top else 0x7F, false)
  | .num neg m e =>
    if m = 0 then (f.sign neg 0, false)
    else
      let g := f.roundMag rnd r neg (2 * m) (e + 127 - s - 1) false
      if f.maxMag < g then (f.sign neg f.maxMag, true) else (f.sign neg g, false)

/-- An FP8 element under its scale, as a value (R161, R208): a scale of 0xFF is NaN. -/
def fp8Val (two : Bool) (x s : Nat) : FV := if s = 0xFF then .nan else ((fp8 two).val x).scale ((s : Int) - 127)

end Sys2Proof.Machine
end

