-- ==== Sys2Proof/Config.lean ====
section
/-! DEFINITION. What the spec leaves open: the free values (opaque constants, no body, so that no proof can see a
value of one) and the constants of the implementation. -/

namespace Sys2Proof.Config

/-- A fresh 256-bit value for each number: the marker M, the nonces and the partition keys that R342, R343 and R344
call random are drawn from it, at the counter `State.fresh`. -/
opaque freeValue : Nat → BitVec 256

/-- SHA-256 (R341, R343) of a list of bytes: the spec names the function and does not write it out. -/
opaque sha256 : List Byte → BitVec 256

/-- The signature that SLH-DSA-SHA2-192s makes of a message under the key pair of a seed (R339, R345), as its bytes. -/
opaque sign : BitVec 256 → List Byte → List Byte

/-- Whether a signature of a message verifies (R346). -/
opaque verify : List Byte → List Byte → Bool

/-- AES-XTS under a partition key (R321): the stored byte of a plain byte at an address. -/
opaque encrypt : BitVec 256 → Nat → Byte → Byte

/-- The plain byte that a stored byte stands for under a partition key (R321). -/
opaque decrypt : BitVec 256 → Nat → Byte → Byte

/-- The fuses of R339: the device's UID, the life-cycle state (R342), the identity seed, the hashes of the firmware authority's and
of the debug authority's key. -/
opaque uid : BitVec 128
@[inherit_doc uid] opaque life : BitVec 4
@[inherit_doc uid] opaque identitySeed : BitVec 256
@[inherit_doc uid] opaque pkhFirmware : BitVec 256
@[inherit_doc uid] opaque pkhDebug : BitVec 256

/-- The bytes of the public key of a seed's key pair (R339). -/
opaque publicKey : BitVec 256 → Nat → Byte

/-- The identity public key (R339, R343), 48 bytes. -/
def identityKey : Nat → Byte := publicKey identitySeed

/-- SHA-256 of the images that are measured (R341): 0 the Heartwood image, 1 the Sapwood image, 4 the resident handler image. -/
opaque imageHash : Nat → BitVec 256

/-- PODID, and the size of the carve-outs beyond the first 2 MiB, in units of 2 MiB: Heartwood writes both at partition set-up (R339). -/
opaque podid : BitVec 10
@[inherit_doc podid] opaque carveUnits : Nat

/-- PEERMAP as Heartwood writes it (R373): the mask of the ports that reach a device. -/
opaque peermap : Nat → BitVec 24

/-- The repair fuses (R355): the lines that fuses retire in each slice. -/
opaque fusedLines : Nat → Nat

/-- Where the loader places the read-only data of a region of a partition (R267 step 1): the number of a 64 KiB page of the
upper half, the number of a frame of the partition's memory, and the LEASE code of the pages. -/
opaque rodataPage : Nat → Nat → Nat
@[inherit_doc rodataPage] opaque rodataFrame : Nat → Nat → Nat
@[inherit_doc rodataPage] opaque rodataLease : BitVec 4

end Sys2Proof.Config
end

