-- ==== Sys2Proof/WellFormed.lean ====
section
/-! DEFINITION. Which terms of `Instr` are instructions or steps of the device: the checks of R45, R55, R56, R124,
R137, R159 and R162 on words, and the ranges of the numbers that name a part of the device (R1, R2) on steps. -/

namespace Sys2Proof

/-- The last index of a domain type (R35). -/
def DomTy.last : DomTy → Nat
  | .vlg => 3
  | .gfb => 3
  | .spb => 31
  | .acb => 23
  | .xe => 0
  | .maq => 3
  | .wbb => 15
  | .ce => 0

/-- R45: no MASK bit above the type's last index. -/
def DomTy.maskOk (t : DomTy) (mask : BitVec 32) : Bool := mask.toNat < 2 ^ (t.last + 1)

/-- R124: the TY that a CV accepts. -/
def Cv.tyOk : Cv → LaneTy → Bool
  | .none, _ => true
  | .bf16, t => t == .f32
  | .f16, t => t == .f32
  | .i8, t => t == .i32
  | .pk, t => t == .f32

/-- How RND reads in a `cvt` pair (R159). -/
inductive CvtRounding | no | toInt | rounds
  deriving DecidableEq, Repr

/-- What a `cvt` pair reads: B (narrowing), EL (widening), RND (R159). -/
structure CvtKind where
  narrows : Bool
  widens : Bool
  rounding : CvtRounding
  deriving DecidableEq, Repr

/-- The pairs of R159, destination first; every other pair is illegal. -/
def cvtKind : LaneTy → LaneTy → Option CvtKind
  | .f32, .i32 => some ⟨false, false, .rounds⟩
  | .f32, .ui32 => some ⟨false, false, .rounds⟩
  | .i32, .f32 => some ⟨false, false, .toInt⟩
  | .ui32, .f32 => some ⟨false, false, .toInt⟩
  | .i32, .ui32 => some ⟨false, false, .no⟩
  | .ui32, .i32 => some ⟨false, false, .no⟩
  | .f32, .bf16x2 => some ⟨false, true, .no⟩
  | .f32, .f16x2 => some ⟨false, true, .no⟩
  | .f32, .cb16 => some ⟨false, true, .no⟩
  | .i32, .i16x2 => some ⟨false, true, .no⟩
  | .i16x2, .ui8x4 => some ⟨false, true, .no⟩
  | .bf16x2, .f32 => some ⟨true, false, .rounds⟩
  | .f16x2, .f32 => some ⟨true, false, .rounds⟩
  | .cb16, .f32 => some ⟨true, false, .rounds⟩
  | .bf16x2, .f16x2 => some ⟨false, false, .rounds⟩
  | .f16x2, .bf16x2 => some ⟨false, false, .rounds⟩
  | .i16x2, .i32 => some ⟨true, false, .no⟩
  | .ui8x4, .i16x2 => some ⟨true, false, .no⟩
  | _, _ => none

/-- The fields of a `cvt` that its pair reserves are zero, and RND is one that the pair takes (R159). The zero byte of
B is the designator of row 0 (R57). -/
def cvtOk (b : Src) (el : Bool) (src ty : LaneTy) (rnd : Rnd) : Bool :=
  match cvtKind ty src with
  | none => false
  | some k =>
    (k.narrows || b == .row 0) && (k.widens || !el) &&
      (match k.rounding with
       | .no => rnd == .rne
       | .toInt => rnd != .sr
       | .rounds => true)

/-- R162: the bitwise operations do not take `.f32`, and RND is reserved but in `.add` with `.f32` (R146). -/
def laneOpOk (op : LaneOp) (ty : RTy) (rnd : Rnd) : Bool :=
  match op, ty with
  | .add, .f32 => true
  | .xor, .f32 => false
  | .or, .f32 => false
  | .and, .f32 => false
  | _, _ => rnd == .rne

/-- R55: with SZ = 0, SX is reserved. -/
def sxOk (sz : Sz) (sx : Bool) : Bool := sz != .d || !sx

/-- R56: with CND `.al`, A and B are reserved. -/
def cndOk (cnd : Cnd) (a b : BitVec 5) : Bool := cnd != .al || (a == 0 && b == 0)

/-- R50, R70: END20 is at least 1, and with SRC = 1 only COUNT17[4:0] is used. -/
def loopOk (src : Bool) (count : BitVec 17) (end20 : BitVec 20) : Bool :=
  end20 != 0 && (!src || count.toNat < 32)

/-- R1: the device has 640 cores. -/
def coreOk (n : Nat) : Bool := n < 640

/-- R1: the device has 160 clusters. -/
def clusterOk (n : Nat) : Bool := n < 160

/-- R344: partition identifiers are 0 to 63. -/
def partOk (n : Nat) : Bool := n < 64

/-- R35: the owner and the index of a domain. -/
def DomRef.wf (d : DomRef) : Bool :=
  d.ix ≤ d.ty.last &&
    (match d.ty with
     | .maq => clusterOk d.owner
     | .wbb => clusterOk d.owner
     | .ce => clusterOk d.owner
     | .vlg => coreOk d.owner
     | .gfb => coreOk d.owner
     | .spb => coreOk d.owner
     | .acb => coreOk d.owner
     | .xe => coreOk d.owner)

/-- Which terms are instructions. A word's other fields are exact by their types. -/
def Instr.wf : Instr → Bool
  | .cLd _ _ _ _ _ sz sx _ => sxOk sz sx
  | .cLdx _ _ _ _ _ _ sx sz => sxOk sz sx
  | .cB _ a b cnd _ => cndOk cnd a b
  | .allBr _ a b cnd _ => cndOk cnd a b
  | .cWake _ dt mask => dt.maskOk mask
  | .cSleep _ dt _ mask => dt.maskOk mask
  | .cWstat _ dt mask => dt.maskOk mask
  | .lWake _ dt mask => dt.maskOk mask
  | .lSleep _ dt _ mask => dt.maskOk mask
  | .lWstat _ dt mask => dt.maskOk mask
  | .vWake _ dt mask => dt.maskOk mask
  | .vSleep _ dt _ mask => dt.maskOk mask
  | .vWstat _ dt mask => dt.maskOk mask
  | .sWake _ dt mask => dt.maskOk mask
  | .sSleep _ dt _ mask => dt.maskOk mask
  | .sWstat _ dt mask => dt.maskOk mask
  | .lLdq _ _ _ ty cv _ _ => cv.tyOk ty
  | .lLdg _ _ _ ty cv _ _ => cv.tyOk ty
  | .lLdb _ _ _ ty cv _ _ => cv != .pk && cv.tyOk ty
  | .lLda _ _ _ ty pk _ _ => !pk || ty == .f32
  | .sStq _ _ _ ty cv _ _ => cv != .pk && cv.tyOk ty
  | .sStg _ _ _ ty cv _ _ => cv != .pk && cv.tyOk ty
  | .vCvt _ _ _ b el src ty _ rnd => cvtOk b el src ty rnd
  | .vScan _ _ _ _ op ty _ rnd => laneOpOk op ty rnd
  | .vRed _ _ _ op ty _ rnd => laneOpOk op ty rnd && rnd != .sr
  | .allLoop _ _ src count end20 => loopOk src count end20
  | .illegalWord detail => 1 ≤ detail && detail ≤ 7
  | .arrayMma cl => clusterOk cl
  | .arrayMmas cl => clusterOk cl
  | .arrayMzero cl => clusterOk cl
  | .arrayDrain cl => clusterOk cl
  | .ceCopy core => coreOk core
  | .ceGath core => coreOk core
  | .ceScat core => coreOk core
  | .ceWfill core => coreOk core
  | .ceFlagw core => coreOk core
  | .cePref core => coreOk core
  | .xeFwd core => coreOk core
  | .xeInv core => coreOk core
  | .xeTagset core => coreOk core
  | .goPush core => coreOk core
  | .commandStart core _ => coreOk core
  | .copyEngineSlot cl => clusterOk cl
  | .commandComplete core _ => coreOk core
  | .xeSiblingPull core => coreOk core
  | .resultLoad core => coreOk core
  | .regWrite _ off _ => off % 8 == 0
  | .cLoadReply core => coreOk core
  | .fenceRelease core => coreOk core
  | .waitaRelease core => coreOk core
  | .homeApply part _ n => partOk part && n < 256
  | .syncRelease core => coreOk core
  | .leaseGrant cl => clusterOk cl
  | .leaseTimeout cl => clusterOk cl
  | .waitbRelease core => coreOk core
  | .recvRelease core => coreOk core
  | .iterAnswer core => coreOk core
  | .wstatRelease core _ => coreOk core
  | .vResultWrite core => coreOk core
  | .lqFill core => coreOk core
  | .gridLoadLand core => coreOk core
  | .directAccessPerform core => coreOk core
  | .couplingTransfer core _ => coreOk core
  | .perform core _ => coreOk core
  | .sliceEntryApply slice => slice < 96
  | .leaseExpiry core _ => coreOk core
  | .walkReturn cl => clusterOk cl
  | .atomicResend core _ => coreOk core
  | .domainWakeStart lease n => (if lease then clusterOk n else coreOk n)
  | .domainAwake dom => dom.wf
  | .domainPowerOff dom => dom.wf
  | .launchEnd core => coreOk core
  | .ballastFadeStart cl => clusterOk cl
  | .ballastFadeEnd cl => clusterOk cl
  | .faultStop core => coreOk core
  | .snapshotDeliver core => coreOk core
  | .fwd core => coreOk core
  | .timeBeacon cl _ => cl < 162
  | .beaconTimeout cl => clusterOk cl
  | .railWindow cl _ => clusterOk cl
  | .doorbell part _ => partOk part
  | .rcbAccept part => partOk part
  | .regionDispatch part => partOk part
  | .launchStart part _ => partOk part
  | .regionEnd part _ => partOk part
  | .pctlPreempt part _ => partOk part
  | .pctlResume part _ => partOk part
  | .pctlEnd part _ => partOk part
  | .pctlOneResume part _ _ => partOk part
  | .pctlOneEnd part _ _ => partOk part
  | .preemptDone part => partOk part
  | .resumeRestart part => partOk part
  | .bsharePlace part _ _ => partOk part
  | .bshareStop part _ => partOk part
  | .placementDone part => partOk part
  | .sliceExpiry core => coreOk core
  | .bankRestart core => coreOk core
  | .dbghalt part => partOk part
  | .sqcfgWrite part _ => partOk part
  | .tlostRead part => partOk part
  | .tbstatRead cl => clusterOk cl
  | .linkStatusRead _ router _ => router < 162
  | .sample core => coreOk core
  | .replayRelease core _ => coreOk core
  | .flitReceive _ router _ _ _ => router < 162
  | .linkRetrain _ router _ => router < 162
  | .retrainEnd _ router _ _ => router < 162
  | .linkLoss _ router _ => router < 162
  | .routeTableApply router dest => router < 162 && dest < 162
  | .atsCompletion cl _ _ _ _ _ => clusterOk cl
  | .atsInvalidationRequest part _ => partOk part
  | .instructionFetch core _ => coreOk core
  | .railSwitchEnd cl => clusterOk cl
  | .sliceStopsAnswering slice => slice < 2 ^ 64
  | .hostAccess part _ _ _ _ => partOk part
  | .managementCoreAccess pa _ => pa % 8 == 0
  | _ => true

end Sys2Proof
end

