-- ==== Sys2Proof/Decode.lean ====
section
/-! DEFINITION. The decoder: total on every word, refusing by the ILLEGAL detail code of R70 (the lowest that
applies), and after it the encoder, written from the same encoding tables (R40 to R52, R65 to R68). -/

namespace Sys2Proof

/-- Bits [p + n - 1 : p] of a word (R5). -/
def fld (w p n : Nat) : BitVec n := BitVec.ofNat n (w / 2 ^ p)

/-- A field of `n` bits set below the bits already laid out. -/
def cat (hi n : Nat) (lo : BitVec n) : Nat := hi * 2 ^ n + lo.toNat

/-- One bit as a field. -/
def bit (b : Bool) : BitVec 1 := BitVec.ofBool b

/-- The value of a field, or the ILLEGAL detail code of a field that has none. -/
def need {α : Type} (detail : Nat) (x : Option α) : Except Nat α :=
  match x with
  | some v => .ok v
  | none => .error detail

/-- IDLE and the token bits (R40). -/
def Hdr.ofWord (w : Nat) : Hdr where
  idle := fld w 51 10
  wp := fld w 50 1 = 1
  wn := fld w 49 1 = 1
  pp := fld w 48 1 = 1
  pn := fld w 47 1 = 1

/-- ENG, IDLE, the token bits and OP (R40), the top 24 bits of a single-stream word. -/
def Hdr.bits (h : Hdr) (eng : BitVec 3) (op : BitVec 7) : Nat :=
  cat (cat (cat (cat (cat (cat (cat 0 3 eng) 10 h.idle) 1 (bit h.wp)) 1 (bit h.wn)) 1 (bit h.pp)) 1 (bit h.pn)) 7 op

/-- The top 24 bits of a word tagged ALL: bits [50:47] are reserved (R42). -/
def allBits (idle : BitVec 10) (op : BitVec 7) : Nat :=
  cat (cat (cat (cat 0 3 7) 10 idle) 4 0) 7 op

/-- RND (R52), as its field holds it. -/
def Rnd.bits : Rnd → BitVec 2
  | .rne => 0
  | .rtz => 1
  | .rdn => 2
  | .sr => 3

/-- The inverse of `Rnd.bits`. -/
def Rnd.ofBits (b : BitVec 2) : Rnd :=
  match b.toNat with
  | 0 => .rne
  | 1 => .rtz
  | 2 => .rdn
  | _ => .sr

/-- SCP (R53), as its field holds it. -/
def Scp.bits : Scp → BitVec 3
  | .core => 0
  | .cluster => 1
  | .partition => 2
  | .device => 3
  | .pod => 4

/-- The inverse of `Scp.bits`. -/
def Scp.ofBits (b : BitVec 3) : Option Scp :=
  match b.toNat with
  | 0 => some .core
  | 1 => some .cluster
  | 2 => some .partition
  | 3 => some .device
  | 4 => some .pod
  | _ => none

/-- SZ (R55), as its field holds it. -/
def Sz.bits : Sz → BitVec 2
  | .d => 0
  | .b => 1
  | .h => 2
  | .w => 3

/-- The inverse of `Sz.bits`. -/
def Sz.ofBits (b : BitVec 2) : Sz :=
  match b.toNat with
  | 0 => .d
  | 1 => .b
  | 2 => .h
  | _ => .w

/-- TY (R51), as its field holds it. -/
def LaneTy.bits : LaneTy → BitVec 3
  | .i32 => 0
  | .ui32 => 1
  | .f32 => 2
  | .bf16x2 => 3
  | .f16x2 => 4
  | .i16x2 => 5
  | .ui8x4 => 6
  | .cb16 => 7

/-- The inverse of `LaneTy.bits`. -/
def LaneTy.ofBits (b : BitVec 3) : LaneTy :=
  match b.toNat with
  | 0 => .i32
  | 1 => .ui32
  | 2 => .f32
  | 3 => .bf16x2
  | 4 => .f16x2
  | 5 => .i16x2
  | 6 => .ui8x4
  | _ => .cb16

/-- TY of the floating-point instructions (R146), as its field holds it. -/
def FTy.bits : FTy → BitVec 3
  | .f32 => 2
  | .bf16x2 => 3
  | .f16x2 => 4

/-- The inverse of `FTy.bits`. -/
def FTy.ofBits (b : BitVec 3) : Option FTy :=
  match b.toNat with
  | 2 => some .f32
  | 3 => some .bf16x2
  | 4 => some .f16x2
  | _ => none

/-- TY of the integer instructions (R146), as its field holds it. -/
def WTy.bits : WTy → BitVec 3
  | .i32 => 0
  | .ui32 => 1
  | .i16x2 => 5
  | .ui8x4 => 6

/-- The inverse of `WTy.bits`. -/
def WTy.ofBits (b : BitVec 3) : Option WTy :=
  match b.toNat with
  | 0 => some .i32
  | 1 => some .ui32
  | 5 => some .i16x2
  | 6 => some .ui8x4
  | _ => none

/-- TY of `scan` and `red` (R146), as its field holds it. -/
def RTy.bits : RTy → BitVec 3
  | .i32 => 0
  | .ui32 => 1
  | .f32 => 2

/-- The inverse of `RTy.bits`. -/
def RTy.ofBits (b : BitVec 3) : Option RTy :=
  match b.toNat with
  | 0 => some .i32
  | 1 => some .ui32
  | 2 => some .f32
  | _ => none

/-- CND of CB and AB (R56), as its field holds it. -/
def Cnd.bits : Cnd → BitVec 3
  | .eq => 0
  | .ne => 1
  | .lt => 2
  | .ge => 3
  | .ltu => 4
  | .geu => 5
  | .al => 6

/-- The inverse of `Cnd.bits`. -/
def Cnd.ofBits (b : BitVec 3) : Option Cnd :=
  match b.toNat with
  | 0 => some .eq
  | 1 => some .ne
  | 2 => some .lt
  | 3 => some .ge
  | 4 => some .ltu
  | 5 => some .geu
  | 6 => some .al
  | _ => none

/-- CND of `fcmp` (R154), as its field holds it. -/
def FCnd.bits : FCnd → BitVec 4
  | .eq => 0
  | .ne => 1
  | .lt => 2
  | .ge => 3
  | .le => 4
  | .gt => 5
  | .un => 6
  | .ord => 7

/-- The inverse of `FCnd.bits`. -/
def FCnd.ofBits (b : BitVec 4) : Option FCnd :=
  match b.toNat with
  | 0 => some .eq
  | 1 => some .ne
  | 2 => some .lt
  | 3 => some .ge
  | 4 => some .le
  | 5 => some .gt
  | 6 => some .un
  | 7 => some .ord
  | _ => none

/-- OPN of `amo` (R90), as its field holds it. -/
def AmoOp.bits : AmoOp → BitVec 4
  | .add => 0
  | .and => 1
  | .or => 2
  | .xor => 3
  | .min => 4
  | .max => 5
  | .minu => 6
  | .maxu => 7
  | .swap => 8

/-- The inverse of `AmoOp.bits`. -/
def AmoOp.ofBits (b : BitVec 4) : Option AmoOp :=
  match b.toNat with
  | 0 => some .add
  | 1 => some .and
  | 2 => some .or
  | 3 => some .xor
  | 4 => some .min
  | 5 => some .max
  | 6 => some .minu
  | 7 => some .maxu
  | 8 => some .swap
  | _ => none

/-- OPN of `scan` and `red` (R162), as its field holds it. -/
def LaneOp.bits : LaneOp → BitVec 3
  | .add => 0
  | .min => 1
  | .max => 2
  | .xor => 3
  | .or => 4
  | .and => 5

/-- The inverse of `LaneOp.bits`. -/
def LaneOp.ofBits (b : BitVec 3) : Option LaneOp :=
  match b.toNat with
  | 0 => some .add
  | 1 => some .min
  | 2 => some .max
  | 3 => some .xor
  | 4 => some .or
  | 5 => some .and
  | _ => none

/-- The engine in IDX (R100), as its field holds it. -/
def Eng.bits : Eng → BitVec 6
  | .array => 0
  | .copy => 1
  | .xe => 2

/-- The inverse of `Eng.bits`. -/
def Eng.ofBits (b : BitVec 6) : Option Eng :=
  match b.toNat with
  | 0 => some .array
  | 1 => some .copy
  | 2 => some .xe
  | _ => none

/-- DT (R35, R45), as its field holds it. -/
def DomTy.bits : DomTy → BitVec 4
  | .vlg => 0
  | .gfb => 1
  | .spb => 2
  | .acb => 3
  | .xe => 4
  | .maq => 5
  | .wbb => 6
  | .ce => 7

/-- The inverse of `DomTy.bits`. -/
def DomTy.ofBits (b : BitVec 4) : Option DomTy :=
  match b.toNat with
  | 0 => some .vlg
  | 1 => some .gfb
  | 2 => some .spb
  | 3 => some .acb
  | 4 => some .xe
  | 5 => some .maq
  | 6 => some .wbb
  | 7 => some .ce
  | _ => none

/-- MD (R49), as its field holds it. -/
def Md.bits : Md → BitVec 2
  | .none => 0
  | .post => 1
  | .pre => 2

/-- The inverse of `Md.bits`. -/
def Md.ofBits (b : BitVec 2) : Option Md :=
  match b.toNat with
  | 0 => some .none
  | 1 => some .post
  | 2 => some .pre
  | _ => Option.none

/-- CND of `icmp` and `waita` (R94, R157) in a field of `n` bits. -/
def ICnd.bits (c : ICnd) (n : Nat) : BitVec n :=
  match c with
  | .eq => 0
  | .ne => 1
  | .lt => 2
  | .ge => 3
  | .ltu => 4
  | .geu => 5

/-- The inverse of `ICnd.bits`. -/
def ICnd.ofBits (b : Nat) : Option ICnd :=
  match b with
  | 0 => some .eq
  | 1 => some .ne
  | 2 => some .lt
  | 3 => some .ge
  | 4 => some .ltu
  | 5 => some .geu
  | _ => none

/-- CV (R124), as its field holds it. -/
def Cv.bits : Cv → BitVec 3
  | .none => 0
  | .bf16 => 1
  | .f16 => 2
  | .i8 => 3
  | .pk => 4

/-- The inverse of `Cv.bits`; `packs` says whether the instruction accepts CV 4 (R124). -/
def Cv.ofBits (packs : Bool) (b : BitVec 3) : Option Cv :=
  match b.toNat with
  | 0 => some .none
  | 1 => some .bf16
  | 2 => some .f16
  | 3 => some .i8
  | 4 => if packs then some .pk else Option.none
  | _ => Option.none

/-- CV of `lda`: 0 or 4 (R124). -/
def pkOfBits (b : BitVec 3) : Option Bool :=
  match b.toNat with
  | 0 => some false
  | 4 => some true
  | _ => none

/-- The inverse of `pkOfBits`. -/
def pkBits (b : Bool) : BitVec 3 := if b then 4 else 0

/-- SZ of `amo` and `cas`: 0 is 64 bits, 3 is 32 bits (R90). -/
def w32OfBits (b : BitVec 2) : Option Bool :=
  match b.toNat with
  | 0 => some false
  | 3 => some true
  | _ => none

/-- The inverse of `w32OfBits`. -/
def w32Bits (b : Bool) : BitVec 2 := if b then 3 else 0

/-- MODE of `sleep`: 0 off, 1 retain (R45). -/
def retOfBits (b : BitVec 2) : Option Bool :=
  match b.toNat with
  | 0 => some false
  | 1 => some true
  | _ => none

/-- The inverse of `retOfBits`. -/
def retBits (b : Bool) : BitVec 2 := if b then 1 else 0

/-- An index field of 6 bits that names 16 things (R111). -/
def idxBelow16 (b : BitVec 6) : Option (BitVec 4) :=
  if b.toNat < 16 then some (b.setWidth 4) else none

/-- An index field of 6 bits that names 32 things (R110). -/
def idxBelow32 (b : BitVec 6) : Option (BitVec 5) :=
  if b.toNat < 32 then some (b.setWidth 5) else none

/-- A designator byte that must name a queue: specials 0 to 7 (R23, R57). -/
def queueOfBits (b : BitVec 8) : Option (BitVec 3) :=
  if fld b.toNat 3 5 = 24 then some (fld b.toNat 0 3) else none

/-- The designator byte of a queue (R57). -/
def queueBits (q : BitVec 3) : BitVec 8 := (24#5) ++ q

/-- A designator byte that must name a K register: specials 16 to 31 (R23, R47). -/
def kOfBits (b : BitVec 8) : Option (BitVec 4) :=
  if fld b.toNat 4 4 = 13 then some (fld b.toNat 0 4) else none

/-- The designator byte of a K register (R57). -/
def kBits (k : BitVec 4) : BitVec 8 := (13#4) ++ k

/-- A grid line (R22, R57). -/
def Line.bits : Line → BitVec 8
  | .row i => (0#2) ++ i
  | .col i => (1#2) ++ i
  | .dia i => (2#2) ++ i

/-- The inverse of `Line.bits`. -/
def Line.ofBits (b : BitVec 8) : Option Line :=
  match (fld b.toNat 6 2).toNat with
  | 0 => some (.row (fld b.toNat 0 6))
  | 1 => some (.col (fld b.toNat 0 6))
  | 2 => some (.dia (fld b.toNat 0 6))
  | _ => none

/-- A source designator (R23, R57). -/
def Src.bits : Src → BitVec 8
  | .row i => (0#2) ++ i
  | .col i => (1#2) ++ i
  | .dia i => (2#2) ++ i
  | .lq n => (24#5) ++ n
  | .pk n => (25#5) ++ n
  | .k n => (13#4) ++ n
  | .lane => 0xE8
  | .zero => 0xE9

/-- The special source designators (R23). -/
def Src.ofSpecial (b : BitVec 8) : Option Src :=
  if fld b.toNat 3 5 = 24 then some (.lq (fld b.toNat 0 3))
  else if fld b.toNat 3 5 = 25 then some (.pk (fld b.toNat 0 3))
  else if fld b.toNat 4 4 = 13 then some (.k (fld b.toNat 0 4))
  else if b = 0xE8 then some .lane
  else if b = 0xE9 then some .zero
  else none

/-- The inverse of `Src.bits`. -/
def Src.ofBits (b : BitVec 8) : Option Src :=
  match Line.ofBits b with
  | some (.row i) => some (.row i)
  | some (.col i) => some (.col i)
  | some (.dia i) => some (.dia i)
  | none => Src.ofSpecial b

/-- A destination designator (R23, R57). -/
def Dst.bits : Dst → BitVec 8
  | .row i => (0#2) ++ i
  | .col i => (1#2) ++ i
  | .dia i => (2#2) ++ i
  | .sq n => (24#5) ++ n
  | .void => 0xE9

/-- The inverse of `Dst.bits`. -/
def Dst.ofBits (b : BitVec 8) : Option Dst :=
  match Line.ofBits b with
  | some (.row i) => some (.row i)
  | some (.col i) => some (.col i)
  | some (.dia i) => some (.dia i)
  | none =>
    if fld b.toNat 3 5 = 24 then some (.sq (fld b.toNat 0 3))
    else if b = 0xE9 then some .void
    else none

/-- The destination of `ldb` and `lda` (R123). -/
def LqLine.bits : LqLine → BitVec 8
  | .lq n => queueBits n
  | .line x => x.bits

/-- The inverse of `LqLine.bits`. -/
def LqLine.ofBits (b : BitVec 8) : Option LqLine :=
  match Line.ofBits b with
  | some x => some (.line x)
  | none => (queueOfBits b).map .lq

/-- The source of `sta` (R123). -/
def SqLine.bits : SqLine → BitVec 8
  | .sq n => queueBits n
  | .line x => x.bits

/-- The inverse of `SqLine.bits`. -/
def SqLine.ofBits (b : BitVec 8) : Option SqLine :=
  match Line.ofBits b with
  | some x => some (.line x)
  | none => (queueOfBits b).map .sq

/-- A MASK bit above the last index of the type is nonzero (R45); an illegal DT has no such bit. -/
def maskHigh (w : Nat) : Bool :=
  match DomTy.ofBits (fld w 36 4) with
  | some t => !t.maskOk (fld w 0 32)
  | none => false

/-- A TY that the CV does not accept (R124). -/
def badTyCv (w : Nat) : Bool :=
  match Cv.ofBits true (fld w 22 3) with
  | some c => !c.tyOk (LaneTy.ofBits (fld w 25 3))
  | none => false

/-- The destination and source types of a `cvt` word. -/
def cvtPair (w : Nat) : Option CvtKind := cvtKind (LaneTy.ofBits (fld w 5 3)) (LaneTy.ofBits (fld w 8 3))

/-- A reserved field of a `cvt` is nonzero (R159): B outside the narrowing pairs, EL outside the widening pairs,
RND in a pair that does not round. Of a pair that does not exist the model takes B and EL as reserved, and RND not (DEDUCED, log 38). -/
def cvtReserved (w : Nat) : Bool :=
  match cvtPair w with
  | some k => (!k.narrows && fld w 16 8 != 0) || (!k.widens && fld w 11 1 != 0) || (k.rounding == .no && fld w 0 2 != 0)
  | none => fld w 16 8 != 0 || fld w 11 1 != 0

/-- A `cvt` of a pair that does not exist, or RND 3 to an integer (R159). -/
def cvtIllegal (w : Nat) : Bool :=
  match cvtPair w with
  | some k => k.rounding == .toInt && fld w 0 2 == 3
  | none => true

/-- RND of `scan` and `red` is used by `.add` with `.f32` only (R146). -/
def laneOpRndReserved (w : Nat) : Bool := !(fld w 8 3 == 0 && fld w 5 3 == 2) && fld w 0 2 != 0

/-- The bitwise operations of `scan` and `red` are illegal with `.f32` (R162). -/
def laneOpFloatIllegal (w : Nat) : Bool := fld w 5 3 == 2 && (fld w 8 3).toNat ≥ 3

/-- The opcodes of the C stream (R65). -/
def decodeC (w : Nat) : Except Nat Instr :=
  match (fld w 40 7).toNat with
  | 0x00 => do
    if fld w 0 40 ≠ 0 then throw 3
    pure (.cNop (Hdr.ofWord w))
  | 0x01 => do
    if fld w 0 25 ≠ 0 then throw 3
    pure (.cAdd (Hdr.ofWord w) (fld w 35 5) (fld w 30 5) (fld w 25 5))
  | 0x02 => do
    if fld w 0 25 ≠ 0 then throw 3
    pure (.cSub (Hdr.ofWord w) (fld w 35 5) (fld w 30 5) (fld w 25 5))
  | 0x03 => do
    if fld w 0 25 ≠ 0 then throw 3
    pure (.cAnd (Hdr.ofWord w) (fld w 35 5) (fld w 30 5) (fld w 25 5))
  | 0x04 => do
    if fld w 0 25 ≠ 0 then throw 3
    pure (.cOr (Hdr.ofWord w) (fld w 35 5) (fld w 30 5) (fld w 25 5))
  | 0x05 => do
    if fld w 0 25 ≠ 0 then throw 3
    pure (.cXor (Hdr.ofWord w) (fld w 35 5) (fld w 30 5) (fld w 25 5))
  | 0x06 => do
    if fld w 0 25 ≠ 0 then throw 3
    pure (.cAndn (Hdr.ofWord w) (fld w 35 5) (fld w 30 5) (fld w 25 5))
  | 0x07 => do
    if fld w 0 25 ≠ 0 then throw 3
    pure (.cShl (Hdr.ofWord w) (fld w 35 5) (fld w 30 5) (fld w 25 5))
  | 0x08 => do
    if fld w 0 25 ≠ 0 then throw 3
    pure (.cShr (Hdr.ofWord w) (fld w 35 5) (fld w 30 5) (fld w 25 5))
  | 0x09 => do
    if fld w 0 25 ≠ 0 then throw 3
    pure (.cSra (Hdr.ofWord w) (fld w 35 5) (fld w 30 5) (fld w 25 5))
  | 0x0A => do
    if fld w 0 25 ≠ 0 then throw 3
    pure (.cRol (Hdr.ofWord w) (fld w 35 5) (fld w 30 5) (fld w 25 5))
  | 0x0B => do
    if fld w 0 25 ≠ 0 then throw 3
    pure (.cMul (Hdr.ofWord w) (fld w 35 5) (fld w 30 5) (fld w 25 5))
  | 0x0C => do
    if fld w 0 25 ≠ 0 then throw 3
    pure (.cMulh (Hdr.ofWord w) (fld w 35 5) (fld w 30 5) (fld w 25 5))
  | 0x0D => do
    if fld w 0 25 ≠ 0 then throw 3
    pure (.cMulhu (Hdr.ofWord w) (fld w 35 5) (fld w 30 5) (fld w 25 5))
  | 0x0E => do
    if fld w 0 25 ≠ 0 then throw 3
    pure (.cDiv (Hdr.ofWord w) (fld w 35 5) (fld w 30 5) (fld w 25 5))
  | 0x0F => do
    if fld w 0 25 ≠ 0 then throw 3
    pure (.cDivu (Hdr.ofWord w) (fld w 35 5) (fld w 30 5) (fld w 25 5))
  | 0x10 => do
    if fld w 0 25 ≠ 0 then throw 3
    pure (.cRem (Hdr.ofWord w) (fld w 35 5) (fld w 30 5) (fld w 25 5))
  | 0x11 => do
    if fld w 0 25 ≠ 0 then throw 3
    pure (.cRemu (Hdr.ofWord w) (fld w 35 5) (fld w 30 5) (fld w 25 5))
  | 0x12 => do
    if fld w 0 25 ≠ 0 then throw 3
    pure (.cMin (Hdr.ofWord w) (fld w 35 5) (fld w 30 5) (fld w 25 5))
  | 0x13 => do
    if fld w 0 25 ≠ 0 then throw 3
    pure (.cMax (Hdr.ofWord w) (fld w 35 5) (fld w 30 5) (fld w 25 5))
  | 0x14 => do
    if fld w 0 25 ≠ 0 then throw 3
    pure (.cMinu (Hdr.ofWord w) (fld w 35 5) (fld w 30 5) (fld w 25 5))
  | 0x15 => do
    if fld w 0 25 ≠ 0 then throw 3
    pure (.cMaxu (Hdr.ofWord w) (fld w 35 5) (fld w 30 5) (fld w 25 5))
  | 0x16 => do
    if fld w 0 25 ≠ 0 then throw 3
    pure (.cSlt (Hdr.ofWord w) (fld w 35 5) (fld w 30 5) (fld w 25 5))
  | 0x17 => do
    if fld w 0 25 ≠ 0 then throw 3
    pure (.cSltu (Hdr.ofWord w) (fld w 35 5) (fld w 30 5) (fld w 25 5))
  | 0x18 => do
    if fld w 0 25 ≠ 0 then throw 3
    pure (.cSeq (Hdr.ofWord w) (fld w 35 5) (fld w 30 5) (fld w 25 5))
  | 0x19 => do
    if fld w 0 25 ≠ 0 then throw 3
    pure (.cSne (Hdr.ofWord w) (fld w 35 5) (fld w 30 5) (fld w 25 5))
  | 0x1A => do
    if fld w 0 30 ≠ 0 then throw 3
    pure (.cClz (Hdr.ofWord w) (fld w 35 5) (fld w 30 5))
  | 0x1B => do
    if fld w 0 30 ≠ 0 then throw 3
    pure (.cCtz (Hdr.ofWord w) (fld w 35 5) (fld w 30 5))
  | 0x1C => do
    if fld w 0 30 ≠ 0 then throw 3
    pure (.cPopc (Hdr.ofWord w) (fld w 35 5) (fld w 30 5))
  | 0x1D => do
    if fld w 0 30 ≠ 0 then throw 3
    pure (.cBswap (Hdr.ofWord w) (fld w 35 5) (fld w 30 5))
  | 0x20 => pure (.cAddi (Hdr.ofWord w) (fld w 35 5) (fld w 30 5) (fld w 0 30))
  | 0x21 => pure (.cAndi (Hdr.ofWord w) (fld w 35 5) (fld w 30 5) (fld w 0 30))
  | 0x22 => pure (.cOri (Hdr.ofWord w) (fld w 35 5) (fld w 30 5) (fld w 0 30))
  | 0x23 => pure (.cXori (Hdr.ofWord w) (fld w 35 5) (fld w 30 5) (fld w 0 30))
  | 0x24 => do
    if fld w 6 24 ≠ 0 then throw 3
    pure (.cShli (Hdr.ofWord w) (fld w 35 5) (fld w 30 5) (fld w 0 6))
  | 0x25 => do
    if fld w 6 24 ≠ 0 then throw 3
    pure (.cShri (Hdr.ofWord w) (fld w 35 5) (fld w 30 5) (fld w 0 6))
  | 0x26 => do
    if fld w 6 24 ≠ 0 then throw 3
    pure (.cSrai (Hdr.ofWord w) (fld w 35 5) (fld w 30 5) (fld w 0 6))
  | 0x27 => pure (.cSlti (Hdr.ofWord w) (fld w 35 5) (fld w 30 5) (fld w 0 30))
  | 0x28 => pure (.cSltui (Hdr.ofWord w) (fld w 35 5) (fld w 30 5) (fld w 0 30))
  | 0x29 => do
    if fld w 30 5 ≠ 0 then throw 3
    pure (.cLi (Hdr.ofWord w) (fld w 35 5) (fld w 0 30))
  | 0x2A => pure (.cLih (Hdr.ofWord w) (fld w 35 5) (fld w 30 5) (fld w 0 30))
  | 0x2B => do
    if fld w 30 5 ≠ 0 then throw 3
    pure (.cAddpc (Hdr.ofWord w) (fld w 35 5) (fld w 0 30))
  | 0x2C => do
    if fld w 35 5 ≠ 0 ∨ fld w 25 5 ≠ 0 ∨ fld w 0 19 ≠ 0 then throw 3
    let k ← need 4 (idxBelow16 (fld w 19 6))
    pure (.cMtk (Hdr.ofWord w) (fld w 30 5) k)
  | 0x2D => do
    if fld w 35 5 ≠ 0 ∨ fld w 24 6 ≠ 0 ∨ fld w 0 19 ≠ 0 then throw 3
    pure (.cMtp (Hdr.ofWord w) (fld w 30 5) (fld w 23 1 = 1) (fld w 19 4))
  | 0x30 => do
    if (fld w 21 2 = 0 ∧ fld w 20 1 ≠ 0) then throw 3
    let scp ← need 4 (Scp.ofBits (fld w 23 3))
    pure (.cLd (Hdr.ofWord w) (fld w 35 5) (fld w 30 5) (fld w 26 4) scp (Sz.ofBits (fld w 21 2)) (fld w 20 1 = 1) (fld w 0 20))
  | 0x31 => do
    if fld w 20 1 ≠ 0 then throw 3
    let scp ← need 4 (Scp.ofBits (fld w 23 3))
    pure (.cSt (Hdr.ofWord w) (fld w 35 5) (fld w 30 5) (fld w 26 4) scp (Sz.ofBits (fld w 21 2)) (fld w 0 20))
  | 0x32 => do
    if fld w 20 5 ≠ 0 ∨ fld w 3 10 ≠ 0 ∨ (fld w 0 2 = 0 ∧ fld w 2 1 ≠ 0) then throw 3
    let scp ← need 4 (Scp.ofBits (fld w 13 3))
    pure (.cLdx (Hdr.ofWord w) (fld w 35 5) (fld w 30 5) (fld w 25 5) (fld w 16 4) scp (fld w 2 1 = 1) (Sz.ofBits (fld w 0 2)))
  | 0x33 => do
    if fld w 20 5 ≠ 0 ∨ fld w 2 11 ≠ 0 then throw 3
    let scp ← need 4 (Scp.ofBits (fld w 13 3))
    pure (.cStx (Hdr.ofWord w) (fld w 35 5) (fld w 30 5) (fld w 25 5) (fld w 16 4) scp (Sz.ofBits (fld w 0 2)))
  | 0x38 => do
    if fld w 20 5 ≠ 0 ∨ fld w 6 7 ≠ 0 then throw 3
    let scp ← need 4 (Scp.ofBits (fld w 13 3))
    let w32 ← need 4 (w32OfBits (fld w 4 2))
    let opn ← need 4 (AmoOp.ofBits (fld w 0 4))
    pure (.cAmo (Hdr.ofWord w) (fld w 35 5) (fld w 30 5) (fld w 25 5) (fld w 16 4) scp w32 opn)
  | 0x39 => do
    if fld w 6 7 ≠ 0 ∨ fld w 0 4 ≠ 0 then throw 3
    let scp ← need 4 (Scp.ofBits (fld w 13 3))
    let w32 ← need 4 (w32OfBits (fld w 4 2))
    pure (.cCas (Hdr.ofWord w) (fld w 35 5) (fld w 30 5) (fld w 25 5) (fld w 20 5) (fld w 16 4) scp w32)
  | 0x3A => do
    if fld w 19 21 ≠ 0 then throw 3
    let scp ← need 4 (Scp.ofBits (fld w 16 3))
    pure (.cFence (Hdr.ofWord w) scp (fld w 0 16))
  | 0x3B => do
    if fld w 11 14 ≠ 0 ∨ fld w 3 5 ≠ 0 then throw 3
    let cnd ← need 4 (ICnd.ofBits ((fld w 0 3).toNat))
    pure (.cWaita (Hdr.ofWord w) (fld w 35 5) (fld w 30 5) (fld w 25 5) (fld w 8 3) cnd)
  | 0x40 => do
    if (fld w 27 3 = 6 ∧ fld w 30 10 ≠ 0) then throw 3
    let cnd ← need 4 (Cnd.ofBits (fld w 27 3))
    pure (.cB (Hdr.ofWord w) (fld w 35 5) (fld w 30 5) cnd (fld w 0 27))
  | 0x41 => do
    if fld w 35 5 ≠ 0 then throw 3
    pure (.cJ (Hdr.ofWord w) (fld w 0 35))
  | 0x42 => pure (.cJal (Hdr.ofWord w) (fld w 35 5) (fld w 0 35))
  | 0x43 => do
    if fld w 0 30 ≠ 0 then throw 3
    pure (.cJr (Hdr.ofWord w) (fld w 35 5) (fld w 30 5))
  | 0x50 => do
    if fld w 25 10 ≠ 0 ∨ fld w 0 16 ≠ 0 then throw 3
    let scp ← need 4 (Scp.ofBits (fld w 16 3))
    pure (.cRclaim (Hdr.ofWord w) (fld w 35 5) (fld w 19 6) scp)
  | 0x51 => do
    if fld w 35 5 ≠ 0 ∨ fld w 25 5 ≠ 0 then throw 3
    let scp ← need 4 (Scp.ofBits (fld w 16 3))
    pure (.cRpub (Hdr.ofWord w) (fld w 30 5) (fld w 19 6) scp (fld w 0 16))
  | 0x52 => do
    if fld w 25 10 ≠ 0 ∨ fld w 0 16 ≠ 0 then throw 3
    let scp ← need 4 (Scp.ofBits (fld w 16 3))
    pure (.cRwaitf (Hdr.ofWord w) (fld w 35 5) (fld w 19 6) scp)
  | 0x53 => do
    if fld w 35 5 ≠ 0 ∨ fld w 25 5 ≠ 0 then throw 3
    let scp ← need 4 (Scp.ofBits (fld w 16 3))
    pure (.cRrel (Hdr.ofWord w) (fld w 30 5) (fld w 19 6) scp (fld w 0 16))
  | 0x54 => do
    if fld w 25 15 ≠ 0 ∨ fld w 0 16 ≠ 0 then throw 3
    let scp ← need 4 (Scp.ofBits (fld w 16 3))
    pure (.cRwaite (Hdr.ofWord w) (fld w 19 6) scp)
  | 0x55 => do
    if fld w 25 10 ≠ 0 then throw 3
    let scp ← need 4 (Scp.ofBits (fld w 16 3))
    pure (.cBar (Hdr.ofWord w) (fld w 35 5) (fld w 19 6) scp (fld w 0 16))
  | 0x60 => do
    if fld w 6 29 ≠ 0 then throw 3
    pure (.cLease (Hdr.ofWord w) (fld w 35 5) (fld w 0 6))
  | 0x61 => do
    if fld w 0 40 ≠ 0 then throw 3
    pure (.cUlease (Hdr.ofWord w))
  | 0x62 => do
    if fld w 25 10 ≠ 0 ∨ fld w 0 19 ≠ 0 then throw 3
    let eng ← need 4 (Eng.ofBits (fld w 19 6))
    pure (.cCbatch (Hdr.ofWord w) (fld w 35 5) eng)
  | 0x63 => do
    if fld w 35 5 ≠ 0 ∨ fld w 25 5 ≠ 0 ∨ fld w 0 19 ≠ 0 then throw 3
    let eng ← need 4 (Eng.ofBits (fld w 19 6))
    pure (.cWaitb (Hdr.ofWord w) (fld w 30 5) eng)
  | 0x64 => do
    if fld w 35 5 ≠ 0 ∨ fld w 0 25 ≠ 0 then throw 3
    pure (.cLpf (Hdr.ofWord w) (fld w 30 5) (fld w 25 5))
  | 0x68 => do
    if fld w 35 5 ≠ 0 ∨ fld w 0 19 ≠ 0 then throw 3
    pure (.cTcfg (Hdr.ofWord w) (fld w 30 5) (fld w 25 5) (fld w 19 6))
  | 0x69 => do
    if fld w 25 15 ≠ 0 ∨ fld w 0 19 ≠ 0 then throw 3
    pure (.cTrel (Hdr.ofWord w) (fld w 19 6))
  | 0x6A => do
    if fld w 35 5 ≠ 0 ∨ fld w 25 5 ≠ 0 ∨ fld w 0 19 ≠ 0 then throw 3
    let idx ← need 4 (idxBelow32 (fld w 19 6))
    pure (.cFtset (Hdr.ofWord w) (fld w 30 5) idx)
  | 0x70 => do
    if fld w 32 4 ≠ 0 ∨ maskHigh w then throw 3
    let dt ← need 4 (DomTy.ofBits (fld w 36 4))
    pure (.cWake (Hdr.ofWord w) dt (fld w 0 32))
  | 0x71 => do
    if fld w 32 2 ≠ 0 ∨ maskHigh w then throw 3
    let dt ← need 4 (DomTy.ofBits (fld w 36 4))
    let ret ← need 4 (retOfBits (fld w 34 2))
    pure (.cSleep (Hdr.ofWord w) dt ret (fld w 0 32))
  | 0x72 => do
    if fld w 32 4 ≠ 0 ∨ maskHigh w then throw 3
    let dt ← need 4 (DomTy.ofBits (fld w 36 4))
    pure (.cWstat (Hdr.ofWord w) dt (fld w 0 32))
  | 0x78 => do
    if fld w 16 24 ≠ 0 then throw 3
    pure (.cTrap (Hdr.ofWord w) (fld w 0 16))
  | 0x79 => do
    if fld w 0 40 ≠ 0 then throw 3
    pure (.cEret (Hdr.ofWord w))
  | 0x7A => do
    if fld w 16 19 ≠ 0 then throw 3
    pure (.cMfsr (Hdr.ofWord w) (fld w 35 5) (fld w 0 16))
  | 0x7B => do
    if fld w 35 5 ≠ 0 ∨ fld w 16 14 ≠ 0 then throw 3
    pure (.cMtsr (Hdr.ofWord w) (fld w 30 5) (fld w 0 16))
  | 0x7C => do
    if fld w 0 35 ≠ 0 then throw 3
    pure (.cRdtb (Hdr.ofWord w) (fld w 35 5))
  | 0x7D => do
    if fld w 16 24 ≠ 0 then throw 3
    pure (.cMark (Hdr.ofWord w) (fld w 0 16))
  | 0x7E => do
    if fld w 0 35 ≠ 0 then throw 3
    pure (.cRecv (Hdr.ofWord w) (fld w 35 5))
  | 0x7F => do
    if fld w 0 40 ≠ 0 then throw 3
    pure (.cIter (Hdr.ofWord w))
  | _ => throw 2

/-- The opcodes of the L stream (R66). -/
def decodeL (w : Nat) : Except Nat Instr :=
  match (fld w 40 7).toNat with
  | 0x00 => do
    if fld w 0 40 ≠ 0 then throw 3
    pure (.lNop (Hdr.ofWord w))
  | 0x01 => pure (.lPset (Hdr.ofWord w) (fld w 36 4) (fld w 0 36))
  | 0x02 => pure (.lPadd (Hdr.ofWord w) (fld w 36 4) (fld w 0 36))
  | 0x03 => do
    let cv ← need 4 (Cv.ofBits true (fld w 22 3))
    let md ← need 4 (Md.ofBits (fld w 20 2))
    if badTyCv w then throw 4
    let x ← need 5 (queueOfBits (fld w 28 8))
    pure (.lLdq (Hdr.ofWord w) (fld w 36 4) x (LaneTy.ofBits (fld w 25 3)) cv md (fld w 0 20))
  | 0x04 => do
    let cv ← need 4 (Cv.ofBits true (fld w 22 3))
    let md ← need 4 (Md.ofBits (fld w 20 2))
    if badTyCv w then throw 4
    let x ← need 5 (Line.ofBits (fld w 28 8))
    pure (.lLdg (Hdr.ofWord w) (fld w 36 4) x (LaneTy.ofBits (fld w 25 3)) cv md (fld w 0 20))
  | 0x05 => do
    let pk ← need 4 (pkOfBits (fld w 22 3))
    let md ← need 4 (Md.ofBits (fld w 20 2))
    if badTyCv w then throw 4
    let x ← need 5 (LqLine.ofBits (fld w 28 8))
    pure (.lLda (Hdr.ofWord w) (fld w 36 4) x (LaneTy.ofBits (fld w 25 3)) pk md (fld w 0 20))
  | 0x06 => do
    if fld w 4 32 ≠ 0 then throw 3
    pure (.lLrs (Hdr.ofWord w) (fld w 36 4) (fld w 0 4))
  | 0x07 => do
    let cv ← need 4 (Cv.ofBits false (fld w 22 3))
    let md ← need 4 (Md.ofBits (fld w 20 2))
    if badTyCv w then throw 4
    let x ← need 5 (LqLine.ofBits (fld w 28 8))
    pure (.lLdb (Hdr.ofWord w) (fld w 36 4) x (LaneTy.ofBits (fld w 25 3)) cv md (fld w 0 20))
  | 0x10 => do
    if fld w 18 3 ≠ 0 then throw 3
    let scp ← need 4 (Scp.ofBits (fld w 21 3))
    let x ← need 5 (queueOfBits (fld w 28 8))
    pure (.lLdm (Hdr.ofWord w) (fld w 36 4) x (fld w 24 4) scp (fld w 0 18))
  | 0x12 => do
    if fld w 6 15 ≠ 0 then throw 3
    let scp ← need 4 (Scp.ofBits (fld w 21 3))
    let x ← need 5 (queueOfBits (fld w 28 8))
    pure (.lLdgx (Hdr.ofWord w) (fld w 36 4) x (fld w 24 4) scp (fld w 0 6))
  | 0x70 => do
    if fld w 32 4 ≠ 0 ∨ maskHigh w then throw 3
    let dt ← need 4 (DomTy.ofBits (fld w 36 4))
    pure (.lWake (Hdr.ofWord w) dt (fld w 0 32))
  | 0x71 => do
    if fld w 32 2 ≠ 0 ∨ maskHigh w then throw 3
    let dt ← need 4 (DomTy.ofBits (fld w 36 4))
    let ret ← need 4 (retOfBits (fld w 34 2))
    pure (.lSleep (Hdr.ofWord w) dt ret (fld w 0 32))
  | 0x72 => do
    if fld w 32 4 ≠ 0 ∨ maskHigh w then throw 3
    let dt ← need 4 (DomTy.ofBits (fld w 36 4))
    pure (.lWstat (Hdr.ofWord w) dt (fld w 0 32))
  | _ => throw 2

/-- The opcodes of the V stream (R67). -/
def decodeV (w : Nat) : Except Nat Instr :=
  match (fld w 40 7).toNat with
  | 0x00 => do
    if fld w 0 40 ≠ 0 then throw 3
    pure (.vNop (Hdr.ofWord w))
  | 0x01 => do
    if fld w 8 8 ≠ 0 then throw 3
    let ty ← need 4 (FTy.ofBits (fld w 5 3))
    let d ← need 5 (Dst.ofBits (fld w 32 8))
    let a ← need 5 (Src.ofBits (fld w 24 8))
    let b ← need 5 (Src.ofBits (fld w 16 8))
    pure (.vFadd (Hdr.ofWord w) d a b ty (fld w 2 3) (Rnd.ofBits (fld w 0 2)))
  | 0x02 => do
    if fld w 8 8 ≠ 0 then throw 3
    let ty ← need 4 (FTy.ofBits (fld w 5 3))
    let d ← need 5 (Dst.ofBits (fld w 32 8))
    let a ← need 5 (Src.ofBits (fld w 24 8))
    let b ← need 5 (Src.ofBits (fld w 16 8))
    pure (.vFsub (Hdr.ofWord w) d a b ty (fld w 2 3) (Rnd.ofBits (fld w 0 2)))
  | 0x03 => do
    if fld w 8 8 ≠ 0 then throw 3
    let ty ← need 4 (FTy.ofBits (fld w 5 3))
    let d ← need 5 (Dst.ofBits (fld w 32 8))
    let a ← need 5 (Src.ofBits (fld w 24 8))
    let b ← need 5 (Src.ofBits (fld w 16 8))
    pure (.vFmul (Hdr.ofWord w) d a b ty (fld w 2 3) (Rnd.ofBits (fld w 0 2)))
  | 0x04 => do
    let ty ← need 4 (FTy.ofBits (fld w 5 3))
    let d ← need 5 (Dst.ofBits (fld w 32 8))
    let a ← need 5 (Src.ofBits (fld w 24 8))
    let b ← need 5 (Src.ofBits (fld w 16 8))
    let c ← need 5 (Src.ofBits (fld w 8 8))
    pure (.vFma (Hdr.ofWord w) d a b c ty (fld w 2 3) (Rnd.ofBits (fld w 0 2)))
  | 0x05 => do
    let ty ← need 4 (FTy.ofBits (fld w 5 3))
    let d ← need 5 (Dst.ofBits (fld w 32 8))
    let a ← need 5 (Src.ofBits (fld w 24 8))
    let b ← need 5 (Src.ofBits (fld w 16 8))
    let c ← need 5 (Src.ofBits (fld w 8 8))
    pure (.vFms (Hdr.ofWord w) d a b c ty (fld w 2 3) (Rnd.ofBits (fld w 0 2)))
  | 0x06 => do
    let ty ← need 4 (FTy.ofBits (fld w 5 3))
    let d ← need 5 (Dst.ofBits (fld w 32 8))
    let a ← need 5 (Src.ofBits (fld w 24 8))
    let b ← need 5 (Src.ofBits (fld w 16 8))
    let c ← need 5 (Src.ofBits (fld w 8 8))
    pure (.vFnma (Hdr.ofWord w) d a b c ty (fld w 2 3) (Rnd.ofBits (fld w 0 2)))
  | 0x07 => do
    if fld w 8 8 ≠ 0 ∨ fld w 0 2 ≠ 0 then throw 3
    let ty ← need 4 (FTy.ofBits (fld w 5 3))
    let d ← need 5 (Dst.ofBits (fld w 32 8))
    let a ← need 5 (Src.ofBits (fld w 24 8))
    let b ← need 5 (Src.ofBits (fld w 16 8))
    pure (.vFmin (Hdr.ofWord w) d a b ty (fld w 2 3))
  | 0x08 => do
    if fld w 8 8 ≠ 0 ∨ fld w 0 2 ≠ 0 then throw 3
    let ty ← need 4 (FTy.ofBits (fld w 5 3))
    let d ← need 5 (Dst.ofBits (fld w 32 8))
    let a ← need 5 (Src.ofBits (fld w 24 8))
    let b ← need 5 (Src.ofBits (fld w 16 8))
    pure (.vFmax (Hdr.ofWord w) d a b ty (fld w 2 3))
  | 0x09 => do
    if fld w 15 1 ≠ 0 ∨ fld w 0 2 ≠ 0 then throw 3
    let cnd ← need 4 (FCnd.ofBits (fld w 8 4))
    if fld w 5 3 ≠ 2 then throw 4
    let d ← need 5 (Dst.ofBits (fld w 32 8))
    let a ← need 5 (Src.ofBits (fld w 24 8))
    let b ← need 5 (Src.ofBits (fld w 16 8))
    pure (.vFcmp (Hdr.ofWord w) d a b (fld w 12 3) cnd (fld w 2 3))
  | 0x0A => do
    if fld w 8 16 ≠ 0 ∨ fld w 0 2 ≠ 0 then throw 3
    let ty ← need 4 (FTy.ofBits (fld w 5 3))
    let d ← need 5 (Dst.ofBits (fld w 32 8))
    let a ← need 5 (Src.ofBits (fld w 24 8))
    pure (.vFabs (Hdr.ofWord w) d a ty (fld w 2 3))
  | 0x0B => do
    if fld w 8 16 ≠ 0 ∨ fld w 0 2 ≠ 0 then throw 3
    let ty ← need 4 (FTy.ofBits (fld w 5 3))
    let d ← need 5 (Dst.ofBits (fld w 32 8))
    let a ← need 5 (Src.ofBits (fld w 24 8))
    pure (.vFneg (Hdr.ofWord w) d a ty (fld w 2 3))
  | 0x0C => do
    if fld w 8 16 ≠ 0 then throw 3
    if fld w 5 3 ≠ 2 then throw 4
    let d ← need 5 (Dst.ofBits (fld w 32 8))
    let a ← need 5 (Src.ofBits (fld w 24 8))
    pure (.vExp2 (Hdr.ofWord w) d a (fld w 2 3) (Rnd.ofBits (fld w 0 2)))
  | 0x0D => do
    if fld w 8 16 ≠ 0 then throw 3
    if fld w 5 3 ≠ 2 then throw 4
    let d ← need 5 (Dst.ofBits (fld w 32 8))
    let a ← need 5 (Src.ofBits (fld w 24 8))
    pure (.vLog2 (Hdr.ofWord w) d a (fld w 2 3) (Rnd.ofBits (fld w 0 2)))
  | 0x0E => do
    if fld w 8 16 ≠ 0 then throw 3
    if fld w 5 3 ≠ 2 then throw 4
    let d ← need 5 (Dst.ofBits (fld w 32 8))
    let a ← need 5 (Src.ofBits (fld w 24 8))
    pure (.vRcp (Hdr.ofWord w) d a (fld w 2 3) (Rnd.ofBits (fld w 0 2)))
  | 0x0F => do
    if fld w 8 16 ≠ 0 then throw 3
    if fld w 5 3 ≠ 2 then throw 4
    let d ← need 5 (Dst.ofBits (fld w 32 8))
    let a ← need 5 (Src.ofBits (fld w 24 8))
    pure (.vRsq (Hdr.ofWord w) d a (fld w 2 3) (Rnd.ofBits (fld w 0 2)))
  | 0x20 => do
    if fld w 8 8 ≠ 0 ∨ fld w 0 2 ≠ 0 then throw 3
    let ty ← need 4 (WTy.ofBits (fld w 5 3))
    let d ← need 5 (Dst.ofBits (fld w 32 8))
    let a ← need 5 (Src.ofBits (fld w 24 8))
    let b ← need 5 (Src.ofBits (fld w 16 8))
    pure (.vIadd (Hdr.ofWord w) d a b ty (fld w 2 3))
  | 0x21 => do
    if fld w 8 8 ≠ 0 ∨ fld w 0 2 ≠ 0 then throw 3
    let ty ← need 4 (WTy.ofBits (fld w 5 3))
    let d ← need 5 (Dst.ofBits (fld w 32 8))
    let a ← need 5 (Src.ofBits (fld w 24 8))
    let b ← need 5 (Src.ofBits (fld w 16 8))
    pure (.vIsub (Hdr.ofWord w) d a b ty (fld w 2 3))
  | 0x22 => do
    if fld w 8 8 ≠ 0 ∨ fld w 0 2 ≠ 0 then throw 3
    let ty ← need 4 (WTy.ofBits (fld w 5 3))
    let d ← need 5 (Dst.ofBits (fld w 32 8))
    let a ← need 5 (Src.ofBits (fld w 24 8))
    let b ← need 5 (Src.ofBits (fld w 16 8))
    pure (.vImul (Hdr.ofWord w) d a b ty (fld w 2 3))
  | 0x23 => do
    if fld w 8 8 ≠ 0 ∨ fld w 0 2 ≠ 0 then throw 3
    let ty ← need 4 (WTy.ofBits (fld w 5 3))
    let d ← need 5 (Dst.ofBits (fld w 32 8))
    let a ← need 5 (Src.ofBits (fld w 24 8))
    let b ← need 5 (Src.ofBits (fld w 16 8))
    pure (.vImulh (Hdr.ofWord w) d a b ty (fld w 2 3))
  | 0x24 => do
    if fld w 8 8 ≠ 0 ∨ fld w 0 2 ≠ 0 then throw 3
    let ty ← need 4 (WTy.ofBits (fld w 5 3))
    let d ← need 5 (Dst.ofBits (fld w 32 8))
    let a ← need 5 (Src.ofBits (fld w 24 8))
    let b ← need 5 (Src.ofBits (fld w 16 8))
    pure (.vImulhu (Hdr.ofWord w) d a b ty (fld w 2 3))
  | 0x25 => do
    if fld w 5 11 ≠ 0 ∨ fld w 0 2 ≠ 0 then throw 3
    let d ← need 5 (Dst.ofBits (fld w 32 8))
    let a ← need 5 (Src.ofBits (fld w 24 8))
    let b ← need 5 (Src.ofBits (fld w 16 8))
    pure (.vIand (Hdr.ofWord w) d a b (fld w 2 3))
  | 0x26 => do
    if fld w 5 11 ≠ 0 ∨ fld w 0 2 ≠ 0 then throw 3
    let d ← need 5 (Dst.ofBits (fld w 32 8))
    let a ← need 5 (Src.ofBits (fld w 24 8))
    let b ← need 5 (Src.ofBits (fld w 16 8))
    pure (.vIor (Hdr.ofWord w) d a b (fld w 2 3))
  | 0x27 => do
    if fld w 5 11 ≠ 0 ∨ fld w 0 2 ≠ 0 then throw 3
    let d ← need 5 (Dst.ofBits (fld w 32 8))
    let a ← need 5 (Src.ofBits (fld w 24 8))
    let b ← need 5 (Src.ofBits (fld w 16 8))
    pure (.vIxor (Hdr.ofWord w) d a b (fld w 2 3))
  | 0x28 => do
    if fld w 5 11 ≠ 0 ∨ fld w 0 2 ≠ 0 then throw 3
    let d ← need 5 (Dst.ofBits (fld w 32 8))
    let a ← need 5 (Src.ofBits (fld w 24 8))
    let b ← need 5 (Src.ofBits (fld w 16 8))
    pure (.vIandn (Hdr.ofWord w) d a b (fld w 2 3))
  | 0x29 => do
    if fld w 8 8 ≠ 0 ∨ fld w 0 2 ≠ 0 then throw 3
    let ty ← need 4 (WTy.ofBits (fld w 5 3))
    let d ← need 5 (Dst.ofBits (fld w 32 8))
    let a ← need 5 (Src.ofBits (fld w 24 8))
    let b ← need 5 (Src.ofBits (fld w 16 8))
    pure (.vIshl (Hdr.ofWord w) d a b ty (fld w 2 3))
  | 0x2A => do
    if fld w 8 8 ≠ 0 ∨ fld w 0 2 ≠ 0 then throw 3
    let ty ← need 4 (WTy.ofBits (fld w 5 3))
    let d ← need 5 (Dst.ofBits (fld w 32 8))
    let a ← need 5 (Src.ofBits (fld w 24 8))
    let b ← need 5 (Src.ofBits (fld w 16 8))
    pure (.vIshr (Hdr.ofWord w) d a b ty (fld w 2 3))
  | 0x2B => do
    if fld w 8 8 ≠ 0 ∨ fld w 0 2 ≠ 0 then throw 3
    let ty ← need 4 (WTy.ofBits (fld w 5 3))
    let d ← need 5 (Dst.ofBits (fld w 32 8))
    let a ← need 5 (Src.ofBits (fld w 24 8))
    let b ← need 5 (Src.ofBits (fld w 16 8))
    pure (.vIsra (Hdr.ofWord w) d a b ty (fld w 2 3))
  | 0x2C => do
    if fld w 8 8 ≠ 0 ∨ fld w 0 2 ≠ 0 then throw 3
    let ty ← need 4 (WTy.ofBits (fld w 5 3))
    let d ← need 5 (Dst.ofBits (fld w 32 8))
    let a ← need 5 (Src.ofBits (fld w 24 8))
    let b ← need 5 (Src.ofBits (fld w 16 8))
    pure (.vImin (Hdr.ofWord w) d a b ty (fld w 2 3))
  | 0x2D => do
    if fld w 8 8 ≠ 0 ∨ fld w 0 2 ≠ 0 then throw 3
    let ty ← need 4 (WTy.ofBits (fld w 5 3))
    let d ← need 5 (Dst.ofBits (fld w 32 8))
    let a ← need 5 (Src.ofBits (fld w 24 8))
    let b ← need 5 (Src.ofBits (fld w 16 8))
    pure (.vImax (Hdr.ofWord w) d a b ty (fld w 2 3))
  | 0x2E => do
    if fld w 8 8 ≠ 0 ∨ fld w 0 2 ≠ 0 then throw 3
    let ty ← need 4 (WTy.ofBits (fld w 5 3))
    let d ← need 5 (Dst.ofBits (fld w 32 8))
    let a ← need 5 (Src.ofBits (fld w 24 8))
    let b ← need 5 (Src.ofBits (fld w 16 8))
    pure (.vIminu (Hdr.ofWord w) d a b ty (fld w 2 3))
  | 0x2F => do
    if fld w 8 8 ≠ 0 ∨ fld w 0 2 ≠ 0 then throw 3
    let ty ← need 4 (WTy.ofBits (fld w 5 3))
    let d ← need 5 (Dst.ofBits (fld w 32 8))
    let a ← need 5 (Src.ofBits (fld w 24 8))
    let b ← need 5 (Src.ofBits (fld w 16 8))
    pure (.vImaxu (Hdr.ofWord w) d a b ty (fld w 2 3))
  | 0x30 => do
    if fld w 5 19 ≠ 0 ∨ fld w 0 2 ≠ 0 then throw 3
    let d ← need 5 (Dst.ofBits (fld w 32 8))
    let a ← need 5 (Src.ofBits (fld w 24 8))
    pure (.vIpopc (Hdr.ofWord w) d a (fld w 2 3))
  | 0x31 => do
    if fld w 5 19 ≠ 0 ∨ fld w 0 2 ≠ 0 then throw 3
    let d ← need 5 (Dst.ofBits (fld w 32 8))
    let a ← need 5 (Src.ofBits (fld w 24 8))
    pure (.vIclz (Hdr.ofWord w) d a (fld w 2 3))
  | 0x32 => do
    if fld w 15 1 ≠ 0 ∨ fld w 5 3 ≠ 0 ∨ fld w 0 2 ≠ 0 then throw 3
    let cnd ← need 4 (ICnd.ofBits ((fld w 8 4).toNat))
    let d ← need 5 (Dst.ofBits (fld w 32 8))
    let a ← need 5 (Src.ofBits (fld w 24 8))
    let b ← need 5 (Src.ofBits (fld w 16 8))
    pure (.vIcmp (Hdr.ofWord w) d a b (fld w 12 3) cnd (fld w 2 3))
  | 0x33 => do
    if fld w 8 16 ≠ 0 ∨ fld w 0 2 ≠ 0 then throw 3
    let ty ← need 4 (WTy.ofBits (fld w 5 3))
    let d ← need 5 (Dst.ofBits (fld w 32 8))
    let a ← need 5 (Src.ofBits (fld w 24 8))
    pure (.vIabs (Hdr.ofWord w) d a ty (fld w 2 3))
  | 0x34 => do
    if fld w 5 11 ≠ 0 ∨ fld w 0 2 ≠ 0 then throw 3
    let d ← need 5 (Dst.ofBits (fld w 32 8))
    let a ← need 5 (Src.ofBits (fld w 24 8))
    let b ← need 5 (Src.ofBits (fld w 16 8))
    pure (.vClmul (Hdr.ofWord w) d a b (fld w 2 3))
  | 0x35 => do
    if fld w 16 8 ≠ 0 ∨ fld w 5 3 ≠ 0 ∨ fld w 0 2 ≠ 0 then throw 3
    let d ← need 5 (Dst.ofBits (fld w 32 8))
    let a ← need 5 (Src.ofBits (fld w 24 8))
    pure (.vBcmp8 (Hdr.ofWord w) d a (fld w 8 8) (fld w 2 3))
  | 0x36 => do
    if fld w 5 19 ≠ 0 ∨ fld w 0 2 ≠ 0 then throw 3
    let d ← need 5 (Dst.ofBits (fld w 32 8))
    let a ← need 5 (Src.ofBits (fld w 24 8))
    pure (.vBpack (Hdr.ofWord w) d a (fld w 2 3))
  | 0x40 => do
    if fld w 12 4 ≠ 0 ∨ cvtReserved w then throw 3
    if cvtIllegal w then throw 4
    let d ← need 5 (Dst.ofBits (fld w 32 8))
    let a ← need 5 (Src.ofBits (fld w 24 8))
    let b ← need 5 (Src.ofBits (fld w 16 8))
    pure (.vCvt (Hdr.ofWord w) d a b (fld w 11 1 = 1) (LaneTy.ofBits (fld w 8 3)) (LaneTy.ofBits (fld w 5 3)) (fld w 2 3) (Rnd.ofBits (fld w 0 2)))
  | 0x41 => do
    if fld w 9 15 ≠ 0 then throw 3
    if fld w 5 3 ≠ 2 then throw 4
    let d ← need 5 (Dst.ofBits (fld w 32 8))
    let a ← need 5 (Src.ofBits (fld w 24 8))
    pure (.vQblk (Hdr.ofWord w) d a (fld w 8 1 = 1) (fld w 2 3) (Rnd.ofBits (fld w 0 2)))
  | 0x42 => do
    if fld w 9 15 ≠ 0 then throw 3
    if fld w 5 3 ≠ 2 then throw 4
    let d ← need 5 (Dst.ofBits (fld w 32 8))
    let a ← need 5 (Src.ofBits (fld w 24 8))
    pure (.vDqblk (Hdr.ofWord w) d a (fld w 8 1 = 1) (fld w 2 3) (Rnd.ofBits (fld w 0 2)))
  | 0x50 => do
    if fld w 12 12 ≠ 0 ∨ laneOpRndReserved w then throw 3
    let op ← need 4 (LaneOp.ofBits (fld w 8 3))
    let ty ← need 4 (RTy.ofBits (fld w 5 3))
    if laneOpFloatIllegal w then throw 4
    let d ← need 5 (Dst.ofBits (fld w 32 8))
    let a ← need 5 (Src.ofBits (fld w 24 8))
    pure (.vScan (Hdr.ofWord w) d a (fld w 11 1 = 1) op ty (fld w 2 3) (Rnd.ofBits (fld w 0 2)))
  | 0x51 => do
    if fld w 11 13 ≠ 0 ∨ laneOpRndReserved w then throw 3
    let op ← need 4 (LaneOp.ofBits (fld w 8 3))
    let ty ← need 4 (RTy.ofBits (fld w 5 3))
    if laneOpFloatIllegal w then throw 4
    if fld w 0 2 = 3 then throw 4
    let d ← need 5 (Dst.ofBits (fld w 32 8))
    let a ← need 5 (Src.ofBits (fld w 24 8))
    pure (.vRed (Hdr.ofWord w) d a op ty (fld w 2 3) (Rnd.ofBits (fld w 0 2)))
  | 0x52 => do
    if fld w 5 11 ≠ 0 ∨ fld w 0 2 ≠ 0 then throw 3
    let d ← need 5 (Dst.ofBits (fld w 32 8))
    let a ← need 5 (Src.ofBits (fld w 24 8))
    let b ← need 5 (Src.ofBits (fld w 16 8))
    pure (.vPerm (Hdr.ofWord w) d a b (fld w 2 3))
  | 0x53 => do
    if fld w 6 18 ≠ 0 then throw 3
    let d ← need 5 (Dst.ofBits (fld w 32 8))
    let a ← need 5 (Src.ofBits (fld w 24 8))
    pure (.vRot (Hdr.ofWord w) d a (fld w 0 6))
  | 0x54 => do
    if fld w 14 10 ≠ 0 ∨ fld w 5 3 ≠ 0 ∨ fld w 0 2 ≠ 0 then throw 3
    let d ← need 5 (Dst.ofBits (fld w 32 8))
    let a ← need 5 (Src.ofBits (fld w 24 8))
    pure (.vBcast (Hdr.ofWord w) d a (fld w 8 6) (fld w 2 3))
  | 0x60 => do
    if fld w 8 8 ≠ 0 then throw 3
    if fld w 5 3 ≠ 7 then throw 4
    let d ← need 5 (Dst.ofBits (fld w 32 8))
    let a ← need 5 (Src.ofBits (fld w 24 8))
    let b ← need 5 (Src.ofBits (fld w 16 8))
    pure (.vCmul (Hdr.ofWord w) d a b (fld w 2 3) (Rnd.ofBits (fld w 0 2)))
  | 0x61 => do
    if fld w 8 8 ≠ 0 then throw 3
    if fld w 5 3 ≠ 7 then throw 4
    let d ← need 5 (Dst.ofBits (fld w 32 8))
    let a ← need 5 (Src.ofBits (fld w 24 8))
    let b ← need 5 (Src.ofBits (fld w 16 8))
    pure (.vCmulc (Hdr.ofWord w) d a b (fld w 2 3) (Rnd.ofBits (fld w 0 2)))
  | 0x62 => do
    if fld w 5 3 ≠ 7 then throw 4
    let d ← need 5 (Dst.ofBits (fld w 32 8))
    let a ← need 5 (Src.ofBits (fld w 24 8))
    let b ← need 5 (Src.ofBits (fld w 16 8))
    let c ← need 5 (Src.ofBits (fld w 8 8))
    pure (.vCma (Hdr.ofWord w) d a b c (fld w 2 3) (Rnd.ofBits (fld w 0 2)))
  | 0x63 => do
    if fld w 5 3 ≠ 7 then throw 4
    let d ← need 5 (Dst.ofBits (fld w 32 8))
    let a ← need 5 (Src.ofBits (fld w 24 8))
    let b ← need 5 (Src.ofBits (fld w 16 8))
    let c ← need 5 (Src.ofBits (fld w 8 8))
    pure (.vCmac (Hdr.ofWord w) d a b c (fld w 2 3) (Rnd.ofBits (fld w 0 2)))
  | 0x64 => do
    if fld w 8 16 ≠ 0 then throw 3
    if fld w 5 3 ≠ 7 then throw 4
    let d ← need 5 (Dst.ofBits (fld w 32 8))
    let a ← need 5 (Src.ofBits (fld w 24 8))
    pure (.vCabs2 (Hdr.ofWord w) d a (fld w 2 3) (Rnd.ofBits (fld w 0 2)))
  | 0x68 => do
    if fld w 5 19 ≠ 0 ∨ fld w 0 2 ≠ 0 then throw 3
    let d ← need 5 (Dst.ofBits (fld w 32 8))
    let a ← need 5 (Src.ofBits (fld w 24 8))
    pure (.vMov (Hdr.ofWord w) d a (fld w 2 3))
  | 0x69 => do
    if fld w 5 3 ≠ 0 ∨ fld w 0 2 ≠ 0 then throw 3
    let d ← need 5 (Dst.ofBits (fld w 32 8))
    let a ← need 5 (Src.ofBits (fld w 24 8))
    let b ← need 5 (Src.ofBits (fld w 16 8))
    let c ← need 5 (Src.ofBits (fld w 8 8))
    pure (.vSel (Hdr.ofWord w) d a b c (fld w 2 3))
  | 0x6A => do
    if fld w 24 8 ≠ 0 then throw 3
    let k ← need 5 (kOfBits (fld w 32 8))
    pure (.vSetk (Hdr.ofWord w) k (fld w 0 24))
  | 0x6B => do
    if fld w 35 5 ≠ 0 ∨ fld w 27 5 ≠ 0 ∨ fld w 19 5 ≠ 0 ∨ fld w 5 11 ≠ 0 ∨ fld w 0 2 ≠ 0 then throw 3
    pure (.vZand (Hdr.ofWord w) (fld w 32 3) (fld w 24 3) (fld w 16 3) (fld w 2 3))
  | 0x6C => do
    if fld w 35 5 ≠ 0 ∨ fld w 27 5 ≠ 0 ∨ fld w 19 5 ≠ 0 ∨ fld w 5 11 ≠ 0 ∨ fld w 0 2 ≠ 0 then throw 3
    pure (.vZor (Hdr.ofWord w) (fld w 32 3) (fld w 24 3) (fld w 16 3) (fld w 2 3))
  | 0x6D => do
    if fld w 35 5 ≠ 0 ∨ fld w 27 5 ≠ 0 ∨ fld w 19 5 ≠ 0 ∨ fld w 5 11 ≠ 0 ∨ fld w 0 2 ≠ 0 then throw 3
    pure (.vZxor (Hdr.ofWord w) (fld w 32 3) (fld w 24 3) (fld w 16 3) (fld w 2 3))
  | 0x6E => do
    if fld w 27 5 ≠ 0 ∨ fld w 5 19 ≠ 0 ∨ fld w 0 2 ≠ 0 then throw 3
    let d ← need 5 (Dst.ofBits (fld w 32 8))
    pure (.vZcnt (Hdr.ofWord w) d (fld w 24 3) (fld w 2 3))
  | 0x6F => do
    if fld w 32 8 ≠ 0 ∨ fld w 0 24 ≠ 0 then throw 3
    let a ← need 5 (Src.ofBits (fld w 24 8))
    pure (.vSend (Hdr.ofWord w) a)
  | 0x70 => do
    if fld w 32 4 ≠ 0 ∨ maskHigh w then throw 3
    let dt ← need 4 (DomTy.ofBits (fld w 36 4))
    pure (.vWake (Hdr.ofWord w) dt (fld w 0 32))
  | 0x71 => do
    if fld w 32 2 ≠ 0 ∨ maskHigh w then throw 3
    let dt ← need 4 (DomTy.ofBits (fld w 36 4))
    let ret ← need 4 (retOfBits (fld w 34 2))
    pure (.vSleep (Hdr.ofWord w) dt ret (fld w 0 32))
  | 0x72 => do
    if fld w 32 4 ≠ 0 ∨ maskHigh w then throw 3
    let dt ← need 4 (DomTy.ofBits (fld w 36 4))
    pure (.vWstat (Hdr.ofWord w) dt (fld w 0 32))
  | _ => throw 2

/-- The opcodes of the S stream (R66). -/
def decodeS (w : Nat) : Except Nat Instr :=
  match (fld w 40 7).toNat with
  | 0x00 => do
    if fld w 0 40 ≠ 0 then throw 3
    pure (.sNop (Hdr.ofWord w))
  | 0x01 => pure (.sPset (Hdr.ofWord w) (fld w 36 4) (fld w 0 36))
  | 0x02 => pure (.sPadd (Hdr.ofWord w) (fld w 36 4) (fld w 0 36))
  | 0x03 => do
    let cv ← need 4 (Cv.ofBits false (fld w 22 3))
    let md ← need 4 (Md.ofBits (fld w 20 2))
    if badTyCv w then throw 4
    let x ← need 5 (queueOfBits (fld w 28 8))
    pure (.sStq (Hdr.ofWord w) (fld w 36 4) x (LaneTy.ofBits (fld w 25 3)) cv md (fld w 0 20))
  | 0x04 => do
    let cv ← need 4 (Cv.ofBits false (fld w 22 3))
    let md ← need 4 (Md.ofBits (fld w 20 2))
    if badTyCv w then throw 4
    let x ← need 5 (Line.ofBits (fld w 28 8))
    pure (.sStg (Hdr.ofWord w) (fld w 36 4) x (LaneTy.ofBits (fld w 25 3)) cv md (fld w 0 20))
  | 0x05 => do
    if fld w 22 3 ≠ 0 then throw 4
    let md ← need 4 (Md.ofBits (fld w 20 2))
    let x ← need 5 (SqLine.ofBits (fld w 28 8))
    pure (.sSta (Hdr.ofWord w) (fld w 36 4) x (LaneTy.ofBits (fld w 25 3)) md (fld w 0 20))
  | 0x06 => do
    if fld w 4 32 ≠ 0 then throw 3
    pure (.sSrs (Hdr.ofWord w) (fld w 36 4) (fld w 0 4))
  | 0x10 => do
    if fld w 18 3 ≠ 0 then throw 3
    let scp ← need 4 (Scp.ofBits (fld w 21 3))
    let x ← need 5 (queueOfBits (fld w 28 8))
    pure (.sStm (Hdr.ofWord w) (fld w 36 4) x (fld w 24 4) scp (fld w 0 18))
  | 0x11 => do
    let scp ← need 4 (Scp.ofBits (fld w 21 3))
    let x ← need 5 (queueOfBits (fld w 28 8))
    pure (.sVamo (Hdr.ofWord w) (fld w 36 4) x (fld w 24 4) scp (LaneTy.ofBits (fld w 18 3)) (fld w 0 18))
  | 0x12 => do
    if fld w 6 15 ≠ 0 then throw 3
    let scp ← need 4 (Scp.ofBits (fld w 21 3))
    let x ← need 5 (queueOfBits (fld w 28 8))
    pure (.sStsx (Hdr.ofWord w) (fld w 36 4) x (fld w 24 4) scp (fld w 0 6))
  | 0x70 => do
    if fld w 32 4 ≠ 0 ∨ maskHigh w then throw 3
    let dt ← need 4 (DomTy.ofBits (fld w 36 4))
    pure (.sWake (Hdr.ofWord w) dt (fld w 0 32))
  | 0x71 => do
    if fld w 32 2 ≠ 0 ∨ maskHigh w then throw 3
    let dt ← need 4 (DomTy.ofBits (fld w 36 4))
    let ret ← need 4 (retOfBits (fld w 34 2))
    pure (.sSleep (Hdr.ofWord w) dt ret (fld w 0 32))
  | 0x72 => do
    if fld w 32 4 ≠ 0 ∨ maskHigh w then throw 3
    let dt ← need 4 (DomTy.ofBits (fld w 36 4))
    pure (.sWstat (Hdr.ofWord w) dt (fld w 0 32))
  | _ => throw 2

/-- The opcodes of words tagged ALL (R68). -/
def decodeAll (w : Nat) : Except Nat Instr :=
  match (fld w 40 7).toNat with
  | 0x00 => do
    if fld w 47 4 ≠ 0 ∨ fld w 0 40 ≠ 0 then throw 3
    pure (.allNop (fld w 51 10))
  | 0x01 => do
    if fld w 47 4 ≠ 0 ∨ fld w 0 40 ≠ 0 then throw 3
    pure (.allStart (fld w 51 10))
  | 0x02 => do
    if fld w 47 4 ≠ 0 ∨ fld w 0 40 ≠ 0 then throw 3
    pure (.allEnd (fld w 51 10))
  | 0x03 => do
    if fld w 47 4 ≠ 0 ∨ (fld w 37 1 = 1 ∧ fld w 25 12 ≠ 0) then throw 3
    if fld w 0 20 = 0 then throw 4
    pure (.allLoop (fld w 51 10) (fld w 38 2) (fld w 37 1 = 1) (fld w 20 17) (fld w 0 20))
  | 0x04 => do
    if fld w 47 4 ≠ 0 ∨ (fld w 27 3 = 6 ∧ fld w 30 10 ≠ 0) then throw 3
    let cnd ← need 4 (Cnd.ofBits (fld w 27 3))
    pure (.allBr (fld w 51 10) (fld w 35 5) (fld w 30 5) cnd (fld w 0 27))
  | 0x05 => do
    if fld w 47 4 ≠ 0 ∨ fld w 0 40 ≠ 0 then throw 3
    pure (.allRealign (fld w 51 10))
  | 0x06 => do
    if fld w 47 4 ≠ 0 ∨ fld w 0 40 ≠ 0 then throw 3
    pure (.allBrk (fld w 51 10))
  | _ => throw 2

/-- The instruction of a 64-bit word, or the ILLEGAL detail code of R70 (the cases that depend on the address, the
mode or a coupling are added at the head, Machine/Ops.lean). -/
def decodeNat (w : Nat) : Except Nat Instr :=
  match (fld w 61 3).toNat with
  | 0 => decodeC w
  | 1 => decodeL w
  | 2 => decodeV w
  | 3 => decodeS w
  | 7 => decodeAll w
  | _ => throw 1

/-- The decoder of a word. -/
def decode (w : Word) : Except Nat Instr := decodeNat w.toNat

/-- A word from its eight bytes, lowest address first (R5). -/
def wordOfBytes : List Byte → Nat
  | [] => 0
  | b :: bs => b.toNat + 256 * wordOfBytes bs

/-- The decoder on any bytes: a text word is eight bytes (R5, R6), and fewer than eight are no word. -/
def decodeBytes (bs : List Byte) : Except Nat Instr :=
  if bs.length < 8 then throw 0 else decodeNat (wordOfBytes (bs.take 8))

/-- The word of an instruction, field by field from the high bits down (R40 to R50); `none` for a step
that is no word. Written from the encoding tables, not from the decoder. -/
def encodeNat : Instr → Option Nat
  | .cNop h => some (cat (h.bits 0 0) 40 0)
  | .cAdd h d a b => some (cat (cat (cat (cat (h.bits 0 1) 5 d) 5 a) 5 b) 25 0)
  | .cSub h d a b => some (cat (cat (cat (cat (h.bits 0 2) 5 d) 5 a) 5 b) 25 0)
  | .cAnd h d a b => some (cat (cat (cat (cat (h.bits 0 3) 5 d) 5 a) 5 b) 25 0)
  | .cOr h d a b => some (cat (cat (cat (cat (h.bits 0 4) 5 d) 5 a) 5 b) 25 0)
  | .cXor h d a b => some (cat (cat (cat (cat (h.bits 0 5) 5 d) 5 a) 5 b) 25 0)
  | .cAndn h d a b => some (cat (cat (cat (cat (h.bits 0 6) 5 d) 5 a) 5 b) 25 0)
  | .cShl h d a b => some (cat (cat (cat (cat (h.bits 0 7) 5 d) 5 a) 5 b) 25 0)
  | .cShr h d a b => some (cat (cat (cat (cat (h.bits 0 8) 5 d) 5 a) 5 b) 25 0)
  | .cSra h d a b => some (cat (cat (cat (cat (h.bits 0 9) 5 d) 5 a) 5 b) 25 0)
  | .cRol h d a b => some (cat (cat (cat (cat (h.bits 0 10) 5 d) 5 a) 5 b) 25 0)
  | .cMul h d a b => some (cat (cat (cat (cat (h.bits 0 11) 5 d) 5 a) 5 b) 25 0)
  | .cMulh h d a b => some (cat (cat (cat (cat (h.bits 0 12) 5 d) 5 a) 5 b) 25 0)
  | .cMulhu h d a b => some (cat (cat (cat (cat (h.bits 0 13) 5 d) 5 a) 5 b) 25 0)
  | .cDiv h d a b => some (cat (cat (cat (cat (h.bits 0 14) 5 d) 5 a) 5 b) 25 0)
  | .cDivu h d a b => some (cat (cat (cat (cat (h.bits 0 15) 5 d) 5 a) 5 b) 25 0)
  | .cRem h d a b => some (cat (cat (cat (cat (h.bits 0 16) 5 d) 5 a) 5 b) 25 0)
  | .cRemu h d a b => some (cat (cat (cat (cat (h.bits 0 17) 5 d) 5 a) 5 b) 25 0)
  | .cMin h d a b => some (cat (cat (cat (cat (h.bits 0 18) 5 d) 5 a) 5 b) 25 0)
  | .cMax h d a b => some (cat (cat (cat (cat (h.bits 0 19) 5 d) 5 a) 5 b) 25 0)
  | .cMinu h d a b => some (cat (cat (cat (cat (h.bits 0 20) 5 d) 5 a) 5 b) 25 0)
  | .cMaxu h d a b => some (cat (cat (cat (cat (h.bits 0 21) 5 d) 5 a) 5 b) 25 0)
  | .cSlt h d a b => some (cat (cat (cat (cat (h.bits 0 22) 5 d) 5 a) 5 b) 25 0)
  | .cSltu h d a b => some (cat (cat (cat (cat (h.bits 0 23) 5 d) 5 a) 5 b) 25 0)
  | .cSeq h d a b => some (cat (cat (cat (cat (h.bits 0 24) 5 d) 5 a) 5 b) 25 0)
  | .cSne h d a b => some (cat (cat (cat (cat (h.bits 0 25) 5 d) 5 a) 5 b) 25 0)
  | .cClz h d a => some (cat (cat (cat (h.bits 0 26) 5 d) 5 a) 30 0)
  | .cCtz h d a => some (cat (cat (cat (h.bits 0 27) 5 d) 5 a) 30 0)
  | .cPopc h d a => some (cat (cat (cat (h.bits 0 28) 5 d) 5 a) 30 0)
  | .cBswap h d a => some (cat (cat (cat (h.bits 0 29) 5 d) 5 a) 30 0)
  | .cAddi h d a imm => some (cat (cat (cat (h.bits 0 32) 5 d) 5 a) 30 imm)
  | .cAndi h d a imm => some (cat (cat (cat (h.bits 0 33) 5 d) 5 a) 30 imm)
  | .cOri h d a imm => some (cat (cat (cat (h.bits 0 34) 5 d) 5 a) 30 imm)
  | .cXori h d a imm => some (cat (cat (cat (h.bits 0 35) 5 d) 5 a) 30 imm)
  | .cShli h d a amt => some (cat (cat (cat (cat (h.bits 0 36) 5 d) 5 a) 24 0) 6 amt)
  | .cShri h d a amt => some (cat (cat (cat (cat (h.bits 0 37) 5 d) 5 a) 24 0) 6 amt)
  | .cSrai h d a amt => some (cat (cat (cat (cat (h.bits 0 38) 5 d) 5 a) 24 0) 6 amt)
  | .cSlti h d a imm => some (cat (cat (cat (h.bits 0 39) 5 d) 5 a) 30 imm)
  | .cSltui h d a imm => some (cat (cat (cat (h.bits 0 40) 5 d) 5 a) 30 imm)
  | .cLi h d imm => some (cat (cat (cat (h.bits 0 41) 5 d) 5 0) 30 imm)
  | .cLih h d a imm => some (cat (cat (cat (h.bits 0 42) 5 d) 5 a) 30 imm)
  | .cAddpc h d imm => some (cat (cat (cat (h.bits 0 43) 5 d) 5 0) 30 imm)
  | .cMtk h a k => some (cat (cat (cat (cat (cat (h.bits 0 44) 5 0) 5 a) 5 0) 6 (k.setWidth 6)) 19 0)
  | .cMtp h a inS p => some (cat (cat (cat (cat (cat (cat (h.bits 0 45) 5 0) 5 a) 6 0) 1 (bit inS)) 4 p) 19 0)
  | .cLd h d a cls scp sz sx ofs => some (cat (cat (cat (cat (cat (cat (cat (h.bits 0 48) 5 d) 5 a) 4 cls) 3 scp.bits) 2 sz.bits) 1 (bit sx)) 20 ofs)
  | .cSt h d a cls scp sz ofs => some (cat (cat (cat (cat (cat (cat (cat (h.bits 0 49) 5 d) 5 a) 4 cls) 3 scp.bits) 2 sz.bits) 1 0) 20 ofs)
  | .cLdx h d a b cls scp sx sz => some (cat (cat (cat (cat (cat (cat (cat (cat (cat (h.bits 0 50) 5 d) 5 a) 5 b) 5 0) 4 cls) 3 scp.bits) 10 0) 1 (bit sx)) 2 sz.bits)
  | .cStx h d a b cls scp sz => some (cat (cat (cat (cat (cat (cat (cat (cat (h.bits 0 51) 5 d) 5 a) 5 b) 5 0) 4 cls) 3 scp.bits) 11 0) 2 sz.bits)
  | .cAmo h d a b cls scp w32 opn => some (cat (cat (cat (cat (cat (cat (cat (cat (cat (h.bits 0 56) 5 d) 5 a) 5 b) 5 0) 4 cls) 3 scp.bits) 7 0) 2 (w32Bits w32)) 4 opn.bits)
  | .cCas h d a b e cls scp w32 => some (cat (cat (cat (cat (cat (cat (cat (cat (cat (h.bits 0 57) 5 d) 5 a) 5 b) 5 e) 4 cls) 3 scp.bits) 7 0) 2 (w32Bits w32)) 4 0)
  | .cWaita h d a b slot cnd => some (cat (cat (cat (cat (cat (cat (cat (h.bits 0 59) 5 d) 5 a) 5 b) 14 0) 3 slot) 5 0) 3 (cnd.bits 3))
  | .cFence h scp mask => some (cat (cat (cat (h.bits 0 58) 21 0) 3 scp.bits) 16 mask)
  | .cB h a b cnd ofs => some (cat (cat (cat (cat (h.bits 0 64) 5 a) 5 b) 3 cnd.bits) 27 ofs)
  | .cJ h ofs => some (cat (cat (h.bits 0 65) 5 0) 35 ofs)
  | .cJal h d ofs => some (cat (cat (h.bits 0 66) 5 d) 35 ofs)
  | .cJr h d a => some (cat (cat (cat (h.bits 0 67) 5 d) 5 a) 30 0)
  | .cRclaim h d idx scp => some (cat (cat (cat (cat (cat (h.bits 0 80) 5 d) 10 0) 6 idx) 3 scp.bits) 16 0)
  | .cRpub h a idx scp mask => some (cat (cat (cat (cat (cat (cat (h.bits 0 81) 5 0) 5 a) 5 0) 6 idx) 3 scp.bits) 16 mask)
  | .cRwaitf h d idx scp => some (cat (cat (cat (cat (cat (h.bits 0 82) 5 d) 10 0) 6 idx) 3 scp.bits) 16 0)
  | .cRrel h a idx scp mask => some (cat (cat (cat (cat (cat (cat (h.bits 0 83) 5 0) 5 a) 5 0) 6 idx) 3 scp.bits) 16 mask)
  | .cRwaite h idx scp => some (cat (cat (cat (cat (h.bits 0 84) 15 0) 6 idx) 3 scp.bits) 16 0)
  | .cBar h d idx scp mask => some (cat (cat (cat (cat (cat (h.bits 0 85) 5 d) 10 0) 6 idx) 3 scp.bits) 16 mask)
  | .cLease h d n1 => some (cat (cat (cat (h.bits 0 96) 5 d) 29 0) 6 n1)
  | .cUlease h => some (cat (h.bits 0 97) 40 0)
  | .cCbatch h d eng => some (cat (cat (cat (cat (h.bits 0 98) 5 d) 10 0) 6 eng.bits) 19 0)
  | .cWaitb h a eng => some (cat (cat (cat (cat (cat (h.bits 0 99) 5 0) 5 a) 5 0) 6 eng.bits) 19 0)
  | .cLpf h a b => some (cat (cat (cat (cat (h.bits 0 100) 5 0) 5 a) 5 b) 25 0)
  | .cTcfg h a b idx => some (cat (cat (cat (cat (cat (h.bits 0 104) 5 0) 5 a) 5 b) 6 idx) 19 0)
  | .cTrel h idx => some (cat (cat (cat (h.bits 0 105) 15 0) 6 idx) 19 0)
  | .cFtset h a idx => some (cat (cat (cat (cat (cat (h.bits 0 106) 5 0) 5 a) 5 0) 6 (idx.setWidth 6)) 19 0)
  | .cWake h dt mask => some (cat (cat (cat (h.bits 0 112) 4 dt.bits) 4 0) 32 mask)
  | .cSleep h dt ret mask => some (cat (cat (cat (cat (h.bits 0 113) 4 dt.bits) 2 (retBits ret)) 2 0) 32 mask)
  | .cWstat h dt mask => some (cat (cat (cat (h.bits 0 114) 4 dt.bits) 4 0) 32 mask)
  | .cTrap h code => some (cat (cat (h.bits 0 120) 24 0) 16 code)
  | .cEret h => some (cat (h.bits 0 121) 40 0)
  | .cMfsr h d n => some (cat (cat (cat (h.bits 0 122) 5 d) 19 0) 16 n)
  | .cMtsr h a n => some (cat (cat (cat (cat (h.bits 0 123) 5 0) 5 a) 14 0) 16 n)
  | .cRdtb h d => some (cat (cat (h.bits 0 124) 5 d) 35 0)
  | .cMark h code => some (cat (cat (h.bits 0 125) 24 0) 16 code)
  | .cRecv h d => some (cat (cat (h.bits 0 126) 5 d) 35 0)
  | .cIter h => some (cat (h.bits 0 127) 40 0)
  | .lNop h => some (cat (h.bits 1 0) 40 0)
  | .lPset h p imm => some (cat (cat (h.bits 1 1) 4 p) 36 imm)
  | .lPadd h p imm => some (cat (cat (h.bits 1 2) 4 p) 36 imm)
  | .lLdq h p x ty cv md inc => some (cat (cat (cat (cat (cat (cat (h.bits 1 3) 4 p) 8 (queueBits x)) 3 ty.bits) 3 cv.bits) 2 md.bits) 20 inc)
  | .lLdg h p x ty cv md inc => some (cat (cat (cat (cat (cat (cat (h.bits 1 4) 4 p) 8 x.bits) 3 ty.bits) 3 cv.bits) 2 md.bits) 20 inc)
  | .lLdb h p x ty cv md inc => some (cat (cat (cat (cat (cat (cat (h.bits 1 7) 4 p) 8 x.bits) 3 ty.bits) 3 cv.bits) 2 md.bits) 20 inc)
  | .lLda h p x ty pk md inc => some (cat (cat (cat (cat (cat (cat (h.bits 1 5) 4 p) 8 x.bits) 3 ty.bits) 3 (pkBits pk)) 2 md.bits) 20 inc)
  | .lLrs h p ring => some (cat (cat (cat (h.bits 1 6) 4 p) 32 0) 4 ring)
  | .lLdm h p x cls scp stride => some (cat (cat (cat (cat (cat (cat (h.bits 1 16) 4 p) 8 (queueBits x)) 4 cls) 3 scp.bits) 3 0) 18 stride)
  | .lLdgx h p x cls scp row => some (cat (cat (cat (cat (cat (cat (h.bits 1 18) 4 p) 8 (queueBits x)) 4 cls) 3 scp.bits) 15 0) 6 row)
  | .lWake h dt mask => some (cat (cat (cat (h.bits 1 112) 4 dt.bits) 4 0) 32 mask)
  | .lSleep h dt ret mask => some (cat (cat (cat (cat (h.bits 1 113) 4 dt.bits) 2 (retBits ret)) 2 0) 32 mask)
  | .lWstat h dt mask => some (cat (cat (cat (h.bits 1 114) 4 dt.bits) 4 0) 32 mask)
  | .sNop h => some (cat (h.bits 3 0) 40 0)
  | .sPset h p imm => some (cat (cat (h.bits 3 1) 4 p) 36 imm)
  | .sPadd h p imm => some (cat (cat (h.bits 3 2) 4 p) 36 imm)
  | .sStq h p x ty cv md inc => some (cat (cat (cat (cat (cat (cat (h.bits 3 3) 4 p) 8 (queueBits x)) 3 ty.bits) 3 cv.bits) 2 md.bits) 20 inc)
  | .sStg h p x ty cv md inc => some (cat (cat (cat (cat (cat (cat (h.bits 3 4) 4 p) 8 x.bits) 3 ty.bits) 3 cv.bits) 2 md.bits) 20 inc)
  | .sSta h p x ty md inc => some (cat (cat (cat (cat (cat (cat (h.bits 3 5) 4 p) 8 x.bits) 3 ty.bits) 3 0) 2 md.bits) 20 inc)
  | .sSrs h p ring => some (cat (cat (cat (h.bits 3 6) 4 p) 32 0) 4 ring)
  | .sStm h p x cls scp stride => some (cat (cat (cat (cat (cat (cat (h.bits 3 16) 4 p) 8 (queueBits x)) 4 cls) 3 scp.bits) 3 0) 18 stride)
  | .sStsx h p x cls scp row => some (cat (cat (cat (cat (cat (cat (h.bits 3 18) 4 p) 8 (queueBits x)) 4 cls) 3 scp.bits) 15 0) 6 row)
  | .sVamo h p x cls scp ty stride => some (cat (cat (cat (cat (cat (cat (h.bits 3 17) 4 p) 8 (queueBits x)) 4 cls) 3 scp.bits) 3 ty.bits) 18 stride)
  | .sWake h dt mask => some (cat (cat (cat (h.bits 3 112) 4 dt.bits) 4 0) 32 mask)
  | .sSleep h dt ret mask => some (cat (cat (cat (cat (h.bits 3 113) 4 dt.bits) 2 (retBits ret)) 2 0) 32 mask)
  | .sWstat h dt mask => some (cat (cat (cat (h.bits 3 114) 4 dt.bits) 4 0) 32 mask)
  | .vNop h => some (cat (h.bits 2 0) 40 0)
  | .vFadd h d a b ty z rnd => some (cat (cat (cat (cat (cat (cat (cat (h.bits 2 1) 8 d.bits) 8 a.bits) 8 b.bits) 8 0) 3 ty.bits) 3 z) 2 rnd.bits)
  | .vFsub h d a b ty z rnd => some (cat (cat (cat (cat (cat (cat (cat (h.bits 2 2) 8 d.bits) 8 a.bits) 8 b.bits) 8 0) 3 ty.bits) 3 z) 2 rnd.bits)
  | .vFmul h d a b ty z rnd => some (cat (cat (cat (cat (cat (cat (cat (h.bits 2 3) 8 d.bits) 8 a.bits) 8 b.bits) 8 0) 3 ty.bits) 3 z) 2 rnd.bits)
  | .vFma h d a b c ty z rnd => some (cat (cat (cat (cat (cat (cat (cat (h.bits 2 4) 8 d.bits) 8 a.bits) 8 b.bits) 8 c.bits) 3 ty.bits) 3 z) 2 rnd.bits)
  | .vFms h d a b c ty z rnd => some (cat (cat (cat (cat (cat (cat (cat (h.bits 2 5) 8 d.bits) 8 a.bits) 8 b.bits) 8 c.bits) 3 ty.bits) 3 z) 2 rnd.bits)
  | .vFnma h d a b c ty z rnd => some (cat (cat (cat (cat (cat (cat (cat (h.bits 2 6) 8 d.bits) 8 a.bits) 8 b.bits) 8 c.bits) 3 ty.bits) 3 z) 2 rnd.bits)
  | .vFmin h d a b ty z => some (cat (cat (cat (cat (cat (cat (cat (h.bits 2 7) 8 d.bits) 8 a.bits) 8 b.bits) 8 0) 3 ty.bits) 3 z) 2 0)
  | .vFmax h d a b ty z => some (cat (cat (cat (cat (cat (cat (cat (h.bits 2 8) 8 d.bits) 8 a.bits) 8 b.bits) 8 0) 3 ty.bits) 3 z) 2 0)
  | .vFcmp h d a b zt cnd z => some (cat (cat (cat (cat (cat (cat (cat (cat (cat (h.bits 2 9) 8 d.bits) 8 a.bits) 8 b.bits) 1 0) 3 zt) 4 cnd.bits) 3 2) 3 z) 2 0)
  | .vFabs h d a ty z => some (cat (cat (cat (cat (cat (cat (h.bits 2 10) 8 d.bits) 8 a.bits) 16 0) 3 ty.bits) 3 z) 2 0)
  | .vFneg h d a ty z => some (cat (cat (cat (cat (cat (cat (h.bits 2 11) 8 d.bits) 8 a.bits) 16 0) 3 ty.bits) 3 z) 2 0)
  | .vExp2 h d a z rnd => some (cat (cat (cat (cat (cat (cat (h.bits 2 12) 8 d.bits) 8 a.bits) 16 0) 3 2) 3 z) 2 rnd.bits)
  | .vLog2 h d a z rnd => some (cat (cat (cat (cat (cat (cat (h.bits 2 13) 8 d.bits) 8 a.bits) 16 0) 3 2) 3 z) 2 rnd.bits)
  | .vRcp h d a z rnd => some (cat (cat (cat (cat (cat (cat (h.bits 2 14) 8 d.bits) 8 a.bits) 16 0) 3 2) 3 z) 2 rnd.bits)
  | .vRsq h d a z rnd => some (cat (cat (cat (cat (cat (cat (h.bits 2 15) 8 d.bits) 8 a.bits) 16 0) 3 2) 3 z) 2 rnd.bits)
  | .vIadd h d a b ty z => some (cat (cat (cat (cat (cat (cat (cat (h.bits 2 32) 8 d.bits) 8 a.bits) 8 b.bits) 8 0) 3 ty.bits) 3 z) 2 0)
  | .vIsub h d a b ty z => some (cat (cat (cat (cat (cat (cat (cat (h.bits 2 33) 8 d.bits) 8 a.bits) 8 b.bits) 8 0) 3 ty.bits) 3 z) 2 0)
  | .vImul h d a b ty z => some (cat (cat (cat (cat (cat (cat (cat (h.bits 2 34) 8 d.bits) 8 a.bits) 8 b.bits) 8 0) 3 ty.bits) 3 z) 2 0)
  | .vImulh h d a b ty z => some (cat (cat (cat (cat (cat (cat (cat (h.bits 2 35) 8 d.bits) 8 a.bits) 8 b.bits) 8 0) 3 ty.bits) 3 z) 2 0)
  | .vImulhu h d a b ty z => some (cat (cat (cat (cat (cat (cat (cat (h.bits 2 36) 8 d.bits) 8 a.bits) 8 b.bits) 8 0) 3 ty.bits) 3 z) 2 0)
  | .vIand h d a b z => some (cat (cat (cat (cat (cat (cat (h.bits 2 37) 8 d.bits) 8 a.bits) 8 b.bits) 11 0) 3 z) 2 0)
  | .vIor h d a b z => some (cat (cat (cat (cat (cat (cat (h.bits 2 38) 8 d.bits) 8 a.bits) 8 b.bits) 11 0) 3 z) 2 0)
  | .vIxor h d a b z => some (cat (cat (cat (cat (cat (cat (h.bits 2 39) 8 d.bits) 8 a.bits) 8 b.bits) 11 0) 3 z) 2 0)
  | .vIandn h d a b z => some (cat (cat (cat (cat (cat (cat (h.bits 2 40) 8 d.bits) 8 a.bits) 8 b.bits) 11 0) 3 z) 2 0)
  | .vIshl h d a b ty z => some (cat (cat (cat (cat (cat (cat (cat (h.bits 2 41) 8 d.bits) 8 a.bits) 8 b.bits) 8 0) 3 ty.bits) 3 z) 2 0)
  | .vIshr h d a b ty z => some (cat (cat (cat (cat (cat (cat (cat (h.bits 2 42) 8 d.bits) 8 a.bits) 8 b.bits) 8 0) 3 ty.bits) 3 z) 2 0)
  | .vIsra h d a b ty z => some (cat (cat (cat (cat (cat (cat (cat (h.bits 2 43) 8 d.bits) 8 a.bits) 8 b.bits) 8 0) 3 ty.bits) 3 z) 2 0)
  | .vImin h d a b ty z => some (cat (cat (cat (cat (cat (cat (cat (h.bits 2 44) 8 d.bits) 8 a.bits) 8 b.bits) 8 0) 3 ty.bits) 3 z) 2 0)
  | .vImax h d a b ty z => some (cat (cat (cat (cat (cat (cat (cat (h.bits 2 45) 8 d.bits) 8 a.bits) 8 b.bits) 8 0) 3 ty.bits) 3 z) 2 0)
  | .vIminu h d a b ty z => some (cat (cat (cat (cat (cat (cat (cat (h.bits 2 46) 8 d.bits) 8 a.bits) 8 b.bits) 8 0) 3 ty.bits) 3 z) 2 0)
  | .vImaxu h d a b ty z => some (cat (cat (cat (cat (cat (cat (cat (h.bits 2 47) 8 d.bits) 8 a.bits) 8 b.bits) 8 0) 3 ty.bits) 3 z) 2 0)
  | .vIpopc h d a z => some (cat (cat (cat (cat (cat (h.bits 2 48) 8 d.bits) 8 a.bits) 19 0) 3 z) 2 0)
  | .vIclz h d a z => some (cat (cat (cat (cat (cat (h.bits 2 49) 8 d.bits) 8 a.bits) 19 0) 3 z) 2 0)
  | .vIcmp h d a b zt cnd z => some (cat (cat (cat (cat (cat (cat (cat (cat (cat (h.bits 2 50) 8 d.bits) 8 a.bits) 8 b.bits) 1 0) 3 zt) 4 (cnd.bits 4)) 3 0) 3 z) 2 0)
  | .vIabs h d a ty z => some (cat (cat (cat (cat (cat (cat (h.bits 2 51) 8 d.bits) 8 a.bits) 16 0) 3 ty.bits) 3 z) 2 0)
  | .vClmul h d a b z => some (cat (cat (cat (cat (cat (cat (h.bits 2 52) 8 d.bits) 8 a.bits) 8 b.bits) 11 0) 3 z) 2 0)
  | .vBcmp8 h d a byte z => some (cat (cat (cat (cat (cat (cat (cat (h.bits 2 53) 8 d.bits) 8 a.bits) 8 0) 8 byte) 3 0) 3 z) 2 0)
  | .vBpack h d a z => some (cat (cat (cat (cat (cat (h.bits 2 54) 8 d.bits) 8 a.bits) 19 0) 3 z) 2 0)
  | .vCvt h d a b el src ty z rnd => some (cat (cat (cat (cat (cat (cat (cat (cat (cat (h.bits 2 64) 8 d.bits) 8 a.bits) 8 b.bits) 4 0) 1 (bit el)) 3 src.bits) 3 ty.bits) 3 z) 2 rnd.bits)
  | .vQblk h d a e5m2 z rnd => some (cat (cat (cat (cat (cat (cat (cat (h.bits 2 65) 8 d.bits) 8 a.bits) 15 0) 1 (bit e5m2)) 3 2) 3 z) 2 rnd.bits)
  | .vDqblk h d a e5m2 z rnd => some (cat (cat (cat (cat (cat (cat (cat (h.bits 2 66) 8 d.bits) 8 a.bits) 15 0) 1 (bit e5m2)) 3 2) 3 z) 2 rnd.bits)
  | .vScan h d a ex op ty z rnd => some (cat (cat (cat (cat (cat (cat (cat (cat (h.bits 2 80) 8 d.bits) 8 a.bits) 12 0) 1 (bit ex)) 3 op.bits) 3 ty.bits) 3 z) 2 rnd.bits)
  | .vRed h d a op ty z rnd => some (cat (cat (cat (cat (cat (cat (cat (h.bits 2 81) 8 d.bits) 8 a.bits) 13 0) 3 op.bits) 3 ty.bits) 3 z) 2 rnd.bits)
  | .vPerm h d a b z => some (cat (cat (cat (cat (cat (cat (h.bits 2 82) 8 d.bits) 8 a.bits) 8 b.bits) 11 0) 3 z) 2 0)
  | .vRot h d a n => some (cat (cat (cat (cat (h.bits 2 83) 8 d.bits) 8 a.bits) 18 0) 6 n)
  | .vBcast h d a src z => some (cat (cat (cat (cat (cat (cat (cat (h.bits 2 84) 8 d.bits) 8 a.bits) 10 0) 6 src) 3 0) 3 z) 2 0)
  | .vCmul h d a b z rnd => some (cat (cat (cat (cat (cat (cat (cat (h.bits 2 96) 8 d.bits) 8 a.bits) 8 b.bits) 8 0) 3 7) 3 z) 2 rnd.bits)
  | .vCmulc h d a b z rnd => some (cat (cat (cat (cat (cat (cat (cat (h.bits 2 97) 8 d.bits) 8 a.bits) 8 b.bits) 8 0) 3 7) 3 z) 2 rnd.bits)
  | .vCma h d a b c z rnd => some (cat (cat (cat (cat (cat (cat (cat (h.bits 2 98) 8 d.bits) 8 a.bits) 8 b.bits) 8 c.bits) 3 7) 3 z) 2 rnd.bits)
  | .vCmac h d a b c z rnd => some (cat (cat (cat (cat (cat (cat (cat (h.bits 2 99) 8 d.bits) 8 a.bits) 8 b.bits) 8 c.bits) 3 7) 3 z) 2 rnd.bits)
  | .vCabs2 h d a z rnd => some (cat (cat (cat (cat (cat (cat (h.bits 2 100) 8 d.bits) 8 a.bits) 16 0) 3 7) 3 z) 2 rnd.bits)
  | .vMov h d a z => some (cat (cat (cat (cat (cat (h.bits 2 104) 8 d.bits) 8 a.bits) 19 0) 3 z) 2 0)
  | .vSel h d a b c z => some (cat (cat (cat (cat (cat (cat (cat (h.bits 2 105) 8 d.bits) 8 a.bits) 8 b.bits) 8 c.bits) 3 0) 3 z) 2 0)
  | .vSetk h k imm => some (cat (cat (cat (h.bits 2 106) 8 (kBits k)) 8 0) 24 imm)
  | .vZand h zd za zb z => some (cat (cat (cat (cat (cat (cat (cat (cat (cat (h.bits 2 107) 5 0) 3 zd) 5 0) 3 za) 5 0) 3 zb) 11 0) 3 z) 2 0)
  | .vZor h zd za zb z => some (cat (cat (cat (cat (cat (cat (cat (cat (cat (h.bits 2 108) 5 0) 3 zd) 5 0) 3 za) 5 0) 3 zb) 11 0) 3 z) 2 0)
  | .vZxor h zd za zb z => some (cat (cat (cat (cat (cat (cat (cat (cat (cat (h.bits 2 109) 5 0) 3 zd) 5 0) 3 za) 5 0) 3 zb) 11 0) 3 z) 2 0)
  | .vZcnt h d za z => some (cat (cat (cat (cat (cat (cat (h.bits 2 110) 8 d.bits) 5 0) 3 za) 19 0) 3 z) 2 0)
  | .vSend h a => some (cat (cat (cat (h.bits 2 111) 8 0) 8 a.bits) 24 0)
  | .vWake h dt mask => some (cat (cat (cat (h.bits 2 112) 4 dt.bits) 4 0) 32 mask)
  | .vSleep h dt ret mask => some (cat (cat (cat (cat (h.bits 2 113) 4 dt.bits) 2 (retBits ret)) 2 0) 32 mask)
  | .vWstat h dt mask => some (cat (cat (cat (h.bits 2 114) 4 dt.bits) 4 0) 32 mask)
  | .allNop idle => some (cat (allBits idle 0) 40 0)
  | .allStart idle => some (cat (allBits idle 1) 40 0)
  | .allEnd idle => some (cat (allBits idle 2) 40 0)
  | .allLoop idle lp src count end20 => some (cat (cat (cat (cat (allBits idle 3) 2 lp) 1 (bit src)) 17 count) 20 end20)
  | .allBr idle a b cnd ofs => some (cat (cat (cat (cat (allBits idle 4) 5 a) 5 b) 3 cnd.bits) 27 ofs)
  | .allRealign idle => some (cat (allBits idle 5) 40 0)
  | .allBrk idle => some (cat (allBits idle 6) 40 0)
  | .illegalWord _ => none
  | .arrayMma _ => none
  | .arrayMmas _ => none
  | .arrayMzero _ => none
  | .arrayDrain _ => none
  | .ceCopy _ => none
  | .ceGath _ => none
  | .ceScat _ => none
  | .ceWfill _ => none
  | .ceFlagw _ => none
  | .cePref _ => none
  | .xeFwd _ => none
  | .xeInv _ => none
  | .xeTagset _ => none
  | .goPush _ => none
  | .commandStart _ _ => none
  | .copyEngineSlot _ => none
  | .commandComplete _ _ => none
  | .xeSiblingPull _ => none
  | .resultLoad _ => none
  | .regWrite _ _ _ => none
  | .cLoadReply _ => none
  | .fenceRelease _ => none
  | .waitaRelease _ => none
  | .homeApply _ _ _ => none
  | .syncRelease _ => none
  | .leaseGrant _ => none
  | .leaseTimeout _ => none
  | .waitbRelease _ => none
  | .recvRelease _ => none
  | .iterAnswer _ => none
  | .wstatRelease _ _ => none
  | .vResultWrite _ => none
  | .lqFill _ => none
  | .gridLoadLand _ => none
  | .directAccessPerform _ => none
  | .couplingTransfer _ _ => none
  | .perform _ _ => none
  | .sliceEntryApply _ => none
  | .leaseExpiry _ _ => none
  | .walkReturn _ => none
  | .atomicResend _ _ => none
  | .domainWakeStart _ _ => none
  | .domainAwake _ => none
  | .domainPowerOff _ => none
  | .launchEnd _ => none
  | .ballastFadeStart _ => none
  | .ballastFadeEnd _ => none
  | .faultStop _ => none
  | .snapshotDeliver _ => none
  | .fwd _ => none
  | .timeBeacon _ _ => none
  | .beaconTimeout _ => none
  | .railWindow _ _ => none
  | .thermalTrip _ _ => none
  | .coldReset _ _ => none
  | .doorbell _ _ => none
  | .rcbAccept _ => none
  | .regionDispatch _ => none
  | .launchStart _ _ => none
  | .regionEnd _ _ => none
  | .pctlPreempt _ _ => none
  | .pctlResume _ _ => none
  | .pctlEnd _ _ => none
  | .pctlOneResume _ _ _ => none
  | .pctlOneEnd _ _ _ => none
  | .preemptDone _ => none
  | .resumeRestart _ => none
  | .bsharePlace _ _ _ => none
  | .bshareStop _ _ => none
  | .placementDone _ => none
  | .sliceExpiry _ => none
  | .bankRestart _ => none
  | .dbghalt _ => none
  | .sqcfgWrite _ _ => none
  | .tlostRead _ => none
  | .tbstatRead _ => none
  | .linkStatusRead _ _ _ => none
  | .sample _ => none
  | .replayRelease _ _ => none
  | .mbNonce _ => none
  | .mbUnlock _ => none
  | .mbQuote _ => none
  | .mbExtend _ => none
  | .mbIdent _ => none
  | .mbPsetup _ => none
  | .mailboxComplete => none
  | .flitReceive _ _ _ _ _ => none
  | .linkRetrain _ _ _ => none
  | .retrainEnd _ _ _ _ => none
  | .linkLoss _ _ _ => none
  | .routeTableApply _ _ => none
  | .atsCompletion _ _ _ _ _ _ => none
  | .atsInvalidationRequest _ _ => none
  | .invalidationCompletion _ => none
  | .ptmExchange _ => none
  | .instructionFetch _ _ => none
  | .railSwitchEnd _ => none
  | .sliceStopsAnswering _ => none
  | .hostLinkDown => none
  | .hostLinkUp _ _ => none
  | .hostAccess _ _ _ _ _ => none
  | .peerAccess _ _ _ _ => none
  | .managementCoreAccess _ _ => none

/-- The word of an instruction; `none` for a step that is no word. -/
def encode (i : Instr) : Option Word := (encodeNat i).map (BitVec.ofNat 64)

/-- The low `n` bytes of a number, lowest first (R5). -/
def bytesOfNat : Nat → Nat → List Byte
  | 0, _ => []
  | n + 1, w => BitVec.ofNat 8 w :: bytesOfNat n (w / 256)

/-- The instruction the decoder reads from a word numbered as spec/opcode_table.json numbers it: bit 0 the least
significant of the one 64-bit word, the bits above `nbits` zero. -/
def decodeTableWord (nbits w : Nat) : Option Instr :=
  match decodeBytes (bytesOfNat 8 (w % 2 ^ nbits)) with
  | .ok i => some i
  | .error _ => none

end Sys2Proof
end

