-- ==== Sys2Proof/Machine/State.lean ====
section
/-! DEFINITION. The state of the device, as plain data: the register contexts, the cores, the clusters, the
partitions and the device-wide parts (INVENTORY.md lists each with its rule), the reasons a step can stop, and the
state after reset. -/

namespace Sys2Proof.Machine

/-- Why a step of the model faults: no step of this model does. A fault of a program (R307) is a next state. -/
inductive Fault
  deriving DecidableEq, Repr

/-- Why a step of the model refuses. -/
inductive Refusal
  /-- Raised by an arm of `exec` whose instruction has no meaning yet; safe: the model stops. -/
  | notModelled (mnemonic : String)
  deriving DecidableEq, Repr

/-- A table from numbers to values: the entries that differ from what the table's reader takes by default. -/
abbrev Store (α : Type) := List (Nat × α)

/-- Bytes by address, in canonical form (Machine/Memory.lean). -/
abbrev Memory := List Host.Cell

/-- The bits of a stored sector that differ from what was stored (R359 to R361): [255:0] its bytes, [271:256] its check, [303:272]
its error-correcting code. -/
abbrev Flaw := BitVec 304

/-- The causes of R307. -/
inductive Cause
  | illegal | sleeping | accbusy | tilebusy | domain | desync | nolease | badcmd | xlate | perm | skew | integrity
  | race | winlost | align | migrating | swtrap | brk | synclimit | ringerr | remote
  deriving DecidableEq, Repr

/-- Where a check mismatch was found, as a machine-check record names it (R362): unit, kind, unit number, address. -/
structure Site where
  unit : Nat
  kind : Nat
  num : Nat
  pa : Nat
  deriving DecidableEq, Repr

/-- A fault of a program: what the frame of R308 records. -/
structure Trap where
  cause : Cause
  code : BitVec 16 := 0
  va : Word := 0
  core : Nat := 0
  dstate : Nat := 0
  didx : Nat := 0
  dtype : Nat := 0
  lane : Option (BitVec 6) := none
  record : Word := 0
  /-- where an INTEGRITY was found (R362) -/
  site : Option Site := none
  deriving DecidableEq, Repr

/-- The head classes of R324. -/
inductive HeadClass | issue | flag (n : Nat) | busy | empty
  deriving DecidableEq, Repr

/-- A scalar register as C sees it: S, or H in handler mode (R114). -/
inductive Reg | s (i : BitVec 5) | h (i : BitVec 3)
  deriving DecidableEq, Repr

/-- Where an access lies once its address is resolved (R32, R287). -/
inductive Place
  /-- a scratchpad of the cluster: its core, and the byte offset -/
  | spad (core : Nat) (off : Nat)
  /-- the core's accumulator store (R27) -/
  | acc (off : Nat)
  /-- a tile-table image (R28) -/
  | tile (off : Nat)
  /-- this device's memory (R287) -/
  | dev (pa : Nat)
  /-- a peer device (R287) -/
  | peer (pa : Nat)
  deriving DecidableEq, Repr

/-- The destination of a line load (R123). -/
inductive LineDst | lq (q : BitVec 3) (id : Nat) | line (x : Line)
  deriving DecidableEq, Repr

/-- What an access does at its place. -/
inductive AccKind
  | load (sz : Sz) (sx : Bool) (d : Reg)
  | store (bytes : List Byte)
  | amo (w32 : Bool) (op : AmoOp) (b : Word) (d : Reg)
  | cas (w32 : Bool) (b e : Word) (d : Reg)
  /-- a whole line of L (R123): `one` for `ldb` -/
  | lineLoad (dst : LineDst) (one : Bool) (cv : Cv)
  /-- one lane of `ldm` or `ldgx` (R129) -/
  | laneLoad (q : BitVec 3) (id : Nat) (lane : Nat)
  /-- one lane of `vamo` (R130) -/
  | laneAdd (ty : LaneTy) (v : Lane)
  deriving DecidableEq, Repr

/-- An access between its issue and its performing: a direct access with its fixed cycle, or an entry of a class FIFO
with the earliest cycle in which it may perform (R235, R236). -/
structure Acc where
  id : Nat
  /-- the number that its instruction took at its issue: the lanes of one vector access have one, which is lower than that of any
  access that issued later (R93, R96) -/
  order : Nat
  st : Strm
  issued : Nat
  due : Nat
  addr : Nat
  place : Place
  kind : AccKind
  cls : BitVec 4
  scp : Scp
  /-- the place's scope after widening (R88) -/
  reach : Scp
  /-- the expiry of the translation lease it carries (R243) -/
  expiry : Option Nat
  /-- its page's D and C bits (R290) -/
  d : Bool
  cpg : Bool
  lane : Option (BitVec 6)
  /-- the head word it issued from, for a race record (R333) -/
  head : Nat
  /-- the tag of an atomic on device memory (R316), and how often it was sent again -/
  tag : Option Nat
  resent : Nat
  sentAt : Nat
  /-- it waits for a beacon before it walks again (R243) -/
  parked : Bool
  deriving DecidableEq, Repr

/-- A result in flight to the place it lands at (R19, R20, R111, R151). -/
inductive PendDst
  | line (x : Line) (mask : Word) (v : List Lane)
  | kreg (n : BitVec 4) (v : Lane)
  | zreg (n : BitVec 3) (mask v : Word)
  | sq (q : BitVec 3) (id : Nat) (v : List Lane)
  | send (id : Nat) (v : Word)
  | ptr (inS : Bool) (p : BitVec 4) (v : Word)
  deriving DecidableEq, Repr

/-- A result in flight, with its issue cycle and stream (which of two results of one cycle is the later-issued), the lanes whose
groups its V instruction touches (R148), its due cycle, and whether it is captured in the snapshot buffer (R311). -/
structure Pend where
  due : Nat
  issued : Nat
  st : Strm
  mask : Word
  dst : PendDst
  captured : Bool
  deriving DecidableEq, Repr

/-- An entry of an LQ, an SQ or the send queue: claimed, then filled (R20, R25, R126). -/
structure QLine where
  id : Nat
  filled : Bool
  lanes : List Lane
  /-- an entry whose data failed a check or whose lane faulted (R128, R243) -/
  bad : Option Trap
  /-- lanes still to arrive (R132) -/
  left : Nat
  /-- the cycle in which an SQ entry was filled (R133) -/
  at_ : Nat
  deriving DecidableEq, Repr

/-- An LQ fill in flight (R126): it is never captured (R306). -/
structure Fill where
  due : Nat
  q : BitVec 3
  id : Nat
  lanes : List Lane
  bad : Option Trap
  deriving DecidableEq, Repr

/-- A hardware loop counter of one stream (R137). -/
structure Loop where
  count : Nat
  last : Nat
  iter : Nat
  active : Bool
  /-- the `all.loop` word's address, and which set-up this is (the most recent has the greatest number) -/
  back : Nat
  order : Nat
  /-- the count is not yet known: an `all.loop` with SRC = 1 that has not issued (R225) -/
  unknown : Bool
  deriving DecidableEq, Repr

/-- An entry of an instruction queue: text address, word, the loop counters as they stood when the word was enqueued, whose
ITER values it records (R226) and to which a stop returns, and as the fetch left them once it had passed the word, to which a
transfer returns. -/
structure QEntry where
  addr : Nat
  word : Word
  pre : List Loop
  loops : List Loop
  deriving DecidableEq, Repr

/-- The operations of rings and barriers (R105, R107). -/
inductive SyncOp | claim | pub | waitf | rel | waite | bar
  deriving DecidableEq, Repr

/-- An entry of the broadcast queue (R138), and which of L, V, S have popped it. -/
structure BEntry where
  val : Word
  /-- the cycle of C's issue; the other streams pop the entry from the cycle after it (R224) -/
  pushed : Nat
  l : Bool
  v : Bool
  s : Bool
  deriving DecidableEq, Repr

/-- A tile-table entry's image (R28). -/
abbrev TileImage := BitVec 128

/-- A lease-cache entry (R297): page, size in bits, PA, permissions, expiry, last use. -/
structure Lease where
  page : Nat
  log2 : Nat
  pa : Nat
  r : Bool
  w : Bool
  key : Nat
  d : Bool
  c : Bool
  len : Nat
  expiry : Nat
  used : Nat
  deriving DecidableEq, Repr

/-- An engine command: its words as they stood at GO (R96), and its progress. -/
structure Cmd where
  core : Nat
  eng : Eng
  w0 : Word
  w1 : Word
  w2 : Word
  w3 : Word
  /-- the format entry taken at GO (R174) -/
  fmt : Word
  /-- the images of the tiles that the command names, by tile number -/
  tiles : Store TileImage
  /-- translations of code 0, which no cache holds (R296, R297) -/
  pages : List Lease
  batch : Nat
  seq : Nat
  pushed : Nat
  /-- the checker entry (R193) -/
  chk : Nat
  /-- SRSEED and SRSEQ of a `drain` that rounds stochastically (R206) -/
  seed : BitVec 32
  srseq : BitVec 32
  /-- the interval of the GO, for the race detector (R246) -/
  intv : Nat
  head : Nat
  started : Option Nat
  /-- the core whose transform engine runs it (R191) -/
  runner : Nat
  /-- rows or pages moved so far, and the sectors of the row read so far -/
  row : Nat
  sect : Nat
  /-- the row as read: packed blocks and raw sectors (R367) -/
  buf : List (Bool × List Byte)
  /-- the index of the row, of `gath` and `scat` (R184) -/
  idx : Nat
  /-- the last cycle whose slot the command used (R182) -/
  slot : Option Nat
  /-- the addresses of the last source and destination sectors of the rows that were moved (R301) -/
  ends : Option Nat × Option Nat := (none, none)
  /-- the migrating pages that walks found (R301): whether one is the destination's, an address on it, and its size in bits -/
  migr : List (Bool × Nat × Nat)
  /-- the first cycle in which it may start (R387) -/
  notBefore : Nat
  /-- the arithmetic has been performed -/
  worked : Bool
  doneAt : Option Nat
  err : Option Cause
  info : BitVec 16
  paused : Bool
  deriving DecidableEq, Repr

/-- A run of 32-byte sectors: of a core's scratchpad, or of the weight buffer (R193). -/
structure Span where
  wb : Bool
  core : Nat
  lo : Nat
  hi : Nat
  deriving DecidableEq, Repr

/-- An entry of the range checker (R193, R229). -/
structure ChkEntry where
  id : Nat
  rd : List Span
  wr : List Span
  /-- the cycle in which the entry is freed, once it is known -/
  free : Option Nat
  deriving DecidableEq, Repr

/-- What a waiting instruction waits for (R78 to R81). -/
inductive Wait
  /-- a translation walk of an address, for a read and for a write, before the access is accepted (R298) -/
  | walk (va : Nat) (r w : Bool)
  /-- the reply of access `id` -/
  | reply (id : Nat) (value : Option Word) (fail : Option Trap) (d : Option Reg)
  /-- the accesses a fence waits for (R93, R238) -/
  | fence (scp : Scp) (mask : BitVec 16) (ids : List Nat) (after : Nat)
  /-- the word condition of `waita`; the value of the word that the first write to meet it left, with the pair of a command's flag
  write (R94, R241, R245) -/
  | waita (core off : Nat) (slot : BitVec 3) (cnd : ICnd) (b : Lane) (d : Reg) (met : Option (Lane × Option (Nat × Nat)))
  /-- a ring or barrier operation: its release, then its home (`answer` once applied) -/
  | sync (op : SyncOp) (n : Nat) (scp : Scp) (mask : BitVec 16) (ids : List Nat) (atHome : Bool) (slot : Nat)
      (answer : Option Word) (d : Option Reg) (gen : Nat)
  | lease (since : Nat) (n : Nat) (d : Reg)
  | waitb (eng : Eng) (batch : Nat)
  | go (cmd : Cmd) (rmask : BitVec 16) (ids : List Nat)
  | result (eng : Eng) (d : Reg)
  | recv (d : Reg)
  /-- the earliest release cycle (R232) -/
  | iter (due : Nat)
  | wstat (dt : DomTy) (mask : BitVec 32)
  /-- a grid-line load from a sibling's scratchpad (R126), and the pointer update that it makes, if its MD makes one (R49) -/
  | gridLoad (id : Nat) (move : Option (BitVec 4 × Word))
  /-- the performing of every posted lane of a vector access that a race may still stop (R131, R247), and the SQ it pops then -/
  | lanes (pop : Option (BitVec 3))
  deriving DecidableEq, Repr

/-- The words at which a stream stands (R135, R136, R139). -/
inductive StandAt | start | realign | brk | fin
  deriving DecidableEq, Repr

/-- One stream of a context (R11, R12, R78). -/
structure Stream where
  fetch : Nat
  queue : List QEntry
  /-- the last cycle of the previous instruction -/
  last : Nat
  /-- the head has issued or has been released in this cycle (R337), and it has been counted in ISSUED (R325) -/
  moved : Bool
  counted : Bool
  loops : List Loop
  /-- the cycle in which the stream came to stand at a barrier word or an `all.end`, and which -/
  stand : Option (Nat × StandAt)
  wait : Option Wait
  /-- an `all.end` has been enqueued (R225) -/
  ended : Bool
  /-- the class of the head in this cycle, and in the cycle before (R324) -/
  cls : HeadClass
  prev : HeadClass
  /-- the head that `cls` is of: its text address and the ITER values it recorded, at the start of the cycle (R323) -/
  seen : Nat
  seenIters : List Nat
  /-- the head is to be executed anew without IDLE, token bits and energy (R79), but for the units that a fault has given back (R121) -/
  anew : Bool
  owed : Nat
  /-- the lanes of the head that are already posted, each with the number of its access (R131) -/
  posted : List (Nat × Nat)
  /-- translations that walks of this head have returned (R298) -/
  pages : List Lease
  /-- a vector access that has issued and is not yet posted whole: the number of its issue, its class (R93, R96), and the lane addresses
  that it formed then (R129) -/
  lanes : Option (Nat × BitVec 4 × List (Option Nat))
  /-- a fault of the head that a walk or an arrival has found, taken in the head's turn (R73, R305) -/
  due : Option Trap
  /-- a grid load of L whose data are not yet read and checked (R126, R128): its access, its entry, and the pointer that it
  moved, with the values before and after -/
  undo : Option (Nat × QEntry × Option (BitVec 4 × Word × Word))
  /-- no breakpoint fires on the next word (R335) -/
  skipBp : Bool
  /-- the stream issues nothing before this cycle (R310) -/
  notBefore : Nat
  /-- a barrier arrival kept at a stop (R80): the partition's barrier and the generation -/
  kept : Option (Nat × Nat)
  deriving DecidableEq, Repr

/-- What a context is doing. -/
inductive Mode
  | off | run
  /-- a stop is due, and waits for accepted requests (R79, R305): for a fault, or for Sapwood (`none`) -/
  | stopping (why : Option (Trap × Strm))
  /-- stopped for Sapwood: a forward, a pre-emption, a halt -/
  | stopped
  deriving DecidableEq, Repr

/-- The scalar, vector and pointer registers and the grid file of a context (R21, R22). -/
structure Regs where
  s : Vector Word 32
  h : Vector Word 8
  pl : Vector Word 16
  ps : Vector Word 16
  k : Vector Lane 16
  z : Vector Word 8
  grid : Store Lane
  deriving DecidableEq, Repr

/-- The system registers of a context (R113). -/
structure Sys where
  window : BitVec 12
  /-- WINDOW at the start of the cycle (R13) -/
  window0 : BitVec 12
  srseed : BitVec 32
  srseq : BitVec 32
  ftbase : BitVec 5
  syncwin : BitVec 32
  slotshare : BitVec 16
  pwrset : BitVec 16
  /-- a handler-mode write of PWRSET, which takes effect at `c.eret` (R375) -/
  pwrNew : Option (BitVec 16)
  energySat : Bool
  energy : BitVec 48
  /-- the charges of this cycle (R379) -/
  charge : Nat
  deriving DecidableEq, Repr

/-- The fault frame (R308) and what a stop leaves to `c.eret` (R309 to R311, R319). -/
structure Frame where
  fstat : Word
  heads : List (BitVec 15)
  fva : Word
  finfo : Word
  frec : Word
  ftime : Word
  /-- where an INTEGRITY was found (R362) -/
  site : Option Site
  /-- the stop cycle f -/
  f : Nat
  /-- the C stream as the stop cut found it -/
  cstream : Stream
  /-- a fault kept pending at a pre-emption (R318) -/
  pending : Option (Trap × Strm)
  /-- the cycle of a stop for Sapwood taken in handler mode, and the sum of the Δ of those that have ended (R337) -/
  halted : Nat
  lag : Nat
  /-- handler mode (R309), and the last cycle of the last one that ended -/
  handler : Bool
  left : Option Nat
  deriving DecidableEq, Repr

/-- The counters of R325. -/
structure Counters where
  cyc : Nat
  hcyc : Nat
  issued : List Nat
  head : List Nat
  flagw : List Nat
  samples : Nat
  /-- the values latched by the last start packet (R327) -/
  latched : List Nat
  running : Bool
  deriving DecidableEq, Repr

/-- The engines as one context sees them (R96, R100, R169 to R173). -/
structure Engines where
  /-- CMDW0 to CMDW3 of array, copy engine and transform engine -/
  cmdw : List Word
  tiles : List TileImage
  fmts : List Word
  records : List (List Word)
  openBatch : List Nat
  seqs : List Nat
  /-- commands pushed and not completed -/
  live : List Cmd
  checker : List ChkEntry
  deriving DecidableEq, Repr

/-- The launch a context belongs to. -/
structure Launch where
  part : Nat
  /-- the region, by its acceptance number (R272), and its REGID -/
  region : Nat
  regid : Nat
  lcore : Nat
  /-- cycle 0 (R17), once all streams have reached `all.start` -/
  zero : Nat
  /-- the sum of the Δ of its stops (R337) -/
  delta : Nat
  /-- the multiples of the sample period before this time base are past on the core (R333) -/
  sampled : Nat
  /-- couplings out of this core: SQ, destination core, LQ (R133) -/
  cplOut : List (BitVec 3 × Nat × BitVec 3)
  /-- LQs bound by a coupling into this core -/
  cplIn : List (BitVec 3)
  /-- the breakpoint registers of the launch core (R334) -/
  bps : List Word
  /-- record and replay (R337, R338): the log left, each entry's stream, release cycle, text address and ITER of LP0 -/
  replay : Option (List (Strm × Nat × Nat × Nat))
  /-- the banks of the core in which the launch's context has stood (R325) -/
  banks : List Bool
  /-- the partition's trace and race modes as they were at the launch or resume (R247, R328) -/
  trc : Word
  raceMode : BitVec 2
  deriving DecidableEq, Repr

/-- The race detector's values of a core (R245), beside its launch tag. -/
structure Race where
  intv : BitVec 16
  v : Store (BitVec 16)
  deriving DecidableEq, Repr

/-- A register context: one of the two banks of a core (R2, R4). -/
structure Ctx where
  mode : Mode
  /-- the launch's text in the instruction store, below 0x7000 (R74): it goes with the context that runs it (DEDUCED, log 36) -/
  text : Store Word
  regs : Regs
  c : Stream
  l : Stream
  v : Stream
  s : Stream
  /-- the eight token counters by flag number (R15), and their values at the start of the cycle (R16) -/
  tok : List Nat
  tok0 : List Nat
  lq : List (List QLine)
  sq : List (List QLine)
  bq : List BEntry
  send : List QLine
  sys : Sys
  frame : Frame
  pend : List Pend
  fills : List Fill
  eng : Engines
  /-- the 16 class FIFOs (R233) -/
  fifo : Store (List Acc)
  /-- failures of posted accesses, not yet taken (R243): class, reach, trap -/
  fails : List (BitVec 4 × Scp × Trap)
  counters : Counters
  launch : Launch
  nextId : Nat
  /-- the sequence number of atomics (R316) -/
  atomSeq : BitVec 16
  /-- the code of a `c.mark` of this cycle, whose record is made at the end of the cycle (R333) -/
  mark : Option (BitVec 16)
  /-- the end cycle of the launch, once it has come (R384) -/
  ending : Option Nat
  deriving DecidableEq, Repr

/-- The states of a power domain (R38). -/
inductive DomSt | off | retained | waking | awake
  deriving DecidableEq, Repr

/-- A power domain (R38, R142 to R144, R314). -/
structure Dom where
  st : DomSt
  /-- it waits in a wake queue, without a ready cycle -/
  queued : Bool
  ready : Nat
  /-- it was woken from off: storage reads zero when awake -/
  cold : Bool
  /-- a sleep that takes effect when awake (R38): retain or off -/
  sleepPend : Option Bool
  /-- a power-off in progress: the issue cycle of its sleep, and its end once known -/
  sleptAt : Option Nat
  offAt : Option Nat
  /-- the bank whose context woke it (R314) -/
  owner : Bool
  deriving DecidableEq, Repr

/-- A core (R2): two register contexts, its stores and its domains. -/
structure Core where
  /-- the active bank's context, the resident one's, and which bank is active -/
  ctx : Ctx
  alt : Ctx
  bank : Bool
  /-- the handler image in the instruction store, from 0x7000 (R307) -/
  image : Store Word
  spad : Memory
  acc : Memory
  /-- domains by number: VLG 0, GFB 4, SPB 8, ACB 40, XE 64 -/
  doms : Store Dom
  wakeQ : List Nat
  /-- packed bits by 256-byte slot of the scratchpad (R365) -/
  packed : List Nat
  /-- sectors with wrong bits: scratchpad, accumulator store (R360, R361) -/
  badSpad : Store Flaw
  badAcc : Store Flaw
  /-- dirty 4 KiB regions: scratchpad, accumulator store (R320) -/
  dirtySpad : List Nat
  dirtyAcc : List Nat
  /-- the pair that a command's flag write left with a scratchpad word (R245), until another write -/
  flags : Store (Nat × Nat)
  leases : List Lease
  direct : List Acc
  /-- the launch tag of the last launch on the core, its interval number and its vector (R245) -/
  launches : BitVec 3
  race : Race
  /-- the first cycles in which the copy engine and the transform engine may start the core's next command (R192) -/
  ceFree : Nat
  xeFree : Nat
  /-- an exchange of banks in progress: the cycle after which the other context restarts (R383) -/
  exchange : Option Nat
  /-- a stop is due for an exchange (R383) -/
  exchangeDue : Bool
  /-- the first cycle that counts toward SLICE, and the first in which a slice may end: the one after a placement ended (R383) -/
  since : Nat
  paired : Nat
  deriving DecidableEq, Repr

/-- Who waits for a walk (R298): a stream's head, a `c.lpf`, an access whose lease expired (R243), a copy-engine command
(R300), a `pref` (R187), the loader of a region, by the region's acceptance number (R304). -/
inductive WalkFor
  | head (st : Strm)
  | lpf
  | acc (cls : BitVec 4) (id : Nat)
  | copy (seq : Nat)
  | pref (seq : Nat) (alsoAcc : Bool)
  | preload (order : Nat)
  deriving DecidableEq, Repr

/-- A requester of a walk, and the permissions its access needs (R291). -/
structure WalkReq where
  core : Nat
  why : WalkFor
  va : Nat
  lane : Option (BitVec 6)
  r : Bool
  w : Bool
  deriving DecidableEq, Repr

/-- A walk of a cluster's walkers (R298): the level it reads next, and the table. -/
structure Walk where
  part : Nat
  va : Nat
  reqs : List WalkReq
  level : Nat
  table : Nat
  /-- a host translation that is outstanding (R292) -/
  ats : Bool
  deriving DecidableEq, Repr

/-- A router's copy of the time base (R294): the count that it does not fall below, how far it runs ahead of the time base, or,
negative, behind, and the time of its last beacon. -/
structure Clock where
  hold : Nat
  off : Int
  beacon : Nat
  deriving DecidableEq, Repr

/-- A cluster (R1, R34). -/
structure Cluster where
  /-- cycles counted, and the time of the next clock edge in tenths of a nanosecond -/
  cyc : Nat
  edge : Nat
  low : Bool
  /-- a rail chosen at the last window boundary, while the multiplexers switch (R374) -/
  switching : Option Bool
  /-- the average power of the last window of R376 that ended, and the number of the window of the time base in progress (R374) -/
  watts : Nat
  window : Nat
  wb : Memory
  wbPacked : List Nat
  wbBad : Store Flaw
  wbDirty : List Nat
  /-- MAQ 0, WBB 4, CE 20 -/
  doms : Store Dom
  wakeQ : List Nat
  /-- CE reference bits by core and bank (R39, R314), and the core in whose wake queue CE stood last (R143) -/
  ceRefs : List (Nat × Bool)
  ceBy : Nat
  /-- the array lease (R195): holder, commands left, the time base of its grant -/
  holder : Option Nat
  left : Nat
  granted : Nat
  leaseLast : Nat
  /-- the cycle from which the lease is free -/
  freeFrom : Nat
  /-- array commands in push order: core and SEQ (R176) -/
  arrayQ : List (Nat × Nat)
  /-- the first cycle in which the array may start its next command (R192) -/
  arrayFree : Nat
  copyLeases : List Lease
  walks : List Walk
  /-- the first cycle of the fade in progress; the context whose command came last, while a fade is due or in progress: its
  core, bank, partition and region (R377) -/
  fade : Option Nat
  fadeDue : Option (Nat × Bool × Nat × Nat)
  /-- the router's copy of the time base (R294) -/
  clock : Clock
  skewed : Bool
  goodBeacons : Nat
  marks : BitVec 16
  offset : BitVec 16
  deriving DecidableEq, Repr

/-- A region's state (R268). -/
inductive RegionSt | waiting | loading | running | preempted | done | failed
  deriving DecidableEq, Repr

/-- A region of a partition's region table (R268 to R278). -/
structure Region where
  regid : Nat
  rcb : Nat
  st : RegionSt
  prog : Nat
  nest : Nat
  leasesAt : Nat
  nlease : Nat
  slotmask : Word
  /-- the acceptance numbers of its predecessors, resolved at its own acceptance (R272) -/
  preds : List Nat
  clusters : Nat
  pwrcap : Nat
  prio : Nat
  fdom : Bool
  cmask : BitVec 4
  rings : Nat
  bars : Nat
  order : Nat
  /-- once launched: its clusters and launch cores -/
  on : List Nat
  cores : List Nat
  ended : List Nat
  /-- the ERRCODE of a region that fails or is ended (R276); 0 otherwise -/
  err : Nat
  /-- the preloads still to walk: the next address, the end, CACHES, CORE (R304) -/
  preload : List (Nat × Nat × Nat × Nat)
  /-- the read-only data as the loader placed it: virtual address, frame, pages (R267) -/
  rodata : Option (Nat × Nat × Nat)
  /-- host translations that the loader's reads have obtained (R292, R303) -/
  hostPages : List Lease
  /-- the host pages whose walks have faulted, and their causes (R265, R303) -/
  hostFails : List (Nat × Cause)
  /-- its contexts wait in the resident banks for Sapwood after a forward (R313) -/
  held : Bool
  /-- its launch cores whose scratchpads are fenced (R284) -/
  fenced : List Nat
  ringBase : Nat
  ringN : Nat
  barBase : Nat
  barN : Nat
  /-- the work walker: the counts, the order, the next iteration (R277) -/
  walk : List Nat
  walkOrder : List Nat
  walkNext : Nat
  /-- pending `c.iter` answers are given in this order -/
  iterQ : List Nat
  deriving DecidableEq, Repr

/-- An operation at a home (R103): core, kind, slot. -/
structure HomeOp where
  core : Nat
  op : SyncOp
  slot : Nat
  deriving DecidableEq, Repr

/-- A ring (R104), and its home's queue. -/
structure Ring where
  base : BitVec 56
  slotsize : BitVec 20
  slots : BitVec 7
  claim : BitVec 16
  tail : BitVec 16
  take : BitVec 16
  head : BitVec 16
  pub : Word
  rel : Word
  /-- the pairs kept with the slots (R245): slot, core, interval; published and released -/
  pubPairs : List (Nat × Nat × Nat)
  relPairs : List (Nat × Nat × Nat)
  arrivals : List HomeOp
  aside : List HomeOp
  deriving DecidableEq, Repr

/-- A barrier (R107), and its home's queue. -/
structure Barrier where
  need : Nat
  count : Nat
  gen : BitVec 16
  arrivals : List HomeOp
  /-- cores that have arrived in this generation, with their race pairs -/
  waiting : List (Nat × Nat)
  deriving DecidableEq, Repr

/-- What the device holds of a pre-empted core beside its save area (R319): the context, for the values that R319 gives no
exact place, and the marks of the stores that R320 does not code: packed slots and sectors with wrong bits, of scratchpad,
accumulator store and weight buffer. -/
structure Saved where
  /-- the region, by its acceptance number, and the launch core -/
  region : Nat
  lcore : Nat
  ctx : Ctx
  packed : List Nat
  bad : Store Flaw
  badAcc : Store Flaw
  wbPacked : List Nat
  wbBad : Store Flaw
  deriving DecidableEq, Repr

/-- A partition (R344) and its register page (R370). -/
structure Part where
  clusters : List Nat
  slots : Word
  memBase : Nat
  memLen : Nat
  pcap : Nat
  ringAllot : Nat
  barAllot : Nat
  confidential : Bool
  key : BitVec 256
  sqerr : Bool
  head : BitVec 16
  tail : BitVec 16
  sqcfg : Word
  xlroot : Word
  xlcfg : Word
  /-- the HLEASE values of the last 2^20 ns, with the time each ended (R293) -/
  hleases : List (Nat × Nat)
  pctlBusy : Bool
  pctlRegid : BitVec 16
  /-- the operation in progress: code, region by acceptance number, and whether the wakes of a resume have joined their queues (R318) -/
  pctlOp : Option (Nat × Nat × Bool)
  psave : Word
  bshare : Word
  /-- the region that is being placed, by acceptance number, and whether its wakes have joined their queues (R382) -/
  placing : Option (Nat × Bool)
  /-- the two regions that share banks, by acceptance number, and the slice (R382) -/
  shared : Option (Nat × Nat)
  slice : Nat
  lrbase : Word
  racectl : BitVec 2
  pintstat : BitVec 5
  pintVec : BitVec 6
  pintEn : BitVec 5
  trcctl : Word
  tbuf : Word
  twptr : Nat
  trptr : Nat
  tlost : Nat
  lostPending : Nat
  budget : Int
  budgetAt : Nat
  regions : List Region
  accepted : Nat
  /-- the frames posted to Sapwood (R313), newest first: the region by acceptance number, and the core -/
  posted : List (Nat × Nat)
  rings : Store Ring
  bars : Store Barrier
  saved : List Saved
  /-- BP0 to BP3 by 4 × launch core + k (R334) -/
  bps : Store Word
  /-- the fault records that the administrator sees of the forwards, newest first: the core, and the bytes (R313, R321) -/
  faults : List (Nat × List Byte)
  /-- the records of a confidential partition's forwards for its tenant, encrypted, newest first (R321) -/
  tenantFaults : List (Nat × List Byte)
  /-- the addresses of the replay logs that Sapwood has given to launch cores (R338) -/
  replays : Store Nat
  /-- stops of DBGHALT that are due: the nanosecond of the time base, the region by acceptance number, and the launch core (R336) -/
  halts : List (Nat × Nat × Nat)
  deriving DecidableEq, Repr

/-- A flit (R352): its sequence number, the router or the device that it goes to, what it carries (the address of an access, up to 48
of its bytes, and the packed mark of R367), and its CRC-32C. -/
structure Flit where
  seq : BitVec 8
  dest : Nat
  pa : Nat
  data : List Byte
  packed : Bool
  crc : Nat
  deriving DecidableEq, Repr

/-- One end of a link (R352 to R354). -/
structure Link where
  up : Bool
  half : Bool
  lost : Bool
  replays : Nat
  lanebad : BitVec 32
  /-- the sequence number that the receiver expects, the sender's next one, and the sender's replay buffer, oldest first (R352) -/
  nextSeq : BitVec 8
  sendSeq : BitVec 8
  unacked : List Flit
  training : Bool
  /-- replays seen, with their times (R353) -/
  recent : List Nat
  deriving DecidableEq, Repr

/-- A detector word (R244). -/
structure Detector where
  writer : Nat
  intv : Nat
  scp : Scp
  ltag : BitVec 3
  deriving DecidableEq, Repr

/-- The mailbox operations (R343). -/
inductive MbOp | nonce | unlock | quote | extend | ident | psetup
  deriving DecidableEq, Repr

/-- The registers of the management complex (R341 to R346, R370, R371). -/
structure Mgmt where
  ms : List (BitVec 256)
  marker : Lane
  podid : BitVec 10
  debugOpen : Bool
  swok : Bool
  hwok : Bool
  /-- power is cut, or no core has left reset: only a cold reset acts (R342 step 1, R378) -/
  off : Bool
  /-- the management cores stay in reset (R342 step 4) -/
  swHeld : Bool
  /-- Sapwood has installed its resident handler image on every core (R264, R307) -/
  resident : Bool
  busy : Bool
  status : BitVec 7
  op : BitVec 8
  hwarg : Word
  running : Option (Party × MbOp)
  nonce : Option (BitVec 256)
  nonceAt : Nat
  memcfgCmin : BitVec 32
  memcfgSact : BitVec 8
  memcfgRetired : BitVec 16
  trip : Bool
  tripCode : BitVec 8
  tripSensor : BitVec 8
  mcbase : Word
  mcwptr : Nat
  mintstat : BitVec 4
  mintEn : BitVec 4
  /-- debug scopes opened by an unlock (R346) -/
  scopes : BitVec 2
  /-- the corrections of the beacon before the one in progress, in tenths of a nanosecond, the one in progress, and when it
  began; the count below which the time base does not fall; the last exchange, and the host link that carried it (R294, R372) -/
  adj : Int
  slew : Int
  slewAt : Nat
  hold : Nat
  ptmAt : Nat
  ptmLink : Nat
  /-- the handler images that Sapwood has installed after its resident one, in the order of installation: the words from 0x7000 up
  (R264) -/
  images : List (List Word)
  deriving DecidableEq, Repr

/-- A host translation request (R292): the cluster, the address of the 4 KiB page, and the PASID. -/
structure AtsReq where
  cl : Nat
  va : Nat
  pasid : Nat
  deriving DecidableEq, Repr

/-- An Invalidation Request that waits (R293): the tag, the later of t_i and t_last, L_H, the requests outstanding at t_i. -/
structure Inval where
  tag : Nat
  last : Nat
  len : Nat
  reqs : List AtsReq
  deriving DecidableEq, Repr

/-- The links, routing tables, host links and messages of the fabric (R350 to R354, R369 to R373). -/
structure Fabric where
  /-- link ends by 16 × router + port, and peer ports -/
  links : Store Link
  peers : Store Link
  /-- routing-table entries by 162 × router + destination that differ from the boot table (R350) -/
  routes : Store Byte
  peermap : Store (BitVec 24)
  hostUp : List Bool
  hostWidth : List Nat
  /-- the copies of the time base at the host links' routers (R294) -/
  hostClocks : List Clock
  /-- the apertures of BAR2 to partition memory (R369): BAR offset, bytes, partition, offset in the partition's memory -/
  apertures : List (Nat × Nat × Nat × Nat)
  /-- MSI-X messages sent, newest first: the host link and the vector; the vectors that the table does not mask, the pending
  bits, and the table's addresses and data (R371) -/
  msix : List (Nat × Nat)
  msixOn : List Nat
  msixPend : List Nat
  msixTab : Store (Word × Lane)
  /-- host translation requests outstanding (R292), and invalidations that wait (R293) -/
  ats : List AtsReq
  inval : List Inval
  invalDone : List (Nat × Nat)
  /-- stores sent to peer devices, each with its packed mark (R367), and data returned to the host, to Sapwood or to a peer, newest
  first -/
  peerOut : List (Nat × List Byte × Bool)
  hostOut : List (List Byte)
  deriving DecidableEq, Repr

/-- An entry of a slice's write queue not yet applied (R368): the device offset, the virtual address and the bytes of one 256-byte line that a copy
command of a core wrote, whether they are a packed block, whether the page has C = 1 and D = 1, the expiry of its lease (R243, R297), and
the head and the interval of the command's GO (R246, R333). -/
structure SliceEntry where
  pa : Nat
  va : Nat
  bytes : List Byte
  packed : Bool
  cpg : Bool
  d : Bool
  expiry : Option Nat
  core : Nat
  seq : Nat
  head : Nat
  intv : Nat
  deriving DecidableEq, Repr

/-- The memory slices (R234, R242, R244, R316, R355 to R368). -/
structure Slices where
  queues : Store (List SliceEntry)
  detect : Store Detector
  /-- the frames of the pages that walks have returned with D = 1: partition, page, size in bits, device offset (R244) -/
  checked : List (Nat × Nat × Nat × Nat)
  /-- slots whose marker word is stored inverted (R366) -/
  exceptions : List Nat
  /-- sectors with wrong bits (R360, R361); the corrected errors of a 2 MiB unit, 5,120 × slice + unit: the day, and the count;
  Heartwood's retirement list; the units that were on it at the last cold reset (R358) -/
  bad : Store Flaw
  corrected : Store (Nat × Nat)
  worn : List Nat
  retired : List Nat
  /-- the active slices, ascending (R356), and those that stopped answering (R358) -/
  active : List Nat
  dead : List Nat
  /-- the results of the last 64 tags of each requester core (R316) -/
  tags : Store (List (Nat × Word))
  /-- the installed capacity, and the bytes of the carve-outs above it (R287, R357) -/
  capacity : Nat
  carve : Nat
  deriving DecidableEq, Repr

/-- Which agent moves next. -/
inductive Act
  /-- a stream of a core tries to issue its head -/
  | stream (core : Nat) (st : Strm)
  /-- a step of the device -/
  | event (i : Instr)
  /-- the streams of a core try in this cycle, but a due fault is taken first (R73, R305) -/
  | turns (core : Nat)
  /-- the effects of this cycle that the issues of this cycle made possible -/
  | settle (cl : Nat)
  /-- the end of a cluster's cycle -/
  | tick (cl : Nat)
  deriving DecidableEq, Repr

/-- The core and stream whose head an instruction word is. -/
structure Cur where
  core : Nat
  st : Strm
  deriving DecidableEq, Repr

/-- The state of the device. -/
structure State where
  /-- which core and stream executes the next instruction word -/
  cur : Cur
  /-- which agents move next, first the next one; the schedule refills it when it is empty -/
  agenda : List Act
  /-- the number of free values drawn so far -/
  fresh : Nat
  /-- the time base, in tenths of a nanosecond (R294) -/
  now : Nat
  cores : Store Core
  clusters : Store Cluster
  parts : Store Part
  mem : Memory
  slices : Slices
  mgmt : Mgmt
  fabric : Fabric
  deriving DecidableEq, Repr

/-- A loop counter before its first use (R137, R275). -/
def Loop.init : Loop := { count := 0, last := 0, iter := 0, active := false, back := 0, order := 0, unknown := false }

/-- A stream before its launch. -/
def Stream.init : Stream :=
  { fetch := 0, queue := [], last := 0, moved := false, counted := false, loops := [Loop.init, Loop.init, Loop.init, Loop.init], stand := none, wait := none,
    ended := false, cls := .empty, prev := .empty, seen := 0, seenIters := [0, 0, 0, 0], anew := false, owed := 0, posted := [], pages := [],
    lanes := none, due := none, undo := none, skipBp := false, notBefore := 0, kept := none }

/-- The registers at reset: the spec gives no value, and the model takes zero, but Z0, which reads as all ones (R21). -/
def Regs.init : Regs :=
  { s := Vector.replicate 32 0, h := Vector.replicate 8 0, pl := Vector.replicate 16 0, ps := Vector.replicate 16 0,
    k := Vector.replicate 16 0, z := Vector.replicate 8 0, grid := [] }

/-- The system registers at reset (R14, R174, R205, R379). -/
def Sys.init : Sys :=
  { window := 256, window0 := 256, srseed := 0, srseq := 0, ftbase := 0, syncwin := 0, slotshare := 0, pwrset := 0,
    pwrNew := none, energySat := false, energy := 0, charge := 0 }

/-- The fault frame at reset (R308). -/
def Frame.init : Frame :=
  { fstat := 0, heads := [0, 0, 0, 0], fva := 0, finfo := 0, frec := 0, ftime := 0, site := none, f := 0,
    cstream := Stream.init, pending := none, halted := 0, lag := 0, handler := false, left := none }

/-- The counters, zeroed (R325). -/
def Counters.init : Counters :=
  { cyc := 0, hcyc := 0, issued := [0, 0, 0, 0], head := List.replicate 16 0, flagw := List.replicate 52 0, samples := 0,
    latched := [], running := false }

/-- The engines' registers at launch (R96, R169, R173). -/
def Engines.init : Engines :=
  { cmdw := List.replicate 12 0, tiles := List.replicate 64 0, fmts := List.replicate 32 0, records := [[], [], []],
    openBatch := [0, 0, 0], seqs := [0, 0, 0], live := [], checker := [] }

/-- No launch. -/
def Launch.init : Launch :=
  { part := 0, region := 0, regid := 0, lcore := 0, zero := 0, delta := 0, sampled := 0, cplOut := [], cplIn := [],
    bps := [0, 0, 0, 0], replay := none, banks := [], trc := 0, raceMode := 0 }

/-- A context at reset. -/
def Ctx.init : Ctx :=
  { mode := .off, text := [], regs := Regs.init, c := Stream.init, l := Stream.init, v := Stream.init, s := Stream.init,
    tok := List.replicate 8 0, tok0 := List.replicate 8 0, lq := List.replicate 8 [], sq := List.replicate 8 [], bq := [],
    send := [], sys := Sys.init, frame := Frame.init, pend := [], fills := [], eng := Engines.init, fifo := [], fails := [],
    counters := Counters.init, launch := Launch.init, nextId := 0, atomSeq := 0, mark := none,
    ending := none }

/-- A domain at reset: off (R38). -/
def Dom.init : Dom :=
  { st := .off, queued := false, ready := 0, cold := false, sleepPend := none, sleptAt := none, offAt := none, owner := false }

/-- A core at reset. -/
def Core.init : Core :=
  { ctx := Ctx.init, alt := Ctx.init, bank := false, image := [], spad := [], acc := [], doms := [], wakeQ := [], packed := [],
    badSpad := [], badAcc := [], dirtySpad := [], dirtyAcc := [], flags := [], leases := [], direct := [], launches := 0, race := { intv := 0, v := [] },
    ceFree := 0, xeFree := 0, exchange := none, exchangeDue := false, since := 0, paired := 0 }

/-- A copy of the time base at reset: aligned (R294). -/
def Clock.init : Clock := { hold := 0, off := 0, beacon := 0 }

/-- A cluster at reset: the high rail, the lease free with `last` 3 (R195, R374). -/
def Cluster.init : Cluster :=
  { cyc := 0, edge := 0, low := false, switching := none, watts := 0, window := 0, wb := [], wbPacked := [], wbBad := [], wbDirty := [],
    doms := [], wakeQ := [], ceRefs := [], ceBy := 0, holder := none, left := 0, granted := 0, leaseLast := 3, freeFrom := 0,
    arrayQ := [], arrayFree := 0, copyLeases := [], walks := [], fade := none, fadeDue := none, clock := Clock.init, skewed := false,
    goodBeacons := 0, marks := 0, offset := 0 }

/-- A partition before PSETUP (R370: SQCFG.LOG2N 4, XLCFG.KEYS 0x0001, PINTCFG.VEC 1). -/
def Part.init : Part :=
  { clusters := [], slots := 0, memBase := 0, memLen := 0, pcap := 0, ringAllot := 0, barAllot := 0, confidential := false,
    key := 0, sqerr := false, head := 0, tail := 0, sqcfg := 4, xlroot := 0, xlcfg := 0x10000, hleases := [], pctlBusy := false,
    pctlRegid := 0, pctlOp := none, psave := 0, bshare := 0, placing := none, shared := none, slice := 0, lrbase := 0,
    racectl := 0, pintstat := 0, pintVec := 1, pintEn := 0, trcctl := 0, tbuf := 0, twptr := 0, trptr := 0, tlost := 0,
    lostPending := 0, budget := 0, budgetAt := 0, regions := [], accepted := 0, posted := [], rings := [], bars := [], saved := [],
    bps := [], faults := [], tenantFaults := [], replays := [], halts := [] }

/-- A link end at reset (R354). -/
def Link.init : Link :=
  { up := true, half := false, lost := false, replays := 0, lanebad := 0, nextSeq := 0, sendSeq := 0, unacked := [],
    training := false, recent := [] }

/-- A detector word that no checked write has set (R244). -/
def Detector.init : Detector := { writer := 0x3FF, intv := 0, scp := .core, ltag := 0 }

/-- A ring that no loader has configured (R104). -/
def Ring.init : Ring :=
  { base := 0, slotsize := 0, slots := 0, claim := 0, tail := 0, take := 0, head := 0, pub := 0, rel := 0, pubPairs := [],
    relPairs := [], arrivals := [], aside := [] }

/-- A barrier that no loader has configured (R107). -/
def Barrier.init : Barrier := { need := 0, count := 0, gen := 0, arrivals := [], waiting := [] }

/-- The management complex at reset (R341 to R343, R355, R378). MEMCFG's boot value is all 96 slices active, none
retired. -/
def Mgmt.init : Mgmt :=
  { ms := List.replicate 8 0, marker := 0, podid := 0, debugOpen := false, swok := false, hwok := false, off := false,
    swHeld := false, resident := false, busy := false,
    status := 0, op := 0, hwarg := 0, running := none, nonce := none, nonceAt := 0, memcfgCmin := 41943040,
    memcfgSact := 96, memcfgRetired := 0, trip := false, tripCode := 0, tripSensor := 0, mcbase := 0, mcwptr := 0,
    mintstat := 0, mintEn := 0, scopes := 0, adj := 0, slew := 0, slewAt := 0, hold := 0,
    ptmAt := 0, ptmLink := 0, images := [] }

/-- The fabric at reset. -/
def Fabric.init : Fabric :=
  { links := [], peers := [], routes := [], peermap := [], hostUp := [true, true], hostWidth := [16, 16], hostClocks := [Clock.init, Clock.init], apertures := [],
    msix := [], msixOn := [], msixPend := [], msixTab := [], ats := [], inval := [], invalDone := [], peerOut := [], hostOut := [] }

/-- The slices at reset: 960 GiB installed (R1, R355). -/
def Slices.init : Slices :=
  { queues := [], detect := [], checked := [], exceptions := [], bad := [], corrected := [], worn := [], retired := [], active := (List.range 96), dead := [],
    tags := [], capacity := 960 * 2 ^ 30, carve := 0 }

/-- The device right after reset: every core off, every domain off, memory with nothing listed, the time base 0. -/
def State.reset : State :=
  { cur := { core := 0, st := .c }, agenda := [], fresh := 0, now := 0, cores := [], clusters := [], parts := [], mem := [],
    slices := Slices.init, mgmt := Mgmt.init, fabric := Fabric.init }

end Sys2Proof.Machine
end

