-- ==== Sys2Proof/Machine/Memory.lean ====
section
/-! DEFINITION. Tables by number and byte memories in canonical form: addresses strictly rising, no entry equal to what
an unlisted address reads as. Wider accesses are built from bytes here, lowest address first (R5). -/

namespace Sys2Proof.Machine

/-- The entry of a table, if it has one. -/
def Store.find {α : Type} : Store α → Nat → Option α
  | [], _ => none
  | (k', v) :: t, k => if k' = k then some v else Store.find t k

/-- The entry of a table, or the default. -/
def Store.get {α : Type} (m : Store α) (k : Nat) (d : α) : α := (m.find k).getD d

/-- Sets an entry, keeping the keys rising. -/
def Store.put {α : Type} : Store α → Nat → α → Store α
  | [], k, v => [(k, v)]
  | (k', v') :: t, k, v =>
    if k < k' then (k, v) :: (k', v') :: t
    else if k' = k then (k, v) :: t
    else (k', v') :: Store.put t k v

/-- Removes an entry. -/
def Store.del {α : Type} : Store α → Nat → Store α
  | [], _ => []
  | (k', v') :: t, k => if k' = k then Store.del t k else (k', v') :: Store.del t k

/-- Changes an entry. -/
def Store.modify {α : Type} (m : Store α) (k : Nat) (d : α) (f : α → α) : Store α := m.put k (f (m.get k d))

/-- What an unlisted address reads as: after power-on the spec gives device memory, scratchpads, accumulator stores and
the weight buffers no value, and a cold wake zero-fills (R38); the model reads zero (DESIGN CHOICE, log 3). -/
def Memory.unlisted : Byte := 0

/-- One byte of a memory. -/
def Memory.read (m : Memory) (a : Nat) : Byte := Store.get m a Memory.unlisted

/-- Writes one byte; a byte equal to the unlisted value is not listed. -/
def Memory.write (m : Memory) (a : Nat) (v : Byte) : Memory :=
  if v = Memory.unlisted then Store.del m a else Store.put m a v

/-- Reads `n` bytes from an address upwards. -/
def Memory.readN (m : Memory) (a : Nat) : Nat → List Byte
  | 0 => []
  | n + 1 => m.read a :: Memory.readN m (a + 1) n

/-- Writes bytes from an address upwards. -/
def Memory.writeN (m : Memory) (a : Nat) : List Byte → Memory
  | [] => m
  | v :: vs => Memory.writeN (m.write a v) (a + 1) vs

/-- Drops the listed bytes in [lo, hi): they read as unlisted (a cold wake, R38). -/
def Memory.clear (m : Memory) (lo hi : Nat) : Memory := m.filter (fun c => !(lo ≤ c.1 && c.1 < hi))

/-- Addresses strictly rising. -/
def Memory.rising : Memory → Bool
  | [] => true
  | [_] => true
  | (a, _) :: (b, v) :: t => a < b && Memory.rising ((b, v) :: t)

/-- The canonical form: addresses strictly rising, no entry equal to the unlisted value. -/
def Memory.wf (m : Memory) : Bool := m.rising && m.all (fun c => c.2 != Memory.unlisted)

/-- The number that bytes hold, lowest address first (R5). -/
def leNat : List Byte → Nat
  | [] => 0
  | b :: bs => b.toNat + 256 * leNat bs

/-- The low `n` bytes of a number, lowest first (R5). -/
def leBytes : Nat → Nat → List Byte
  | 0, _ => []
  | n + 1, v => BitVec.ofNat 8 v :: leBytes n (v / 256)

/-- A 64-bit value in memory. -/
def Memory.word (m : Memory) (a : Nat) : Word := BitVec.ofNat 64 (leNat (m.readN a 8))

/-- A 32-bit value in memory. -/
def Memory.lane (m : Memory) (a : Nat) : Lane := BitVec.ofNat 32 (leNat (m.readN a 4))

/-- The 64 lanes of 256 bytes (R25). -/
def lanesOfBytes : Nat → List Byte → List Lane
  | 0, _ => []
  | n + 1, bs => BitVec.ofNat 32 (leNat (bs.take 4)) :: lanesOfBytes n (bs.drop 4)

/-- The bytes of lanes, in order (R25). -/
def bytesOfLanes (vs : List Lane) : List Byte := vs.flatMap (fun v => leBytes 4 v.toNat)

/-- The numbers lo, lo + 1, …, lo + n - 1. -/
def upto (lo : Nat) : Nat → List Nat
  | 0 => []
  | n + 1 => lo :: upto (lo + 1) n

/-- A set as a list without repeats: adds one. -/
def addOnce {α : Type} [BEq α] (l : List α) (n : α) : List α := if l.contains n then l else n :: l

end Sys2Proof.Machine
end

