-- ==== Sys2Proof/Machine/Ops.lean ====
section
/-! DEFINITION. The shared operations: reading and changing the parts of the state, the time, the registers of a
context, the issue rule (R16 to R18, R78), taking a fault (R305 to R309) and the return from one (R310). -/

namespace Sys2Proof.Machine

/-! ## Parts of the state -/

/-- A core. -/
def State.core (s : State) (n : Nat) : Core := s.cores.get n Core.init

/-- Sets a core. -/
def State.setCore (s : State) (n : Nat) (c : Core) : State := { s with cores := s.cores.put n c }

/-- Changes a core. -/
def State.modCore (s : State) (n : Nat) (f : Core → Core) : State := s.setCore n (f (s.core n))

/-- The active context of a core. -/
def State.ctx (s : State) (n : Nat) : Ctx := (s.core n).ctx

/-- Changes the active context of a core. -/
def State.modCtx (s : State) (n : Nat) (f : Ctx → Ctx) : State := s.modCore n (fun c => { c with ctx := f c.ctx })

/-- The context of a bank. -/
def Core.bankCtx (c : Core) (bank : Bool) : Ctx := if c.bank = bank then c.ctx else c.alt

/-- The core with its banks changed in place: a step of the device that works for the resident bank's context sees it as
the active one (R306, R383). -/
def State.flip (s : State) (n : Nat) : State := s.modCore n (fun c => { c with ctx := c.alt, alt := c.ctx, bank := !c.bank })

/-- The cluster of a core (R113). -/
def clusterOf (core : Nat) : Nat := core / 4

/-- The cores of a cluster, ascending. -/
def coresOf (cl : Nat) : List Nat := [4 * cl, 4 * cl + 1, 4 * cl + 2, 4 * cl + 3]

/-- A cluster. -/
def State.cluster (s : State) (n : Nat) : Cluster := s.clusters.get n Cluster.init

/-- Sets a cluster. -/
def State.setCluster (s : State) (n : Nat) (c : Cluster) : State := { s with clusters := s.clusters.put n c }

/-- Changes a cluster. -/
def State.modCluster (s : State) (n : Nat) (f : Cluster → Cluster) : State := s.setCluster n (f (s.cluster n))

/-- A partition. -/
def State.part (s : State) (n : Nat) : Part := s.parts.get n Part.init

/-- Sets a partition. -/
def State.setPart (s : State) (n : Nat) (p : Part) : State := { s with parts := s.parts.put n p }

/-- Changes a partition. -/
def State.modPart (s : State) (n : Nat) (f : Part → Part) : State := s.setPart n (f (s.part n))

/-- Whether a region has launched and has not ended: it loads, runs or is pre-empted. -/
def Region.active (r : Region) : Bool := r.st == .loading || r.st == .running || r.st == .preempted

/-- The launched region of an acceptance number. -/
def Part.region (p : Part) (order : Nat) : Option Region := p.regions.find? (fun r => r.order == order && r.active)

/-- Changes the launched region of an acceptance number. -/
def State.modRegion (s : State) (p order : Nat) (f : Region → Region) : State :=
  s.modPart p (fun q => { q with regions := q.regions.map (fun r => if r.order == order && r.active then f r else r) })

/-- Whether a context belongs to a launch of a region, by its acceptance number, and has not ended. -/
def Ctx.belongs (x : Ctx) (part order : Nat) : Bool :=
  x.mode != .off && x.launch.part == part && x.launch.region == order

/-- Changes the region of an acceptance number. -/
def State.modEntry (s : State) (p order : Nat) (f : Region → Region) : State :=
  s.modPart p (fun q => { q with regions := q.regions.map (fun r => if r.order == order then f r else r) })

/-- The cycle count of a core's cluster. -/
def State.cyc (s : State) (core : Nat) : Nat := (s.cluster (clusterOf core)).cyc

/-- The correction of the beacon at a time: it slews, at most 100 ns per millisecond (R294). -/
def Mgmt.slewed (m : Mgmt) (now : Nat) : Int :=
  let p : Int := ((now - m.slewAt) / 10000 : Nat)
  m.adj + max (-p) (min p m.slew)

/-- The time base in nanoseconds (R294). -/
def State.time (s : State) : Nat := max s.mgmt.hold (((s.now : Int) + s.mgmt.slewed s.now).toNat / 10)

/-- What a router's copy of the time base reads (R294): it never moves backward. -/
def Clock.read (c : Clock) (time : Nat) : Nat := max c.hold ((time : Int) + c.off).toNat

/-- The time base as a cluster's router copy holds it (R294). -/
def State.timeAt (s : State) (cl : Nat) : Nat := (s.cluster cl).clock.read s.time

/-- The time base as the router of a host link holds it (R294, R348). -/
def State.hostTime (s : State) (link : Nat) : Nat := (s.fabric.hostClocks.getD link Clock.init).read s.time

/-- The core that executes. -/
def State.me (s : State) : Nat := s.cur.core

/-! ## Registers of a context -/

/-- One stream of a context. -/
def Ctx.strm (x : Ctx) : Strm → Stream
  | .c => x.c
  | .l => x.l
  | .v => x.v
  | .s => x.s

/-- Sets one stream. -/
def Ctx.setStrm (x : Ctx) (st : Strm) (v : Stream) : Ctx :=
  match st with
  | .c => { x with c := v }
  | .l => { x with l := v }
  | .v => { x with v := v }
  | .s => { x with s := v }

/-- Changes one stream. -/
def Ctx.modStrm (x : Ctx) (st : Strm) (f : Stream → Stream) : Ctx := x.setStrm st (f (x.strm st))

/-- The register that a field of a C instruction names: in handler mode S24 to S31 are H0 to H7 (R114). -/
def Ctx.regOf (x : Ctx) (i : BitVec 5) : Reg :=
  if x.frame.handler ∧ 24 ≤ i.toNat then .h (BitVec.ofNat 3 (i.toNat - 24)) else .s i

/-- Reads a scalar register: S0 reads as zero (R21). -/
def Regs.get (r : Regs) : Reg → Word
  | .s i => if i = 0 then 0 else r.s[i.toFin]
  | .h i => r.h[i.toFin]

/-- Writes a scalar register: S0 ignores writes (R21). -/
def Regs.set (r : Regs) (d : Reg) (v : Word) : Regs :=
  match d with
  | .s i => if i = 0 then r else { r with s := r.s.set i.toFin v }
  | .h i => { r with h := r.h.set i.toFin v }

/-- Reads the register that a field names. -/
def Ctx.reg (x : Ctx) (i : BitVec 5) : Word := x.regs.get (x.regOf i)

/-- Writes a resolved register. -/
def Ctx.putReg (x : Ctx) (d : Reg) (v : Word) : Ctx := { x with regs := x.regs.set d v }

/-- Writes the register that a field names. -/
def Ctx.setReg (x : Ctx) (i : BitVec 5) (v : Word) : Ctx := x.putReg (x.regOf i) v

/-- Reads a lane predicate: Z0 reads as all ones (R21). -/
def Regs.zget (r : Regs) (i : BitVec 3) : Word := if i = 0 then BitVec.allOnes 64 else r.z[i.toFin]

/-- Writes the masked bits of a lane predicate: Z0 ignores writes (R21). -/
def Regs.zset (r : Regs) (i : BitVec 3) (mask v : Word) : Regs :=
  if i = 0 then r else { r with z := r.z.set i.toFin ((r.z[i.toFin] &&& ~~~mask) ||| (v &&& mask)) }

/-- Reads a pointer register of L or of S (R21). -/
def Regs.pget (r : Regs) (inS : Bool) (p : BitVec 4) : Word := if inS then r.ps[p.toFin] else r.pl[p.toFin]

/-- Writes a pointer register of L or of S. -/
def Regs.pset (r : Regs) (inS : Bool) (p : BitVec 4) (v : Word) : Regs :=
  if inS then { r with ps := r.ps.set p.toFin v } else { r with pl := r.pl.set p.toFin v }

/-- The text address of a stream's head: its queue's first entry, or where it fetches next. -/
def Stream.head (t : Stream) : Nat :=
  match t.queue with
  | e :: _ => e.addr
  | [] => t.fetch

/-- The ITER values that an entry records (R226). -/
def QEntry.iters (e : QEntry) : List Nat := e.pre.map (·.iter)

/-- The loop counters at the head: as they stood when its word was enqueued (R226), or the fetch's own. A stop returns to them
(R305, R323). -/
def Stream.headLoops (t : Stream) : List Loop :=
  match t.queue with
  | e :: _ => e.pre
  | [] => t.loops

/-- The ITER values that the head recorded (R226), or the counters' own. -/
def Stream.headIters (t : Stream) : List Nat := t.headLoops.map (·.iter)

/-! ## Tokens (R15, R16, R41) -/

/-- The counters that WP, WN, PP and PN act on in each stream (R41). -/
def tokenFlags : Strm → Nat × Nat × Nat × Nat
  | .c => (3, 4, 7, 0)
  | .l => (0, 5, 4, 1)
  | .v => (1, 6, 5, 2)
  | .s => (2, 7, 6, 3)

/-- The counters that an instruction pops. -/
def pops (st : Strm) (h : Hdr) : List Nat :=
  (if h.wp then [(tokenFlags st).1] else []) ++ (if h.wn then [(tokenFlags st).2.1] else [])

/-- The counters that an instruction pushes. -/
def pushes (st : Strm) (h : Hdr) : List Nat :=
  (if h.pp then [(tokenFlags st).2.2.1] else []) ++ (if h.pn then [(tokenFlags st).2.2.2] else [])

/-- The lowest of some numbers. -/
def least : List Nat → Option Nat
  | [] => none
  | n :: t =>
    match least t with
    | none => some n
    | some m => some (min n m)

/-- Why the token bits hold the head: a pop needs a token at the start of the cycle, a push needs a count below 63 then
(R16, R324). -/
def tokenHold (x : Ctx) (st : Strm) (h : Hdr) : Option HeadClass :=
  match least ((pops st h).filter (fun n => x.tok0.getD n 0 = 0 || x.tok.getD n 0 = 0)) with
  | some n => some (.flag n)
  | none => if (pushes st h).any (fun n => 63 ≤ x.tok0.getD n 0) then some .busy else none

/-- Pops and pushes the tokens of an instruction (R16). -/
def tokenMove (tok : List Nat) (st : Strm) (h : Hdr) : List Nat :=
  (pushes st h).foldl (fun t n => t.set n (t.getD n 0 + 1))
    ((pops st h).foldl (fun t n => t.set n (t.getD n 0 - 1)) tok)

/-! ## Status bits and messages (R371) -/

/-- The host link that carries messages and time exchanges: link 0, or link 1 while link 0 is down (R371, R372). -/
def State.hostLink (s : State) : Option Nat :=
  if s.fabric.hostUp.getD 0 false then some 0 else if s.fabric.hostUp.getD 1 false then some 1 else none

/-- Sends an MSI-X message on the host link; a masked vector, and one with no link, is pending (R371; PRESUMED, log 76: the MSI-X
table of PCI Express). -/
def State.message (s : State) (vec : Nat) : State :=
  match s.hostLink with
  | some l =>
    if s.fabric.msixOn.contains vec then { s with fabric := { s.fabric with msix := (l, vec) :: s.fabric.msix } }
    else { s with fabric := { s.fabric with msixPend := addOnce s.fabric.msixPend vec } }
  | none => { s with fabric := { s.fabric with msixPend := addOnce s.fabric.msixPend vec } }

/-- Sends the pending messages that nothing holds back any more. -/
def State.sendPending (s : State) : State :=
  s.fabric.msixPend.foldl (fun t v => ({ t with fabric := { t.fabric with msixPend := t.fabric.msixPend.erase v } }).message v) s

/-- Sets a bit of MINTSTAT; a message goes out when the bit becomes 1 and is enabled. -/
def State.raiseMgmt (s : State) (i : Nat) : State :=
  if bitAt s.mgmt.mintstat i then s
  else
    let t := { s with mgmt := { s.mgmt with mintstat := s.mgmt.mintstat ||| BitVec.ofNat 4 (2 ^ i) } }
    if bitAt s.mgmt.mintEn i then t.message 0 else t

/-- Sets a bit of a partition's PINTSTAT. -/
def State.raisePart (s : State) (p i : Nat) : State :=
  let q := s.part p
  if bitAt q.pintstat i then s
  else
    let t := s.setPart p { q with pintstat := q.pintstat ||| BitVec.ofNat 5 (2 ^ i) }
    if bitAt q.pintEn i then t.message q.pintVec.toNat else t

/-- The physical address in a machine-check record: of a place in device memory; a link has none, and an SRAM's is the offset in it (DESIGN
CHOICE, log 75). -/
def State.checkPa (s : State) (unit kind pa : Nat) : Nat :=
  if unit == 1 || unit == 2 || unit == 3 || kind == 3 || kind == 4 then pa else s.mgmt.podid.toNat * 2 ^ 42 + pa

/-- A machine-check record (R362). Its address is zero for a confidential partition: Sapwood reads the ring. -/
def State.checkRecord (s : State) (unit kind num part pa syn : Nat) : List Byte :=
  leBytes 8 s.time ++ leBytes 1 unit ++ leBytes 1 kind ++ leBytes 2 num ++ leBytes 4 part ++
    leBytes 8 (if part < 64 ∧ (s.part part).confidential = true then 0 else s.checkPa unit kind pa) ++ leBytes 8 syn

/-- Writes a machine-check record (R362): 32 bytes at MCBASE + (MCWPTR mod 65,536), a whole sector with its new check (R360), once
Heartwood has its carve-outs (R339). -/
def State.machineCheck (s : State) (unit kind num part pa syn : Nat) : State :=
  if s.slices.carve = 0 then s
  else
    let a := bits s.mgmt.mcbase 0 42 + s.mgmt.mcwptr % 65536
    ({ s with
      mem := s.mem.writeN a (s.checkRecord unit kind num part pa syn)
      slices := { s.slices with bad := s.slices.bad.del (a / 32) }
      mgmt := { s.mgmt with mcwptr := s.mgmt.mcwptr + 32 } }).raiseMgmt 1

/-- Writes the machine-check record of a site. -/
def State.checkAt (s : State) (t : Site) (part : Nat) : State := s.machineCheck t.unit t.kind t.num part t.pa 0

/-- The machine-check record that goes with an INTEGRITY that a core has taken in this cycle (R307, R362). One that an engine has found
was recorded where it was found. -/
def State.integrityRecord (s : State) (n : Nat) : State :=
  let x := s.ctx n
  match if x.frame.handler && x.frame.f == s.cyc n && bits x.frame.fstat 0 7 == 0x0C then x.frame.site else none with
  | some t => s.checkAt t x.launch.part
  | none => s

/-! ## Taking a fault -/

/-- The cause codes of R307. -/
def Cause.code : Cause → Nat
  | .illegal => 0x01
  | .sleeping => 0x02
  | .accbusy => 0x03
  | .tilebusy => 0x04
  | .domain => 0x05
  | .desync => 0x06
  | .nolease => 0x07
  | .badcmd => 0x08
  | .xlate => 0x09
  | .perm => 0x0A
  | .skew => 0x0B
  | .integrity => 0x0C
  | .race => 0x0D
  | .winlost => 0x0E
  | .align => 0x0F
  | .migrating => 0x10
  | .swtrap => 0x11
  | .brk => 0x12
  | .synclimit => 0x13
  | .ringerr => 0x14
  | .remote => 0x15

/-- STREAM of FSTAT (R308). -/
def strmCode : Strm → Nat
  | .c => 0
  | .l => 1
  | .v => 2
  | .s => 3

/-- FSTAT of a fault (R308). -/
def Trap.fstat (t : Trap) (st : Strm) : Word :=
  BitVec.ofNat 64 (t.code.toNat * 2 ^ 48 + (strmCode st) * 2 ^ 8 + t.cause.code)

/-- FINFO of a fault (R308). -/
def Trap.finfo (t : Trap) : Word :=
  BitVec.ofNat 64 (t.core % 1024 * 2 ^ 32 + t.dstate % 8 * 2 ^ 21 + t.didx % 32 * 2 ^ 16 + t.dtype % 16 * 2 ^ 8 +
    (match t.lane with
     | some j => 2 ^ 7 + j.toNat
     | none => 0))

/-- Whether a waiting instruction's request has been accepted by a unit whose answer depends on no stopped agent, so
that a stop waits for its release (R79). -/
def Wait.accepted : Wait → Bool
  | .reply _ _ _ _ => true
  | .fence _ _ _ _ => true
  | .sync op _ _ _ _ _ _ _ _ _ => op == .pub || op == .rel
  | .iter _ => true
  | .gridLoad _ _ => true
  | .lanes _ => true
  | _ => false

/-- Whether a stop of the context must wait (R79). -/
def Ctx.stopWaits (x : Ctx) : Bool :=
  [Strm.c, .l, .v, .s].any (fun st =>
    match (x.strm st).wait with
    | some w => w.accepted
    | none => false)

/-- The barrier arrival that a stop keeps, once the home has counted it (R80): the partition's barrier and the generation. -/
def Stream.keptArrival (t : Stream) : Option (Nat × Nat) :=
  match t.wait with
  | some (.sync .bar n _ _ _ true _ _ _ gen) => if gen < 65536 then some (n, gen) else none
  | _ => t.kept

/-- A stop takes a stream at its head: a waiting instruction whose request was not accepted is withdrawn and will be
executed anew (R79, R80), and a fault that was not taken is forgotten (R73). A vector access resumes at the lane recorded; the
addresses of the lanes not yet posted are formed anew from the row and P as they stand then (DESIGN CHOICE, log 22). -/
def Stream.cut (t : Stream) : Stream :=
  match t.wait with
  | some _ => { t with wait := none, anew := true, kept := t.keptArrival, lanes := none, due := none }
  | none => { t with lanes := none, due := none }

/-- A fault due in a cycle withdraws a waiting instruction whose request was not accepted; an accepted one waits on (R305). -/
def Stream.freeze (t : Stream) : Stream := if t.wait.any Wait.accepted then t else t.cut

/-- The walk that the head waits for has returned (R298): the head goes on, without IDLE, tokens and energy. -/
def Stream.walked (t : Stream) : Stream := { t with wait := none, anew := true }

/-- The request of the head has failed: it will be executed anew, and the fault is taken in the head's turn (R73, R79). -/
def Stream.failed (t : Stream) (f : Trap) : Stream := { t.cut with due := some f }

/-- The stream after an instruction has issued in cycle `cyc` with occupancy `occ`: the head is gone. -/
def Stream.retire (t : Stream) (cyc occ : Nat) : Stream :=
  { t with
    queue := t.queue.tail, last := cyc + occ - 1, cls := .issue, moved := true, counted := false, anew := false, owed := 0, posted := [],
    pages := [], lanes := none, due := none, undo := none, skipBp := false, kept := none }

/-- A ring operation that its home has applied by the stop cycle is past (R80 withdraws those not yet applied): C is
released with its answer (DEDUCED, log 12). -/
def Ctx.finishSync (x : Ctx) (f : Nat) : Ctx :=
  match x.c.wait with
  | some (.sync op _ _ _ _ _ _ (some v) d _) =>
    if op == .bar then x
    else
      let y := match d with
        | some r => x.putReg r v
        | none => x
      { y with c := { y.c.retire f 1 with wait := none } }
  | _ => x

/-- Whether a class is FLAG or BUSY. -/
def HeadClass.waits : HeadClass → Bool
  | .flag _ => true
  | .busy => true
  | _ => false

/-- The class that a stop leaves a head with for the replay records (R337): FLAG or BUSY of this cycle, or that of the cycle
before, which the head has not left. -/
def Stream.lastClass (t : Stream) : HeadClass := if t.cls.waits then t.cls else t.prev

/-- Captures the results that are due after cycle f (R306, R311). -/
def capture (ps : List Pend) (f : Nat) : List Pend :=
  ps.map (fun p => if f < p.due then { p with captured := true } else p)

/-- The context at its stop cut of cycle f (R305, R306): waits withdrawn, results due after f captured, the heads and the
time recorded; in handler mode the frame stays the fault's (R309). -/
def Ctx.cut (x : Ctx) (f time : Nat) : Ctx :=
  let y := x.finishSync f
  if y.frame.handler then
    { y with c := y.c.cut, pend := capture y.pend f, frame := { y.frame with halted := f } }
  else
    { y with
      c := y.c.cut, l := { y.l.cut with undo := none }, v := y.v.cut, s := y.s.cut, pend := capture y.pend f
      frame := { y.frame with
        f := f, cstream := { y.c.cut with prev := y.c.lastClass }, ftime := BitVec.ofNat 64 time
        heads := [BitVec.ofNat 15 y.c.head, BitVec.ofNat 15 y.l.head, BitVec.ofNat 15 y.v.head, BitVec.ofNat 15 y.s.head] } }

/-- Withdraws a core's operations from the homes of its partition, but for counted barrier arrivals (R80). -/
def State.withdraw (s : State) (n : Nat) : State :=
  s.modPart (s.ctx n).launch.part (fun p =>
    { p with
      rings := p.rings.map (fun r => (r.1, { r.2 with
        arrivals := r.2.arrivals.filter (fun o => o.core != n), aside := r.2.aside.filter (fun o => o.core != n) }))
      bars := p.bars.map (fun b => (b.1, { b.2 with arrivals := b.2.arrivals.filter (fun o => o.core != n) })) })

/-- What happens in the cycle in which a stop is due but waits for accepted requests (R305): C has the answer of a ring
operation that its home has applied, and every other waiting instruction is withdrawn. -/
def Ctx.freeze (x : Ctx) (d : Nat) : Ctx :=
  let y := if x.c.wait.any Wait.accepted then x else x.finishSync d
  { y with c := y.c.freeze, l := y.l.freeze, v := y.v.freeze, s := y.s.freeze }

/-- A stop of a core is due, for a fault or for Sapwood (`none`), and waits (R79, R305): operations of C that its release has
not carried to their home's answer leave the homes (R80), unless C's request is an accepted one. -/
def State.stopWait (s : State) (n : Nat) (why : Option (Trap × Strm)) : State :=
  (if (s.ctx n).c.wait.any Wait.accepted then s else s.withdraw n).modCtx n (fun x => { x.freeze (s.cyc n) with mode := .stopping why })

/-- The stop of a core in cycle f = now: the stop cut, without a frame. -/
def State.stopCut (s : State) (n : Nat) : State :=
  (s.withdraw n).modCtx n (fun x => x.cut (s.cyc n) (s.timeAt (clusterOf n)))

/-- Enters handler mode (R309) after the stop cut of cycle f: the frame records the fault, C fetches at
0x7000 + 8 × cause, and its first handler word issues no earlier than f + 2. The loop counters stand as at the stop (R305). -/
def Ctx.enterHandler (x : Ctx) (t : Trap) (st : Strm) (f : Nat) : Ctx :=
  { x with
    mode := .run
    frame := { x.frame with
      fstat := t.fstat st, fva := t.va, finfo := t.finfo, frec := t.record, site := t.site, lag := 0, pending := none, handler := true }
    c := { x.c with
      queue := [], fetch := 0x7000 + 8 * t.cause.code, last := max x.c.last (f + 1), loops := x.c.headLoops, stand := none, wait := none,
      ended := false, prev := .empty, anew := false, owed := 0, counted := false, posted := [], pages := [], lanes := none, due := none,
      skipBp := false, notBefore := f + 2, kept := none } }

/-- The launch cores of a core's region. -/
def State.regionOf (s : State) (n : Nat) : Option Region :=
  (s.part (s.ctx n).launch.part).region (s.ctx n).launch.region

/-- Makes a running core stop for Sapwood at its own stop cut (R282, R313, R318, R336): at once, or when its accepted
requests are released. -/
def State.halt (s : State) (n : Nat) : State :=
  match (s.ctx n).mode with
  | .run =>
    if (s.ctx n).stopWaits then s.stopWait n none
    else (s.stopCut n).modCtx n (fun x => { x with mode := .stopped })
  | .stopping (some (t, st)) =>
    s.modCtx n (fun x => { x with mode := .stopping none, frame := { x.frame with pending := some (t, st) } })
  | _ => s

/-- The class of a cause, as the administrator of a confidential partition sees it (R321): program 0, power 1, memory 2,
integrity 3, race 4. -/
def causeClass (cause : Nat) : Nat :=
  if cause = 0x02 then 1
  else if [0x09, 0x0A, 0x0B, 0x0E, 0x10, 0x15].contains cause then 2
  else if cause = 0x0C then 3 else if cause = 0x0D then 4 else 0

/-- The fault record that the administrator sees (R321): the frame; of a confidential partition the cause class, STREAM and
FTIME alone. Its layout is DESIGN CHOICE, log 73. -/
def Frame.record (f : Frame) (confidential : Bool) : List Byte :=
  if confidential then
    leBytes 1 (causeClass (bits f.fstat 0 7)) ++ leBytes 1 (bits f.fstat 8 2) ++ List.replicate 6 0 ++ leBytes 8 f.ftime.toNat
  else
    leBytes 8 f.fstat.toNat ++ leBytes 8 f.fva.toNat ++ leBytes 8 f.finfo.toNat ++ leBytes 8 f.frec.toNat ++ leBytes 8 f.ftime.toNat

/-- The fault record of a confidential partition for its tenant: the whole frame, encrypted (R321). -/
def Frame.sealed (f : Frame) (key : BitVec 256) : List Byte :=
  (f.record false).zipIdx.map (fun b => Config.encrypt key b.2 b.1)

/-- Forwards a core's frame to Sapwood (R313): the frame is posted, and with FDOM = 0 every launch core of the region on which its
context runs stops. -/
def State.forward (s : State) (n : Nat) : State :=
  let s1 := s.modPart (s.ctx n).launch.part (fun p => { p with
    posted := addOnce p.posted ((s.ctx n).launch.region, n), faults := (n, (s.ctx n).frame.record p.confidential) :: p.faults
    tenantFaults := if p.confidential then (n, (s.ctx n).frame.sealed p.key) :: p.tenantFaults else p.tenantFaults })
  let s2 := (s1.stopCut n).modCtx n (fun x => { x with mode := .stopped })
  match s.regionOf n with
  | some r => if r.fdom then s2 else r.cores.foldl (fun s' k =>
    if k ≠ n ∧ (s'.ctx k).belongs (s.ctx n).launch.part r.order = true then s'.halt k else s') s2
  | none => s2

/-- Takes a fault that nothing delays: the stop cut in cycle f and the entry at the handler, or, for a second fault in
handler mode, DBL and DCAUSE and a forward (R305, R309). -/
def State.takeFault (s : State) (n : Nat) (st : Strm) (t : Trap) : State :=
  if (s.ctx n).frame.handler then
    (s.modCtx n (fun x => { x with frame := { x.frame with
      fstat := setField (setField x.frame.fstat 47 1 1) 40 7 t.cause.code } })).forward n
  else
    (s.stopCut n).modCtx n (fun x => x.enterHandler t st (s.cyc n))

/-- A head whose instruction has issued, and faults now, is not counted as issued (R325). -/
def Ctx.uncount (x : Ctx) (st : Strm) : Ctx :=
  if (x.strm st).counted then
    { x.modStrm st (fun t => { t with counted := false }) with
      counters := { x.counters with issued := x.counters.issued.set (strmCode st) (x.counters.issued.getD (strmCode st) 0 - 1) } }
  else x

/-- The state before a fault of a head: its count is taken back, but at a breakpoint, on which the word itself does not fault (R325,
R335). -/
def State.uncounted (s : State) (n : Nat) (st : Strm) (t : Trap) : State :=
  if t.cause = .brk then s else s.modCtx n (fun x => x.uncount st)

/-- A fault is due in this cycle (R305): no stream issues from now on; the stop waits for accepted requests (R79). A core
that stops already keeps the fault that was due (R79). -/
def State.raise (s : State) (n : Nat) (st : Strm) (t : Trap) : State :=
  if (s.ctx n).mode ≠ .run then s
  else if (s.ctx n).stopWaits then (s.uncounted n st t).stopWait n (some (t, st))
  else (s.uncounted n st t).takeFault n st t

/-- One stream resumes (R310): at its FHEAD address, its previous issue moved by Δ, no issue before q; `skip` says that no
breakpoint fires on its first word (R335). -/
def Stream.resume (t : Stream) (head : Nat) (delta q : Nat) (skip : Bool) : Stream :=
  let t' := { t with last := t.last + delta, notBefore := q, counted := false, skipBp := skip || t.skipBp }
  if t.head = head then t'
  else { t' with
    queue := [], fetch := head, loops := t.headLoops, stand := none, ended := false, prev := .empty, anew := false, owed := 0, posted := [],
    pages := [], lanes := none, due := none, skipBp := skip, kept := none }

/-- The restart after a stop (R310): every stream resumes at its FHEAD; captured results move by Δ = e - f; a handler-mode
write of PWRSET takes effect (R375). -/
def Ctx.resume (x : Ctx) (e : Nat) (skip : Bool) : Ctx :=
  let delta := e - x.frame.f
  let hd := fun i => (x.frame.heads.getD i 0).toNat
  { x with
    mode := .run
    c := x.frame.cstream.resume (hd 0) delta (e + 1) skip
    l := x.l.resume (hd 1) delta (e + 1) skip
    v := x.v.resume (hd 2) delta (e + 1) skip
    s := x.s.resume (hd 3) delta (e + 1) skip
    pend := x.pend.map (fun p => if p.captured then { p with due := p.due + delta, captured := false } else p)
    sys := { x.sys with pwrset := x.sys.pwrNew.getD x.sys.pwrset, pwrNew := none }
    launch := { x.launch with delta := x.launch.delta + delta - x.frame.lag }
    frame := { x.frame with lag := 0, handler := false } }

/-! ## The issue rule (R17, R18, R78) -/

/-- What the conditions of an instruction beyond IDLE and tokens say in this cycle. -/
inductive Verdict | go | hold (c : HeadClass) | trap (t : Trap)
  deriving DecidableEq, Repr

/-- Whether a stream may try its head: the core runs with no fault pending, the stream neither waits nor stands at a
barrier word, and in handler mode it is C (R305, R309). -/
def Ctx.tries (x : Ctx) (st : Strm) : Bool :=
  x.mode == .run && x.frame.pending.isNone && (x.strm st).wait.isNone && (x.strm st).stand.isNone &&
    (!x.frame.handler || st == .c)

/-- Condition 1 of R17: the previous last cycle + 1 + IDLE; a head executed anew applies no IDLE (R79), and after a
return no stream issues before q (R310). -/
def Stream.early (t : Stream) (idle cyc : Nat) : Bool :=
  cyc < t.last + 1 + (if t.anew then 0 else idle) || cyc < t.notBefore

/-- Classes the head (R324) and issues nothing. -/
def State.hold (s : State) (st : Strm) (c : HeadClass) : State :=
  s.modCtx s.me (fun x => x.modStrm st (fun t => { t with cls := c }))

/-- A breakpoint register that names the head (R334, R335). -/
def bpHits (bp : Word) (st : Strm) (t : Stream) : Bool :=
  bitAt bp 63 && bits bp 61 2 == (strmCode st) && bits bp 0 15 == t.head &&
    (!bitAt bp 60 || t.headIters.getD (bits bp 58 2) 0 == bits bp 41 17)

/-- Whether an enabled breakpoint stops the head (R335). -/
def Ctx.broken (x : Ctx) (st : Strm) : Bool :=
  bitAt x.launch.trc 59 && !(x.strm st).skipBp && x.launch.bps.any (fun b => bpHits b st (x.strm st))

/-- The BREAK of a breakpoint (R335). -/
def breakTrap (code : Nat) : Trap := { cause := .brk, code := BitVec.ofNat 16 code }

/-- The stream after an instruction has issued that now waits (R78): the head stays, and no breakpoint stops it a second time in
this pass (R335). -/
def Stream.await (t : Stream) (w : Wait) : Stream :=
  { t with wait := some w, cls := .issue, moved := true, counted := true, skipBp := true }

/-- What an issue charges and counts (R16, R325, R379): tokens, energy and ISSUED. A head executed anew applies neither tokens nor
energy again (R79), but for the units that a fault has given back (R121), and a head that goes on after its walks has been counted
(R298). What a waiting instruction has charged stands when its request fails later: R380 charges it once, at its issue (DEDUCED,
log 61). -/
def Ctx.pay (x : Ctx) (st : Strm) (h : Hdr) (units : Nat) : Ctx :=
  { x with
    tok := if (x.strm st).anew then x.tok else tokenMove x.tok st h
    sys := { x.sys with charge := x.sys.charge + (if (x.strm st).anew then (x.strm st).owed else units) }
    counters := { x.counters with
      issued := if (x.strm st).counted then x.counters.issued
        else x.counters.issued.set (strmCode st) (x.counters.issued.getD (strmCode st) 0 + 1) } }

/-- The context after an issue. -/
def Ctx.commit (x : Ctx) (st : Strm) (h : Hdr) (occ units cyc : Nat) : Ctx :=
  (x.pay st h units).modStrm st (fun t => t.retire cyc occ)

/-- The context after the issue of a waiting instruction. -/
def Ctx.commitWait (x : Ctx) (st : Strm) (h : Hdr) (units : Nat) (w : Wait) : Ctx :=
  (x.pay st h units).modStrm st (fun t => t.await w)

/-- What holds or stops the head in this cycle before its own conditions: `none` when conditions 1 and 2 hold. -/
def State.front (s : State) (st : Strm) (h : Hdr) : Option HeadClass :=
  let x := s.ctx s.me
  if (x.strm st).early h.idle.toNat (s.cyc s.me) then some .issue
  else if (x.strm st).anew then none
  else tokenHold x st h

/-- A cycle as a replay log counts it (R337): from cycle 0 of the launch, the Δ of each stop taken off. While the context stands, the
count stands at its stop cycle; in handler mode it runs on, since the Δ of that stop is not known before it ends (DESIGN CHOICE,
log 55). -/
def Ctx.launchCycle (x : Ctx) (cyc : Nat) : Nat :=
  (if x.mode == .stopped then (if x.frame.handler then x.frame.halted else x.frame.f) else cyc) - x.launch.zero - x.launch.delta

/-- The next replay record of a stream (R338). -/
def Ctx.replayNext (x : Ctx) (st : Strm) : Option (Strm × Nat × Nat × Nat) :=
  match x.launch.replay with
  | some log => log.find? (fun r => r.1 == st)
  | none => none

/-- Whether a replay record names a stream's head (R323, R337). -/
def Stream.named (t : Stream) (addr iter : Nat) : Bool := t.head == addr && t.headIters.getD 0 0 % 2 ^ 17 == iter

/-- Whether a replay holds a stream's head back until its logged cycle (R338): a head that its next record names, once it has been
classed FLAG or BUSY; one whose conditions hold when it comes up goes on (DEDUCED, log 55). -/
def State.barred (s : State) (n : Nat) (st : Strm) : Bool :=
  let t := (s.ctx n).strm st
  match (s.ctx n).replayNext st with
  | some (_, cyc, addr, iter) => t.prev.waits && t.named addr iter && (s.ctx n).launchCycle (s.cyc n) < cyc
  | none => false

/-- The issue of an instruction (R17): conditions 1 and 2, then its own conditions `v` (3, 4 and the domains and faults
of its own rule), then a breakpoint; `go` is the state after the issue. -/
def State.issue (s : State) (st : Strm) (h : Hdr) (v : Verdict) (go : State) : State :=
  if !(s.ctx s.me).tries st then s
  else
    match s.front st h with
    | some c => s.hold st c
    | none =>
      match v with
      | .hold c => s.hold st c
      | .trap t => s.raise s.me st t
      | .go =>
        if s.barred s.me st then s.hold st .busy
        else if (s.ctx s.me).broken st then s.raise s.me st (breakTrap 1) else go

/-- The state after an issue whose effect lies in the core's own context. -/
def State.done (s : State) (st : Strm) (h : Hdr) (occ units : Nat) (f : Ctx → Ctx) : State :=
  s.modCtx s.me (fun x => (f x).commit st h occ units (s.cyc s.me))

/-- The state after the issue of an instruction that waits. -/
def State.waits (s : State) (st : Strm) (h : Hdr) (units : Nat) (w : Wait) : State :=
  s.modCtx s.me (fun x => x.commitWait st h units w)

/-- A waiting instruction is released in this cycle (R78): its head is gone, and its result written. -/
def State.release (s : State) (n : Nat) (st : Strm) (f : Ctx → Ctx) : State :=
  s.modCtx n (fun x => (f x).modStrm st (fun t => { t.retire (s.cyc n) 1 with wait := none }))

/-- Every issue condition holds in this cycle for an instruction whose own conditions are met: the core runs, the
stream may try, its IDLE has elapsed and its tokens can move, no replay holds it, and no breakpoint names it. -/
def State.ready (s : State) (st : Strm) (h : Hdr) : Prop :=
  (s.ctx s.me).tries st = true ∧ s.front st h = none ∧ s.barred s.me st = false ∧ (s.ctx s.me).broken st = false

end Sys2Proof.Machine
end

