-- ==== Sys2Proof/Machine/Flags.lean ====
section
/-! DEFINITION. The conditions that instructions compute: branch conditions (R56), the conditions of `icmp` and `waita`
(R94, R157). The floating-point conditions stand in Float.lean. -/

namespace Sys2Proof.Machine

/-- CND of CB and AB on 64-bit values (R56). -/
def cndHolds (c : Cnd) (a b : Word) : Bool :=
  match c with
  | .eq => a == b
  | .ne => a != b
  | .lt => a.slt b
  | .ge => !a.slt b
  | .ltu => a.ult b
  | .geu => !a.ult b
  | .al => true

/-- The conditions of `icmp` and `waita` on 32-bit values (R94, R157). -/
def icndHolds (c : ICnd) (a b : Lane) : Bool :=
  match c with
  | .eq => a == b
  | .ne => a != b
  | .lt => a.slt b
  | .ge => !a.slt b
  | .ltu => a.ult b
  | .geu => !a.ult b

/-- 1 or 0 in a scalar register (R83). -/
def flagWord (b : Bool) : Word := if b then 1 else 0

end Sys2Proof.Machine
end

