-- ==== Sys2Proof/Machine/Control.lean ====
section
/-! DEFINITION. The register instructions of the C stream: R83 to R85, and the branches of R95. -/

namespace Sys2Proof.Machine

/-- A C instruction that writes D from registers alone, with its occupancy, 8 units (R82, R83). -/
def State.alu (s : State) (h : Hdr) (occ : Nat) (d : BitVec 5) (f : Ctx → Word) : State :=
  s.issue .c h .go (s.done .c h occ 8 (fun x => x.setReg d (f x)))

/-- R43, R83: no operation; it obeys IDLE and its token bits. -/
def execCNop (h : Hdr) (s : State) : Host.Outcome State Fault Refusal :=
  .next (s.issue .c h .go (s.done .c h 1 8 id))

/-- R83: D := A + B. -/
def opAdd (A B : Word) : Word := A + B

/-- R83. -/
def execCAdd (h : Hdr) (d a b : BitVec 5) (s : State) : Host.Outcome State Fault Refusal :=
  .next (s.alu h 1 d (fun x => opAdd (x.reg a) (x.reg b)))

/-- R83: D := A − B. -/
def opSub (A B : Word) : Word := A - B

/-- R83. -/
def execCSub (h : Hdr) (d a b : BitVec 5) (s : State) : Host.Outcome State Fault Refusal :=
  .next (s.alu h 1 d (fun x => opSub (x.reg a) (x.reg b)))

/-- R83: D := A & B. -/
def opAnd (A B : Word) : Word := A &&& B

/-- R83. -/
def execCAnd (h : Hdr) (d a b : BitVec 5) (s : State) : Host.Outcome State Fault Refusal :=
  .next (s.alu h 1 d (fun x => opAnd (x.reg a) (x.reg b)))

/-- R83: D := A | B. -/
def opOr (A B : Word) : Word := A ||| B

/-- R83. -/
def execCOr (h : Hdr) (d a b : BitVec 5) (s : State) : Host.Outcome State Fault Refusal :=
  .next (s.alu h 1 d (fun x => opOr (x.reg a) (x.reg b)))

/-- R83: D := A ^ B. -/
def opXor (A B : Word) : Word := A ^^^ B

/-- R83. -/
def execCXor (h : Hdr) (d a b : BitVec 5) (s : State) : Host.Outcome State Fault Refusal :=
  .next (s.alu h 1 d (fun x => opXor (x.reg a) (x.reg b)))

/-- R83: D := A & ~B. -/
def opAndn (A B : Word) : Word := A &&& ~~~B

/-- R83. -/
def execCAndn (h : Hdr) (d a b : BitVec 5) (s : State) : Host.Outcome State Fault Refusal :=
  .next (s.alu h 1 d (fun x => opAndn (x.reg a) (x.reg b)))

/-- R83: D := A << B[5:0]. -/
def opShl (A B : Word) : Word := A <<< (B.toNat % 64)

/-- R83. -/
def execCShl (h : Hdr) (d a b : BitVec 5) (s : State) : Host.Outcome State Fault Refusal :=
  .next (s.alu h 1 d (fun x => opShl (x.reg a) (x.reg b)))

/-- R83: D := A >> B[5:0], zero fill. -/
def opShr (A B : Word) : Word := A >>> (B.toNat % 64)

/-- R83. -/
def execCShr (h : Hdr) (d a b : BitVec 5) (s : State) : Host.Outcome State Fault Refusal :=
  .next (s.alu h 1 d (fun x => opShr (x.reg a) (x.reg b)))

/-- R83: D := A >> B[5:0], sign fill. -/
def opSra (A B : Word) : Word := A.sshiftRight (B.toNat % 64)

/-- R83. -/
def execCSra (h : Hdr) (d a b : BitVec 5) (s : State) : Host.Outcome State Fault Refusal :=
  .next (s.alu h 1 d (fun x => opSra (x.reg a) (x.reg b)))

/-- R83: D := A rotated left by B[5:0]. -/
def opRol (A B : Word) : Word := A.rotateLeft (B.toNat % 64)

/-- R83. -/
def execCRol (h : Hdr) (d a b : BitVec 5) (s : State) : Host.Outcome State Fault Refusal :=
  .next (s.alu h 1 d (fun x => opRol (x.reg a) (x.reg b)))

/-- R83: D := bits [63:0] of A × B. -/
def opMul (A B : Word) : Word := A * B

/-- R83. -/
def execCMul (h : Hdr) (d a b : BitVec 5) (s : State) : Host.Outcome State Fault Refusal :=
  .next (s.alu h 3 d (fun x => opMul (x.reg a) (x.reg b)))

/-- R83: D := bits [127:64] of signed A × signed B. -/
def opMulh (A B : Word) : Word := BitVec.ofInt 64 (A.toInt * B.toInt / 2 ^ 64)

/-- R83. -/
def execCMulh (h : Hdr) (d a b : BitVec 5) (s : State) : Host.Outcome State Fault Refusal :=
  .next (s.alu h 3 d (fun x => opMulh (x.reg a) (x.reg b)))

/-- R83: D := bits [127:64] of unsigned A × unsigned B. -/
def opMulhu (A B : Word) : Word := BitVec.ofNat 64 (A.toNat * B.toNat / 2 ^ 64)

/-- R83. -/
def execCMulhu (h : Hdr) (d a b : BitVec 5) (s : State) : Host.Outcome State Fault Refusal :=
  .next (s.alu h 3 d (fun x => opMulhu (x.reg a) (x.reg b)))

/-- R83: D := signed A ÷ B truncated toward zero; all ones for B = 0 (R84). -/
def opDiv (A B : Word) : Word := if B = 0 then BitVec.allOnes 64 else A.sdiv B

/-- R83. -/
def execCDiv (h : Hdr) (d a b : BitVec 5) (s : State) : Host.Outcome State Fault Refusal :=
  .next (s.alu h 24 d (fun x => opDiv (x.reg a) (x.reg b)))

/-- R83: D := unsigned A ÷ B; all ones for B = 0 (R84). -/
def opDivu (A B : Word) : Word := if B = 0 then BitVec.allOnes 64 else A / B

/-- R83. -/
def execCDivu (h : Hdr) (d a b : BitVec 5) (s : State) : Host.Outcome State Fault Refusal :=
  .next (s.alu h 24 d (fun x => opDivu (x.reg a) (x.reg b)))

/-- R83: D := signed remainder, sign of A; A for B = 0 (R84). -/
def opRem (A B : Word) : Word := if B = 0 then A else A.srem B

/-- R83. -/
def execCRem (h : Hdr) (d a b : BitVec 5) (s : State) : Host.Outcome State Fault Refusal :=
  .next (s.alu h 24 d (fun x => opRem (x.reg a) (x.reg b)))

/-- R83: D := unsigned remainder; A for B = 0 (R84). -/
def opRemu (A B : Word) : Word := if B = 0 then A else A % B

/-- R83. -/
def execCRemu (h : Hdr) (d a b : BitVec 5) (s : State) : Host.Outcome State Fault Refusal :=
  .next (s.alu h 24 d (fun x => opRemu (x.reg a) (x.reg b)))

/-- R83: D := signed minimum. -/
def opMin (A B : Word) : Word := if A.slt B then A else B

/-- R83. -/
def execCMin (h : Hdr) (d a b : BitVec 5) (s : State) : Host.Outcome State Fault Refusal :=
  .next (s.alu h 1 d (fun x => opMin (x.reg a) (x.reg b)))

/-- R83: D := signed maximum. -/
def opMax (A B : Word) : Word := if A.slt B then B else A

/-- R83. -/
def execCMax (h : Hdr) (d a b : BitVec 5) (s : State) : Host.Outcome State Fault Refusal :=
  .next (s.alu h 1 d (fun x => opMax (x.reg a) (x.reg b)))

/-- R83: D := unsigned minimum. -/
def opMinu (A B : Word) : Word := if A.ult B then A else B

/-- R83. -/
def execCMinu (h : Hdr) (d a b : BitVec 5) (s : State) : Host.Outcome State Fault Refusal :=
  .next (s.alu h 1 d (fun x => opMinu (x.reg a) (x.reg b)))

/-- R83: D := unsigned maximum. -/
def opMaxu (A B : Word) : Word := if A.ult B then B else A

/-- R83. -/
def execCMaxu (h : Hdr) (d a b : BitVec 5) (s : State) : Host.Outcome State Fault Refusal :=
  .next (s.alu h 1 d (fun x => opMaxu (x.reg a) (x.reg b)))

/-- R83: D := 1 if A < B signed. -/
def opSlt (A B : Word) : Word := flagWord (A.slt B)

/-- R83. -/
def execCSlt (h : Hdr) (d a b : BitVec 5) (s : State) : Host.Outcome State Fault Refusal :=
  .next (s.alu h 1 d (fun x => opSlt (x.reg a) (x.reg b)))

/-- R83: D := 1 if A < B unsigned. -/
def opSltu (A B : Word) : Word := flagWord (A.ult B)

/-- R83. -/
def execCSltu (h : Hdr) (d a b : BitVec 5) (s : State) : Host.Outcome State Fault Refusal :=
  .next (s.alu h 1 d (fun x => opSltu (x.reg a) (x.reg b)))

/-- R83: D := 1 if A = B. -/
def opSeq (A B : Word) : Word := flagWord (A == B)

/-- R83. -/
def execCSeq (h : Hdr) (d a b : BitVec 5) (s : State) : Host.Outcome State Fault Refusal :=
  .next (s.alu h 1 d (fun x => opSeq (x.reg a) (x.reg b)))

/-- R83: D := 1 if A ≠ B. -/
def opSne (A B : Word) : Word := flagWord (A != B)

/-- R83. -/
def execCSne (h : Hdr) (d a b : BitVec 5) (s : State) : Host.Outcome State Fault Refusal :=
  .next (s.alu h 1 d (fun x => opSne (x.reg a) (x.reg b)))

/-- R83: D := leading zeros of A, 64 for A = 0. -/
def opClz (A : Word) : Word := BitVec.ofNat 64 (leadZeros 64 A.toNat)

/-- R83. -/
def execCClz (h : Hdr) (d a : BitVec 5) (s : State) : Host.Outcome State Fault Refusal :=
  .next (s.alu h 1 d (fun x => opClz (x.reg a)))

/-- R83: D := trailing zeros of A, 64 for A = 0. -/
def opCtz (A : Word) : Word := BitVec.ofNat 64 (trailZeros 64 A.toNat)

/-- R83. -/
def execCCtz (h : Hdr) (d a : BitVec 5) (s : State) : Host.Outcome State Fault Refusal :=
  .next (s.alu h 1 d (fun x => opCtz (x.reg a)))

/-- R83: D := ones in A. -/
def opPopc (A : Word) : Word := BitVec.ofNat 64 (popCount 64 A.toNat)

/-- R83. -/
def execCPopc (h : Hdr) (d a : BitVec 5) (s : State) : Host.Outcome State Fault Refusal :=
  .next (s.alu h 1 d (fun x => opPopc (x.reg a)))

/-- R83: D := A with its eight bytes in reverse order. -/
def opBswap (A : Word) : Word := BitVec.ofNat 64 (byteSwap 8 A.toNat 0)

/-- R83. -/
def execCBswap (h : Hdr) (d a : BitVec 5) (s : State) : Host.Outcome State Fault Refusal :=
  .next (s.alu h 1 d (fun x => opBswap (x.reg a)))

/-- R85: as R83 with B the sign-extended immediate. -/
def execCAddi (h : Hdr) (d a : BitVec 5) (imm : BitVec 30) (s : State) : Host.Outcome State Fault Refusal :=
  .next (s.alu h 1 d (fun x => opAdd (x.reg a) (sext imm)))

/-- R85: as R83 with B the sign-extended immediate. -/
def execCAndi (h : Hdr) (d a : BitVec 5) (imm : BitVec 30) (s : State) : Host.Outcome State Fault Refusal :=
  .next (s.alu h 1 d (fun x => opAnd (x.reg a) (sext imm)))

/-- R85: as R83 with B the sign-extended immediate. -/
def execCOri (h : Hdr) (d a : BitVec 5) (imm : BitVec 30) (s : State) : Host.Outcome State Fault Refusal :=
  .next (s.alu h 1 d (fun x => opOr (x.reg a) (sext imm)))

/-- R85: as R83 with B the sign-extended immediate. -/
def execCXori (h : Hdr) (d a : BitVec 5) (imm : BitVec 30) (s : State) : Host.Outcome State Fault Refusal :=
  .next (s.alu h 1 d (fun x => opXor (x.reg a) (sext imm)))

/-- R85: as R83 with B the sign-extended immediate. -/
def execCSlti (h : Hdr) (d a : BitVec 5) (imm : BitVec 30) (s : State) : Host.Outcome State Fault Refusal :=
  .next (s.alu h 1 d (fun x => opSlt (x.reg a) (sext imm)))

/-- R85: as R83 with B the sign-extended immediate. -/
def execCSltui (h : Hdr) (d a : BitVec 5) (imm : BitVec 30) (s : State) : Host.Outcome State Fault Refusal :=
  .next (s.alu h 1 d (fun x => opSltu (x.reg a) (sext imm)))

/-- R85: as R83 with the amount IMM30[5:0]. -/
def execCShli (h : Hdr) (d a : BitVec 5) (amt : BitVec 6) (s : State) : Host.Outcome State Fault Refusal :=
  .next (s.alu h 1 d (fun x => opShl (x.reg a) (amt.setWidth 64)))

/-- R85: as R83 with the amount IMM30[5:0]. -/
def execCShri (h : Hdr) (d a : BitVec 5) (amt : BitVec 6) (s : State) : Host.Outcome State Fault Refusal :=
  .next (s.alu h 1 d (fun x => opShr (x.reg a) (amt.setWidth 64)))

/-- R85: as R83 with the amount IMM30[5:0]. -/
def execCSrai (h : Hdr) (d a : BitVec 5) (amt : BitVec 6) (s : State) : Host.Outcome State Fault Refusal :=
  .next (s.alu h 1 d (fun x => opSra (x.reg a) (amt.setWidth 64)))

/-- R85: D := imm. -/
def execCLi (h : Hdr) (d : BitVec 5) (imm : BitVec 30) (s : State) : Host.Outcome State Fault Refusal :=
  .next (s.alu h 1 d (fun _ => sext imm))

/-- R85: (imm << 30) | (A & 0x3FFF_FFFF). -/
def opLih (A imm : Word) : Word := (imm <<< 30) ||| (A &&& 0x3FFFFFFF)

/-- R85. -/
def execCLih (h : Hdr) (d a : BitVec 5) (imm : BitVec 30) (s : State) : Host.Outcome State Fault Refusal :=
  .next (s.alu h 1 d (fun x => opLih (x.reg a) (sext imm)))

/-- R85: D := the text address of this word + imm. -/
def execCAddpc (h : Hdr) (d : BitVec 5) (imm : BitVec 30) (s : State) : Host.Outcome State Fault Refusal :=
  .next (s.alu h 1 d (fun x => BitVec.ofNat 64 x.c.head + sext imm))

/-! ## Words that are not instructions, and branches -/

/-- A word at a head that is not an instruction (R72): a precise ILLEGAL in the first cycle that is at least the
previous last cycle + 1; IDLE and token bits are not applied. -/
def State.illegal (s : State) (st : Strm) (detail : Nat) : State :=
  if !(s.ctx s.me).tries st then s
  else if ((s.ctx s.me).strm st).early 0 (s.cyc s.me) then s.hold st .issue
  else s.raise s.me st { cause := .illegal, code := BitVec.ofNat 16 detail }

/-- R72: the stream at whose head the word stands takes ILLEGAL. -/
def execIllegalWord (detail : Nat) (s : State) : Host.Outcome State Fault Refusal :=
  .next (s.illegal s.cur.st detail)

/-- The end of the legal targets (R70, R114): 28,672 outside handler mode, 0x8000 in it. -/
def Ctx.targetEnd (x : Ctx) : Nat := if x.frame.handler then 0x8000 else 28672

/-- This word + offset, as a target; `none` when it lies outside the legal targets (R70 detail 6). -/
def Ctx.target (x : Ctx) (st : Strm) (ofs : Int) : Option Nat :=
  let t := ((x.strm st).head : Int) + ofs
  if 0 ≤ t ∧ t < x.targetEnd then some t.toNat else none

/-- A transfer of a stream: the words fetched beyond the word are discarded, the loop counters are those the word left
once passed, and fetch starts at the target (R95, R137, R225). -/
def Stream.goto (t : Stream) (target : Nat) : Stream :=
  { t with
    queue := [], fetch := target, ended := false,
    loops := match t.queue with
      | e :: _ => e.loops
      | [] => t.loops }

/-- R95: `b`: occupancy 1 not taken, 3 taken. -/
def execCB (h : Hdr) (a b : BitVec 5) (cnd : Cnd) (ofs : BitVec 27) (s : State) : Host.Outcome State Fault Refusal :=
  .next (match (s.ctx s.me).target .c ofs.toInt with
    | none => s.illegal .c 6
    | some t =>
      if cndHolds cnd ((s.ctx s.me).reg a) ((s.ctx s.me).reg b) then
        s.issue .c h .go (s.done .c h 3 8 (fun x => { x with c := x.c.goto t }))
      else s.issue .c h .go (s.done .c h 1 8 id))

/-- R95: `j`. -/
def execCJ (h : Hdr) (ofs : BitVec 35) (s : State) : Host.Outcome State Fault Refusal :=
  .next (match (s.ctx s.me).target .c ofs.toInt with
    | none => s.illegal .c 6
    | some t => s.issue .c h .go (s.done .c h 3 8 (fun x => { x with c := x.c.goto t })))

/-- The text address of the word after a context's C head. -/
def Ctx.link (x : Ctx) : Word := BitVec.ofNat 64 (x.c.head + 1)

/-- R95: `jal`: D := this word + 1. -/
def execCJal (h : Hdr) (d : BitVec 5) (ofs : BitVec 35) (s : State) : Host.Outcome State Fault Refusal :=
  .next (match (s.ctx s.me).target .c ofs.toInt with
    | none => s.illegal .c 6
    | some t => s.issue .c h .go (s.done .c h 3 8 (fun x => { x.setReg d x.link with c := x.c.goto t })))

/-- R95: `jr`: the target comes from A, and all 64 bits must form it; ILLEGAL detail 6 is taken at its issue. -/
def execCJr (h : Hdr) (d a : BitVec 5) (s : State) : Host.Outcome State Fault Refusal :=
  let t := ((s.ctx s.me).reg a).toNat
  .next (s.issue .c h
    (if t < (s.ctx s.me).targetEnd then .go else .trap { cause := .illegal, code := 6 })
    (s.done .c h 3 8 (fun x => { x.setReg d x.link with c := x.c.goto t })))

end Sys2Proof.Machine
end

