-- ==== Sys2Proof/Machine/Handler.lean ====
section
/-! DEFINITION. The resident handler image that Sapwood installs on every core (R264, R307). R307 gives its actions, and the spec
writes out its SWTRAP vector (below R311) and its SLEEPING path (below R322); the other words are the model's, made to those actions
(DESIGN CHOICE, log 78). In handler mode S24 to S31 name H0 to H7 (R114): H5 holds the key, H6 the count, H7 the number of the fault
that is forwarded, H4 the wait in nanoseconds. -/

namespace Sys2Proof.Machine

/-- A header without idle cycles or tokens. -/
def hdr0 : Hdr := { idle := 0, wp := false, wn := false, pp := false, pn := false }

/-- `c.j` from a text address to another. -/
def jumpTo (a b : Nat) : Instr := .cJ hdr0 (BitVec.ofInt 35 ((b : Int) - a))

/-- `c.b` from a text address to another. -/
def branchTo (a b : Nat) (x y : BitVec 5) (c : Cnd) : Instr := .cB hdr0 x y c (BitVec.ofInt 27 ((b : Int) - a))

/-- The vector of a cause that is forwarded. -/
def forwardVector (cause : Nat) : Nat × List Instr := (0x7000 + 8 * cause, [jumpTo (0x7000 + 8 * cause) 0x7400])

/-- The vector of a cause that is retried: up to which fault at a head, and after how long. -/
def retryVector (cause limit wait : Nat) : Nat × List Instr :=
  (0x7000 + 8 * cause, [.cAddi hdr0 31 0 (BitVec.ofNat 30 limit), .cAddi hdr0 28 0 (BitVec.ofNat 30 wait),
    jumpTo (0x7000 + 8 * cause + 2) 0x7200])

/-- The vectors. -/
def residentVectors : List (Nat × List Instr) :=
  [0x01, 0x03, 0x04, 0x05, 0x06, 0x07, 0x08, 0x0C, 0x0D, 0x0E, 0x0F, 0x12, 0x13, 0x14, 0x15].map forwardVector ++
    [retryVector 0x09 2 0, retryVector 0x0A 2 0, retryVector 0x0B 4 3000, retryVector 0x10 2048 1000,
     (0x7010, [.cMfsr hdr0 24 0x106, .cShri hdr0 25 24 21, .cAndi hdr0 25 25 7, .cXori hdr0 25 25 2, branchTo 0x7014 0x7400 25 0 .ne,
       .cAndi hdr0 26 24 0x1F0F00, jumpTo 0x7016 0x7300]),
     (0x7088, [.cMfsr hdr0 24 0x100, .cShri hdr0 25 24 63, branchTo 0x708A 0x708C 25 0 .ne, .cEret hdr0, jumpTo 0x708C 0x7400])]

/-- The retries: the key of the fault, its count, the wait. -/
def residentRetry : List (Nat × List Instr) :=
  [(0x7200, [.cMfsr hdr0 24 0x100, .cAndi hdr0 25 24 0x37F, .cAndi hdr0 26 24 0x300, .cShri hdr0 26 26 7, .cAddpc hdr0 27 0x3C,
      .cAdd hdr0 26 26 27, .cJr hdr0 0 26]),
   (0x7210, [.cShli hdr0 26 26 10, .cOr hdr0 25 25 26, branchTo 0x7212 0x7215 25 29 .eq, .cAddi hdr0 29 25 0, .cAddi hdr0 30 0 0,
      .cAddi hdr0 30 30 1, branchTo 0x7216 0x7400 30 31 .geu, .cRdtb hdr0 26, .cRdtb hdr0 27, .cSub hdr0 27 27 26,
      branchTo 0x721A 0x7218 27 28 .ltu, .cEret hdr0]),
   (0x7240, (List.range 4).flatMap (fun n => [.cMfsr hdr0 26 (BitVec.ofNat 16 (0x101 + n)), jumpTo (0x7241 + 2 * n) 0x7210]))]

/-- The wait for one domain, and the forward, after which a resume starts the count again. -/
def residentRest : List (Nat × List Instr) :=
  [(0x7300, [.cShri hdr0 27 26 15, .cAndi hdr0 28 26 0xF00, .cShri hdr0 28 28 2, .cAdd hdr0 27 27 28, .cAddpc hdr0 28 0x1FC,
      .cAdd hdr0 27 27 28, .cJr hdr0 0 27]),
   (0x7400, [.cAddi hdr0 24 0 1, .cMtsr hdr0 24 0x10F, .cAddi hdr0 29 0 0, .cEret hdr0])]

/-- The table of single-domain `c.wstat` words, indexed by DTYPE and DIDX, each before a `c.eret`. -/
def wstatEntry (k : Nat) : Option Instr :=
  match DomTy.ofBits (BitVec.ofNat 4 (k / 64)) with
  | some d =>
    if d.last < k / 2 % 32 then none
    else if k % 2 = 1 then some (.cEret hdr0) else some (.cWstat hdr0 d (BitVec.ofNat 32 (2 ^ (k / 2 % 32))))
  | none => none

/-- The instruction of the image at a text address. -/
def residentInstr (a : Nat) : Option Instr :=
  if 0x7500 ≤ a ∧ a < 0x7700 then wstatEntry (a - 0x7500)
  else
    ((residentVectors ++ residentRetry ++ residentRest).find? (fun b => b.1 ≤ a && a < b.1 + b.2.length)).bind (fun b => b.2[a - b.1]?)

/-- The word of the image at a text address; R74's filler where it has none. -/
def residentWord (a : Nat) : Word := ((residentInstr a).bind encode).getD 0x8000000000000000

end Sys2Proof.Machine
end

