-- ==== Sys2Proof/Machine/Fetch.lean ====
section
/-! DEFINITION. Fetching the text into the instruction queues (R11 to R13, R71, R74, R225, R226) and the hardware loops
that the fetch counts (R137). -/

namespace Sys2Proof.Machine

/-- What a text word holds that no loader has written (R74's filler; DESIGN CHOICE before the first load, log 4). -/
def textFiller : Word := 0x8000000000000000

/-- A word of the handler image of every core: of the one that Sapwood has installed last, else of the resident one (R264). -/
def State.handlerWord (s : State) (a : Nat) : Word :=
  match s.mgmt.images.getLast? with
  | some ws => ws.getD (a - 0x7000) textFiller
  | none => if s.mgmt.resident then residentWord a else textFiller

/-- A word of a core's instruction store: the text of the context that runs, and from 0x7000 the handler image, but for words that were
placed over it. -/
def State.textWord (s : State) (n a : Nat) : Word :=
  if a < 0x7000 then (s.core n).ctx.text.get a textFiller else (s.core n).image.get a (s.handlerWord a)

/-- Whether a stream places a word in its queue: its own tag or ALL; C also takes ENG 4 to 6 (R11, R71). -/
def takes (st : Strm) (w : Word) : Bool :=
  match bits w 61 3 with
  | 0 => st == .c
  | 1 => st == .l
  | 2 => st == .v
  | 3 => st == .s
  | 7 => true
  | _ => st == .c

/-- Sets up a loop counter at an `all.loop` word (R137); with SRC = 1 the count is not known yet (R225). -/
def setLoop (ls : List Loop) (n : Nat) (count : Nat) (unknown : Bool) (addr last : Nat) : List Loop :=
  ls.set n { count := count, last := last, iter := 0, active := unknown || count != 0, back := addr,
             order := 1 + ls.foldl (fun m l => max m l.order) 0, unknown := unknown }

/-- One pass of END by one loop: counts the iteration; `true` when the back edge is taken (R137). -/
def passEnd (l : Loop) : Loop × Bool :=
  if l.unknown then ({ l with iter := l.iter + 1 }, true)
  else if 1 < l.count then ({ l with count := l.count - 1, iter := l.iter + 1 }, true)
  else ({ l with count := 0, iter := l.iter + 1, active := false }, false)

/-- The active loop with END = a that was set up most recently, below a given order. -/
def loopAt (ls : List Loop) (a below : Nat) : Option Nat :=
  ((upto 0 4).filter (fun n => let l := ls.getD n Loop.init; l.active && l.last == a && l.order < below)).foldl
    (fun r n =>
      match r with
      | none => some n
      | some m => if (ls.getD m Loop.init).order < (ls.getD n Loop.init).order then some n else some m) none

/-- The fetch passes address a: the loops with END = a count, the most recently set up first, until one takes its back
edge (R137). Answers the loops and the address of the body's first word when a back edge is taken. -/
def passLoops : Nat → List Loop → Nat → Nat → List Loop × Option Nat
  | 0, ls, _, _ => (ls, none)
  | k + 1, ls, a, below =>
    match loopAt ls a below with
    | none => (ls, none)
    | some n =>
      let l := ls.getD n Loop.init
      let r := passEnd l
      if r.2 then (ls.set n r.1, some (l.back + 1)) else passLoops k (ls.set n r.1) a l.order

/-- A stream past its head, at the next word of the text in program order, whatever that word's tag (R115, R139): the body's
first word where the fetch took a back edge at the head, else the word after it. -/
def Stream.past (t : Stream) : Stream :=
  match t.queue with
  | e :: _ =>
    t.goto (match loopAt e.loops e.addr (1 + e.loops.foldl (fun m l => max m l.order) 0) with
      | some n => (e.loops.getD n Loop.init).back + 1
      | none => e.addr + 1)
  | [] => t

/-- What an enqueued word does to the loops, and where the fetch goes next for it alone. -/
def enterWord (ls : List Loop) (a : Nat) (w : Word) : List Loop × Nat :=
  match decode w with
  | .ok (.allLoop _ lp src count end20) =>
    (setLoop ls lp.toNat (if src then 0 else count.toNat) src a (a + end20.toNat),
      if !src && count == 0 then a + end20.toNat + 1 else a + 1)
  | _ => (ls, a + 1)

/-- One word of the scan. `none` when the stream fetches nothing more in this cycle: its fetch address lies beyond the bound
of R13, or the address that fetching the word gives would; the Bool says that the scan stops after this word (a back edge,
R225). -/
def Stream.scanWord (text : Nat → Word) (st : Strm) (handler : Bool) (limit : Nat) (t : Stream) : Option (Stream × Bool) :=
  let a := t.fetch
  if t.ended || 0x8000 ≤ a || 32 ≤ t.queue.length then none
  else
    let w := text a
    let mine := takes st w
    let en := if mine && !handler then enterWord t.loops a w else (t.loops, a + 1)
    let ps := if handler then (en.1, none) else passLoops 4 en.1 a (1 + en.1.foldl (fun m l => max m l.order) 0)
    if !handler && (limit < a || limit < ps.2.getD en.2) then none
    else some ({ t with
      fetch := ps.2.getD en.2
      loops := ps.1
      queue := if mine then t.queue ++ [{ addr := a, word := w, pre := t.loops, loops := ps.1 }] else t.queue
      ended := mine && !handler && (match decode w with
        | .ok (.allEnd _) => true
        | _ => false) }, ps.2.isSome)

/-- The scan of one cycle: the next words from the fetch address, eight at most (R12). -/
def Stream.scan (text : Nat → Word) (st : Strm) (handler : Bool) (limit : Nat) : Nat → Stream → Stream
  | 0, t => t
  | k + 1, t =>
    match t.scanWord text st handler limit with
    | none => t
    | some (t', true) => t'
    | some (t', false) => Stream.scan text st handler limit k t'

/-- The greatest fetch address that a stream may reach: WINDOW beyond the least fetch address of the others (R13). -/
def Ctx.fetchLimit (x : Ctx) (st : Strm) : Nat :=
  let others := ([Strm.c, .l, .v, .s].filter (fun k => k != st)).map (fun k => (x.strm k).fetch)
  (least others).getD 0 + x.sys.window0.toNat

/-- R12, R13, R225: one stream scans text into its queue. In handler mode only C fetches, and R13 does not apply (R309). -/
def execInstructionFetch (core : Nat) (st : Strm) (s : State) : Host.Outcome State Fault Refusal :=
  let x := s.ctx core
  .next (if x.mode == .run && (!x.frame.handler || st == .c) then
    s.modCtx core (fun y => y.modStrm st (fun t =>
      t.scan (s.textWord core) st y.frame.handler (y.fetchLimit st) 8))
  else s)

/-- An empty queue is refilled (R310). -/
def Stream.refill (text : Nat → Word) (st : Strm) (handler : Bool) (limit : Nat) (t : Stream) : Stream :=
  if t.queue.isEmpty then t.scan text st handler limit 4096 else t

/-- At a restart each stream's queue is refilled from its FHEAD address (R310): up to four scans, since one stops at a back edge
(R225). -/
def State.refill (s : State) (n : Nat) : State :=
  ([Strm.c, .l, .v, .s] ++ [Strm.c, .l, .v, .s] ++ [Strm.c, .l, .v, .s] ++ [Strm.c, .l, .v, .s]).foldl
    (fun t st => t.modCtx n (fun x =>
      if x.frame.handler && st != .c then x else x.modStrm st (fun k => k.refill (t.textWord n) st x.frame.handler (x.fetchLimit st)))) s

/-- An illegal word by its place (R70 detail 6, R74): text at 0x7000 and above outside handler mode. -/
def placeFate (x : Ctx) (a : Nat) : Option Nat := if !x.frame.handler && 0x7000 ≤ a then some 6 else none

/-- The queue that a word of L loads into, or that a word of S stores from (R133); `true` for a load. -/
def namedQueue : Instr → Option (Bool × BitVec 3)
  | .lLdq _ _ q _ _ _ _ => some (true, q)
  | .lLdb _ _ (.lq q) _ _ _ _ => some (true, q)
  | .lLda _ _ (.lq q) _ _ _ _ => some (true, q)
  | .lLdm _ _ q _ _ _ => some (true, q)
  | .lLdgx _ _ q _ _ _ => some (true, q)
  | .sStq _ _ q _ _ _ _ => some (false, q)
  | .sSta _ _ (.sq q) _ _ _ => some (false, q)
  | .sStm _ _ q _ _ _ => some (false, q)
  | .sStsx _ _ q _ _ _ => some (false, q)
  | .sVamo _ _ q _ _ _ _ => some (false, q)
  | _ => none

/-- An illegal word by a coupling (R70 detail 5, R133): it names a bound queue where the coupling forbids it. -/
def coupledFate (x : Ctx) (i : Instr) : Option Nat :=
  match namedQueue i with
  | some (true, q) => if x.launch.cplIn.contains q then some 5 else none
  | some (false, q) => if x.launch.cplOut.any (fun c => c.1 == q) then some 5 else none
  | none => none

/-- The instruction at a stream's head, with the decode of R72: the lowest detail that applies (R70). -/
def headInstr (x : Ctx) (e : QEntry) : Instr :=
  match decode e.word with
  | .error d => .illegalWord d
  | .ok i =>
    match (coupledFate x i).or (placeFate x e.addr) with
    | some d => .illegalWord d
    | none => i

end Sys2Proof.Machine
end

