-- ==== Sys2Proof/Machine/All.lean ====
section
/-! DEFINITION. The words tagged ALL, as each stream executes them (R135 to R140). -/

namespace Sys2Proof.Machine

/-- The header that an ALL word gives each stream: IDLE, and no token bits (R42). -/
def allHdr (idle : BitVec 10) : Hdr := { idle := idle, wp := false, wn := false, pp := false, pn := false }

/-- An ALL word at C's head in handler mode is ILLEGAL with detail 7 (R70, R309). -/
def State.allWord (s : State) (go : Strm → State) : State :=
  if (s.ctx s.me).frame.handler then s.illegal s.cur.st 7 else go s.cur.st

/-- `all.nop` (R139): 8 units per stream that issues it (R380). -/
def execAllNop (idle : BitVec 10) (s : State) : Host.Outcome State Fault Refusal :=
  .next (s.allWord (fun st => s.issue st (allHdr idle) .go (s.done st (allHdr idle) 1 8 id)))

/-! ## Stream barriers -/

/-- Whether a stream stands at a barrier word, and at which. -/
def Stream.barrierAt (t : Stream) : Option StandAt :=
  match t.stand with
  | some (_, .fin) => none
  | some (_, k) => some k
  | none => none

/-- A stream released from its barrier word: the arrival cycle of the last stream counts as its previous issue cycle
(R135). -/
def Stream.pass (t : Stream) (cyc : Nat) : Stream := { t.retire cyc 1 with stand := none }

/-- All four streams stand at barrier words: they are released, and the word at which C stands decides the extra effects
(R135, R139, R140). -/
def Ctx.meet (x : Ctx) (cyc : Nat) : Ctx :=
  match x.c.barrierAt, x.l.barrierAt, x.v.barrierAt, x.s.barrierAt with
  | some k, some _, some _, some _ =>
    let y := { x with c := x.c.pass cyc, l := x.l.pass cyc, v := x.v.pass cyc, s := x.s.pass cyc }
    match k with
    | .realign =>
      let next := x.c.head + 1
      { y with
        bq := []
        l := (x.l.goto next).pass cyc, v := (x.v.goto next).pass cyc, s := (x.s.goto next).pass cyc }
    | .brk =>
      if bitAt x.launch.trc 59 then
        { y with
          frame := { y.frame with pending := some (breakTrap 2, .c) }
          c := x.c.past.pass cyc, l := x.l.past.pass cyc, v := x.v.past.pass cyc, s := x.s.past.pass cyc }
      else y
    | .start => { y with launch := { y.launch with zero := cyc } }
    | .fin => y
  | _, _, _, _ => x

/-- A stream arrives at a word at which it stands: the word charges 8 units (R380). -/
def Ctx.arrive (x : Ctx) (st : Strm) (h : Hdr) (k : StandAt) (cyc : Nat) : Ctx :=
  (x.pay st h 8).modStrm st (fun t => { t with stand := some (cyc, k), cls := .empty, anew := false, skipBp := false })

/-- The arrival at a barrier word, which releases all four streams when it is the last (R135). -/
def State.barrier (s : State) (idle : BitVec 10) (k : StandAt) : State :=
  s.allWord (fun st => s.issue st (allHdr idle) .go
    (s.modCtx s.me (fun x => (x.arrive st (allHdr idle) k (s.cyc s.me)).meet (s.cyc s.me))))

/-- `all.start` (R135): the arrival of the last stream is cycle 0 (R17). -/
def execAllStart (idle : BitVec 10) (s : State) : Host.Outcome State Fault Refusal :=
  .next (s.barrier idle .start)

/-- `all.realign` (R135). -/
def execAllRealign (idle : BitVec 10) (s : State) : Host.Outcome State Fault Refusal :=
  .next (s.barrier idle .realign)

/-- `all.brk` (R139): BREAK with code 2 in the release cycle, when breakpoints are enabled. Without them it is still the stream
barrier that the first sentence of R139 and R140 call it, and its release has no further effect, like an `all.nop` (DEDUCED,
log 10). -/
def execAllBrk (idle : BitVec 10) (s : State) : Host.Outcome State Fault Refusal :=
  .next (s.barrier idle .brk)

/-- The end of a core's array lease: the lease is free from the next cycle (R195). -/
def State.endLease (s : State) (n : Nat) : State :=
  if (s.cluster (clusterOf n)).holder = some n then
    s.modCluster (clusterOf n) (fun c => { c with holder := none, left := 0, freeFrom := c.cyc + 1 })
  else s

/-- `all.end` (R136): the stream stands until the launch ends; when C reaches it, the array lease ends (R195). -/
def execAllEnd (idle : BitVec 10) (s : State) : Host.Outcome State Fault Refusal :=
  .next (s.allWord (fun st => s.issue st (allHdr idle) .go
    (let t := s.modCtx s.me (fun x => x.arrive st (allHdr idle) .fin (s.cyc s.me))
     if st = .c then t.endLease s.me else t)))

/-! ## The broadcast queue (R137, R138) -/

/-- Whether a stream has popped an entry; C never pops. -/
def BEntry.popped (e : BEntry) : Strm → Bool
  | .c => true
  | .l => e.l
  | .v => e.v
  | .s => e.s

/-- Marks an entry popped by a stream. -/
def BEntry.pop (e : BEntry) : Strm → BEntry
  | .c => e
  | .l => { e with l := true }
  | .v => { e with v := true }
  | .s => { e with s := true }

/-- The oldest entry that a stream has not popped, if it can pop it in this cycle (R224). -/
def bqHead (q : List BEntry) (st : Strm) (cyc : Nat) : Option Word :=
  match q with
  | [] => none
  | e :: t => if e.popped st then bqHead t st cyc else if e.pushed < cyc then some e.val else none

/-- A stream pops its oldest entry; an entry leaves when L, V and S have all popped it (R138). -/
def bqPop (q : List BEntry) (st : Strm) : List BEntry :=
  match q with
  | [] => []
  | e :: t =>
    if e.popped st then e :: bqPop t st
    else
      let e' := e.pop st
      if e'.l && e'.v && e'.s then t else e' :: t

/-- C pushes a value (R137, R138). -/
def bqPush (q : List BEntry) (v : Word) (cyc : Nat) : List BEntry := q ++ [{ val := v, pushed := cyc, l := false, v := false, s := false }]

/-- Whether a loop counter is that of an `all.loop` whose count is not known yet. -/
def Loop.awaits (l : Loop) (addr : Nat) : Bool := l.unknown && l.back == addr

/-- A loop counter whose count becomes known: the passes that the fetch has made are taken off. -/
def Loop.learn (l : Loop) (addr count : Nat) : Loop :=
  if l.awaits addr then { l with count := count - l.iter, unknown := false } else l

/-- The counters that an entry records, and those that it leaves, once a count is known. -/
def QEntry.learn (e : QEntry) (addr count : Nat) : QEntry :=
  { e with pre := e.pre.map (·.learn addr count), loops := e.loops.map (·.learn addr count) }

/-- The passes of END that the fetch has made at an `all.loop` whose count is not known. -/
def Stream.passes (t : Stream) (addr lp : Nat) : Nat :=
  let l := t.loops.getD lp Loop.init
  if l.awaits addr then l.iter else 0

/-- The words of the body behind the head that belong to the iterations of a count. -/
def Stream.bodyWords (t : Stream) (addr lp count : Nat) : List QEntry :=
  (t.queue.drop 1).takeWhile (fun e => let l := e.pre.getD lp Loop.init; l.awaits addr && l.iter < count)

/-- An `all.loop` with SRC = 1 learns its count at issue (R137, R225). The words fetched stand as long as the count covers the
passes made. With a count of 0 the words beyond the `all.loop` are discarded, and END + 1 is fetched. A count from 1 up to the
passes made keeps the words of its iterations, and the fetch goes back to the last of them, to pass END with the count known
(DESIGN CHOICE, log 9: the spec gives no fetch that runs past the last iteration). -/
def Stream.learn (t : Stream) (lp last count : Nat) : Stream :=
  let addr := t.head
  let known := { t with loops := t.loops.map (·.learn addr count), queue := t.queue.map (·.learn addr count) }
  if t.passes addr lp < count then known
  else
    let head := (t.queue.take 1).map (·.learn addr count)
    let loops := setLoop (match t.queue with
      | e :: _ => e.loops
      | [] => t.loops) lp count false addr last
    let body := (t.bodyWords addr lp count).map (·.learn addr count)
    match body.getLast? with
    | some e => { t with queue := head ++ body.dropLast, ended := false, fetch := e.addr, loops := e.pre }
    | none => { t with queue := head, ended := false, fetch := if count = 0 then last + 1 else addr + 1, loops := loops }

/-- A count read from a register or the broadcast queue: min(value, 131,071) (R137). -/
def loopCount (v : Word) : Nat := min v.toNat 131071

/-- `all.loop` (R137). With SRC = 0 the fetch has set the counter up when it passed the word (Fetch.lean); with SRC = 1
C pushes the register into the broadcast queue, waiting while the queue is full, and L, V and S pop it, waiting while it
is empty. -/
def execAllLoop (idle : BitVec 10) (lp : BitVec 2) (src : Bool) (count : BitVec 17) (end20 : BitVec 20) (s : State) :
    Host.Outcome State Fault Refusal :=
  let h := allHdr idle
  .next (s.allWord (fun st =>
    let x := s.ctx s.me
    let last := (x.strm st).head + end20.toNat
    if !src then s.issue st h .go (s.done st h 1 8 id)
    else
      match st with
      | .c =>
        let v := x.reg (count.setWidth 5)
        s.issue .c h (if 8 ≤ x.bq.length then .hold .busy else .go)
          (s.done .c h 1 8 (fun y => { y with bq := bqPush y.bq v (s.cyc s.me), c := y.c.learn lp.toNat last (loopCount v) }))
      | k =>
        match bqHead x.bq k (s.cyc s.me) with
        | none => s.issue k h (.hold .busy) s
        | some v =>
          s.issue k h .go (s.done k h 1 8 (fun y =>
            ({ y with bq := bqPop y.bq k }).modStrm k (fun t => t.learn lp.toNat last (loopCount v))))))

/-- `all.br` (R138): C evaluates and pushes the outcome, waiting while the queue is full, and moves as `c.b` does; L, V and
S pop it, waiting while the queue is empty, and move to the target when it is "taken". Of a count that an `all.loop` of C pushed,
which R140 lets them pop, any but zero is "taken", and an `all.loop` takes an outcome as the count 1 or 0 (DESIGN CHOICE, log 83). -/
def execAllBr (idle : BitVec 10) (a b : BitVec 5) (cnd : Cnd) (ofs : BitVec 27) (s : State) :
    Host.Outcome State Fault Refusal :=
  let h := allHdr idle
  .next (s.allWord (fun st =>
    let x := s.ctx s.me
    match x.target st ofs.toInt with
    | none => s.illegal st 6
    | some tgt =>
      match st with
      | .c =>
        let taken := cndHolds cnd (x.reg a) (x.reg b)
        s.issue .c h (if 8 ≤ x.bq.length then .hold .busy else .go)
          (s.done .c h (if taken then 3 else 1) 8 (fun y =>
            { y with bq := bqPush y.bq (flagWord taken) (s.cyc s.me), c := if taken then y.c.goto tgt else y.c }))
      | k =>
        match bqHead x.bq k (s.cyc s.me) with
        | none => s.issue k h (.hold .busy) s
        | some v =>
          s.issue k h .go (s.done k h 1 8 (fun y =>
            ({ y with bq := bqPop y.bq k }).modStrm k (fun t => if v = 0 then t else t.goto tgt)))))

end Sys2Proof.Machine
end

