-- ==== Sys2Proof/Machine/Domain.lean ====
section
/-! DEFINITION. The power domains: their states, the touch check (R18, R37, R38, R314), wake, sleep and the wake queues
(R38, R39, R142 to R144). -/

namespace Sys2Proof.Machine

/-- The type code of R35. -/
def domCode : DomTy → Nat
  | .vlg => 0
  | .gfb => 1
  | .spb => 2
  | .acb => 3
  | .xe => 4
  | .maq => 5
  | .wbb => 6
  | .ce => 7

/-- Where a domain stands in the table of its core or cluster. -/
def domSlot : DomTy → Nat → Nat
  | .vlg, i => i
  | .gfb, i => 4 + i
  | .spb, i => 8 + i
  | .acb, i => 40 + i
  | .xe, i => 64 + i
  | .maq, i => i
  | .wbb, i => 4 + i
  | .ce, i => 20 + i

/-- Whether a domain belongs to the cluster (R35). -/
def ofCluster : DomTy → Bool
  | .maq => true
  | .wbb => true
  | .ce => true
  | _ => false

/-- The domain that a slot of a core's table is; slot 65 stands for CE in the core's wake queue. -/
def coreSlot (n : Nat) : DomTy × Nat :=
  if n < 4 then (.vlg, n) else if n < 8 then (.gfb, n - 4) else if n < 40 then (.spb, n - 8)
  else if n < 64 then (.acb, n - 40) else if n = 64 then (.xe, 0) else (.ce, 0)

/-- The domain that a slot of a cluster's table is. -/
def clusterSlot (n : Nat) : DomTy × Nat :=
  if n < 4 then (.maq, n) else if n < 20 then (.wbb, n - 4) else (.ce, 0)

/-- A domain, named from a core. -/
def State.dom (s : State) (core : Nat) (dt : DomTy) (i : Nat) : Dom :=
  if ofCluster dt then (s.cluster (clusterOf core)).doms.get (domSlot dt i) Dom.init
  else (s.core core).doms.get (domSlot dt i) Dom.init

/-- Sets a domain. -/
def State.setDom (s : State) (core : Nat) (dt : DomTy) (i : Nat) (d : Dom) : State :=
  if ofCluster dt then s.modCluster (clusterOf core) (fun c => { c with doms := c.doms.put (domSlot dt i) d })
  else s.modCore core (fun c => { c with doms := c.doms.put (domSlot dt i) d })

/-- Whether a domain's record names the bank of a context (R314): domains of types 0 to 4 and 6. -/
def recordsBank : DomTy → Bool
  | .maq => false
  | .ce => false
  | _ => true

/-- Whether the CE is held awake for a core's cluster: any reference bit (R39). -/
def State.ceHeld (s : State) (core : Nat) : Bool := !(s.cluster (clusterOf core)).ceRefs.isEmpty

/-- The code of a domain's own state (R308). -/
def DomSt.code : DomSt → Nat
  | .off => 0
  | .retained => 1
  | .waking => 2
  | .awake => 3

/-- DSTATE of R308 for a context of `me` that looks at a domain of `core`: 0 off, 1 retained, 2 waking, 3 awake, 4 held by
the other bank (R314). -/
def State.domState (s : State) (me core : Nat) (dt : DomTy) (i : Nat) : Nat :=
  let d := s.dom core dt i
  if d.st != .off && recordsBank dt && d.owner != (s.core me).bank then 4
  else d.st.code

/-- A domain that an instruction touches: its core (for a cluster domain, any of the cluster), type and index. -/
abbrev Touch := Nat × DomTy × Nat

/-- Of two domains not awake, the one of lowest type, then of lowest index, is named (R18). -/
def Touch.before (a b : Touch) : Bool :=
  domCode a.2.1 < domCode b.2.1 || (domCode a.2.1 == domCode b.2.1 && (a.2.2 < b.2.2 || (a.2.2 == b.2.2 && a.1 ≤ b.1)))

/-- The domain that SLEEPING names among those touched (R18), if any is not awake. -/
def State.asleep (s : State) (me : Nat) (ts : List Touch) : Option Touch :=
  (ts.filter (fun t => s.domState me t.1 t.2.1 t.2.2 != 3)).foldl
    (fun r t =>
      match r with
      | none => some t
      | some u => if Touch.before u t then some u else some t) none

/-- The SLEEPING fault of a domain (R18, R308). -/
def State.sleepTrap (s : State) (me : Nat) (t : Touch) (va : Nat) : Trap :=
  { cause := .sleeping, va := BitVec.ofNat 64 va, core := t.1, dstate := s.domState me t.1 t.2.1 t.2.2, didx := t.2.2,
    dtype := domCode t.2.1 }

/-- Condition 5 of R17 (R18): SLEEPING when a touched domain is not awake. -/
def State.touch (s : State) (me : Nat) (ts : List Touch) (va : Nat) : Verdict :=
  match s.asleep me ts with
  | some t => .trap (s.sleepTrap me t va)
  | none => .go

/-- Inrush weights (R142). -/
def domWeight : DomTy → Nat
  | .vlg => 4
  | .gfb => 1
  | .spb => 2
  | .acb => 3
  | .xe => 6
  | .maq => 24
  | .wbb => 4
  | .ce => 4

/-- Wake latencies, cold or from retention (R142). -/
def wakeTime : DomTy → Bool → Nat
  | .vlg, _ => 24
  | .gfb, _ => 20
  | .spb, true => 300
  | .spb, false => 40
  | .acb, true => 560
  | .acb, false => 48
  | .xe, _ => 120
  | .maq, _ => 400
  | .wbb, true => 2100
  | .wbb, false => 60
  | .ce, _ => 80

/-- Sleep times (R142). -/
def sleepTime : DomTy → Nat
  | .vlg => 4
  | .gfb => 8
  | .spb => 8
  | .acb => 8
  | .xe => 4
  | .maq => 4
  | .wbb => 8
  | .ce => 4

/-- What a wake charges (R381): cold, or from retention; cluster domains charge no context. -/
def wakeUnits : DomTy → Bool → Nat
  | .vlg, _ => 512
  | .gfb, _ => 128
  | .spb, c => if c then 2048 else 256
  | .acb, c => if c then 4096 else 384
  | .xe, _ => 1024
  | _, _ => 0

/-- What a domain charges in each awake cycle (R381). -/
def staticUnits : DomTy → Nat
  | .vlg => 2
  | .gfb => 1
  | .spb => 1
  | .acb => 2
  | .xe => 3
  | _ => 0

/-- Whether a type has retention (R38, R144). -/
def retains : DomTy → Bool
  | .spb => true
  | .acb => true
  | .wbb => true
  | _ => false

/-- The indexes that a MASK names, ascending (R45). -/
def maskIxs (dt : DomTy) (mask : BitVec 32) : List Nat := (upto 0 (dt.last + 1)).filter (fun i => bitAt mask i)

/-- Sets the CE reference bit of a core and a bank (R39, R314). -/
def State.setCeRef (s : State) (core : Nat) (bank : Bool) : State :=
  s.modCluster (clusterOf core) (fun c =>
    { c with ceRefs := if c.ceRefs.contains (core, bank) then c.ceRefs else (core, bank) :: c.ceRefs })

/-- A domain joins the wake queue of a core, or of its lease, for a bank (R38, R143, R314): off or retained, it is waking from now on;
otherwise nothing changes, but that a sleep pending on a waking CE no longer stands (R39). -/
def State.joinWake (s : State) (core : Nat) (bank : Bool) (dt : DomTy) (i : Nat) : State :=
  let d := s.dom core dt i
  match d.st with
  | .waking => if dt = .ce then s.setDom core dt i { d with sleepPend := none } else s
  | .awake => s
  | k =>
    let s1 := s.setDom core dt i
      { d with st := .waking, queued := true, cold := k == .off || (d.cold && d.sleptAt.isSome), sleepPend := none, owner := bank }
    match dt with
    | .maq => s1.modCluster (clusterOf core) (fun c => { c with wakeQ := c.wakeQ ++ [domSlot dt i] })
    | .wbb => s1.modCluster (clusterOf core) (fun c => { c with wakeQ := c.wakeQ ++ [domSlot dt i] })
    | .ce => (s1.modCore core (fun c => { c with wakeQ := c.wakeQ ++ [65] })).modCluster (clusterOf core) (fun c => { c with ceBy := core })
    | _ => s1.modCore core (fun c => { c with wakeQ := c.wakeQ ++ [domSlot dt i] })

/-- The wake of one domain by the running context of a core (R38, R143); a wake of CE also sets the core's reference bit (R39). -/
def State.wakeOne (s : State) (core : Nat) (dt : DomTy) (i : Nat) : State :=
  let bank := (s.core core).bank
  (if dt = .ce then s.setCeRef core bank else s).joinWake core bank dt i

/-- Puts a domain to sleep (R38, R144): its target state from now on; the power-off follows. Of two sleeps of a waking domain
each takes effect when it is awake, so that one to off leaves it off whatever the other is (DEDUCED, log 64). -/
def Dom.sleep (d : Dom) (dt : DomTy) (ret : Bool) (cyc : Nat) : Dom :=
  let ret := ret && retains dt
  match d.st with
  | .off => d
  | .retained => if ret then d else { d with st := .off, cold := true }
  | .waking => { d with sleepPend := some (d.sleepPend.getD true && ret) }
  | .awake => { d with st := if ret then .retained else .off, cold := !ret, sleptAt := some cyc, offAt := none, sleepPend := none }

/-- The sleep of one domain by a core: a sleep of CE clears the core's reference bit, and the engine sleeps with the last
(R39, R144). -/
def State.sleepOne (s : State) (core : Nat) (dt : DomTy) (ret : Bool) (i : Nat) : State :=
  if dt = .ce then
    let s1 := s.modCluster (clusterOf core) (fun c =>
      { c with ceRefs := c.ceRefs.filter (fun r => r != (core, (s.core core).bank)) })
    if s1.ceHeld core then s1
    else s1.setDom core .ce 0 ((s1.dom core .ce 0).sleep .ce false (s.cyc core))
  else s.setDom core dt i ((s.dom core dt i).sleep dt ret (s.cyc core))

/-- Whether a core holds its cluster's array lease (R34). -/
def State.holdsLease (s : State) (core : Nat) : Bool := (s.cluster (clusterOf core)).holder == some core

/-- Cluster domains of types 5 and 6 may be woken and put to sleep by the lease holder only (R35, R141). -/
def State.leaseCheck (s : State) (core : Nat) (dt : DomTy) (mask : BitVec 32) : Verdict :=
  match dt with
  | .maq => if mask = 0 ∨ s.holdsLease core then .go else .trap { cause := .nolease }
  | .wbb => if mask = 0 ∨ s.holdsLease core then .go else .trap { cause := .nolease }
  | _ => .go

/-- A domain recorded for the other bank may be neither touched nor woken (R314). -/
def State.otherBank (s : State) (core : Nat) (dt : DomTy) (mask : BitVec 32) : Verdict :=
  match (maskIxs dt mask).find? (fun i => s.domState core core dt i == 4) with
  | some i => .trap (s.sleepTrap core (core, dt, i) 0)
  | none => .go

/-- The first verdict that is not `go`. -/
def Verdict.andThen (a b : Verdict) : Verdict :=
  match a with
  | .go => b
  | x => x

/-- `wake` in a stream (R141, R143): 8 units, occupancy 1; each named domain in ascending index order. -/
def State.wake (s : State) (st : Strm) (h : Hdr) (dt : DomTy) (mask : BitVec 32) : State :=
  s.issue st h ((s.leaseCheck s.me dt mask).andThen (s.otherBank s.me dt mask))
    ((maskIxs dt mask).foldl (fun t i => t.wakeOne s.me dt i) (s.done st h 1 8 id))

/-- `sleep` in a stream (R141, R144). -/
def State.sleep (s : State) (st : Strm) (h : Hdr) (dt : DomTy) (ret : Bool) (mask : BitVec 32) : State :=
  s.issue st h (s.leaseCheck s.me dt mask) ((maskIxs dt mask).foldl (fun t i => t.sleepOne s.me dt ret i) (s.done st h 1 8 id))

/-- A domain named by a `wstat` that is off or retained, and not queued for wake (R145): whichever bank's context woke it. -/
def State.wstatFault (s : State) (core : Nat) (dt : DomTy) (mask : BitVec 32) : Option Nat :=
  (maskIxs dt mask).find? (fun i => let d := (s.dom core dt i).st; d == .off || d == .retained)

/-- Whether every domain that a `wstat` names is awake (R145). -/
def State.allAwake (s : State) (core : Nat) (dt : DomTy) (mask : BitVec 32) : Bool :=
  (maskIxs dt mask).all (fun i => (s.dom core dt i).st == .awake)

/-- The SLEEPING of a `wstat`: the domain and its state (R145). -/
def State.wstatTrap (s : State) (core : Nat) (dt : DomTy) (i : Nat) : Trap :=
  { s.sleepTrap core (core, dt, i) 0 with dstate := (s.dom core dt i).st.code }

/-- `wstat` in a stream (R145): SLEEPING for a domain that is off or retained and not queued; released at once when all
named domains are awake, otherwise it waits. -/
def State.wstat (s : State) (st : Strm) (h : Hdr) (dt : DomTy) (mask : BitVec 32) : State :=
  s.issue st h
    (match s.wstatFault s.me dt mask with
     | some i => .trap (s.wstatTrap s.me dt i)
     | none => .go)
    (if s.allAwake s.me dt mask then s.done st h 1 8 id else s.waits st h 8 (.wstat dt mask))

/-! ## The steps of the wake queues and the power-offs -/

/-- The weight of a core's domains still waking: started and not yet awake; CE counts where it was queued (R143). -/
def State.wakingWeight (s : State) (lease : Bool) (n : Nat) : Nat :=
  if lease then
    ((s.cluster n).doms.filter (fun d => d.1 < 20 && d.2.st == .waking && !d.2.queued)).foldl
      (fun w d => w + domWeight (clusterSlot d.1).1) 0
  else
    ((s.core n).doms.filter (fun d => d.2.st == .waking && !d.2.queued)).foldl
      (fun w d => w + domWeight (coreSlot d.1).1) 0 +
    (if (s.dom n .ce 0).st == .waking && !(s.dom n .ce 0).queued && (s.cluster (clusterOf n)).ceBy == n
     then domWeight .ce else 0)

/-- Charges a context of a core by its bank (R379, R381): none where no launch's context stands, so that the re-wakes of a resume or a
placement are charged to no context. -/
def State.chargeBank (s : State) (core : Nat) (bank : Bool) (units : Nat) : State :=
  let add := fun (x : Ctx) => if x.mode = .off then x else { x with sys := { x.sys with charge := x.sys.charge + units } }
  s.modCore core (fun c => if c.bank = bank then { c with ctx := add c.ctx } else { c with alt := add c.alt })

/-- R143: the head of a wake queue starts: its weight fits in the budget of 32 (a core's) or 96 (the lease's) less the
weight still waking, and no sleep of it is still completing. -/
def execDomainWakeStart (lease : Bool) (n : Nat) (s : State) : Host.Outcome State Fault Refusal :=
  let core := if lease then 4 * n else n
  let q := if lease then (s.cluster n).wakeQ else (s.core n).wakeQ
  .next (match q with
    | [] => s
    | k :: rest =>
      let (dt, i) := if lease then clusterSlot k else coreSlot k
      let d := s.dom core dt i
      let cyc := s.cyc core
      if d.sleptAt.isSome then s
      else if (if lease then 96 else 32) < s.wakingWeight lease n + domWeight dt then s
      else
        let s0 := s.chargeBank core d.owner (wakeUnits dt d.cold)
        let s1 := s0.setDom core dt i { d with queued := false, ready := cyc + wakeTime dt d.cold }
        if lease then s1.modCluster n (fun c => { c with wakeQ := rest })
        else s1.modCore n (fun c => { c with wakeQ := rest }))

/-- The bytes of a bank: [lo, hi) of its store (R2, R26, R27). -/
def bankBytes : DomTy → Nat → Nat × Nat
  | .spb, i => (i * 0x10000, (i + 1) * 0x10000)
  | .acb, i => (i * 0x20000, (i + 1) * 0x20000)
  | .wbb, i => (i * 0x80000, (i + 1) * 0x80000)
  | _, _ => (0, 0)

/-- A cold wake zero-fills storage: the bytes, packed bits, mismatches and dirty marks of the domain (R38, R143, R320). -/
def State.zeroFill (s : State) (core : Nat) (dt : DomTy) (i : Nat) : State :=
  let (lo, hi) := bankBytes dt i
  let out := fun (unit : Nat) (l : List Nat) => l.filter (fun k => !(lo ≤ k * unit && k * unit < hi))
  let flaws := fun (l : Store Flaw) => l.filter (fun e => !(lo ≤ e.1 * 32 && e.1 * 32 < hi))
  match dt with
  | .gfb =>
    let cut := fun (x : Ctx) => { x with regs := { x.regs with
      grid := x.regs.grid.filter (fun c => !(1024 * i ≤ c.1 && c.1 < 1024 * (i + 1))) } }
    s.modCore core (fun c => { c with ctx := cut c.ctx, alt := cut c.alt })
  | .spb => s.modCore core (fun c => { c with
      spad := c.spad.clear lo hi, packed := out 256 c.packed, badSpad := flaws c.badSpad, dirtySpad := out 4096 c.dirtySpad })
  | .acb => s.modCore core (fun c => { c with
      acc := c.acc.clear lo hi, badAcc := flaws c.badAcc, dirtyAcc := out 4096 c.dirtyAcc })
  | .wbb => s.modCluster (clusterOf core) (fun c => { c with
      wb := c.wb.clear lo hi, wbPacked := out 256 c.wbPacked, wbBad := flaws c.wbBad, wbDirty := out 4096 c.wbDirty })
  | _ => s

/-- The owner core of a domain reference: for cluster domains the first core of the cluster. -/
def DomRef.core (d : DomRef) : Nat := if ofCluster d.ty then 4 * d.owner else d.owner

/-- R143: a started domain is awake from its ready cycle; a sleep that was pending takes effect (R38). -/
def execDomainAwake (dom : DomRef) (s : State) : Host.Outcome State Fault Refusal :=
  let core := DomRef.core dom
  let d := s.dom core dom.ty dom.ix
  .next (if d.st == .waking && !d.queued && d.ready ≤ s.cyc core then
    let s1 := if d.cold then s.zeroFill core dom.ty dom.ix else s
    let a : Dom := { d with st := .awake, cold := false, sleepPend := none }
    s1.setDom core dom.ty dom.ix
      (match d.sleepPend with
       | some ret => a.sleep dom.ty ret (s.cyc core)
       | none => a)
  else s)

end Sys2Proof.Machine
end

