-- ==== Sys2Proof/Machine/Power.lean ====
section
/-! DEFINITION. `wake`, `sleep` and `wstat` in each stream (R119, R141): one operation, one meaning per stream. -/

namespace Sys2Proof.Machine

/-- R141, R143. -/
def execCWake (h : Hdr) (dt : DomTy) (mask : BitVec 32) (s : State) : Host.Outcome State Fault Refusal :=
  .next (s.wake .c h dt mask)

/-- R141, R144. -/
def execCSleep (h : Hdr) (dt : DomTy) (ret : Bool) (mask : BitVec 32) (s : State) : Host.Outcome State Fault Refusal :=
  .next (s.sleep .c h dt ret mask)

/-- R141, R145. -/
def execCWstat (h : Hdr) (dt : DomTy) (mask : BitVec 32) (s : State) : Host.Outcome State Fault Refusal :=
  .next (s.wstat .c h dt mask)

/-- R141, R143. -/
def execLWake (h : Hdr) (dt : DomTy) (mask : BitVec 32) (s : State) : Host.Outcome State Fault Refusal :=
  .next (s.wake .l h dt mask)

/-- R141, R144. -/
def execLSleep (h : Hdr) (dt : DomTy) (ret : Bool) (mask : BitVec 32) (s : State) : Host.Outcome State Fault Refusal :=
  .next (s.sleep .l h dt ret mask)

/-- R141, R145. -/
def execLWstat (h : Hdr) (dt : DomTy) (mask : BitVec 32) (s : State) : Host.Outcome State Fault Refusal :=
  .next (s.wstat .l h dt mask)

/-- R141, R143. -/
def execVWake (h : Hdr) (dt : DomTy) (mask : BitVec 32) (s : State) : Host.Outcome State Fault Refusal :=
  .next (s.wake .v h dt mask)

/-- R141, R144. -/
def execVSleep (h : Hdr) (dt : DomTy) (ret : Bool) (mask : BitVec 32) (s : State) : Host.Outcome State Fault Refusal :=
  .next (s.sleep .v h dt ret mask)

/-- R141, R145. -/
def execVWstat (h : Hdr) (dt : DomTy) (mask : BitVec 32) (s : State) : Host.Outcome State Fault Refusal :=
  .next (s.wstat .v h dt mask)

/-- R141, R143. -/
def execSWake (h : Hdr) (dt : DomTy) (mask : BitVec 32) (s : State) : Host.Outcome State Fault Refusal :=
  .next (s.wake .s h dt mask)

/-- R141, R144. -/
def execSSleep (h : Hdr) (dt : DomTy) (ret : Bool) (mask : BitVec 32) (s : State) : Host.Outcome State Fault Refusal :=
  .next (s.sleep .s h dt ret mask)

/-- R141, R145. -/
def execSWstat (h : Hdr) (dt : DomTy) (mask : BitVec 32) (s : State) : Host.Outcome State Fault Refusal :=
  .next (s.wstat .s h dt mask)

end Sys2Proof.Machine
end

