-- ==== Sys2Proof/Machine/Translate.lean ====
section
/-! DEFINITION. Addresses: the local window (R32, R33), the halves of the virtual space (R286), page tables and walks
(R289 to R292, R298), leases (R296, R297), and the places of physical addresses (R287). -/

namespace Sys2Proof.Machine

/-- The base of the core-local window (R32). -/
def windowBase : Nat := 0x00FFFFFFFF000000

/-- A region of the core-local window (R32). -/
inductive Win
  | spad (core off : Nat)
  | cmd (eng : Eng) (off : Nat)
  | rings (off : Nat)
  | tiles (off : Nat)
  deriving DecidableEq, Repr

/-- The region that a window offset lies in, and where the region ends (R32). -/
def winAt (core off : Nat) : Option (Win × Nat) :=
  if off < 0x200000 then some (.spad core off, 0x200000)
  else if off < 0xA00000 then
    let k := (off - 0x200000) / 0x200000
    some (.spad (4 * clusterOf core + k) ((off - 0x200000) % 0x200000), 0x200000 + (k + 1) * 0x200000)
  else if off < 0xA00040 then some (.cmd .array (off - 0xA00000), 0xA00040)
  else if off < 0xA00080 then some (.cmd .copy (off - 0xA00040), 0xA00080)
  else if off < 0xA000C0 then some (.cmd .xe (off - 0xA00080), 0xA000C0)
  else if 0xA10000 ≤ off ∧ off < 0xA11000 then some (.rings (off - 0xA10000), 0xA11000)
  else if 0xA20000 ≤ off ∧ off < 0xA20400 then some (.tiles (off - 0xA20000), 0xA20400)
  else none

/-- Where a virtual address lies before translation. -/
inductive Where
  | win (w : Win)
  | ext
  | bad
  deriving DecidableEq, Repr

/-- Resolves an address and a length: an unmapped window offset, or a range that runs out of its region, is `bad` (R33). An
address with a nonzero bit in [63:56] lies outside the window, and translation gives it XLATE (R286, R291). -/
def resolve (core va len : Nat) : Where :=
  if va < windowBase ∨ 2 ^ 56 ≤ va then .ext
  else
    match winAt core (va - windowBase) with
    | some (w, e) => if va - windowBase + len ≤ e then .win w else .bad
    | none => .bad

/-- The scratchpad banks that a byte range covers (R26). -/
def spadBanks (core off len : Nat) : List Touch :=
  (upto (off / 0x10000) ((off + len - 1) / 0x10000 + 1 - off / 0x10000)).map (fun k => (core, DomTy.spb, k))

/-- The accumulator banks that a byte range covers (R27). -/
def accBanks (core off len : Nat) : List Touch :=
  (upto (off / 0x20000) ((off + len - 1) / 0x20000 + 1 - off / 0x20000)).map (fun k => (core, DomTy.acb, k))

/-! ## Leases -/

/-- The lease length of a code, in nanoseconds (R296). -/
def leaseLen (code : Nat) : Nat := if code = 0 then 64 else 2 ^ (code + 5)

/-- Whether a lease covers an address and is not expired (R297). -/
def Lease.covers (e : Lease) (va time : Nat) : Bool := va / 2 ^ e.log2 == e.page / 2 ^ e.log2 && time < e.expiry

/-- The lease that a lookup hits (R297). -/
def leaseFind (ls : List Lease) (va time : Nat) : Option Lease := ls.find? (fun e => e.covers va time)

/-- The physical address under a lease. -/
def Lease.phys (e : Lease) (va : Nat) : Nat := e.pa + va % 2 ^ e.log2

/-- The entry to replace: an expired one first, otherwise the least recently used (R297). A cache lists its entries from the most
recently used on, which decides between two uses in one nanosecond. -/
def leaseVictim (ls : List Lease) (time : Nat) : Option Lease :=
  match ls.find? (fun e => e.expiry ≤ time) with
  | some e => some e
  | none => ls.foldl (fun r e =>
      match r with
      | none => some e
      | some v => if e.used ≤ v.used then some e else some v) none

/-- Enters a lease into a cache of `n` entries (R297): its use counts from the entry, by the clock of the cache's cluster. -/
def leaseAdd (ls : List Lease) (n time : Nat) (e : Lease) : List Lease :=
  let ls := ls.filter (fun o => !(o.page == e.page && o.log2 == e.log2))
  let e := { e with used := time }
  if ls.length < n then e :: ls
  else
    match leaseVictim ls time with
    | some v => e :: ls.filter (fun o => o != v)
    | none => [e]

/-- The KEY bit of a page is set in XLCFG.KEYS (R291). -/
def keyOk (xlcfg : Word) (key : Nat) : Bool := bitAt xlcfg (16 + key)

/-- Whether a lease gives the permissions that an access needs (R291). -/
def Lease.permits (e : Lease) (xlcfg : Word) (r w : Bool) : Bool := (!r || e.r) && (!w || e.w) && keyOk xlcfg e.key

/-! ## Walks -/

/-- Whether a physical address names this device (R287). -/
def State.isLocal (s : State) (pa : Nat) : Bool := pa / 2 ^ 42 == s.mgmt.podid.toNat

/-- The place of a physical address; `none` beyond the installed capacity (R287). -/
def State.placeOf (s : State) (pa : Nat) : Option Place :=
  if s.isLocal pa then (if pa % 2 ^ 42 < s.slices.capacity then some (.dev (pa % 2 ^ 42)) else none) else some (.peer pa)

/-- What one entry of a page table says at a level (R289 to R291). -/
inductive Pte
  | table (pa : Nat)
  | leaf (e : Lease) (migrating : Bool)
  | bad
  deriving DecidableEq, Repr

/-- Reads one entry (R290): at level 3 no leaf, at level 1 a leaf; a 512 MiB leaf has PA[28:16] zero; a table lies in this
device; reserved bits are zero. T_r is the time of the read (R296). -/
def State.pte (s : State) (e : Word) (level va time : Nat) : Pte :=
  let leaf := bitAt e 1
  let pa := bits e 16 36 * 2 ^ 16
  if !bitAt e 0 || bits e 52 4 != 0 then .bad
  else if leaf then
    if level = 3 ∨ (level = 2 ∧ bits e 16 13 ≠ 0) then .bad
    else
      let l := if level = 2 then 29 else 16
      let len := leaseLen (bits e 8 4)
      .leaf { page := va / 2 ^ l * 2 ^ l, log2 := l, pa := pa, r := bitAt e 2, w := bitAt e 3, key := bits e 12 4,
              d := bitAt e 6, c := bitAt e 5, len := if bits e 8 4 = 0 then 0 else len, expiry := time + len, used := time }
        (bitAt e 7)
  else if level = 1 ∨ bits e 2 14 ≠ 0 ∨ !s.isLocal pa then .bad
  else .table (pa % 2 ^ 42)

/-- The page of a launched region's read-only data that holds an address, as the loader maps it (R267 step 1): R only. The spec
gives the page no KEY, and the model takes KEY 0, so that the data take PERM while bit 0 of XLCFG.KEYS is clear (DESIGN CHOICE,
log 39). -/
def State.rodataLease (s : State) (part va time : Nat) : Option Lease :=
  ((s.part part).regions.filter Region.active).findSome? (fun r =>
    match r.rodata with
    | some (v, f, n) =>
      if v ≤ va ∧ va < v + 65536 * n then
        let c := Config.rodataLease.toNat
        some { page := va / 65536 * 65536, log2 := 16, pa := s.mgmt.podid.toNat * 2 ^ 42 + f + (va / 65536 * 65536 - v), r := true,
               w := false, key := 0, d := false, c := false, len := if c = 0 then 0 else leaseLen c, expiry := time + leaseLen c,
               used := time }
      else none
    | none => none)

/-- The index of a level (R289): VA[54:42], VA[41:29], VA[28:16]. -/
def pteIndex (level va : Nat) : Nat := va / 2 ^ (16 + 13 * (level - 1)) % 2 ^ 13

/-- The first two checks of R291 for a requester of a cluster: SKEW for a marked cluster, XLATE for high bits that are not
zero and for a half that is not translated. -/
def State.xlateCheck (s : State) (core part va : Nat) : Option Cause :=
  if (s.cluster (clusterOf core)).skewed then some .skew
  else if 2 ^ 56 ≤ va then some .xlate
  else if 2 ^ 55 ≤ va then (if bitAt (s.part part).xlroot 0 then none else some .xlate)
  else if bitAt (s.part part).xlcfg 0 then none else some .xlate

/-- A translation that a stream's head may use: its own walk's, or a hit in the access lease cache with the permissions
(R297); a hit without them is no hit. -/
def State.lookup (s : State) (core : Nat) (st : Strm) (va : Nat) (r w : Bool) : Option Lease :=
  let p := s.part (s.ctx core).launch.part
  let time := s.timeAt (clusterOf core)
  match leaseFind (((s.ctx core).strm st).pages) va time with
  | some e => if e.permits p.xlcfg r w then some e else none
  | none =>
    match leaseFind (s.core core).leases va time with
    | some e => if e.permits p.xlcfg r w then some e else none
    | none => none

/-- A use of the leases of a cache that cover some addresses, for the replacement of R297. -/
def leaseUse (ls : List Lease) (vas : List Nat) (time : Nat) : List Lease :=
  let hit := fun (e : Lease) => vas.any (fun va => e.covers va time)
  ((ls.filter hit).map (fun (e : Lease) => { e with used := time })) ++ ls.filter (fun e => !hit e)

/-- A use of the access lease cache. -/
def State.useLeases (s : State) (core : Nat) (vas : List Nat) : State :=
  s.modCore core (fun c => { c with leases := leaseUse c.leases vas (s.timeAt (clusterOf core)) })

/-- The page that a walk resolves: 64 KiB in the upper half (R289), 4 KiB in the lower (R292). -/
def walkPage (va : Nat) : Nat := if 2 ^ 55 ≤ va then 16 else 12

/-- A hit that failed its permission check is discarded from the access lease cache (R297). -/
def State.dropLease (s : State) (core va : Nat) : State :=
  s.modCore core (fun c => { c with leases := c.leases.filter (fun (e : Lease) => !(va / 2 ^ e.log2 == e.page / 2 ^ e.log2)) })

/-- Asks for a walk of a page (R298): joins one that resolves the page already, or takes a walker; the request waits for a
walker when all 16 are busy. -/
def State.askWalkOf (s : State) (part core va : Nat) (req : WalkReq) : State :=
  let cl := clusterOf core
  let c := s.cluster cl
  match c.walks.find? (fun k => k.part == part && k.va / 2 ^ walkPage va == va / 2 ^ walkPage va) with
  | some k =>
    if k.reqs.contains req then s
    else s.setCluster cl { c with walks := c.walks.map (fun o => if o == k then ({ o with reqs := o.reqs ++ [req] } : Walk) else o) }
  | none =>
    let k : Walk :=
      { part := part, va := va, reqs := [req], level := 3, table := bits (s.part part).xlroot 16 36 * 2 ^ 16, ats := false }
    s.setCluster cl { c with walks := c.walks ++ [k] }

/-- Asks for a walk for the core's launch. -/
def State.askWalk (s : State) (core va : Nat) (req : WalkReq) : State := s.askWalkOf (s.ctx core).launch.part core va req

/-- What a finished walk found. -/
inductive Found
  | lease (e : Lease) (migrating : Bool)
  | fail (c : Cause)
  deriving DecidableEq, Repr

end Sys2Proof.Machine
end

