-- ==== Sys2Proof/Machine/Operands.lean ====
section
/-! DEFINITION. The operands of V (R22 to R25, R147 to R149): designators, lanes, predicates, the domains they touch,
the queues they wait for, and where results go. -/

namespace Sys2Proof.Machine

/-! ## The grid file (R22) -/

/-- The cell of a grid line at a lane: row i gives (i, j), column j gives (i, j), diagonal k gives (i, (i + k) mod 64). -/
def lineCell : Line → Nat → Nat
  | .row i, n => 64 * i.toNat + n
  | .col j, n => 64 * n + j.toNat
  | .dia k, n => 64 * n + (n + k.toNat) % 64

/-- Reads a cell. -/
def Regs.cell (r : Regs) (c : Nat) : Lane := r.grid.get c 0

/-- Writes a cell: zero cells are not listed, so that equal grids are equal data. -/
def Regs.setCell (r : Regs) (c : Nat) (v : Lane) : Regs :=
  { r with grid := if v = 0 then r.grid.del c else r.grid.put c v }

/-- 64 lanes from a function of the lane number. -/
def lanes (f : Nat → Lane) : List Lane := (upto 0 64).map f

/-- One lane. -/
def laneAt (v : List Lane) (j : Nat) : Lane := v.getD j 0

/-- The 64 lanes of a grid line. -/
def Regs.line (r : Regs) (x : Line) : List Lane := lanes (fun j => r.cell (lineCell x j))

/-- Writes the lanes of a grid line that a mask enables. -/
def Regs.setLine (r : Regs) (x : Line) (mask : Word) (v : List Lane) : Regs :=
  (upto 0 64).foldl (fun r j => if bitAt mask j then r.setCell (lineCell x j) (laneAt v j) else r) r

/-! ## Sources and destinations (R23) -/

/-- The grid line of a source. -/
def srcLine : Src → Option Line
  | .row i => some (.row i)
  | .col i => some (.col i)
  | .dia i => some (.dia i)
  | _ => none

/-- The load queue that a source reads, popped or peeked. -/
def srcLq : Src → Option (BitVec 3)
  | .lq n => some n
  | .pk n => some n
  | _ => none

/-- The grid line of a destination. -/
def dstLine : Dst → Option Line
  | .row i => some (.row i)
  | .col i => some (.col i)
  | .dia i => some (.dia i)
  | _ => none

/-- A load queue. -/
def Ctx.lqueue (x : Ctx) (q : BitVec 3) : List QLine := x.lq.getD q.toNat []

/-- A store queue. -/
def Ctx.squeue (x : Ctx) (q : BitVec 3) : List QLine := x.sq.getD q.toNat []

/-- The 64 lanes of a source, read at issue (R147). -/
def Ctx.src (x : Ctx) : Src → List Lane
  | .row i => x.regs.line (.row i)
  | .col i => x.regs.line (.col i)
  | .dia i => x.regs.line (.dia i)
  | .lq q => ((x.lqueue q).head?.map (·.lanes)).getD (lanes (fun _ => 0))
  | .pk q => ((x.lqueue q).head?.map (·.lanes)).getD (lanes (fun _ => 0))
  | .k n => lanes (fun _ => x.regs.k[n.toFin])
  | .lane => lanes (fun j => BitVec.ofNat 32 j)
  | .zero => lanes (fun _ => 0)

/-- Whether every LQ that the sources name has a head with arrived data (R149). -/
def Ctx.lqReady (x : Ctx) (srcs : List Src) : Bool :=
  srcs.all (fun a =>
    match srcLq a with
    | some q => ((x.lqueue q).head?.map (·.filled)).getD false
    | none => true)

/-- The fault that a queue entry named by a source carries (R128, R243). -/
def Ctx.lqBad (x : Ctx) (srcs : List Src) : Option Trap :=
  (srcs.filterMap (fun a => (srcLq a).bind (fun q => (x.lqueue q).head?.bind (·.bad)))).head?

/-- Pops each LQ that a source names as `lq`, once (R23, R147). -/
def Ctx.popLqs (x : Ctx) (srcs : List Src) : Ctx :=
  { x with lq := (upto 0 8).map (fun q =>
      if srcs.any (fun a => a == .lq (BitVec.ofNat 3 q)) then (x.lq.getD q []).tail else x.lq.getD q []) }

/-- Whether the destination has room: an SQ tail has a free entry (R149). -/
def Ctx.dstRoom (x : Ctx) : Dst → Bool
  | .sq q => (x.squeue q).length < 16
  | _ => true

/-- The grid banks that a line touches for the enabled lanes (R22). -/
def lineBanks (me : Nat) (x : Line) (mask : Word) : List Touch :=
  match x with
  | .row i => [(me, .gfb, i.toNat / 16)]
  | _ => ((upto 0 4).filter (fun b => bits mask (16 * b) 16 != 0)).map (fun b => (me, .gfb, b))

/-- The lane groups with an enabled lane (R24). -/
def groupsOf (me : Nat) (mask : Word) : List Touch :=
  ((upto 0 4).filter (fun g => bits mask (16 * g) 16 != 0)).map (fun g => (me, .vlg, g))

/-- The domains that a V instruction touches (R148): its lane groups, and the banks of its lines; a cross-lane source
counts every lane as enabled (R147). -/
def vTouches (me : Nat) (d : Dst) (srcs : List Src) (mask : Word) (cross : Bool) : List Touch :=
  groupsOf me mask ++
    (srcs.filterMap srcLine).flatMap (fun x => lineBanks me x (if cross then BitVec.allOnes 64 else mask)) ++
    ((dstLine d).toList.flatMap (fun x => lineBanks me x mask))

/-- Puts a result in flight (R19); `mask` holds the lanes whose groups the instruction touches (R148). -/
def Ctx.inFlight (x : Ctx) (st : Strm) (mask : Word) (cyc lat : Nat) (dst : PendDst) : Ctx :=
  { x with pend := x.pend ++ [{ due := cyc + lat, issued := cyc, st := st, mask := mask, dst := dst, captured := false }] }

/-- A fresh entry of a queue: claimed, not filled. -/
def QLine.claim (id left : Nat) : QLine := { id := id, filled := false, lanes := [], bad := none, left := left, at_ := 0 }

/-- Claims the tail of an SQ (R20). -/
def Ctx.claimSq (x : Ctx) (q : BitVec 3) : Ctx :=
  { x with sq := x.sq.set q.toNat (x.squeue q ++ [QLine.claim x.nextId 0]), nextId := x.nextId + 1 }

/-- Claims the tail of an LQ (R126, R132). -/
def Ctx.claimLq (x : Ctx) (q : BitVec 3) (left : Nat) : Ctx :=
  { x with lq := x.lq.set q.toNat (x.lqueue q ++ [QLine.claim x.nextId left]), nextId := x.nextId + 1 }

/-- The result of a V instruction on its way to D (R19, R20, R24): in an SQ entry, a disabled lane writes zero. -/
def Ctx.sendTo (x : Ctx) (d : Dst) (mask : Word) (v : List Lane) (cyc lat : Nat) : Ctx :=
  match d with
  | .sq q =>
    (x.claimSq q).inFlight .v mask cyc lat
      (.sq q x.nextId (lanes (fun j => if bitAt mask j then laneAt v j else 0)))
  | .row i => x.inFlight .v mask cyc lat (.line (.row i) mask v)
  | .col i => x.inFlight .v mask cyc lat (.line (.col i) mask v)
  | .dia i => x.inFlight .v mask cyc lat (.line (.dia i) mask v)
  | .void => x

/-- SRSEQ steps by one for an instruction that rounds stochastically (R150, R205). -/
def Ctx.stepSr (x : Ctx) (rnd : Rnd) : Ctx :=
  if rnd = .sr then { x with sys := { x.sys with srseq := x.sys.srseq + 1 } } else x

/-- The 16 random bits of an element of this instruction (R150, R204). -/
def Ctx.rand (x : Ctx) (rnd : Rnd) (index : Nat) : Nat :=
  if rnd = .sr then random16 x.sys.srseed x.sys.srseq index else 0

/-- The verdict of a V instruction (R149): queues, then domains, then a marked LQ entry. -/
def State.vVerdict (s : State) (d : Dst) (srcs : List Src) (ts : List Touch) : Verdict :=
  let x := s.ctx s.me
  if !x.lqReady srcs || !x.dstRoom d then .hold .busy
  else (s.touch s.me ts 0).andThen
    (match x.lqBad srcs with
     | some t => .trap t
     | none => .go)

/-- A V instruction (R147): sources read at issue, LQs popped, the result in flight for `lat` cycles. `zs` are the
predicate writes that go with it. -/
def State.vec (s : State) (h : Hdr) (d : Dst) (srcs : List Src) (mask : Word) (rnd : Rnd) (lat units : Nat)
    (cross : Bool) (zs : Ctx → List PendDst) (f : Ctx → List Lane) : State :=
  s.issue .v h (s.vVerdict d srcs (vTouches s.me d srcs mask cross))
    (s.done .v h 1 units (fun x =>
      let y := ((x.popLqs srcs).sendTo d mask (f x) (s.cyc s.me) lat).stepSr rnd
      (zs x).foldl (fun y z => y.inFlight .v mask (s.cyc s.me) lat z) y))

/-- The predicate that a Z field names, read at issue. -/
def State.mask (s : State) (z : BitVec 3) : Word := (s.ctx s.me).regs.zget z

/-- No predicate write. -/
def noZ : Ctx → List PendDst := fun _ => []

end Sys2Proof.Machine
end

