-- ==== Sys2Proof/Machine/Sector.lean ====
section
/-! DEFINITION. The check of a sector (R359), and the error-correcting codes of HBM and of SRAM under it (R361). -/

namespace Sys2Proof.Machine

/-! ## The check (R359) -/

/-- Bits of a CRC-16 with polynomial 0x8BB7, most significant first. -/
def crc16Bits : Nat → Nat → Nat
  | 0, c => c
  | n + 1, c => crc16Bits n (if 32768 ≤ c then (2 * c % 65536) ^^^ 0x8BB7 else 2 * c)

/-- The check of bytes: initial value 0, no reflection, no final XOR. -/
def sectorCheck (bs : List Byte) : Nat := bs.foldl (fun c b => crc16Bits 8 (c ^^^ (256 * b.toNat))) 0

/-! ## HBM: two parity symbols of a Reed–Solomon code over GF(2⁸) (R361)

R361 names the code and neither the field's polynomial nor the roots: the model takes x⁸ + x⁴ + x³ + x² + 1 and the roots 1 and α
(DESIGN CHOICE, log 75). Which one byte is corrected does not depend on it. -/

/-- Multiplication by α. -/
def gfDouble (x : Nat) : Nat := if 128 ≤ x then (2 * x) ^^^ 0x11D else 2 * x

/-- Multiplication by α to the power `i`. -/
def gfShift (x : Nat) : Nat → Nat
  | 0 => x
  | i + 1 => gfDouble (gfShift x i)

/-- The two syndromes of a word: at 1, and at α. -/
def syndromes (w : List Nat) : Nat × Nat := (w.foldl (fun s b => s ^^^ b) 0, w.foldr (fun b s => b ^^^ gfDouble s) 0)

/-- The parity symbols of 34 bytes: with them both syndromes are zero. -/
def parityOf (w : List Nat) : List Nat :=
  let s := syndromes w
  let p := ((List.range 256).find? (fun p => gfShift p 34 ^^^ gfShift p 35 == s.2 ^^^ gfShift s.1 34)).getD 0
  [s.1 ^^^ p, p]

/-- A word of 36 bytes with any one wrong byte corrected; `none` when it is not correctable. -/
def rsCorrect (w : List Nat) : Option (List Nat) :=
  let s := syndromes w
  if s.1 = 0 then (if s.2 = 0 then some w else none)
  else ((List.range 36).find? (fun i => gfShift s.1 i == s.2)).map (fun i => w.set i (w.getD i 0 ^^^ s.1))

/-! ## SRAM: SEC-DED on each 64 bits (R361), an extended Hamming code (DESIGN CHOICE, log 75) -/

/-- The columns of the code: the first 64 numbers that are no powers of two. -/
def secdedColumns : List Nat := (List.range 72).filter (fun n => !([0, 1, 2, 4, 8, 16, 32, 64].contains n))

/-- The parity of a number's low bits. -/
def oddBits (n v : Nat) : Bool := popCount n v % 2 == 1

/-- The seven check bits of 64 bits, and in bit 7 the parity of all. -/
def secdedOf (v : Nat) : Nat :=
  let c := (secdedColumns.zip (List.range 64)).foldl (fun c k => if v / 2 ^ k.2 % 2 = 1 then c ^^^ k.1 else c) 0
  c + (if oddBits 64 v != oddBits 7 c then 128 else 0)

/-- 64 bits with any one wrong bit corrected; `none` when it is not correctable. -/
def secdedCorrect (v e : Nat) : Option Nat :=
  let syn := (secdedOf v ^^^ e) % 128
  if oddBits 64 v != oddBits 8 e then
    if [0, 1, 2, 4, 8, 16, 32, 64].contains syn then some v else (secdedColumns.idxOf? syn).map (fun i => v ^^^ 2 ^ i)
  else if syn = 0 then some v else none

/-! ## Reading a stored sector -/

/-- What a fetch of a sector finds (R361): the bytes, and whether an error was corrected; a mismatch; an uncorrectable error. -/
inductive Fetched
  | ok (v : List Byte) (corrected : Bool)
  | mismatch
  | uncorrectable
  deriving DecidableEq, Repr

/-- The check is verified (R360). -/
def verify (v : List Byte) (check : Nat) (corrected : Bool) : Fetched := if sectorCheck v = check then .ok v corrected else .mismatch

/-- A fetch from HBM of a sector that was stored as `v`, with some bits wrong. -/
def hbmFetch (v : List Byte) (e : Flaw) : Fetched :=
  let w := (v ++ leBytes 2 (sectorCheck v)).map BitVec.toNat
  match rsCorrect (List.zipWith (fun a b => a ^^^ b) (w ++ parityOf w) ((leBytes 36 e.toNat).map BitVec.toNat)) with
  | some r => verify ((r.take 32).map (BitVec.ofNat 8)) (leNat (((r.drop 32).take 2).map (BitVec.ofNat 8))) (e != 0)
  | none => .uncorrectable

/-- A fetch from SRAM. -/
def sramFetch (v : List Byte) (e : Flaw) : Fetched :=
  let n := leNat v
  let part := fun (i : Nat) =>
    let d := n / 2 ^ (64 * i) % 2 ^ 64
    secdedCorrect (d ^^^ bits e (64 * i) 64) (secdedOf d ^^^ bits e (272 + 8 * i) 8)
  match part 0, part 1, part 2, part 3 with
  | some a, some b, some c, some d =>
    verify (leBytes 32 (a + b * 2 ^ 64 + c * 2 ^ 128 + d * 2 ^ 192)) (sectorCheck v ^^^ bits e 256 16) (e != 0)
  | _, _, _, _ => .uncorrectable

/-- Whether a fetch delivers what was stored. -/
def Fetched.sound (f : Fetched) (v : List Byte) : Bool :=
  match f with
  | .ok w _ => w == v
  | _ => false

/-- Whether a sector of an SRAM is read as it was stored. -/
def sramSound (m : Memory) (bad : Store Flaw) (k : Nat) : Bool :=
  match bad.find k with
  | some e => (sramFetch (m.readN (32 * k) 32) e).sound (m.readN (32 * k) 32)
  | none => true

/-- What a fetch of a sector of an SRAM finds. -/
def sramFetchAt (m : Memory) (bad : Store Flaw) (k : Nat) : Fetched :=
  match bad.find k with
  | some e => sramFetch (m.readN (32 * k) 32) e
  | none => .ok (m.readN (32 * k) 32) false

/-- The machine-check kind of sectors of an SRAM that are not read as they were stored (R362). -/
def sramKind (m : Memory) (bad : Store Flaw) (ks : List Nat) : Nat :=
  if ks.any (fun k => sramFetchAt m bad k == .uncorrectable) then 1 else 0

/-- The errors that a fetch of sectors of an SRAM corrects are recorded (R361, R362): an SRAM has no units of R358 to count them in
(DESIGN CHOICE, log 75). -/
def State.sramFetched (s : State) (unit num : Nat) (m : Memory) (bad : Store Flaw) (ks : List Nat) : State :=
  if bad = [] then s
  else ks.foldl (fun t k =>
    match sramFetchAt m bad k with
    | .ok _ true => t.machineCheck unit 2 num 0xFFFFFFFF (32 * k) 0
    | _ => t) s

/-- Whether every sector of a run of an SRAM is. -/
def runSound (m : Memory) (bad : Store Flaw) (lo hi : Nat) : Bool := bad.all (fun e => e.1 < lo || hi ≤ e.1 || sramSound m bad e.1)

/-- The wrong bits of other sectors: those of some sectors end, because the sectors are written anew. -/
def dropFlaws (bad : Store Flaw) (out : List Nat) : Store Flaw := if bad = [] then [] else bad.filter (fun e => !out.contains e.1)

/-- The sectors that a byte range covers only in part. -/
def partSectors (a n : Nat) : List Nat :=
  (if a % 32 = 0 ∧ 32 ≤ n then [] else [a / 32]) ++ (if (a + n) % 32 = 0 then [] else [(a + n - 1) / 32])

/-- The sectors of a byte range. -/
def sectorsOf (a n : Nat) : List Nat := if n = 0 then [] else upto (a / 32) ((a + n - 1) / 32 + 1 - a / 32)

end Sys2Proof.Machine
end

