-- ==== Sys2Proof/Machine/Device.lean ====
section
/-! DEFINITION. Device memory (R355 to R368). -/

namespace Sys2Proof.Machine

/-! ## Slices (R356 to R358) -/

/-- The lines of a slice: up to 41,943,040, less those that fuses retire (R355) and those of retired units (R358). -/
def Slices.lines (x : Slices) (k : Nat) : Nat :=
  41943040 - Config.fusedLines k - 8192 * (x.retired.filter (fun u => u / 5120 == k)).length

/-- The slice and the line of the t-th granule of the tail, from line L on (R357). -/
def Slices.tail (x : Slices) : Nat → Nat → Nat → Nat × Nat
  | 0, _, _ => (0, 0)
  | n + 1, t, l =>
    let here := x.active.filter (fun k => l < x.lines k)
    if t < here.length then (here.getD t 0, l) else x.tail n (t - here.length) (l + 1)

/-- The slice and the line of a device offset (R356, R357). -/
def State.granule (s : State) (pa : Nat) : Nat × Nat :=
  let g := pa / 256
  let n := s.slices.active.length
  let c := s.mgmt.memcfgCmin.toNat
  if g < n * c then (s.slices.active.getD ((g + g / n * 7) % n) 0, g / n)
  else s.slices.tail (g - n * c + 1) (g - n * c) c

/-- The slice that holds a device offset. -/
def State.sliceOf (s : State) (pa : Nat) : Nat := (s.granule pa).1

/-- Whether the slice of a device offset has stopped answering (R358). -/
def State.isDead (s : State) (pa : Nat) : Bool := if s.slices.dead = [] then false else s.slices.dead.contains (s.sliceOf pa)

/-- Whether a slice that holds a granule of a range has stopped answering. -/
def State.anyDead (s : State) (a n : Nat) : Bool :=
  if s.slices.dead = [] then false else (upto (a / 256) ((a + n - 1) / 256 + 1 - a / 256)).any (fun g => s.isDead (256 * g))

/-! ## Sectors of device memory (R358 to R361) -/

/-- What a fetch of a sector of HBM finds. -/
def State.fetchSector (s : State) (k : Nat) : Fetched :=
  match s.slices.bad.find k with
  | some e => hbmFetch (s.mem.readN (32 * k) 32) e
  | none => .ok (s.mem.readN (32 * k) 32) false

/-- Whether a sector is read as it was stored. -/
def State.sectorSound (s : State) (k : Nat) : Bool :=
  match s.slices.bad.find k with
  | some e => (hbmFetch (s.mem.readN (32 * k) 32) e).sound (s.mem.readN (32 * k) 32)
  | none => true

/-- The partition whose memory holds a device offset, or 0xFFFF_FFFF. -/
def State.ownerOf (s : State) (pa : Nat) : Nat :=
  match s.parts.find? (fun p => p.2.memBase ≤ pa && pa < p.2.memBase + p.2.memLen) with
  | some p => p.1
  | none => 0xFFFFFFFF

/-- A corrected error counts in its 2 MiB unit (R358): the unit with more than 64 in a day is reported, and goes onto Heartwood's
retirement list. A day is one of the time base (DESIGN CHOICE, log 75). -/
def State.countCorrected (s : State) (k : Nat) : State :=
  let g := s.granule (32 * k)
  let unit := 5120 * g.1 + g.2 / 8192
  let day := s.time / 86400000000000
  let old := s.slices.corrected.get unit (day, 0)
  let n := if old.1 = day then old.2 + 1 else 1
  let t := ({ s with slices := { s.slices with corrected := s.slices.corrected.put unit (day, n) } }).machineCheck 0 2 g.1
    (s.ownerOf (32 * k)) (32 * k) n
  if n = 65 then
    ({ t with slices := { t.slices with worn := addOnce t.slices.worn unit } }).machineCheck 0 5 g.1 (s.ownerOf (32 * k)) (32 * k) n
  else t

/-- A fetch of sectors: the errors that it corrects count (R358, R361). -/
def State.fetchedOf (s : State) (ks : List Nat) : State :=
  if s.slices.bad = [] then s
  else ks.foldl (fun t k =>
    match t.fetchSector k with
    | .ok _ true => t.countCorrected k
    | _ => t) s

/-- A fetch of the sectors of a range. -/
def State.fetched (s : State) (a n : Nat) : State := s.fetchedOf (sectorsOf a n)

/-! ## Bytes of device memory (R360, R366) -/

/-- The stored word 0 of the slot of an address. -/
def State.word0 (s : State) (a : Nat) : Nat := (s.mem.lane (a / 256 * 256)).toNat

/-- Whether a slot of a C = 1 page holds a packed block: its stored word 0 is M (R366). -/
def State.packedAt (s : State) (cpg : Bool) (a : Nat) : Bool := cpg && s.word0 a == s.mgmt.marker.toNat

/-- Whether a slot of a C = 1 page stores M inverted and is listed (R366). -/
def State.listedAt (s : State) (a : Nat) : Bool :=
  s.slices.exceptions.contains (a / 256) && s.word0 a == (~~~s.mgmt.marker).toNat

/-- One byte as a reader sees it that does not expand (R366). -/
def State.devByte (s : State) (cpg : Bool) (a : Nat) : Byte :=
  if cpg && a % 256 < 4 then
    if s.packedAt true a then 0
    else if s.listedAt a then BitVec.ofNat 8 (s.mgmt.marker.toNat / 256 ^ (a % 4))
    else s.mem.read a
  else s.mem.read a

/-- Reads bytes of device memory. -/
def State.devRead (s : State) (cpg : Bool) (a n : Nat) : List Byte := (upto a n).map (s.devByte cpg)

/-- A doubleword as an agent that knows no page reads it: a walker, the host, a peer, Sapwood. It reads as a reader of a C = 1 page
does, so that M does not leave the slices (R366; DESIGN CHOICE, log 75). -/
def State.physWord (s : State) (a : Nat) : Word := BitVec.ofNat 64 (leNat (s.devRead true a 8))

/-- The capacity of the exception lists of a slice: its table and the list in the carve-out (R366). -/
def exceptionRoom : Nat := 256 + 2 ^ 20

/-- Writes bytes within one slot of a C = 1 page (R366): a raw M in word 0 is stored inverted and listed, a write into a
packed slot clears word 0. `none` when the exception list is full. -/
def State.writeMarked (s : State) (a : Nat) (v : List Byte) : Option State :=
  let b := a / 256 * 256
  let old := s.devRead true b 4
  let m := s.mem.writeN b old
  let m := m.writeN a v
  let w := m.lane b
  if w = s.mgmt.marker then
    if !s.listedAt a && exceptionRoom ≤ (s.slices.exceptions.filter (fun k => s.sliceOf (256 * k) == s.sliceOf a)).length then none
    else some { s with
      mem := m.writeN b (leBytes 4 (~~~w).toNat)
      slices := { s.slices with exceptions := addOnce s.slices.exceptions (a / 256) } }
  else some { s with mem := m, slices := { s.slices with exceptions := s.slices.exceptions.filter (fun k => k != a / 256) } }

/-- The sectors of a range are stored anew, with new checks (R360). -/
def State.freshChecks (s : State) (a n : Nat) : State :=
  if s.slices.bad = [] then s
  else { s with slices := { s.slices with bad := dropFlaws s.slices.bad (sectorsOf a n) } }

/-- Whether the sectors that a store covers in part may be merged (R360). -/
def State.mergeable (s : State) (a n : Nat) : Bool := s.slices.bad = [] || (partSectors a n).all s.sectorSound

/-- A store of bytes within one slot is accepted (R234, R242, R360): `none` when it is not applied, because a sector that
it writes in part does not match its check, or because the exception list is full. An error that is corrected in a sector that it
writes in part counts (R361). -/
def State.devWrite (s : State) (cpg : Bool) (a : Nat) (v : List Byte) : Option State :=
  if !s.mergeable a v.length then none
  else
    let s := (s.fetchedOf (partSectors a v.length)).freshChecks a v.length
    if cpg then s.writeMarked a v else some { s with mem := s.mem.writeN a v }

/-- The machine-check kind of a store that was not applied (R362, R366): a full exception list, or a sector that does not match its
check, or that could not be corrected. -/
def State.refusedKind (s : State) (a n : Nat) : Nat :=
  if s.mergeable a n then 6 else if (partSectors a n).any (fun k => s.fetchSector k == .uncorrectable) then 1 else 0

/-- Stores bytes slot by slot where an agent outside the clusters, or the device itself, writes them: as a store to a C = 1 page is
written, `cpg`, since the writer knows no page (R366; log 75). A part that cannot be merged, or whose slice does not answer, is not
applied, and a machine-check record is written (R358, R360, R362); a slice that the writer does not reach takes nothing. -/
def State.storeSlots (s : State) (unit part : Nat) (reach : Nat → Bool) (cpg : Bool) : Nat → Nat → List Byte → State
  | 0, _, _ => s
  | k + 1, a, v =>
    if v = [] then s
    else
      let n := min v.length (256 - a % 256)
      let t := if !reach a then s
        else if s.isDead a then s.machineCheck unit 0 (s.sliceOf a) part a 0
        else (s.devWrite cpg a (v.take n)).getD (s.machineCheck unit (s.refusedKind a n) (s.sliceOf a) part a 0)
      t.storeSlots unit part reach cpg k (a + n) (v.drop n)

/-- A packed block is accepted into a slot (R366): word 0 stores M in a C = 1 page, and the bytes as they stand
elsewhere. -/
def State.devWritePacked (s : State) (cpg : Bool) (a : Nat) (v : List Byte) : State :=
  let s := s.freshChecks a v.length
  let m := s.mem.writeN a v
  if cpg then { s with
    mem := m.writeN a (leBytes 4 s.mgmt.marker.toNat)
    slices := { s.slices with exceptions := s.slices.exceptions.filter (fun k => k != a / 256) } }
  else { s with mem := m }

/-- Whether every sector of a byte range is read as it was stored, and the slices answer (R358, R360). -/
def State.devSound (s : State) (a n : Nat) : Bool :=
  !s.anyDead a n && (s.slices.bad = [] || (sectorsOf a n).all s.sectorSound)

/-- NSEC of a packed block. -/
def packSectors (bs : List Byte) : Nat := leNat ((bs.drop 4).take 4) / 32 % 8

/-- The sectors that a reader of a slot fetches: of a packed one sector 0 and those that it counts (R366). -/
def State.slotSound (s : State) (cpg : Bool) (a n : Nat) : Bool :=
  if s.packedAt cpg a then
    s.devSound (a / 256 * 256) 32 && (sectorsOf a n).all (fun k =>
      packSectors (s.devRead cpg (a / 256 * 256) 8) < k - a / 256 * 8 || s.devSound (32 * k) 32)
  else s.devSound a n

/-! ## CRC-32C (R331, R352) -/

/-- CRC-32C of bytes, bit by bit (R331). -/
def crcBits : Nat → Nat → Nat
  | 0, c => c
  | n + 1, c => crcBits n (if c % 2 = 1 then (c / 2) ^^^ 0x82F63B78 else c / 2)

/-- CRC-32C (R331). -/
def crc32c (bs : List Byte) : Nat := (bs.foldl (fun c b => crcBits 8 (c ^^^ b.toNat)) 0xFFFFFFFF) ^^^ 0xFFFFFFFF

end Sys2Proof.Machine
end

