-- ==== Sys2Proof/Machine/Route.lean ====
section
/-! DEFINITION. The router graph (R347 to R349), the routing tables (R350, R351), the flits of a request (R352), and the reach of
slices and peers (R373). -/

namespace Sys2Proof.Machine

/-! ## GF(9) (R347): a + b·i as a + 3b -/

/-- The sum. -/
def gfAdd (x y : Nat) : Nat := (x % 3 + y % 3) % 3 + 3 * ((x / 3 + y / 3) % 3)

/-- The product. -/
def gfMul (x y : Nat) : Nat :=
  (x % 3 * (y % 3) + 2 * (x / 3 * (y / 3))) % 3 + 3 * ((x % 3 * (y / 3) + x / 3 * (y % 3)) % 3)

/-- The negative. -/
def gfNeg (x : Nat) : Nat := (3 - x % 3) % 3 + 3 * ((3 - x / 3) % 3)

/-- The generator sets X and X′ in their order. -/
def gfX : Nat → List Nat
  | 0 => [1, 6, 2, 3]
  | _ => [4, 7, 8, 5]

/-- The router at the other end of a port (R349). -/
def neighbour (r p : Nat) : Nat :=
  let h := r / 81
  let u := r % 81 / 9
  let v := r % 9
  if p < 4 then 81 * h + 9 * u + gfAdd v ((gfX h).getD p 0)
  else
    let e := p - 4
    if h = 0 then 81 + 9 * e + gfAdd v (gfNeg (gfMul e u)) else 9 * e + gfAdd (gfMul u e) v

/-- The die of a router (R348). -/
def dieOf (r : Nat) : Nat := r / 27

/-- Whether a link crosses dies (R353). -/
def dieCrossing (r p : Nat) : Bool := dieOf r != dieOf (neighbour r p)

/-- The router of a cluster (R348). -/
def clusterRouter (cl : Nat) : Nat := cl + 1

/-- The router of a slice (R348). -/
def sliceRouter (k : Nat) : Nat := if k < 16 then 1 + k else 27 * (k / 16) + k % 16

/-- The router of a host link, and of the management complex beside it (R348). -/
def hostRouter (link : Nat) : Nat := if link = 0 then 0 else 161

/-- The port of a router that leads to another. -/
def portTo (r d : Nat) : Option Nat := (List.range 13).find? (fun p => neighbour r p == d)

/-- Whether a router reaches another in one hop over live links, and in at most two. -/
def oneHop (live : Nat → Nat → Bool) (r d : Nat) : Bool :=
  match portTo r d with
  | some p => live r p
  | none => false
@[inherit_doc oneHop] def twoHops (live : Nat → Nat → Bool) (r d : Nat) : Bool :=
  r == d || oneHop live r d || (List.range 13).any (fun p => live r p && oneHop live (neighbour r p) d)

/-- The port to the neighbour of lowest number over a live link that meets a condition. -/
def lowestPort (live : Nat → Nat → Bool) (r : Nat) (ok : Nat → Bool) : Option Nat :=
  ((List.range 13).filter (fun p => live r p && ok (neighbour r p))).foldl (fun o p =>
    match o with
    | none => some p
    | some q => if neighbour r p < neighbour r q then some p else some q) none

/-- A routing-table entry (R350): DET, VLD, PORT. -/
def routeEntry (det : Bool) (port : Nat) : Byte := BitVec.ofNat 8 ((if det then 32 else 0) + 16 + port)

/-- The route of at most two hops, or the designated detour, or an unreachable entry (R350, R351). -/
def routeFor (live : Nat → Nat → Bool) (r d : Nat) : Byte :=
  if r = d then routeEntry false 13
  else if oneHop live r d then routeEntry false ((portTo r d).getD 0)
  else
    match lowestPort live r (fun n => oneHop live n d) with
    | some p => routeEntry false p
    | none =>
      match lowestPort live r (fun n => twoHops live n d) with
      | some p => routeEntry true p
      | none => 0

/-- A link end. -/
def State.link (s : State) (r p : Nat) : Link := s.fabric.links.get (16 * r + p) Link.init

/-- Whether a link is not lost at either end. -/
def State.linkLive (s : State) (r p : Nat) : Bool :=
  let n := neighbour r p
  !(s.link r p).lost && !(match portTo n r with
    | some q => (s.link n q).lost
    | none => false)

/-- An entry of a router's table: the boot table's, unless a new one has been applied. -/
def State.route (s : State) (r d : Nat) : Byte := s.fabric.routes.get (162 * r + d) (routeFor (fun _ _ => true) r d)

/-- Whether a route of at most two hops that an entry names still stands (R351). -/
def State.routeStands (s : State) (r d : Nat) : Bool :=
  let e := s.route r d
  bitAt e 4 && !bitAt e 5 && (r == d || (s.linkLive r (bits e 0 4) &&
    (neighbour r (bits e 0 4) == d || oneHop s.linkLive (neighbour r (bits e 0 4)) d)))

/-- Whether a router reaches another (R351): an entry with VLD = 0 does not. -/
def State.reachesRouter (s : State) (r d : Nat) : Bool := s.fabric.routes = [] || bitAt (s.route r d) 4

/-- Whether a router reaches the slice of a device offset. -/
def State.reachesFrom (s : State) (r pa : Nat) : Bool := s.reachesRouter r (sliceRouter (s.sliceOf pa))

/-- Whether a core reaches the slice of a device offset (R351): an entry with VLD = 0 is REMOTE at the requester. -/
def State.reaches (s : State) (core pa : Nat) : Bool := s.reachesFrom (clusterRouter (clusterOf core)) pa

/-! ## Flits (R350 to R352)

An access and its flits go to their place in one step; their acknowledgements come after (DESIGN CHOICE, log 77). R352 gives a flit 64
bytes and no layout: here they are the sequence number, the destination (2 bytes), the address (8), a byte that counts the data and
holds the packed mark, 48 bytes of data, and the CRC (4) (DESIGN CHOICE, log 77). -/

/-- The bytes of an access that one flit carries. -/
def flitRoom : Nat := 48

/-- The flits that `n` bytes take; a request or an answer without data takes one. -/
def flitCount (n : Nat) : Nat := max 1 ((n + flitRoom - 1) / flitRoom)

/-- The bytes that a flit's CRC covers. -/
def Flit.bytes (f : Flit) : List Byte :=
  leBytes 1 f.seq.toNat ++ leBytes 2 f.dest ++ leBytes 8 f.pa ++ leBytes 1 (f.data.length + if f.packed then 64 else 0) ++ f.data ++
    List.replicate (flitRoom - f.data.length) 0

/-- Whether a flit's CRC-32C is that of its bytes (R352). -/
def Flit.sound (f : Flit) : Bool := crc32c f.bytes == f.crc

/-- A flit with its CRC. -/
def Flit.make (seq : BitVec 8) (dest pa : Nat) (data : List Byte) (packed : Bool) : Flit :=
  let f : Flit := { seq := seq, dest := dest, pa := pa, data := data, packed := packed, crc := 0 }
  { f with crc := crc32c f.bytes }

/-- A sender sends `k` flits with the bytes of an access, and keeps each until it is acknowledged (R352). -/
def Link.sendFlits (l : Link) (dest pa : Nat) (packed : Bool) : Nat → List Byte → Link
  | 0, _ => l
  | k + 1, v =>
    ({ l with
      unacked := l.unacked ++ [Flit.make l.sendSeq dest pa (v.take flitRoom) packed]
      sendSeq := l.sendSeq + 1 } : Link).sendFlits dest (pa + flitRoom) packed k (v.drop flitRoom)

/-- A sender sends an access. -/
def Link.send (l : Link) (dest pa : Nat) (data : List Byte) (packed : Bool) : Link := l.sendFlits dest pa packed (flitCount data.length) data

/-- Whether a sender may take `k` flits: its link moves flits, and its replay buffer of 128 has room (R352, R353). -/
def Link.free (l : Link) (k : Nat) : Bool := l.up && !l.training && !l.lost && l.unacked.length + k ≤ 128

/-- Whether a router's table has a new entry to take for a destination (R351). -/
def State.stale (s : State) (r d : Nat) : Bool := !s.routeStands r d && s.route r d != routeFor s.linkLive r d

/-- The ports by which a flit goes from a router to another (R350), at most three hops. -/
def State.pathGo (s : State) : Nat → Nat → Nat → Option (List (Nat × Nat))
  | 0, r, d => if r = d then some [] else none
  | f + 1, r, d =>
    if r = d then some []
    else
      let p := bits (s.route r d) 0 4
      if bitAt (s.route r d) 4 then (s.pathGo f (neighbour r p) d).map (fun l => (r, p) :: l) else none

/-- The ports from a router to another. -/
def State.path (s : State) (r d : Nat) : List (Nat × Nat) := (s.pathGo 3 r d).getD []

/-- Whether the links from a router to another take `k` flits now (R351, R353): while a link on the way retrains, or is lost and the
new entry is not applied yet, they are held at their sender. A destination that no route reaches holds nothing. -/
def State.pathFree (s : State) (r d k : Nat) : Bool :=
  !bitAt (s.route r d) 4 || (s.pathGo 3 r d).any (fun ps => ps.all (fun p => (s.link p.1 p.2).free k && !s.stale p.1 d))

/-- Whether an access from a router to another moves now, with the bytes that its request and its answer carry. -/
def State.routeMoves (s : State) (r d out back : Nat) : Bool :=
  s.fabric.links = [] || (s.pathFree r d (flitCount out) && s.pathFree d r (flitCount back))

/-- Whether an access from a router to the slice of a device offset moves now. -/
def State.moves (s : State) (r pa out back : Nat) : Bool := s.routeMoves r (sliceRouter (s.sliceOf pa)) out back

/-- Flits go out at every router on their way. -/
def State.sendOn (s : State) (r d pa : Nat) (data : List Byte) (packed : Bool) : State :=
  (s.path r d).foldl (fun t p => { t with fabric := { t.fabric with
    links := t.fabric.links.modify (16 * p.1 + p.2) Link.init (fun l => l.send d pa data packed) } }) s

/-- The flits of an access of a slice and of its answer. -/
def State.sendFlit (s : State) (r pa : Nat) (out back : List Byte) (packed : Bool) : State :=
  let d := sliceRouter (s.sliceOf pa)
  (s.sendOn r d pa out packed).sendOn d r pa back packed

/-- The far end of a router's link. -/
def farEnd (r p : Nat) : Nat × Nat := (neighbour r p, (portTo (neighbour r p) r).getD 0)

/-- `k` flits have passed a link, and everything that it carried has arrived and been acknowledged. -/
def State.passLink (s : State) (p : Nat × Nat) (k : Nat) : State :=
  let n := (s.link p.1 p.2).sendSeq + BitVec.ofNat 8 k
  let far := farEnd p.1 p.2
  { s with fabric := { s.fabric with
    links := (s.fabric.links.modify (16 * p.1 + p.2) Link.init (fun l => { l with unacked := [], sendSeq := n })).modify
      (16 * far.1 + far.2) Link.init (fun l => { l with nextSeq := n }) } }

/-- The flits of an access that an agent makes in one step, with its answer, have passed. -/
def State.carry (s : State) (r pa out back : Nat) : State :=
  let d := sliceRouter (s.sliceOf pa)
  let go := fun (t : State) (r d n : Nat) => (t.path r d).foldl (fun t p => t.passLink p (flitCount n)) t
  go (go s r d out) d r back

/-- What the links from a router to another and back carry has arrived and been acknowledged. -/
def State.settleLinks (s : State) (r d : Nat) : State := (s.path r d ++ s.path d r).foldl (fun t p => t.passLink p 0) s

/-- The time base as the router of a device offset's slice holds it (R294, R348). -/
def State.sliceTime (s : State) (pa : Nat) : Nat := s.timeAt (sliceRouter (s.sliceOf pa) - 1)

/-- A peer port. -/
def State.peerLink (s : State) (q : Nat) : Link := s.fabric.peers.get q Link.init

/-- The ports that reach a device (R373): PEERMAP's, less those that are lost and have no flit left to be acknowledged. -/
def State.peerPorts (s : State) (dev : Nat) : List Nat :=
  let m := s.fabric.peermap.get dev (Config.peermap dev)
  (List.range 24).filter (fun q => bitAt m q && !((s.peerLink q).lost && (s.peerLink q).unacked.isEmpty))

/-- PEERMAP's mask of a device (R373). -/
def State.peerMask (s : State) (dev : Nat) : Nat := (s.peerPorts dev).foldl (fun n q => n + 2 ^ q) 0

/-- Whether a peer access has a port to leave through (R373). -/
def State.peerReach (s : State) (pa : Nat) : Bool := s.peerMask (pa / 2 ^ 42) != 0

/-- The port of a peer access: of index g mod n among the n ports set, for its granule g (R373). -/
def State.peerPort (s : State) (pa : Nat) : Option Nat :=
  let ps := s.peerPorts (pa / 2 ^ 42)
  ps[pa % 2 ^ 42 / 256 % ps.length]?

/-- Whether a peer access with some bytes moves now: its port does, or no port is set. -/
def State.peerMoves (s : State) (pa n : Nat) : Bool :=
  match s.peerPort pa with
  | some q => (s.peerLink q).free (flitCount n)
  | none => true

/-- The flits of a peer access go out by its port. -/
def State.sendPeer (s : State) (pa : Nat) (data : List Byte) (packed : Bool) : State :=
  match s.peerPort pa with
  | some q => { s with fabric := { s.fabric with
      peers := s.fabric.peers.modify q Link.init (fun l => l.send (pa / 2 ^ 42) pa data packed) } }
  | none => s

/-- Whether an access of a core at a place moves now, with the bytes of its request and of its answer. -/
def State.flows (s : State) (core out back : Nat) : Place → Bool
  | .dev pa => s.moves (clusterRouter (clusterOf core)) pa out back
  | .peer pa => s.peerMoves pa out
  | _ => true

/-- The flits of an access of a core, and of its answer, go out. -/
def State.sendTo (s : State) (core : Nat) (out back : List Byte) (packed : Bool) : Place → State
  | .dev pa => s.sendFlit (clusterRouter (clusterOf core)) pa out back packed
  | .peer pa => s.sendPeer pa out packed
  | _ => s

/-- What the links on the way from a core to a place carry has arrived and been acknowledged. -/
def State.acknowledgeTo (s : State) (core : Nat) : Place → State
  | .dev pa => s.settleLinks (clusterRouter (clusterOf core)) (sliceRouter (s.sliceOf pa))
  | .peer pa =>
    match s.peerPort pa with
    | some q => { s with fabric := { s.fabric with peers := s.fabric.peers.modify q Link.init (fun l => { l with unacked := [] }) } }
    | none => s
  | _ => s

/-! ## Agents outside the clusters (R360, R362, R366) -/

/-- The router of the host link that is up, and of the management complex beside it (R348). -/
def State.outerRouter (s : State) : Nat := hostRouter (s.hostLink.getD 0)

/-- Whether an agent outside the clusters reaches the slice of an address (R348, R351): the host and the management complex from the
router of the host link; where a peer port sits the spec does not say, and the model bars no peer (log 77). -/
def State.outerReach (s : State) (unit a : Nat) : Bool := unit = 5 || s.reachesFrom s.outerRouter a

/-- The lines of a byte range, each with its part of the range. -/
def linesOf (a n : Nat) : List (Nat × Nat) :=
  (upto (a / 256) ((a + n - 1) / 256 + 1 - a / 256)).map (fun g => (max a (256 * g), min (a + n) (256 * g + 256) - max a (256 * g)))

/-- Whether requests of a router for the lines of a range move now (R351, R353). -/
def State.linesMove (s : State) (r a n : Nat) (wr : Bool) : Bool :=
  s.fabric.links = [] || (linesOf a n).all (fun l => s.moves r l.1 (if wr then l.2 else 0) (if wr then 0 else l.2))

/-- The flits of a router's accesses of the lines of a range have passed, line by line. -/
def State.linesCarry (s : State) (r a n : Nat) (wr : Bool) : State :=
  (linesOf a n).foldl (fun t l => t.carry r l.1 (if wr then l.2 else 0) (if wr then 0 else l.2)) s

/-- Whether the requests of an agent outside the clusters move now (R351, R353). -/
def State.outerMoves (s : State) (unit a n : Nat) (wr : Bool) : Bool := unit = 5 || s.linesMove s.outerRouter a n wr

/-- The flits of such an agent's accesses have passed. -/
def State.outerCarry (s : State) (unit a n : Nat) (wr : Bool) : State := if unit = 5 then s else s.linesCarry s.outerRouter a n wr

/-- Whether every sector of a range that is read matches its check, and the slices answer (R358, R360). -/
def State.linesSound (s : State) (cpg : Bool) (a n : Nat) : Bool := (linesOf a n).all (fun l => s.slotSound cpg l.1 l.2)
@[inherit_doc State.linesSound] def State.physSound (s : State) (a n : Nat) : Bool := s.linesSound true a n

/-- Writes bytes within slots, checks made anew at ingress (R360). -/
def State.ingress (s : State) (unit part : Nat) (a : Nat) (v : List Byte) : State :=
  (s.outerCarry unit a v.length true).storeSlots unit part (s.outerReach unit) true (v.length / 256 + 2) a v

/-- Bytes that the device itself stores from a router: where no route leads they are lost, since no one waits for them (R351; DESIGN
CHOICE, log 77). -/
def State.storeFrom (s : State) (r part : Nat) (cpg : Bool) (a : Nat) (v : List Byte) : State :=
  (s.linesCarry r a v.length true).storeSlots 0 part (s.reachesFrom r) cpg (v.length / 256 + 2) a v

/-- Records and packets of a partition are stored from the router of the management complex, and wait for no link (R327, R330; DESIGN
CHOICE, log 77). -/
def State.store (s : State) (part a : Nat) (v : List Byte) : State := s.storeFrom s.outerRouter part true a v

/-! ## The peer's own accesses (R373) -/

/-- The port by which a peer's access of an address comes: by its granule, among those that are not lost (DESIGN CHOICE, log 77). -/
def State.peerEntry (s : State) (pa : Nat) : Option Nat :=
  let ps := (List.range 24).filter (fun q => !(s.peerLink q).lost)
  ps[pa / 256 % ps.length]?

/-- The flits of a peer's access and of its answer have passed a port. -/
def State.peerCarry (s : State) (q out back : Nat) : State :=
  { s with fabric := { s.fabric with peers := s.fabric.peers.modify q Link.init (fun l =>
      { l with nextSeq := l.nextSeq + BitVec.ofNat 8 (flitCount out), sendSeq := l.sendSeq + BitVec.ofNat 8 (flitCount back), unacked := [] }) } }

end Sys2Proof.Machine
end

