-- ==== Sys2Proof/Machine/Trace.lean ====
section
/-! DEFINITION. The trace buffer (R328 to R333, R337), and the race detector, whose conflicts it records (R244 to R247). -/

namespace Sys2Proof.Machine

/-! ## The trace buffer (R328 to R333) -/

/-- The header of a record (R329). -/
def recHead (kind len time : Nat) : List Byte := leBytes 8 (kind * 2 ^ 56 + len * 2 ^ 48 + time % 2 ^ 48)

/-- The size of a partition's trace buffer. -/
def Part.traceSize (p : Part) : Nat := 2 ^ bits p.tbuf 0 5

/-- The budget as it stands now (R332): 3 bytes every 2 ns for each slot, at most 4,096. -/
def Part.fund (p : Part) (time : Nat) : Part :=
  { p with
    budget := min 4096 (p.budget + 3 * ((time / 2 - p.budgetAt / 2 : Nat) : Int) * (popCount 64 p.slots.toNat : Int))
    budgetAt := time }

/-- A record that is not written (R330). -/
def State.dropRecord (s : State) (p : Nat) : State :=
  (s.modPart p (fun q => { q with tlost := q.tlost + 1, lostPending := q.lostPending + 1 })).raisePart p 4

/-- Writes bytes at the write pointer and moves it (R330). -/
def State.commitBytes (s : State) (p : Nat) (v : List Byte) : State :=
  let q := s.part p
  (s.store p (bits q.tbuf 16 26 * 2 ^ 16 + q.twptr % q.traceSize) v).modPart p (fun q =>
    { q with twptr := q.twptr + v.length, budget := q.budget - (v.length : Int) })

/-- The sync record of a block (R331). -/
def syncRecord (time block lost : Nat) : List Byte :=
  let v := recHead 5 1 time ++ leBytes 8 block ++ leBytes 8 lost ++ leBytes 4 0
  v ++ leBytes 4 (crc32c v)

/-- The pad record up to the next 4 KiB boundary (R330). -/
def padRecord (time n : Nat) : List Byte := recHead 4 (n / 32) time ++ List.replicate (n - 8) 0

/-- In overwrite mode (`ovw`) a block begins with its sync record (R331). BLOCK counts the blocks begun before it, so that the
test of R331 accepts it (DEDUCED, log 74). -/
def State.syncBlock (s : State) (p : Nat) (ovw : Bool) : State :=
  let q := s.part p
  if ovw && q.twptr % 4096 = 0 then s.commitBytes p (syncRecord s.time (q.twptr / 4096) q.tlost) else s

/-- Writes one record whole, after the pad that it needs, or answers `none` when it does not fit (R330). -/
def State.fitRecord (s : State) (p : Nat) (v : List Byte) (ovw : Bool) : Option State :=
  let q := s.part p
  let room := 4096 - q.twptr % 4096
  let pad := if room < v.length then room else 0
  if bits q.tbuf 0 5 < 16 then none
  else if !ovw && q.trptr + q.traceSize < q.twptr + pad + v.length then none
  else
    let s1 := if pad = 0 then s else s.commitBytes p (padRecord s.time pad)
    some ((s1.syncBlock p ovw).commitBytes p v)

/-- Writes a record to a partition's trace (R330, R332): `drawn` says that it draws on the budget and is dropped without
it, and `ovw` is OVW as the context's launch or resume took it (R328); a lost record goes before the first record after a
drop. -/
def State.record (s : State) (p : Nat) (v : List Byte) (drawn ovw : Bool) : State :=
  let s := s.modPart p (fun q => q.fund s.time)
  if drawn && (s.part p).budget < (v.length : Int) then s.dropRecord p
  else
    let q := s.part p
    let s1 := if q.lostPending = 0 then some s
      else (s.fitRecord p (recHead 6 1 s.time ++ leBytes 8 q.lostPending ++ List.replicate 16 0) ovw).map
        (fun t => t.modPart p (fun q => { q with lostPending := 0 }))
    match s1.bind (fun t => t.fitRecord p v ovw) with
    | some t => t
    | none => s.dropRecord p

/-- The class code of R324, and the flag. -/
def HeadClass.code : HeadClass → Nat × Nat
  | .issue => (0, 0x3F)
  | .flag n => (1, n)
  | .busy => (2, 0x3F)
  | .empty => (3, 0x3F)

/-- The head word of a stream (R333). -/
def Stream.headWord (t : Stream) : Nat := t.cls.code.2 * 2 ^ 17 + t.cls.code.1 * 2 ^ 15 + t.head % 2 ^ 15

/-- The head word of the head that a stream's class of this cycle is of. -/
def Stream.seenWord (t : Stream) : Nat := t.cls.code.2 * 2 ^ 17 + t.cls.code.1 * 2 ^ 15 + t.seen % 2 ^ 15

/-- The head words of C, L, V and S, 16 bytes (R333). -/
def Ctx.headWords (x : Ctx) : List Byte :=
  leBytes 4 x.c.seenWord ++ leBytes 4 x.l.seenWord ++ leBytes 4 x.v.seenWord ++ leBytes 4 x.s.seenWord

/-- A mark record (R333). -/
def State.markRecord (s : State) (n code : Nat) : List Byte :=
  recHead 2 1 (s.timeAt (clusterOf n)) ++ leBytes 8 (code * 2 ^ 16 + n) ++ (s.ctx n).headWords

/-- A sample record (R333). -/
def State.sampleRecord (s : State) (n : Nat) : List Byte :=
  let it := (s.ctx n).c.seenIters
  recHead 1 1 (s.timeAt (clusterOf n)) ++ leBytes 8 (it.getD 1 0 * 2 ^ 33 + it.getD 0 0 * 2 ^ 16 + n) ++ (s.ctx n).headWords

/-- The ITER of LP0 that a head recorded. -/
def Stream.seenIter0 (t : Stream) : Nat := t.seenIters.getD 0 0

/-- A replay record (R337). -/
def State.replayRecord (s : State) (n : Nat) (st : Strm) : List Byte :=
  let x := s.ctx n
  let t := x.strm st
  recHead 7 1 (s.timeAt (clusterOf n)) ++ leBytes 8 (t.seenIter0 % 2 ^ 17 * 2 ^ 12 + strmCode st * 2 ^ 10 + n) ++
    leBytes 8 (x.launchCycle (s.cyc n)) ++ leBytes 8 (t.seen % 2 ^ 15)

/-- Writes the replay record of a stream's head. -/
def State.logReplay (s : State) (n : Nat) (st : Strm) : State :=
  s.record (s.ctx n).launch.part (s.replayRecord n st) false (bitAt (s.ctx n).launch.trc 60)

/-- Whether a head that issues or is released in this cycle leaves FLAG or BUSY (R337). -/
def Stream.leaves (t : Stream) : Bool := t.prev.waits

/-! ## The race detector (R244 to R247) -/

/-- A scope as its code (R53). -/
def scpCode : Scp → Nat
  | .core => 0
  | .cluster => 1
  | .partition => 2
  | .device => 3
  | .pod => 4

/-- The wider of two scopes (R88). -/
def Scp.max (a b : Scp) : Scp := if scpCode a < scpCode b then b else a

/-- Whether core c lies within a scope of core w. -/
def State.within (s : State) (w c : Nat) : Scp → Bool
  | .core => c == w
  | .cluster => clusterOf c == clusterOf w
  | .partition => (s.ctx c).launch.part == (s.ctx w).launch.part
  | .device => true
  | .pod => true

/-- The detector word that makes a checked access of core c a conflict (R246). -/
def State.conflict (s : State) (c sector : Nat) : Option Detector :=
  let d := s.slices.detect.get sector Detector.init
  let r := (s.core c).race
  if d.writer = 0x3FF ∨ d.writer = c then none
  else if d.ltag ≠ (s.core d.writer).launches then none
  else if (r.v.get d.writer 0 - BitVec.ofNat 16 d.intv).toNat < 32768 ∧ s.within d.writer c d.scp = true then none
  else some d

/-- A checked write sets the detector word (R246). -/
def State.noteWrite (s : State) (c sector : Nat) (scp : Scp) (intv : Nat) : State :=
  { s with slices := { s.slices with
    detect := s.slices.detect.put sector { writer := c, intv := intv, scp := scp, ltag := (s.core c).launches } } }

/-- A race record (R333). -/
def State.raceRecord (s : State) (c kind va sector head intv : Nat) (d : Detector) : List Byte :=
  recHead 3 2 s.time ++ leBytes 2 c ++ leBytes 1 kind ++ leBytes 1 (d.ltag.toNat * 8 + scpCode d.scp) ++ leBytes 2 d.writer ++
    leBytes 2 d.intv ++ leBytes 8 va ++ leBytes 8 (s.mgmt.podid.toNat * 2 ^ 42 + 32 * sector) ++ leBytes 4 head ++
    leBytes 2 ((s.core c).race.v.get d.writer 0).toNat ++ leBytes 2 intv ++ List.replicate 24 0

/-- Checks one access of a sector of a D = 1 page (R246, R247): `none` when trap mode stops it; in log mode a conflict is
recorded and the access performs. -/
def State.raceCheck (s : State) (c kind : Nat) (write : Bool) (va sector head intv : Nat) (scp : Scp) : Option State :=
  let x := (s.ctx c).launch
  if x.raceMode = 0 then some s
  else
    let after := fun (t : State) => if write then t.noteWrite c sector scp intv else t
    match s.conflict c sector with
    | none => some (after s)
    | some d =>
      if x.raceMode = 2 then none
      else some (after (s.record x.part (s.raceRecord c kind va sector head intv d) false (bitAt x.trc 60)))

/-- A pair is acquired (R245). -/
def Race.acquire (r : Race) (w i : Nat) : Race :=
  let d := (BitVec.ofNat 16 i - r.v.get w 0).toNat
  if 1 ≤ d ∧ d ≤ 32767 then { r with v := r.v.put w (BitVec.ofNat 16 i) } else r

/-- A core acquires pairs. -/
def State.acquire (s : State) (n : Nat) (pairs : List (Nat × Nat)) : State :=
  s.modCore n (fun c => { c with race := pairs.foldl (fun r p => r.acquire p.1 p.2) c.race })

/-- A release of a core closes its interval (R245). -/
def State.closeInterval (s : State) (n : Nat) : State :=
  s.modCore n (fun c => { c with race := { c.race with intv := c.race.intv + 1 } })

end Sys2Proof.Machine
end

