-- ==== Sys2Proof/Machine/Access.lean ====
section
/-! DEFINITION. Accesses: the bytes of scratchpads, accumulator stores and weight buffers (R26, R27, R360, R365), where an
address leads (R32, R33, R89, R284), the class FIFOs and the direct path (R233 to R238), atomics (R90, R91). -/

namespace Sys2Proof.Machine

/-! ## On-chip stores -/

/-- The 4 KiB regions that a byte range meets (R320). -/
def pagesOf (off n : Nat) : List Nat := if n = 0 then [] else upto (off / 4096) ((off + n - 1) / 4096 + 1 - off / 4096)

/-- The 256-byte slots that a byte range meets (R365). -/
def slotsOf (off n : Nat) : List Nat := if n = 0 then [] else upto (off / 256) ((off + n - 1) / 256 + 1 - off / 256)

/-- Adds numbers to a set. -/
def addAll (l more : List Nat) : List Nat := more.foldl addOnce l

/-- Removes numbers from a set. -/
def dropAll (l out : List Nat) : List Nat := if l = [] then [] else l.filter (fun k => !out.contains k)

/-- The machine-check record of a write that is not applied (R360). -/
def State.badWrite (s : State) (core off kind : Nat) : State := s.machineCheck 2 kind core (s.ctx core).launch.part off 0

/-- The word that a `waita` watches (R386). -/
def State.watched (s : State) (core off : Nat) : Lane := (s.core core).spad.lane off

/-- A waiting `waita` of a context after a write of `n` bytes at an offset of a scratchpad (R94, R386): the first write that meets its
condition is kept, with the pair of a command's flag write (R241, R245). -/
def Ctx.noteWrite (x : Ctx) (word : Nat → Lane) (core off n : Nat) (pair : Option (Nat × Nat)) : Ctx :=
  match x.c.wait with
  | some (.waita c o slot cnd b d none) =>
    if c = core ∧ o < off + n ∧ off < o + 4 ∧ icndHolds cnd (word o) b = true then
      { x with c := { x.c with wait := some (.waita c o slot cnd b d (some (word o, pair))) } }
    else x
  | _ => x

/-- Every `waita` of the cluster's cores tests its word after a write: that of either bank, since an engine works in the bank of its
command, and a context that stands does not wait. -/
def State.tellWaiters (s : State) (core off n : Nat) (pair : Option (Nat × Nat)) : State :=
  let tell := fun (x : Ctx) => x.noteWrite (s.watched core) core off n pair
  (coresOf (clusterOf core)).foldl (fun t k => t.modCore k (fun c => { c with ctx := tell c.ctx, alt := tell c.alt })) s

/-- Stores bytes in a scratchpad (R237, R320, R360, R365): packed bits are cleared, the region becomes dirty, and nothing is stored
where the bytes cover in part a sector that does not match its check. -/
def State.spadStore (s : State) (core off : Nat) (v : List Byte) : State :=
  let c := s.core core
  let ks := partSectors off v.length
  if c.badSpad ≠ [] ∧ ks.all (sramSound c.spad c.badSpad) = false then s.badWrite core off (sramKind c.spad c.badSpad ks)
  else (s.sramFetched 2 core c.spad c.badSpad ks).setCore core { c with
    spad := c.spad.writeN off v
    packed := dropAll c.packed (slotsOf off v.length)
    badSpad := dropFlaws c.badSpad (sectorsOf off v.length)
    dirtySpad := addAll c.dirtySpad (pagesOf off v.length)
    flags := if c.flags = [] then [] else c.flags.filter (fun f => f.1 + 4 ≤ off || off + v.length ≤ f.1) }

/-- A write to a scratchpad: it is stored, and every `waita` tests its word. -/
def State.spadWrite (s : State) (core off : Nat) (v : List Byte) : State :=
  (s.spadStore core off v).tellWaiters core off v.length none

/-- A packed block written to a scratchpad slot (R365): word 0 is stored as zero and the packed bit is set. -/
def State.spadPacked (s : State) (core off : Nat) (v : List Byte) : State :=
  (s.spadWrite core off (leBytes 4 0 ++ v.drop 4)).modCore core (fun c => { c with packed := addOnce c.packed (off / 256) })

/-- Whether the sectors of a scratchpad range match their checks, corrected as they are fetched (R360, R361). -/
def Core.spadSound (c : Core) (off n : Nat) : Bool := c.badSpad = [] || (sectorsOf off n).all (sramSound c.spad c.badSpad)

/-- A write to an accumulator store. -/
def State.accWrite (s : State) (core off : Nat) (v : List Byte) : State :=
  let c := s.core core
  let ks := partSectors off v.length
  if c.badAcc ≠ [] ∧ ks.all (sramSound c.acc c.badAcc) = false then s.badWrite core off (sramKind c.acc c.badAcc ks)
  else (s.sramFetched 2 core c.acc c.badAcc ks).setCore core { c with
    acc := c.acc.writeN off v
    badAcc := dropFlaws c.badAcc (sectorsOf off v.length)
    dirtyAcc := addAll c.dirtyAcc (pagesOf off v.length) }

/-- Whether the sectors of an accumulator range match their checks. -/
def Core.accSound (c : Core) (off n : Nat) : Bool := c.badAcc = [] || (sectorsOf off n).all (sramSound c.acc c.badAcc)

/-- A write to a weight buffer: raw bytes, or a packed block (R365). -/
def State.wbWrite (s : State) (cl off : Nat) (v : List Byte) (packed : Bool) : State :=
  s.modCluster cl (fun c => { c with
    wb := c.wb.writeN off (if packed then leBytes 4 0 ++ v.drop 4 else v)
    wbPacked := if packed then addOnce c.wbPacked (off / 256) else dropAll c.wbPacked (slotsOf off v.length)
    wbBad := dropFlaws c.wbBad (sectorsOf off v.length)
    wbDirty := addAll c.wbDirty (pagesOf off v.length) })

/-! ## Tile images (R28) -/

/-- A tile is in use while a queued or in-flight command names it (R30). -/
def Engines.inUse (e : Engines) (n : Nat) : Bool := e.live.any (fun k => (k.tiles.find n).isSome)

/-- A tile's image with INUSE (R28). -/
def Engines.image (e : Engines) (n : Nat) : TileImage :=
  e.tiles.getD n 0 ||| (if e.inUse n then BitVec.ofNat 128 (2 ^ 124) else 0)

/-- Bytes of the tile-table images. -/
def Engines.imageBytes (e : Engines) (off n : Nat) : List Byte :=
  (upto off n).map (fun a => BitVec.ofNat 8 ((e.image (a / 16)).toNat / 256 ^ (a % 16)))

/-! ## Rings as the core sees them (R103, R104) -/

/-- The partition's number of a program ring (R103); `none` at or above the declared count. -/
def Ctx.ringNo (x : Ctx) (i : Nat) : Option Nat :=
  if i < bits x.sys.syncwin 0 8 then some (bits x.sys.syncwin 8 8 + i) else none

/-- The partition's number of a program barrier (R103). -/
def Ctx.barNo (x : Ctx) (i : Nat) : Option Nat :=
  if i < bits x.sys.syncwin 16 8 then some (bits x.sys.syncwin 24 8 + i) else none

/-- A ring of a partition. -/
def Part.ring (p : Part) (n : Nat) : Ring := p.rings.get n Ring.init

/-- A barrier of a partition. -/
def Part.barrier (p : Part) (n : Nat) : Barrier := p.bars.get n Barrier.init

/-- A doubleword of a ring's image (R104). -/
def Ring.word (r : Ring) : Nat → Word
  | 0 => r.base.setWidth 64
  | 1 => BitVec.ofNat 64 (r.slotsize.toNat + r.slots.toNat * 2 ^ 20)
  | 3 => BitVec.ofNat 64 (r.head.toNat + r.take.toNat * 2 ^ 16 + r.tail.toNat * 2 ^ 32 + r.claim.toNat * 2 ^ 48)
  | 4 => r.pub
  | 5 => r.rel
  | _ => 0

/-- A load of the ring table (R104): rings at or above the count, and the rest of the page, read as zero. -/
def State.ringLoad (s : State) (core off : Nat) : Word :=
  let x := s.ctx core
  if 0x400 ≤ off then 0
  else
    match x.ringNo (off / 64) with
    | some n => ((s.part x.launch.part).ring n).word (off / 8 % 8)
    | none => 0

/-- A store to the ring table (R104, R106): the fault, or the partition after it. -/
def State.ringStore (s : State) (core off : Nat) (v : Word) : Trap ⊕ State :=
  let x := s.ctx core
  if 0x400 ≤ off then .inr s
  else
    match x.ringNo (off / 64) with
    | none => .inl { cause := .synclimit }
    | some n =>
      let r := (s.part x.launch.part).ring n
      let put := fun (r' : Ring) => s.modPart x.launch.part (fun p => { p with rings := p.rings.put n r' })
      match off / 8 % 8 with
      | 0 => if r.claim = r.head then .inr (put { r with base := v.setWidth 56 }) else .inl { cause := .ringerr }
      | 1 =>
        if r.claim ≠ r.head ∨ 64 < bits v 20 7 ∨ bits v 0 20 % 32 ≠ 0 then .inl { cause := .ringerr }
        else .inr (put { r with
          slotsize := BitVec.ofNat 20 (bits v 0 20), slots := BitVec.ofNat 7 (bits v 20 7), claim := 0, tail := 0, take := 0,
          head := 0, pub := 0, rel := 0, pubPairs := [], relPairs := [] })
      | _ => .inr s

/-! ## Where an address leads -/

/-- What an access of a core finds at an address. -/
inductive Target
  | bad (t : Trap)
  | spad (core off : Nat)
  | cmd (eng : Eng) (off : Nat)
  | rings (off : Nat)
  | tiles (off : Nat)
  /-- a place in device memory or in a peer device, with the translation -/
  | ext (e : Lease) (p : Place)
  | walk
  deriving DecidableEq, Repr

/-- A fault with an address. -/
def addrTrap (c : Cause) (va : Nat) : Trap := { cause := c, va := BitVec.ofNat 64 va }

/-- The INTEGRITY of a range of a scratchpad or of an accumulator store (R89, R128, R362). -/
def State.spadTrap (s : State) (core off n va : Nat) : Trap :=
  let c := s.core core
  let t : Site := { unit := 2, kind := sramKind c.spad c.badSpad (sectorsOf off n), num := core, pa := off }
  { addrTrap .integrity va with site := some t }
@[inherit_doc State.spadTrap] def State.accTrap (s : State) (core off n va : Nat) : Trap :=
  let c := s.core core
  let t : Site := { unit := 2, kind := sramKind c.acc c.badAcc (sectorsOf off n), num := core, pa := off }
  { addrTrap .integrity va with site := some t }

/-- The errors that a fetch from a scratchpad or from an accumulator store corrects are recorded (R361, R362). -/
def State.spadFetched (s : State) (core off n : Nat) : State :=
  s.sramFetched 2 core (s.core core).spad (s.core core).badSpad (sectorsOf off n)
@[inherit_doc State.spadFetched] def State.accFetched (s : State) (core off n : Nat) : State :=
  s.sramFetched 2 core (s.core core).acc (s.core core).badAcc (sectorsOf off n)

/-- Where a mismatch in device memory was found (R362). -/
def State.devSite (s : State) (pa n : Nat) : Site :=
  { unit := 0, kind := if (sectorsOf pa n).any (fun k => s.fetchSector k == .uncorrectable) then 1 else 0, num := s.sliceOf pa, pa := pa }

/-- Whether the scratchpad of a sibling is fenced from a core's context: it is that of a launch core of the region whose fault
Sapwood has called fatal (R284). -/
def State.isFenced (s : State) (me core : Nat) : Bool :=
  core != me && (match s.regionOf me with
    | some r => r.fenced.any (fun i => r.cores[i]? == some core)
    | none => false)

/-- A scratchpad range of a core of the cluster (R33, R284): WINLOST of a fenced sibling before SLEEPING. -/
def State.spadTarget (s : State) (me core off len va : Nat) : Target :=
  if s.isFenced me core then .bad { addrTrap .winlost va with core := core }
  else
    match s.asleep me (spadBanks core off len) with
    | some t => .bad (s.sleepTrap me t va)
    | none => .spad core off

/-- A translated address (R89, R287, R291, R297). -/
def State.extTarget (s : State) (me : Nat) (st : Strm) (va : Nat) (r w : Bool) : Target :=
  match s.xlateCheck me (s.ctx me).launch.part va with
  | some c => .bad (addrTrap c va)
  | none =>
    match s.lookup me st va r w with
    | none => .walk
    | some e =>
      match s.placeOf (e.phys va) with
      | some p => .ext e p
      | none => .bad (addrTrap .xlate va)

/-- The target of a C access of `len` bytes (R89): alignment first, then the window or the translation. -/
def State.cTarget (s : State) (va len : Nat) (r w : Bool) : Target :=
  if va % len ≠ 0 then .bad (addrTrap .align va)
  else
    match resolve s.me va len with
    | .bad => .bad (addrTrap .xlate va)
    | .ext => s.extTarget s.me .c va r w
    | .win (.spad core off) => s.spadTarget s.me core off len va
    | .win (.cmd eng off) => if len = 8 then .cmd eng off else .bad (addrTrap .align va)
    | .win (.rings off) => if len = 8 then .rings off else .bad (addrTrap .align va)
    | .win (.tiles off) => if w then .bad (addrTrap .perm va) else .tiles off

/-- The scope of a place (R88, R238): the cores of a cluster, the partition's own memory, the device, the pod. -/
def State.placeScope (s : State) (core : Nat) : Place → Scp
  | .spad c _ => if c = core then .core else .cluster
  | .acc _ => .core
  | .tile _ => .core
  | .dev pa =>
    let p := s.part (s.ctx core).launch.part
    if p.memBase ≤ pa ∧ pa < p.memBase + p.memLen then .partition else .device
  | .peer _ => .pod

/-! ## Queues of accesses -/

/-- The entries of a class FIFO. -/
def Ctx.fifoOf (x : Ctx) (cls : Nat) : List Acc := x.fifo.get cls []

/-- Sets a class FIFO; an empty one is not listed. -/
def Ctx.setFifo (x : Ctx) (cls : Nat) (q : List Acc) : Ctx :=
  { x with fifo := if q = [] then x.fifo.del cls else x.fifo.put cls q }

/-- Every entry of every class FIFO. -/
def Ctx.posted (x : Ctx) : List Acc := x.fifo.flatMap (fun q => q.2)

/-- Every entry of every class FIFO of a core: a class FIFO is the core's, and keeps the entries of a context that is exchanged
out (R236, R306, R383). -/
def Core.posted (c : Core) : List Acc := c.ctx.posted ++ c.alt.posted

/-- A core's atomics on device memory without a reply (R316). -/
def Core.atomsOut (c : Core) : Nat := (c.posted.filter (fun a => a.tag.isSome)).length

/-- The vector accesses of L and S of the masked classes that have issued and are not yet posted whole, since they wait for a walk, by
the numbers of their issues. -/
def Ctx.unposted (x : Ctx) (mask : BitVec 16) : List Nat :=
  [x.l, x.s].filterMap (fun t => (t.lanes.filter (fun k => bitAt mask k.2.1.toNat)).map (·.1))

/-- An access at its issue. `from_` is the first cycle in which it may perform. -/
def State.newAcc (s : State) (me : Nat) (st : Strm) (va : Nat) (p : Place) (k : AccKind) (cls : BitVec 4) (scp : Scp)
    (from_ : Nat) (e : Option Lease) (lane : Option (BitVec 6)) : Acc :=
  let x := s.ctx me
  { id := x.nextId, order := ((x.strm st).lanes.map (·.1)).getD x.nextId, st := st, issued := s.cyc me, due := s.cyc me + from_, addr := va, place := p, kind := k, cls := cls,
    scp := scp, reach := s.placeScope me p, expiry := e.map (·.expiry), d := (e.map (·.d)).getD false,
    cpg := (e.map (·.c)).getD false, lane := lane, head := ({ x.strm st with cls := .issue } : Stream).headWord, tag := none, resent := 0, sentAt := s.time, parked := false }

/-- Whether an access is an atomic. -/
def AccKind.isAtom : AccKind → Bool
  | .amo _ _ _ _ => true
  | .cas _ _ _ _ => true
  | .laneAdd _ _ => true
  | _ => false

/-- Whether a place lies beyond the cluster. -/
def Place.isExt : Place → Bool
  | .dev _ => true
  | .peer _ => true
  | _ => false

/-- An access enters the tail of its class FIFO (R234, R236); an atomic on device memory takes the next tag (R316). -/
def Ctx.post (x : Ctx) (a : Acc) : Ctx :=
  let t := a.kind.isAtom && a.place.isExt
  let y := x.setFifo a.cls.toNat (x.fifoOf a.cls.toNat ++ [{ a with id := x.nextId, tag := if t then some x.atomSeq.toNat else none }])
  { y with nextId := x.nextId + 1, atomSeq := if t then x.atomSeq + 1 else x.atomSeq }

/-- A direct access is scheduled (R235). -/
def State.direct (s : State) (me : Nat) (a : Acc) : State :=
  (s.modCore me (fun c => { c with direct := c.direct ++ [a] })).modCtx me (fun x => { x with nextId := x.nextId + 1 })

/-! ## Values -/

/-- The bytes of an access width (R55). -/
def szBytes : Sz → Nat
  | .d => 8
  | .b => 1
  | .h => 2
  | .w => 4

/-- A loaded value extended by SX (R55). -/
def extend (sz : Sz) (sx : Bool) (bs : List Byte) : Word :=
  let v := leNat bs
  match sz with
  | .d => BitVec.ofNat 64 v
  | .b => if sx then sext (BitVec.ofNat 8 v) else BitVec.ofNat 64 v
  | .h => if sx then sext (BitVec.ofNat 16 v) else BitVec.ofNat 64 v
  | .w => if sx then sext (BitVec.ofNat 32 v) else BitVec.ofNat 64 v

/-- The new value of an atomic (R90), on values of the access width. -/
def amoNew (w32 : Bool) (op : AmoOp) (old b : Word) : Word :=
  let lt := if w32 then (old.setWidth 32).slt (b.setWidth 32) else old.slt b
  let ltu := if w32 then (old.setWidth 32).ult (b.setWidth 32) else old.ult b
  match op with
  | .add => old + b
  | .and => old &&& b
  | .or => old ||| b
  | .xor => old ^^^ b
  | .min => if lt then old else b
  | .max => if lt then b else old
  | .minu => if ltu then old else b
  | .maxu => if ltu then b else old
  | .swap => b

/-- One lane or element added in the arithmetic of its type (R130): integers wrap, floats round to nearest even. -/
def laneSum (ty : LaneTy) (a b : Lane) : Lane :=
  let f := fun (f : Fmt) (x y : Nat) => f.ofVal .rne 0 (FV.add .rne (f.val x) (f.val y))
  let two := fun (f : Fmt) =>
    BitVec.ofNat 32 (f.ofVal .rne 0 (FV.add .rne (f.val (bits a 0 16)) (f.val (bits b 0 16))) +
      f.ofVal .rne 0 (FV.add .rne (f.val (bits a 16 16)) (f.val (bits b 16 16))) * 2 ^ 16)
  match ty with
  | .i32 => a + b
  | .ui32 => a + b
  | .f32 => BitVec.ofNat 32 (f fp32 a.toNat b.toNat)
  | .bf16x2 => two bf16
  | .f16x2 => two fp16
  | .cb16 => two bf16
  | .i16x2 => BitVec.ofNat 32 ((bits a 0 16 + bits b 0 16) % 2 ^ 16 + (bits a 16 16 + bits b 16 16) % 2 ^ 16 * 2 ^ 16)
  | .ui8x4 =>
    BitVec.ofNat 32 ((upto 0 4).foldl (fun n e => n + (bits a (8 * e) 8 + bits b (8 * e) 8) % 256 * 2 ^ (8 * e)) 0)

/-- The bytes that an access reads or writes. -/
def AccKind.width : AccKind → Nat
  | .load sz _ _ => szBytes sz
  | .store v => v.length
  | .amo w _ _ _ => if w then 4 else 8
  | .cas w _ _ _ => if w then 4 else 8
  | .lineLoad _ one cv =>
    match cv with
    | .none => if one then 4 else 256
    | .bf16 => if one then 2 else 128
    | .f16 => if one then 2 else 128
    | .i8 => if one then 1 else 64
    | .pk => 256
  | .laneLoad _ _ _ => 4
  | .laneAdd _ _ => 4

/-- What an atomic or a reducing lane writes, if it writes, and what it returns, from the old bytes (R90, R91, R130): a compare
that fails writes nothing. -/
def AccKind.update (k : AccKind) (old : List Byte) : Option (Option (List Byte) × Word) :=
  let v := BitVec.ofNat 64 (leNat old)
  match k with
  | .amo w op b _ => some (some (leBytes (if w then 4 else 8) (amoNew w op v b).toNat), v)
  | .cas w b e _ =>
    some (if v = (if w then (b.setWidth 32).setWidth 64 else b) then some (leBytes (if w then 4 else 8) e.toNat) else none, v)
  | .laneAdd ty x => some (some (leBytes 4 (laneSum ty (BitVec.ofNat 32 (leNat old)) x).toNat), v)
  | _ => none

/-- The register that a C access writes. -/
def AccKind.dest : AccKind → Option Reg
  | .load _ _ d => some d
  | .amo _ _ _ d => some d
  | .cas _ _ _ d => some d
  | _ => none

/-- Whether an access only reads. -/
def AccKind.reads : AccKind → Bool
  | .load _ _ _ => true
  | .lineLoad _ _ _ => true
  | .laneLoad _ _ _ => true
  | _ => false

/-! ## The range checker (R193, R229) -/

/-- The sectors of a scratchpad byte range, as one run. -/
def spanOf (core off n : Nat) : Span := { wb := false, core := core, lo := off / 32, hi := (off + n + 31) / 32 }

/-- Two runs meet. -/
def Span.meets (a b : Span) : Bool := a.wb == b.wb && a.core == b.core && a.lo < b.hi && b.lo < a.hi

/-- A sector lies in both and at least one of the two writes it (R193). -/
def ChkEntry.conflicts (a b : ChkEntry) : Bool :=
  a.wr.any (fun x => b.wr.any x.meets || b.rd.any x.meets) || a.rd.any (fun x => b.wr.any x.meets)

/-- Whether an entry still counts in a cycle: it is held until the cycle in which it is freed has passed (R229). -/
def ChkEntry.holds (e : ChkEntry) (cyc : Nat) : Bool :=
  match e.free with
  | some f => cyc ≤ f
  | none => true

/-- Whether an access with these sets may issue now (R193): no conflict with an older entry, and an entry free. -/
def Ctx.chkClear (x : Ctx) (e : ChkEntry) (cyc : Nat) : Bool :=
  let live := x.eng.checker.filter (fun o => o.holds cyc)
  live.length < 64 && !live.any (fun o => e.conflicts o)

/-- Enters an access or command. -/
def Ctx.chkAdd (x : Ctx) (e : ChkEntry) : Ctx := { x with eng := { x.eng with checker := x.eng.checker ++ [e] } }

/-- Frees an entry in a cycle. -/
def Ctx.chkFree (x : Ctx) (id cyc : Nat) : Ctx :=
  { x with eng := { x.eng with checker := x.eng.checker.map (fun e => if e.id = id then { e with free := some cyc } else e) } }

/-! ## Queue entries -/

/-- Changes the entry of a queue that bears a number. -/
def mapEntry (q : List QLine) (id : Nat) (f : QLine → QLine) : List QLine := q.map (fun e => if e.id = id then f e else e)

/-- Changes an entry of an LQ. -/
def Ctx.mapLq (x : Ctx) (q id : Nat) (f : QLine → QLine) : Ctx := { x with lq := x.lq.set q (mapEntry (x.lq.getD q []) id f) }

/-- Changes an entry of an SQ. -/
def Ctx.mapSq (x : Ctx) (q id : Nat) (f : QLine → QLine) : Ctx := { x with sq := x.sq.set q (mapEntry (x.sq.getD q []) id f) }

/-- A lane of an `ldm` or `ldgx` settles (R132, R243): its value, or the fault that marks the entry; the entry fills with
its last lane. -/
def QLine.settle (e : QLine) (lane : Nat) (v : Lane) (bad : Option Trap) : QLine :=
  { e with
    lanes := e.lanes.set lane v
    left := e.left - 1
    filled := e.left ≤ 1
    bad := e.bad.or bad }

/-! ## Lines (R124) -/

/-- The lanes of memory bytes by CV, for a whole line (R124); CV 4 is expanded by the caller. -/
def cvLoad (cv : Cv) (bs : List Byte) : List Lane :=
  match cv with
  | .none => lanesOfBytes 64 bs
  | .pk => lanesOfBytes 64 bs
  | .bf16 => lanes (fun j => BitVec.ofNat 32 (bf16.convert fp32 .rne 0 (leNat ((bs.drop (2 * j)).take 2))))
  | .f16 => lanes (fun j => BitVec.ofNat 32 (fp16.convert fp32 .rne 0 (leNat ((bs.drop (2 * j)).take 2))))
  | .i8 => lanes (fun j => BitVec.ofInt 32 (signed 8 (bs.getD j 0).toNat))

/-- The lanes of one memory element, in every lane (`ldb`, R123, R124). -/
def cvLoadOne (cv : Cv) (bs : List Byte) : List Lane :=
  let v := leNat bs
  let l : Lane :=
    match cv with
    | .none => BitVec.ofNat 32 v
    | .pk => BitVec.ofNat 32 v
    | .bf16 => BitVec.ofNat 32 (bf16.convert fp32 .rne 0 v)
    | .f16 => BitVec.ofNat 32 (fp16.convert fp32 .rne 0 v)
    | .i8 => BitVec.ofInt 32 (signed 8 v)
  lanes (fun _ => l)

/-- The bytes that a store line writes by CV (R124). -/
def cvStore (cv : Cv) (v : List Lane) : List Byte :=
  match cv with
  | .none => bytesOfLanes v
  | .pk => bytesOfLanes v
  | .bf16 => v.flatMap (fun a => leBytes 2 (fp32.convert bf16 .rne 0 a.toNat))
  | .f16 => v.flatMap (fun a => leBytes 2 (fp32.convert fp16 .rne 0 a.toNat))
  | .i8 => v.flatMap (fun a => leBytes 1 ((clamp (-128) 127 (signed 32 a.toNat)) % 256).toNat)

/-! ## Packed blocks (R363 to R365) -/

/-- The parts of a packed block by its FMT: how many, the format of a part, and its bytes. -/
def packParts (fmt : Nat) : Nat × Fmt × Nat := if fmt = 0 then (64, fp32, 4) else if fmt = 2 then (128, fp16, 2) else (128, bf16, 2)

/-- One value q × 2^(E − 150) as a pattern; it is exact by R364. -/
def packPart (f : Fmt) (e q : Nat) : Nat :=
  let v := signed 16 q
  f.round .rne 0 (v < 0) v.natAbs ((e : Int) - 150) false

/-- The q values of the nonzero parts, in ascending part. -/
def unpackGo (f : Fmt) (w e map : Nat) (bs : List Byte) : Nat → Nat → List Byte → List Byte
  | 0, _, out => out
  | n + 1, k, out =>
    if map / 2 ^ k % 2 = 1 then
      unpackGo f w e map (bs.drop 2) n (k + 1) (out ++ leBytes w (packPart f e (leNat (bs.take 2))))
    else unpackGo f w e map bs n (k + 1) (out ++ leBytes w 0)

/-- The raw bytes that a packed block stands for (R363). -/
def unpack (bs : List Byte) : List Byte :=
  let h := leNat ((bs.drop 4).take 4)
  let (p, f, w) := packParts (h % 16)
  let map := leNat ((bs.drop 8).take (p / 8))
  unpackGo f w (h / 256 % 256) map (bs.drop (8 + p / 8)) p 0 []

/-- FMT of a packed block. -/
def packFmt (bs : List Byte) : Nat := leNat ((bs.drop 4).take 4) % 16

/-- The value of a part for packing: its integer significand and exponent, and sign; `none` when it is not finite or is
−0. -/
def partValue (f : Fmt) (x : Nat) : Option (Bool × Nat × Int) :=
  match f.val x with
  | .num neg m e => if m = 0 ∧ neg = true then none else some (neg, m, e)
  | _ => none

/-- The weight of the lowest set bit of a nonzero value: the exponent k of R364. -/
def lowWeight (m : Nat) (e : Int) : Int := e + (trailZeros 64 m : Int)

/-- E of a slot (R364). -/
def packE (vs : List (Bool × Nat × Int)) : Nat :=
  let ks := (vs.filter (fun v => v.2.1 != 0)).map (fun v => lowWeight v.2.1 v.2.2 + 150)
  match ks with
  | [] => 0
  | k :: t => (min 255 (t.foldl min k)).toNat

/-- q of a part under E: exact, and within ±32,767, or `none`. -/
def packQ (e : Nat) (v : Bool × Nat × Int) : Option Int :=
  let sh := v.2.2 - ((e : Int) - 150)
  let q : Nat := if 0 ≤ sh then v.2.1 * 2 ^ sh.toNat else v.2.1 / 2 ^ (-sh).toNat
  let exact := 0 ≤ sh || v.2.1 % 2 ^ (-sh).toNat = 0
  if exact ∧ q ≤ 32767 then some (if v.1 then -(q : Int) else q) else none

/-- The parts of raw bytes. -/
def partsOf (f : Fmt) (w : Nat) : Nat → List Byte → List (Option (Bool × Nat × Int))
  | 0, _ => []
  | n + 1, bs => partValue f (leNat (bs.take w)) :: partsOf f w n (bs.drop w)

/-- Packs a slot (R363, R364), word 0 zero, filled to whole sectors; `none` when it is written raw. -/
def packSlot (fmt tag : Nat) (bs : List Byte) : Option (List Byte) :=
  let (p, f, w) := packParts fmt
  let ps := partsOf f w p bs
  if ps.any (·.isNone) then none
  else
    let vs := ps.filterMap id
    let e := packE vs
    let qs := (vs.filter (fun v => v.2.1 != 0)).map (packQ e)
    if qs.any (·.isNone) then none
    else
      let n := 8 + p / 8 + 2 * qs.length
      let sec := (n + 31) / 32
      if 7 < sec then none
      else
        let map := vs.foldr (fun v m => (if v.2.1 = 0 then 0 else 1) + 2 * m) 0
        let head := e * 256 + (sec - 1) * 32 + tag * 16 + fmt
        let body := leBytes 4 0 ++ leBytes 4 head ++ leBytes (p / 8) map ++
          (qs.filterMap id).flatMap (fun q => leBytes 2 (q % 65536).toNat)
        some (body ++ List.replicate (32 * sec - n) 0)

/-- The bytes of a scratchpad slot that an expanding reader fetches (R124, R365): of a packed one the first sector, and those that
its header counts. -/
def Core.slotFetch (c : Core) (off : Nat) : Nat :=
  if c.packed.contains (off / 256) then 32 * (packSectors (c.spad.readN off 32) + 1) else 256

/-- Whether the sectors that an expanding reader of a slot reads match their checks (R124): of a packed slot the first, and
those that its header counts. -/
def Core.slotSound (c : Core) (off : Nat) : Bool :=
  c.spadSound off 32 &&
    c.spadSound off (c.slotFetch off)

/-- The 256 bytes of a scratchpad slot as an expanding reader of FMT gets them (R124, R365). -/
def Core.slotBytes (c : Core) (off : Nat) : List Byte :=
  let bs := c.spad.readN off 256
  if c.packed.contains (off / 256) then unpack bs else bs

end Sys2Proof.Machine
end

