-- ==== Sys2Proof/Machine/Command.lean ====
section
/-! DEFINITION. Engine commands at their GO: fields (R169, R177 to R189), the checks of R76, the declared sets (R194), the
domains touched (R37, R176), and the push (R96, R190, R239). -/

namespace Sys2Proof.Machine

/-! ## Tiles (R28) -/

/-- A decoded tile-table entry. -/
structure Tile where
  valid : Bool
  f : Bool
  bsz : Nat
  fmt : Nat
  acc : Bool
  pitch : Nat
  rows : Nat
  cols : Nat
  base : Nat
  deriving DecidableEq, Repr

/-- The fields of an image. -/
def tileOf (v : TileImage) : Tile :=
  { valid := bitAt v 125, f := bitAt v 123, bsz := 16 * 2 ^ bits v 121 2, fmt := bits v 117 4, acc := bitAt v 116,
    pitch := bits v 94 22, rows := bits v 82 12 + 1, cols := bits v 70 12 + 1, base := bits v 48 22 }

/-- Bytes of an element of a format (R28); 0 for a reserved one. -/
def fmtBytes : Nat → Nat
  | 0 => 4
  | 1 => 2
  | 2 => 2
  | 3 => 1
  | 4 => 1
  | 5 => 1
  | 6 => 1
  | 7 => 1
  | 8 => 4
  | 9 => 4
  | 10 => 8
  | 11 => 4
  | _ => 0

/-- Whether a format may lie in a space (R28). -/
def fmtSpace (fmt : Nat) (acc : Bool) : Bool :=
  if fmt = 0 ∨ fmt = 8 then true else if fmt = 10 ∨ fmt = 11 then acc else fmt < 10 && !acc

/-- Bytes of a tile's row of elements. -/
def Tile.rowBytes (t : Tile) : Nat := t.cols * fmtBytes t.fmt

/-- The checks of R29 on an entry value. -/
def Tile.ok (t : Tile) : Bool :=
  t.fmt < 12 && fmtSpace t.fmt t.acc && t.base % 32 == 0 &&
    (t.rows == 1 || (t.pitch % 32 == 0 && t.rowBytes ≤ t.pitch)) &&
    t.base + (t.rows - 1) * t.pitch + t.rowBytes ≤ (if t.acc then 0x300000 else 0x200000) &&
    (!t.f || ((t.fmt == 9 || t.fmt == 10) && t.cols % (t.bsz / 2) == 0))

/-- The sectors of a tile's rows (R194). -/
def Tile.spans (t : Tile) (core : Nat) : List Span :=
  (upto 0 t.rows).map (fun r => spanOf core (t.base + r * t.pitch) t.rowBytes)

/-- The address of an element. -/
def Tile.at_ (t : Tile) (i j : Nat) : Nat := t.base + i * t.pitch + j * fmtBytes t.fmt

/-! ## Commands (R69) -/

/-- The commands of the engines. -/
inductive Op | mma | mmas | mzero | drain | copy | gath | scat | wfill | flagw | pref | fwd | inv | tagset
  deriving DecidableEq, Repr

/-- The command that an opcode names in a window (R69). -/
def opOf : Eng → Nat → Option Op
  | .array, 1 => some .mma
  | .array, 2 => some .mmas
  | .array, 3 => some .mzero
  | .array, 4 => some .drain
  | .copy, 1 => some .copy
  | .copy, 2 => some .gath
  | .copy, 3 => some .scat
  | .copy, 4 => some .wfill
  | .copy, 5 => some .flagw
  | .copy, 6 => some .pref
  | .xe, 1 => some .fwd
  | .xe, 2 => some .inv
  | .xe, 3 => some .tagset
  | _, _ => none

/-- OPC of CMDW0 (R169). -/
def Cmd.opc (k : Cmd) : Nat := bits k.w0 56 8

/-- The command. -/
def Cmd.op (k : Cmd) : Option Op := opOf k.eng k.opc

/-- FSEL of CMDW0 (R169). -/
def Cmd.fsel (k : Cmd) : Nat := bits k.w0 49 6

/-- AFMT, BFMT, CFMT and OFMT of the format entry (R173). -/
def Cmd.afmt (k : Cmd) : Nat := bits k.fmt 60 4
@[inherit_doc Cmd.afmt] def Cmd.bfmt (k : Cmd) : Nat := bits k.fmt 56 4
@[inherit_doc Cmd.afmt] def Cmd.cfmt (k : Cmd) : Nat := bits k.fmt 52 4
@[inherit_doc Cmd.afmt] def Cmd.ofmt (k : Cmd) : Nat := bits k.fmt 48 4

/-- ORND of the format entry (R173). -/
def Cmd.ornd (k : Cmd) : Rnd :=
  match bits k.fmt 46 2 with
  | 0 => .rne
  | 1 => .rtz
  | 2 => .rdn
  | _ => .sr

/-- CMP of the format entry (R173). -/
def Cmd.cmp (k : Cmd) : Bool := bitAt k.fmt 45

/-- OEXP of the format entry (R173). -/
def Cmd.oexp (k : Cmd) : Int := signed 8 (bits k.fmt 36 8)

/-- The tile that a command names. -/
def Cmd.tile (k : Cmd) (n : Nat) : Tile := tileOf (k.tiles.get n 0)

/-- Tile numbers in CMDW0 (R177 to R181, R189). -/
def Cmd.t1 (k : Cmd) : Nat := bits k.w0 42 6
@[inherit_doc Cmd.t1] def Cmd.t2 (k : Cmd) : Nat := bits k.w0 36 6
@[inherit_doc Cmd.t1] def Cmd.t3 (k : Cmd) : Nat := bits k.w0 30 6

/-- K, N and ACOL of `mma` (R177). -/
def Cmd.kk (k : Cmd) : Nat := bits k.w0 29 7 + 1
@[inherit_doc Cmd.kk] def Cmd.nn (k : Cmd) : Nat := bits k.w0 22 7 + 1
@[inherit_doc Cmd.kk] def Cmd.acol (k : Cmd) : Nat := bits k.w0 10 12

/-- BPITCH and WBOFS of CMDW1 (R177, R179). -/
def Cmd.bpitch (k : Cmd) : Nat := bits k.w1 24 20
@[inherit_doc Cmd.bpitch] def Cmd.wbofs (k : Cmd) : Nat := bits k.w1 0 23

/-- ASC, SCN and BSC of CMDW2 (R177). -/
def Cmd.asc (k : Cmd) : Nat := bits k.w2 40 24
@[inherit_doc Cmd.asc] def Cmd.scn (k : Cmd) : Nat := bits k.w2 24 16
@[inherit_doc Cmd.asc] def Cmd.bsc (k : Cmd) : Nat := bits k.w2 0 23

/-- MODE, P, Q and the weight block of `mmas` (R179). -/
def Cmd.mode (k : Cmd) : Nat := bits k.w0 28 2
@[inherit_doc Cmd.mode] def Cmd.pp (k : Cmd) : Nat := bits k.w0 21 7 + 1
@[inherit_doc Cmd.mode] def Cmd.qq (k : Cmd) : Nat := bits k.w0 14 7 + 1
@[inherit_doc Cmd.mode] def Cmd.wbsz (k : Cmd) : Nat := 16 * 2 ^ bits k.w1 24 2

/-- SS, DS, ROWSM1 + 1, ROWB × 32, FE and FWORD's window offset (R183). -/
def Cmd.ss (k : Cmd) : Bool := bitAt k.w0 48
@[inherit_doc Cmd.ss] def Cmd.ds (k : Cmd) : Bool := bitAt k.w0 47
@[inherit_doc Cmd.ss] def Cmd.rows (k : Cmd) : Nat := bits k.w0 35 11 + 1
@[inherit_doc Cmd.ss] def Cmd.rowb (k : Cmd) : Nat := bits k.w0 22 13 * 32
@[inherit_doc Cmd.ss] def Cmd.fe (k : Cmd) : Bool := bitAt k.w0 21
@[inherit_doc Cmd.ss] def Cmd.fword (k : Cmd) : Nat := 0x200000 + 4 * bits k.w0 0 21

/-- SRC and DST (R183). -/
def Cmd.src (k : Cmd) : Nat := bits k.w1 0 56
@[inherit_doc Cmd.src] def Cmd.dst (k : Cmd) : Nat := bits k.w2 0 56

/-- The source stride in bytes (R183). -/
def Cmd.sstr (k : Cmd) : Int := signed 16 (bits k.w3 32 16) * 32

/-- The destination stride in bytes (R183). -/
def Cmd.dstr (k : Cmd) : Int := signed 16 (bits k.w3 16 16) * 32

/-- FVAL (R183). -/
def Cmd.fval (k : Cmd) : Nat := bits k.w3 0 16

/-- RMASK (R169). -/
def Cmd.rmask (k : Cmd) : BitVec 16 := BitVec.ofNat 16 (bits k.w3 48 16)

/-- RED and RTY of `scat` (R184). -/
def Cmd.red (k : Cmd) : Bool := bitAt k.w0 46
@[inherit_doc Cmd.red] def Cmd.rty (k : Cmd) : Nat := bits k.w3 29 3

/-- The index tile (R184). -/
def Cmd.itile (k : Cmd) : Nat := if k.op = some .gath then bits k.w3 32 6 else bits k.w3 16 6

/-- The tile numbers that a command names. -/
def Cmd.names (k : Cmd) : List Nat :=
  match k.op with
  | some .mma => [k.t1, k.t2]
  | some .mmas => if k.mode = 2 then [k.t1, k.t2, k.t3] else [k.t1, k.t2]
  | some .mzero => [k.t2]
  | some .drain => [k.t1, k.t2]
  | some .copy => (if k.ss then [k.src % 64] else []) ++ (if k.ds then [k.dst % 64] else [])
  | some .gath => k.itile :: (if k.ds then [k.dst % 64] else [])
  | some .scat => k.itile :: (if k.ss then [k.src % 64] else [])
  | some .wfill => if k.ss then [k.src % 64] else []
  | some .fwd => [k.t1, k.t2]
  | some .inv => [k.t1, k.t2]
  | some .tagset => [k.t1]
  | _ => []

/-! ## Reserved bits (R169) -/

/-- The bits of a field. -/
def field (hi lo : Nat) : Nat := 2 ^ (hi + 1) - 2 ^ lo

/-- The bits of CMDW0 to CMDW3 that a command defines, besides OPC and RMASK. -/
def Cmd.defined (k : Cmd) : Nat × Nat × Nat × Nat :=
  let addr := field 55 0
  let flag := field 21 0
  let scaled := k.afmt = 5 ∨ k.afmt = 6 ∨ k.bfmt = 5 ∨ k.bfmt = 6
  let s := if k.ss then field 5 0 else addr
  let d := if k.ds then field 5 0 else addr
  match k.op with
  | some .mma => (field 54 49 + field 47 10, field 43 24 + field 22 0, if scaled then field 63 24 + field 22 0 else 0, 0)
  | some .mmas => (field 47 36 + (if k.mode = 2 then field 35 30 else 0) + field 29 14, field 25 24 + field 22 0, 0, 0)
  | some .mzero => (field 41 36, 0, 0, 0)
  | some .drain => (field 54 49 + field 47 34, 0, if k.ofmt = 5 ∨ k.ofmt = 6 then field 23 0 else 0, 0)
  | some .copy => (field 48 47 + (if k.ds then field 46 46 else 0) + field 45 22 + flag, s, d, field 47 0)
  | some .gath => (field 47 47 + (if k.ds then field 46 46 else 0) + field 45 22 + flag, addr, d, field 37 32 + field 31 0)
  | some .scat =>
    (field 48 48 + field 46 22 + flag, s, addr, field 47 32 + (if k.red then field 31 29 else 0) + field 21 0)
  | some .wfill => (field 48 48 + field 45 22 + flag, s, field 22 0, field 47 32 + field 15 0)
  | some .flagw => (flag, 0, addr, field 15 0)
  | some .pref => (field 48 48 + flag, addr, field 39 0, field 15 0)
  | some .fwd => (field 55 55 + field 47 36, 0, 0, 0)
  | some .inv => (field 55 55 + field 47 36, 0, 0, 0)
  | some .tagset => (field 47 42 + field 35 33, 0, 0, 0)
  | none => (0, 0, 0, 0)

/-- Every reserved bit of the words is zero. -/
def Cmd.reservedOk (k : Cmd) : Bool :=
  let m := k.defined
  let clean := fun (w : Word) (mask : Nat) => w.toNat &&& (2 ^ 64 - 1 - mask) = 0
  clean k.w0 (m.1 + field 63 56) && clean k.w1 m.2.1 && clean k.w2 m.2.2.1 && clean k.w3 (m.2.2.2 + field 63 48)

/-! ## Endpoints (R182 to R184) -/

/-- A virtual address, 64-bit wrapping, of a base and a signed offset. -/
def wrapAddr (base : Nat) (off : Int) : Nat := (((base : Int) + off) % (2 ^ 64 : Nat)).toNat

/-- Where row r of the source begins. -/
def Cmd.srcRow (k : Cmd) (r : Nat) : Nat :=
  if k.ss then windowBase + (k.tile (k.src % 64)).base + r * (k.tile (k.src % 64)).pitch else wrapAddr k.src (r * k.sstr)

/-- Where row r of the destination begins. -/
def Cmd.dstRow (k : Cmd) (r : Nat) : Nat :=
  if k.ds then windowBase + (k.tile (k.dst % 64)).base + r * (k.tile (k.dst % 64)).pitch else wrapAddr k.dst (r * k.dstr)

/-- An address endpoint's range is acceptable at the GO: no window address, or one within the scratchpads (R182). A range
that runs into the window from below is not (DEDUCED, log 20). -/
def endOk (core va len : Nat) : Bool :=
  match resolve core va len with
  | .win (.spad _ _) => true
  | .ext => 2 ^ 56 ≤ va || va + len ≤ windowBase
  | _ => false

/-- A tile endpoint (R182): a scratchpad tile with enough rows, and rows wide enough. -/
def Cmd.tileEnd (k : Cmd) (n : Nat) : Bool :=
  let t := k.tile n
  !t.acc && k.rows ≤ t.rows && k.rowb ≤ (t.rowBytes + 31) / 32 * 32

/-- The rows of an address endpoint. -/
def Cmd.rowsOk (k : Cmd) (row : Nat → Nat) (base : Nat) : Bool :=
  base % 32 == 0 && (upto 0 k.rows).all (fun r => endOk k.core (row r) k.rowb)

/-- The source endpoint. -/
def Cmd.srcOk (k : Cmd) : Bool := if k.ss then k.tileEnd (k.src % 64) else k.rowsOk k.srcRow k.src

/-- The destination endpoint. -/
def Cmd.dstOk (k : Cmd) : Bool := if k.ds then k.tileEnd (k.dst % 64) else k.rowsOk k.dstRow k.dst

/-- The scratchpad that an address lies in. -/
def spadAt (core va : Nat) : Option (Nat × Nat) :=
  match resolve core va 1 with
  | .win (.spad c off) => some (c, off)
  | _ => none

/-- The scratchpad sectors of a byte range; a device address declares nothing (R194). -/
def spanAt (core va len : Nat) : List Span :=
  match spadAt core va with
  | some (c, off) => [spanOf c off len]
  | none => []

/-- From an address to the end of its scratchpad (R194). -/
def spanToEnd (core va : Nat) : List Span :=
  match spadAt core va with
  | some (c, off) => [{ wb := false, core := c, lo := off / 32, hi := 0x10000 }]
  | none => []

/-- Whether a window offset range lies in the scratchpads of the cluster. -/
def offOk (core off len : Nat) : Bool :=
  match resolve core (windowBase + off) len with
  | .win (.spad _ _) => true
  | _ => false

/-! ## Check 2 of R76 -/

/-- The formats that `mma` accepts (R175). -/
def tripleOk (a b c : Nat) : Bool :=
  (a == 1 && b == 1 && c == 0) || (a == 2 && b == 2 && c == 0) || (a == 7 && b == 7 && c == 11) ||
    (3 ≤ a && a ≤ 6 && 3 ≤ b && b ≤ 6 && c == 0)

/-- Whether A or B carries block scales (R177). -/
def Cmd.scaled (k : Cmd) : Bool := k.afmt == 5 || k.afmt == 6 || k.bfmt == 5 || k.bfmt == 6

/-- The space, format and limits of a command's own rule (R175 to R189). A range that the spec gives no fate when it leaves its
store (A scales outside the scratchpads, B scales or `mmas` weights past the weight buffer) is BADCMD here (DESIGN CHOICE,
log 67). The spec does not say which block size the shape check takes where TA's and the weights' differ, before the DOMAIN check: it
takes TA's (DESIGN CHOICE, log 91). -/
def Cmd.shapeOk (k : Cmd) : Bool :=
  let a := k.tile k.t1
  let c := k.tile k.t2
  match k.op with
  | some .mma =>
    tripleOk k.afmt k.bfmt k.cfmt && !a.acc && c.acc && a.fmt == k.afmt && c.fmt == k.cfmt && c.rows == a.rows &&
      k.nn ≤ c.cols && k.acol + k.kk ≤ a.cols && k.bpitch % 32 == 0 && k.nn * fmtBytes k.bfmt ≤ k.bpitch &&
      k.wbofs % 32 == 0 && k.wbofs + (k.kk - 1) * k.bpitch + k.nn * fmtBytes k.bfmt ≤ 0x800000 &&
      (!k.scaled || (k.kk % 32 == 0 && (k.scn == 0 || offOk k.core k.asc k.scn) && k.bsc + k.nn * (k.kk / 32) ≤ 0x800000))
  | some .mmas =>
    let b := k.tile k.t3
    let half := a.bsz / 2
    k.mode < 3 && !a.acc && a.fmt == 9 && c.acc && c.fmt == 10 && k.wbofs % 32 == 0 &&
      k.wbofs + k.pp * k.qq * 2 * k.wbsz ≤ 0x800000 &&
      (match k.mode with
       | 0 => a.cols == k.qq * half && c.rows == a.rows && c.cols == k.pp * half
       | 1 => a.cols == k.pp * half && c.rows == a.rows && c.cols == k.qq * half
       | _ => a.cols == k.qq * half && !b.acc && b.fmt == 9 && b.rows == a.rows && b.cols == k.pp * half &&
          c.rows == k.pp && c.cols == k.qq * half)
  | some .mzero => c.acc
  | some .drain =>
    let o := k.ofmt
    !a.acc && c.acc && a.rows == c.rows && a.cols == c.cols && a.fmt == o &&
      ((c.fmt == 0 && o ≤ 6) || (c.fmt == 11 && (o ≤ 2 || o == 8)) || (c.fmt == 10 && o == 9)) &&
      (!bitAt k.w0 35 || c.fmt == 10) &&
      (!(o == 5 || o == 6) || (a.cols % 32 == 0 && offOk k.core (bits k.w2 0 24) (a.rows * (a.cols / 32)))) &&
      (!k.cmp || ((o ≤ 2 || o == 9) && a.base % 256 == 0 && a.pitch % 256 == 0 && a.rowBytes % 256 == 0))
  | some .copy =>
    k.rowb != 0 && k.srcOk && k.dstOk && (!(k.ds && bitAt k.w0 46) || (k.tile (k.dst % 64)).fmt == 9)
  | some .gath =>
    let t := k.tile k.itile
    k.rowb != 0 && k.src % 32 == 0 && endOk k.core k.src 1 && k.dstOk && (!(k.ds && bitAt k.w0 46) || (k.tile (k.dst % 64)).fmt == 9) &&
      t.fmt == 8 && !t.acc && k.rows ≤ t.rows * t.cols
  | some .scat =>
    let t := k.tile k.itile
    k.rowb != 0 && k.dst % 32 == 0 && endOk k.core k.dst 1 && k.srcOk && t.fmt == 8 && !t.acc && k.rows ≤ t.rows * t.cols &&
      (!k.red || (k.rty < 5 && (spadAt k.core k.dst).isNone))
  | some .wfill =>
    k.rowb != 0 && k.rowb % 256 == 0 && k.srcOk && bits k.w2 0 23 % 256 == 0 && bits k.w2 0 23 + k.rows * k.rowb ≤ 0x800000
  | some .flagw => k.dst % 4 == 0 && endOk k.core k.dst 4
  | some .pref => true
  | some .fwd =>
    !a.acc && !c.acc && (a.fmt == 1 || a.fmt == 0) && a.cols % a.bsz == 0 && c.fmt == 9 && c.rows == a.rows && 2 * c.cols == a.cols
  | some .inv => !a.acc && !c.acc && a.fmt == 9 && c.fmt == 1 && c.rows == a.rows && c.cols == 2 * a.cols
  | some .tagset =>
    !bitAt k.w0 35 || ((a.fmt == 9 || a.fmt == 10) && a.cols % (8 * 2 ^ bits k.w0 33 2) == 0)
  | none => false

/-- R = 1 stands only in `fwd` and `inv` (R169, by the reserved bits), and FSEL is 0 to 35 (R76). -/
def Cmd.check2 (k : Cmd) : Bool :=
  k.op.isSome && k.reservedOk && k.fsel < 36 && k.names.all (fun n => (k.tile n).valid) && k.shapeOk

/-- Check 4 of R76: tags and block sizes match the command. -/
def Cmd.check4 (k : Cmd) : Bool :=
  let a := k.tile k.t1
  let c := k.tile k.t2
  match k.op with
  | some .mma => !a.f && !c.f
  | some .mmas =>
    let b := k.tile k.t3
    a.f && c.f && a.bsz == c.bsz && a.bsz == k.wbsz && (k.mode != 2 || (b.f && b.bsz == a.bsz))
  | some .drain => c.f == bitAt k.w0 35
  | some .fwd => !a.f && a.bsz == c.bsz
  | some .inv => a.f && a.bsz == c.bsz
  | _ => true

/-! ## Declared sets (R194) -/

/-- The index tile's first elements. -/
def Cmd.itSpans (k : Cmd) : List Span :=
  let t := k.tile k.itile
  (upto 0 ((k.rows + t.cols - 1) / t.cols)).map (fun r => spanOf k.core (t.base + r * t.pitch) (4 * min t.cols (k.rows - r * t.cols)))

/-- The flag word, with FE = 1. -/
def Cmd.flagSpan (k : Cmd) : List Span := if k.fe then spanAt k.core (windowBase + k.fword) 4 else []

/-- Sectors of the weight buffer. -/
def wbSpan (lo n : Nat) : Span := { wb := true, core := 0, lo := lo / 32, hi := (lo + n + 31) / 32 }

/-- The scratchpad and weight-buffer read set. -/
def Cmd.rdSet (k : Cmd) : List Span :=
  let a := k.tile k.t1
  match k.op with
  | some .mma =>
    (upto 0 a.rows).map (fun r => spanOf k.core (a.at_ r k.acol) (k.kk * fmtBytes a.fmt)) ++
      (if k.scaled ∧ k.scn ≠ 0 then spanAt k.core (windowBase + k.asc) k.scn else []) ++
      (upto 0 k.kk).map (fun r => wbSpan (k.wbofs + r * k.bpitch) (k.nn * fmtBytes k.bfmt)) ++
      (if k.scaled then [wbSpan k.bsc (k.nn * (k.kk / 32))] else [])
  | some .mmas =>
    a.spans k.core ++ (if k.mode = 2 then (k.tile k.t3).spans k.core else []) ++ [wbSpan k.wbofs (k.pp * k.qq * 2 * k.wbsz)]
  | some .copy => (upto 0 k.rows).flatMap (fun r => spanAt k.core (k.srcRow r) k.rowb)
  | some .gath => k.itSpans ++ spanToEnd k.core k.src
  | some .scat => k.itSpans ++ (upto 0 k.rows).flatMap (fun r => spanAt k.core (k.srcRow r) k.rowb)
  | some .wfill => (upto 0 k.rows).flatMap (fun r => spanAt k.core (k.srcRow r) k.rowb)
  | some .fwd => a.spans k.core
  | some .inv => a.spans k.core
  | _ => []

/-- The scratchpad and weight-buffer write set. -/
def Cmd.wrSet (k : Cmd) : List Span :=
  match k.op with
  | some .drain =>
    let a := k.tile k.t1
    a.spans k.core ++
      (if k.ofmt = 5 ∨ k.ofmt = 6 then spanAt k.core (windowBase + bits k.w2 0 24) (a.rows * (a.cols / 32)) else [])
  | some .copy => (upto 0 k.rows).flatMap (fun r => spanAt k.core (k.dstRow r) k.rowb) ++ k.flagSpan
  | some .gath => (upto 0 k.rows).flatMap (fun r => spanAt k.core (k.dstRow r) k.rowb) ++ k.flagSpan
  | some .scat => spanToEnd k.core k.dst ++ k.flagSpan
  | some .wfill => wbSpan (bits k.w2 0 23) (k.rows * k.rowb) :: k.flagSpan
  | some .flagw => spanAt k.core k.dst 4 ++ k.flagSpan
  | some .fwd => (k.tile k.t2).spans k.core
  | some .inv => (k.tile k.t2).spans k.core
  | _ => []

/-- Every scratchpad and weight-buffer sector that a command names: those that it declares, and the flag word, which R188 wants awake for
a `pref` too, whose sets are empty (R194). -/
def Cmd.sets (k : Cmd) : List Span := k.rdSet ++ k.wrSet ++ (if k.op = some .pref then k.flagSpan else [])

/-- The accumulator tile of an array command (R194). -/
def Cmd.accTile (k : Cmd) : Option Tile :=
  match k.op with
  | some .mma => some (k.tile k.t2)
  | some .mmas => some (k.tile k.t2)
  | some .mzero => some (k.tile k.t2)
  | some .drain => some (k.tile k.t2)
  | _ => none

/-! ## Domains touched at GO (R37, R176) -/

/-- The banks of a run of sectors. -/
def Span.touches (core : Nat) (x : Span) : List Touch :=
  if x.wb then
    (upto (x.lo / 0x4000) ((x.hi - 1) / 0x4000 + 1 - x.lo / 0x4000)).map (fun b => (core, DomTy.wbb, b))
  else (upto (x.lo / 0x800) ((x.hi - 1) / 0x800 + 1 - x.lo / 0x800)).map (fun b => (x.core, DomTy.spb, b))

/-- The quadrants that `mma` uses (R176). -/
def Cmd.quads (k : Cmd) : List Nat :=
  (upto 0 ((k.kk + 63) / 64)).flatMap (fun h => (upto 0 ((k.nn + 63) / 64)).map (fun v => 2 * h + v))

/-- Every domain that a command touches at its GO. -/
def Cmd.touches (k : Cmd) : List Touch :=
  (match k.op with
   | some .mma => k.quads.map (fun q => (k.core, DomTy.maq, q))
   | some .mmas => (upto 0 4).map (fun q => (k.core, DomTy.maq, q))
   | _ => []) ++
  (match k.eng with
   | .copy => [(k.core, DomTy.ce, 0)]
   | .xe => [(k.core, DomTy.xe, 0)]
   | .array => []) ++
  k.sets.flatMap (Span.touches k.core) ++
  (match k.accTile with
   | some t => (upto 0 t.rows).flatMap (fun r => accBanks k.core (t.base + r * t.pitch) t.rowBytes)
   | none => [])

/-! ## Power-offs (R144) -/

/-- Whether an access of `n` bytes at a place covers a byte of a scratchpad or accumulator bank. -/
def Place.inBank (p : Place) (n core : Nat) (dt : DomTy) (i : Nat) : Bool :=
  let (lo, hi) := bankBytes dt i
  match p with
  | .spad c off => dt == .spb && c == core && off < hi && lo < off + n
  | .acc off => dt == .acb && off < hi && lo < off + n
  | _ => false

/-- Whether a result in flight goes to a grid bank. -/
def PendDst.toBank (d : PendDst) (i : Nat) : Bool :=
  match d with
  | .line (.row r) _ _ => r.toNat / 16 == i
  | .line _ mask _ => bits mask (16 * i) 16 != 0
  | _ => false

/-- Whether an access, until it completes, touches a domain (R144): its bytes, or the grid line that it loads. -/
def Acc.inDomain (a : Acc) (core : Nat) (dt : DomTy) (i : Nat) : Bool :=
  a.place.inBank a.kind.width core dt i ||
    (dt == .gfb && (match a.kind with
      | .lineLoad (.line x) _ _ => (lineBanks core x (BitVec.allOnes 64)).any (fun t => t.2.1 == .gfb && t.2.2 == i)
      | _ => false))

/-- Whether a command, until it completes, touches a domain (R37, R144, R176): its declared sets, its engine, and the transform
engine that runs it (R191). -/
def Cmd.inDomain (k : Cmd) (core : Nat) (dt : DomTy) (i : Nat) : Bool :=
  if dt = .xe then k.eng == .xe && k.runner == core
  else k.touches.any (fun t => t.2.1 == dt && t.2.2 == i && (ofCluster dt || t.1 == core))

/-- BAL of the context whose array command came last (R375, R377); a context that is no longer in its bank had BAL = 1 when the
fade was due. -/
def State.ballasts (s : State) (w : Nat × Bool × Nat × Nat) : Bool :=
  let x := (s.core w.1).bankCtx w.2.1
  x.mode == .off || x.launch.part != w.2.2.1 || x.launch.region != w.2.2.2 || bitAt x.sys.pwrset 2

/-- Whether an access issued no later than a sleep, or a command in flight, of either bank, still touches the domain (R144);
a sleep of an array quadrant waits for a fade, but for none with BAL = 0 (R377). -/
def State.domBusy (s : State) (core : Nat) (dt : DomTy) (i : Nat) : Bool :=
  let cl := clusterOf core
  let own := fun (n : Nat) (x : Ctx) => n == core &&
    (match dt with
     | .vlg => x.pend.any (fun p => p.st == .v && !p.captured && bits p.mask (16 * i) 16 != 0)
     | .gfb => x.pend.any (fun p => !p.captured && p.dst.toBank i)
     | _ => false)
  let busy := fun (n : Nat) (x : Ctx) =>
    own n x || x.posted.any (fun a => (n == core || dt == .spb) && a.inDomain core dt i) || x.eng.live.any (fun k => k.inDomain core dt i)
  (coresOf cl).any (fun n =>
      (s.core n).direct.any (fun a => (n == core || dt == .spb) && a.inDomain core dt i) || busy n (s.core n).ctx || busy n (s.core n).alt) ||
    (dt == .maq && (s.cluster cl).fadeDue.any s.ballasts)

/-- R144: the end of a sleep: the sleep time runs from the cycle after the last access or command that touches the
domain. -/
def execDomainPowerOff (dom : DomRef) (s : State) : Host.Outcome State Fault Refusal :=
  let core := DomRef.core dom
  let d := s.dom core dom.ty dom.ix
  .next (match d.sleptAt with
    | none => s
    | some _ =>
      match d.offAt with
      | none => if s.domBusy core dom.ty dom.ix then s
                else s.setDom core dom.ty dom.ix { d with offAt := some (s.cyc core + sleepTime dom.ty) }
      | some e => if s.cyc core < e then s
                  else s.setDom core dom.ty dom.ix { d with sleptAt := none, offAt := none })

/-! ## GO -/

/-- The fenced scratchpad that a command names (R284). -/
def State.fencedSpan (s : State) (k : Cmd) : Option Nat :=
  (k.sets.find? (fun x => !x.wb && s.isFenced k.core x.core)).map (·.core)

/-- The checks of a GO (R76, R284): the fault, if any. -/
def State.goFault (s : State) (k : Cmd) (va : Nat) : Option Trap :=
  match if k.op.isSome then s.fencedSpan k else none with
  | some c => some { addrTrap .winlost va with core := c }
  | none =>
    if !k.check2 then some (addrTrap .badcmd va)
    else if k.eng = .array ∧ s.holdsLease k.core = false then some (addrTrap .nolease va)
    else if !k.check4 then some (addrTrap .domain va)
    else
      match s.asleep k.core k.touches with
      | some t => some (s.sleepTrap k.core t va)
      | none => none

/-! ## The GO (R96, R174, R239) -/

/-- The number of an engine (R100). -/
def engNo : Eng → Nat
  | .array => 0
  | .copy => 1
  | .xe => 2

/-- The format entry that FSEL names at a GO (R174): for FSEL 32 to 35, by the ITER that the GO recorded. -/
def Ctx.fmtEntry (x : Ctx) (fsel : Nat) : Word :=
  x.eng.fmts.getD
    (if fsel < 32 then fsel else (x.sys.ftbase.toNat + x.c.headIters.getD (fsel - 32) 0) % 32) 0

/-- The command as its words stand at a GO (R96). -/
def State.goCmd (s : State) (core : Nat) (eng : Eng) : Cmd :=
  let x := s.ctx core
  let w := fun i => x.eng.cmdw.getD (4 * engNo eng + i) 0
  let k : Cmd :=
    { core := core, eng := eng, w0 := w 0, w1 := w 1, w2 := w 2, w3 := w 3, fmt := x.fmtEntry (bits (w 0) 49 6), tiles := [], pages := [],
      batch := 0, seq := 0, pushed := 0, chk := 0, seed := 0, srseq := 0, intv := 0,
      head := ({ x.c with cls := .issue } : Stream).headWord, started := none,
      runner := core, row := 0, sect := 0, buf := [], idx := 0, slot := none, migr := [], notBefore := 0, worked := false, doneAt := none, err := none, info := 0, paused := false }
  { k with tiles := (k.names).foldl (fun m n => m.put n (x.eng.tiles.getD n 0)) [] }

/-- Records waiting of an engine. -/
def Ctx.recs (x : Ctx) (eng : Eng) : List Word := x.eng.records.getD (engNo eng) []

/-- Commands of an engine pushed and not completed. -/
def Ctx.liveOf (x : Ctx) (eng : Eng) : List Cmd := x.eng.live.filter (fun k => k.eng == eng)

/-- Whether the resident bank of a core holds the older command of an engine: pushed commands go on when their context is
exchanged (R306, R383). -/
def State.residentFirst (s : State) (n : Nat) (eng : Eng) : Bool :=
  match ((s.core n).alt.liveOf eng).head?, ((s.core n).ctx.liveOf eng).head? with
  | some a, some b => a.pushed < b.pushed
  | some _, none => true
  | none, _ => false

/-- A step of an engine of a cluster, on the bank of each core that holds the older command. -/
def State.turned (s : State) (cl : Nat) (eng : Eng) (f : State → State) : State :=
  let ns := (coresOf cl).filter (fun n => s.residentFirst n eng)
  ns.foldl State.flip (f (ns.foldl State.flip s))

/-- A live command of a core by its engine and number. -/
def Ctx.liveCmd (x : Ctx) (eng : Eng) (seq : Nat) : Option Cmd := x.eng.live.find? (fun k => k.eng == eng && k.seq == seq)

/-- Changes a live command. -/
def Ctx.mapCmd (x : Ctx) (eng : Eng) (seq : Nat) (f : Cmd → Cmd) : Ctx :=
  { x with eng := { x.eng with live := x.eng.live.map (fun k => if k.eng == eng && k.seq == seq then f k else k) } }

/-- Room in the engine's 16 slots (R170) and in the range checker (R193). -/
def Ctx.goRoom (x : Ctx) (eng : Eng) (cyc : Nat) : Bool :=
  (x.liveOf eng).length + (x.recs eng).length < 16 && (x.eng.checker.filter (fun e => e.holds cyc)).length < 64

/-- The older accesses of the classes of RMASK, in any class FIFO of the core or still waiting for a walk (R96, R239), by the numbers of
their issues. -/
def Core.maskIds (c : Core) (mask : BitVec 16) : List Nat :=
  (c.posted.filter (fun a => bitAt mask a.cls.toNat)).map (·.order) ++ c.ctx.unposted mask

/-- The direct writes of C not yet performed (R239). -/
def State.cWrites (s : State) (core : Nat) : Bool :=
  (s.core core).direct.any (fun a => a.st == .c && !a.kind.reads)

/-- Whether a GO may push in this cycle (R96, R239): the accesses `ids` have performed, the direct writes have, and there
is room. -/
def State.mayPush (s : State) (core : Nat) (eng : Eng) (ids : List Nat) : Bool :=
  !(s.core core).posted.any (fun a => ids.contains a.order) && !((s.ctx core).unposted (BitVec.allOnes 16)).any ids.contains && !s.cWrites core && (s.ctx core).goRoom eng (s.cyc core)

/-- The tag and block size that a push sets (R190). -/
def Cmd.tagSet (k : Cmd) : Option (Nat × Bool × Option Nat) :=
  match k.op with
  | some .fwd => some (k.t2, true, none)
  | some .inv => some (k.t2, false, none)
  | some .drain => some (k.t1, bitAt k.w0 35, none)
  | some .copy => if k.ds then some (k.dst % 64, bitAt k.w0 46, none) else none
  | some .gath => if k.ds then some (k.dst % 64, bitAt k.w0 46, none) else none
  | some .tagset => some (k.t1, bitAt k.w0 35, some (bits k.w0 33 2))
  | _ => none

/-- A field of an image set. -/
def setImage (v : TileImage) (p n f : Nat) : TileImage :=
  BitVec.ofNat 128 (v.toNat - v.toNat / 2 ^ p % 2 ^ n * 2 ^ p + f % 2 ^ n * 2 ^ p)

/-- Tile entries after the tag of a push (R190). -/
def Engines.setTag (e : Engines) : Option (Nat × Bool × Option Nat) → Engines
  | none => e
  | some (n, f, b) =>
    let v := setImage (e.tiles.getD n 0) 123 1 (if f then 1 else 0)
    { e with tiles := e.tiles.set n (match b with
        | some z => setImage v 121 2 z
        | none => v) }

/-- The first cycle in which an array command that is pushed now may start: after the `lda` and `sta` accesses of the core
that have issued (R387). -/
def State.accBefore (s : State) (core : Nat) : Nat :=
  (s.core core).direct.foldl (fun n a =>
    match a.place with
    | .acc _ => max n (a.due + 1)
    | _ => n) 0

/-- The push of a command (R96, R170, R176, R190, R193, R205, R245): it joins the open batch, takes its sequence number,
declares its sets, sets its tag, steps SRSEQ for a stochastic `drain`, closes the race interval, and counts against the
array lease. The `drain` keeps the SRSEED of its push beside the sequence number (DESIGN CHOICE, log 70). -/
def State.push (s : State) (k : Cmd) : State :=
  let x := s.ctx k.core
  let i := engNo k.eng
  let sr := k.op == some .drain && k.ornd == .sr
  let cyc := s.cyc k.core
  let k' : Cmd := { k with
    batch := x.eng.openBatch.getD i 0, seq := x.eng.seqs.getD i 0, pushed := cyc, chk := x.nextId, seed := x.sys.srseed,
    srseq := x.sys.srseq, intv := (s.core k.core).race.intv.toNat, notBefore := s.accBefore k.core }
  let s1 := (s.closeInterval k.core).modCtx k.core (fun x =>
    let e := { x.eng with live := x.eng.live ++ [k'], seqs := x.eng.seqs.set i ((x.eng.seqs.getD i 0 + 1) % 65536) }
    let y := { x with
      eng := e.setTag k.tagSet, nextId := x.nextId + 1,
      sys := if sr then { x.sys with srseq := x.sys.srseq + 1 } else x.sys }
    y.chkAdd { id := k'.chk, rd := k.rdSet, wr := k.wrSet, free := none })
  if k.eng = .array then
    let s2 := s1.modCluster (clusterOf k.core) (fun c => { c with arrayQ := c.arrayQ ++ [(k.core, k'.seq)] })
    let c := s2.cluster (clusterOf k.core)
    if c.holder = some k.core then
      if c.left ≤ 1 then (s2.setCluster (clusterOf k.core) { c with left := 0 }).endLease k.core
      else s2.setCluster (clusterOf k.core) { c with left := c.left - 1 }
    else s2
  else s1

/-- A waiting GO of a core pushes (R96, R239). -/
def execGoPush (core : Nat) (s : State) : Host.Outcome State Fault Refusal :=
  .next (if s.barred core .c then s else match (s.ctx core).c.wait with
    | some (.go k _ ids) => if s.mayPush core k.eng ids then (s.push k).release core .c id else s
    | _ => s)

/-! ## Records and STATUS (R97, R170 to R172) -/

/-- The completion record of a command (R170). -/
def Cmd.record (k : Cmd) : Word :=
  BitVec.ofNat 64 (2 ^ 63 + (match k.err with
      | some c => c.code
      | none => 0) * 2 ^ 56 + k.opc * 2 ^ 48 + k.batch % 65536 * 2 ^ 32 + k.seq % 65536 * 2 ^ 16 + k.info.toNat)

/-- ERR of a record. -/
def recErr (r : Word) : Nat := bits r 56 7

/-- The cause that an ERR code names: those of R172. -/
def errCause (n : Nat) : Cause :=
  match n with
  | 0x06 => .desync
  | 0x09 => .xlate
  | 0x0A => .perm
  | 0x0B => .skew
  | 0x0C => .integrity
  | 0x0D => .race
  | _ => .remote

/-- STATUS (R171). -/
def State.status (s : State) (core : Nat) (eng : Eng) : Word :=
  let x := s.ctx core
  let c := s.cluster (clusterOf core)
  let live := x.liveOf eng
  let pend := match (x.recs eng).find? (fun r => recErr r != 0) with
    | some r => recErr r
    | none => if live.any (·.paused) then Cause.migrating.code else 0
  let hold := eng == .array && c.holder == some core
  BitVec.ofNat 64 (x.eng.openBatch.getD (engNo eng) 0 * 2 ^ 48 + live.length * 2 ^ 40 + (x.recs eng).length * 2 ^ 32 +
    pend * 2 ^ 24 + (if hold then 128 + c.left else 0))

/-- Removes the oldest record of an engine. -/
def Ctx.popRec (x : Ctx) (eng : Eng) : Ctx :=
  { x with eng := { x.eng with records := x.eng.records.set (engNo eng) (x.recs eng).tail } }

/-- The fault that delivers an error record (R172): the record stands in the frame. -/
def recTrap (r : Word) : Trap := { cause := errCause (recErr r), record := r }

/-- A RESULT load with a record at hand (R97, R172): the record is popped, or its error is delivered as a fault. -/
def State.resultPop (s : State) (core : Nat) (eng : Eng) (r : Word) (go : State) : State :=
  if recErr r = 0 then go else (s.modCtx core (fun x => (x.modStrm .c Stream.cut).popRec eng)).raise core .c (recTrap r)

/-- R97: a waiting RESULT load pops its record. -/
def execResultLoad (core : Nat) (s : State) : Host.Outcome State Fault Refusal :=
  let x := s.ctx core
  .next (if s.barred core .c then s else match x.c.wait with
    | some (.result eng d) =>
      match x.recs eng with
      | r :: _ => s.resultPop core eng r (s.release core .c (fun x => (x.popRec eng).putReg d r))
      | [] => s
    | _ => s)

end Sys2Proof.Machine
end

