-- ==== Sys2Proof/Machine/Array.lean ====
section
/-! DEFINITION. The arithmetic of the array (R175 to R181, R207 to R213, R219, R363, R364): operand fetch, sums, the
residue channels, and `drain`. -/

namespace Sys2Proof.Machine

/-! ## Operand fetch (R177, R360, R365) -/

/-- Bytes of an on-chip store as an expanding reader gets them: a packed slot is rebuilt (R365). -/
def expandN (m : Memory) (packed : List Nat) (off n : Nat) : List Byte :=
  if (slotsOf off n).all (fun k => !packed.contains k) then m.readN off n
  else
    (((slotsOf off n).flatMap (fun k =>
      let bs := m.readN (256 * k) 256
      if packed.contains k then unpack bs else bs)).drop (off % 256)).take n

/-- The pieces of n of a list, with fuel. -/
def piecesGo {α : Type} (n : Nat) : Nat → List α → List (List α)
  | 0, _ => []
  | f + 1, l =>
    match l with
    | [] => []
    | _ :: _ => l.take n :: piecesGo n f (l.drop n)

/-- The pieces of n of a list. -/
def pieces {α : Type} (n : Nat) (l : List α) : List (List α) := piecesGo n l.length l

/-- Numbers of `w` bytes. -/
def numbers (w : Nat) (bs : List Byte) : List Nat := (pieces w bs).map leNat

/-- A byte range of an on-chip store: of a core's scratchpad, of its accumulator store, or of a cluster's weight buffer. -/
inductive Range
  | spad (core off n : Nat)
  | acc (core off n : Nat)
  | wb (cl off n : Nat)
  deriving DecidableEq, Repr

/-- Whether the sectors of a range match their checks (R360). -/
def State.rangeSound (s : State) : Range → Bool
  | .spad c off n => (s.core c).spadSound off n
  | .acc c off n => (s.core c).accSound off n
  | .wb cl off n => (s.cluster cl).wbBad = [] || (sectorsOf off n).all (sramSound (s.cluster cl).wb (s.cluster cl).wbBad)

/-- The errors that the fetch of a range corrects are recorded (R361, R362). -/
def State.rangeFetched (s : State) : Range → State
  | .spad c off n => s.spadFetched c off n
  | .acc c off n => s.accFetched c off n
  | .wb cl off n => s.sramFetched 3 cl (s.cluster cl).wb (s.cluster cl).wbBad (sectorsOf off n)

/-- Where a mismatch in a range was found (R362). -/
def State.rangeSite (s : State) : Range → Site
  | .spad c off n => { unit := 2, kind := sramKind (s.core c).spad (s.core c).badSpad (sectorsOf off n), num := c, pa := off }
  | .acc c off n => { unit := 2, kind := sramKind (s.core c).acc (s.core c).badAcc (sectorsOf off n), num := c, pa := off }
  | .wb cl off n => { unit := 3, kind := sramKind (s.cluster cl).wb (s.cluster cl).wbBad (sectorsOf off n), num := cl, pa := off }

/-- The ranges that an expanding reader fetches of an operand, slot by slot (R365). -/
def expandReads (m : Memory) (packed : List Nat) (off n : Nat) : List (Nat × Nat) :=
  (linesOf off n).map (fun l =>
    if packed.contains (l.1 / 256) then (l.1 / 256 * 256, 32 * (packSectors (m.readN (l.1 / 256 * 256) 32) + 1)) else l)

/-- The fetches of an operand in a scratchpad, and in a weight buffer. -/
def State.spadReads (s : State) (c off n : Nat) : List Range :=
  (expandReads (s.core c).spad (s.core c).packed off n).map (fun l => .spad c l.1 l.2)
@[inherit_doc State.spadReads] def State.wbReads (s : State) (cl off n : Nat) : List Range :=
  (expandReads (s.cluster cl).wb (s.cluster cl).wbPacked off n).map (fun l => .wb cl l.1 l.2)

/-- The fetches of the rows of a scratchpad tile. -/
def State.tileReads (s : State) (c : Nat) (t : Tile) : List Range :=
  (upto 0 t.rows).flatMap (fun r => s.spadReads c (t.base + r * t.pitch) t.rowBytes)

/-- What the operands of row i of an array command fetch, with those that every row needs: B and its scales, the
weight blocks, and all of TA and TB in MODE 2 (R177 to R181). -/
def State.rowReads (s : State) (k : Cmd) (i : Nat) : List Range :=
  let a := k.tile k.t1
  let o := k.tile k.t2
  let wb := (k.rdSet.filter (·.wb)).flatMap (fun x => s.wbReads (clusterOf k.core) (32 * x.lo) (32 * (x.hi - x.lo)))
  match k.op with
  | some .mma =>
    wb ++ s.spadReads k.core (a.at_ i k.acol) (k.kk * fmtBytes a.fmt) ++ [.acc k.core (o.base + i * o.pitch) (k.nn * fmtBytes o.fmt)] ++
      (if k.afmt == 5 || k.afmt == 6 then
        (match spadAt k.core (windowBase + k.asc) with
         | some (m, off) => [.spad m (off + i * (k.kk / 32)) (min (k.kk / 32) (k.scn - i * (k.kk / 32)))]
         | none => [])
       else [])
  | some .mmas =>
    wb ++ [.acc k.core (o.base + i * o.pitch) o.rowBytes] ++
      (if k.mode = 2 then s.tileReads k.core a ++ s.tileReads k.core (k.tile k.t3)
       else s.spadReads k.core (a.base + i * a.pitch) a.rowBytes)
  | some .drain => [.acc k.core (o.base + i * o.pitch) o.rowBytes]
  | some .fwd => [.spad k.core (a.base + i * a.pitch) a.rowBytes]
  | some .inv => [.spad k.core (a.base + i * a.pitch) a.rowBytes]
  | _ => []

/-- The rows that a command takes from its operands: those of C of an array command, and those of TS of a transform command. -/
def Cmd.opRows (k : Cmd) : Nat :=
  match k.op with
  | some .fwd => (k.tile k.t1).rows
  | some .inv => (k.tile k.t1).rows
  | some .tagset => 0
  | _ => (k.tile k.t2).rows

/-- Whether the operands of row i of a command match their checks (R360). -/
def State.rowSound (s : State) (k : Cmd) (i : Nat) : Bool := (s.rowReads k i).all s.rangeSound

/-- The rows that a command completes: those before the first whose operands fail their checks (R172; DEDUCED, log 66). -/
def State.soundRows (s : State) (k : Cmd) : Nat := ((upto 0 k.opRows).takeWhile (s.rowSound k)).length

/-- The machine-check records of a command's fetches (R307, R361, R362): of the errors that they corrected in the rows it completes, and of the
mismatch that ends it. -/
def State.opRecords (s : State) (k : Cmd) : State :=
  let n := s.soundRows k
  let t := (upto 0 n).foldl (fun t i => (s.rowReads k i).foldl State.rangeFetched t) s
  match if n < k.opRows then (s.rowReads k n).find? (fun r => !s.rangeSound r) else none with
  | some r => t.checkAt (s.rangeSite r) (s.ctx k.core).launch.part
  | none => t

/-- What the work of a command on its sound rows leaves (R172): it has worked, with INTEGRITY when a row failed its checks. -/
def State.opDone (s : State) (k : Cmd) (work : Nat → State → State) : State :=
  let n := s.soundRows k
  (work n (s.opRecords k)).modCtx k.core (fun x => x.mapCmd k.eng k.seq (fun o =>
    { o with worked := true, err := if n < k.opRows then some .integrity else o.err }))

/-- The element rows of A (R177). -/
def State.aRows (s : State) (k : Cmd) : List (List Nat) :=
  let t := k.tile k.t1
  let c := s.core k.core
  let w := fmtBytes t.fmt
  (upto 0 t.rows).map (fun m => numbers w (expandN c.spad c.packed (t.at_ m k.acol) (k.kk * w)))

/-- The element columns of B (R177). -/
def State.bCols (s : State) (k : Cmd) : List (List Nat) :=
  let c := s.cluster (clusterOf k.core)
  let w := fmtBytes k.bfmt
  let rows := (upto 0 k.kk).map (fun r => numbers w (expandN c.wb c.wbPacked (k.wbofs + r * k.bpitch) (k.nn * w)))
  (upto 0 k.nn).map (fun n => rows.map (fun r => r.getD n 0))

/-! ## Sums (R207, R208) -/

/-- The format of an element (R28). -/
def elemFmt (n : Nat) : Fmt :=
  match n with
  | 0 => fp32
  | 2 => fp16
  | 3 => e4m3
  | 4 => e5m2
  | 5 => e4m3
  | 6 => e5m2
  | _ => bf16

/-- A cell accumulates the exact sum of a group: the sum is rounded, added, and rounded again (R207). -/
def accumulate (c : Nat) (v : FV) : Nat :=
  fp32.ofVal .rne 0 (FV.add .rne (fp32.val c) (fp32.val (fp32.ofVal .rne 0 v)))

/-- One cell of a dense `mma`: groups of 8 (R207). -/
def dotDense (c : Nat) (a b : List FV) : Nat :=
  (pieces 8 (List.zipWith FV.mul a b)).foldl (fun c g => accumulate c (FV.sum .rne g)) c

/-- A block's sum under its two scales (R208). -/
def scaleSum (v : FV) (sa sb : Nat) : FV :=
  if sa = 0xFF ∨ sb = 0xFF then .nan else v.scale ((sa : Int) - 127 + (sb - 127))

/-- One cell of an FP8 `mma`: blocks of 32 (R208). -/
def dotBlocks (c : Nat) (a b : List FV) (sa sb : Nat → Nat) : Nat :=
  ((pieces 32 (List.zipWith FV.mul a b)).foldl
    (fun (r : Nat × Nat) g => (accumulate r.1 (scaleSum (FV.sum .rne g) (sa r.2) (sb r.2)), r.2 + 1)) (c, 0)).1

/-- The sum of INT8 products (R209). -/
def dotInt (a b : List Nat) : Int := (List.zipWith (fun x y => signed 8 x * signed 8 y) a b).foldl (· + ·) 0

/-- A residue cell after adding an integer in each channel (R199, R209). -/
def residueAdd (cell : Nat) (v : Int) : Nat :=
  let a := (((cell % 256 : Nat) : Int) + v) % 255
  let b := (((cell / 256 % 256 : Nat) : Int) + v) % 256
  let c := (((cell / 65536 % 512 : Nat) : Int) + v) % 257
  c.toNat * 65536 + b.toNat * 256 + a.toNat

/-- The value of a residue cell (R199, R210). -/
def recombine (cell : Nat) : Int :=
  let a := cell % 256 % 255
  let b := cell / 256 % 256
  let c := cell / 65536 % 512 % 257
  let x := (a * 65792 * 128 + b * 65535 * 255 + c * 65280 * 129) % 16776960
  if 8388480 ≤ x then (x : Int) - 16776960 else x

/-- A's scale of row m, block j: the scale FIFO (R178); a missing one is 0xFF, and formats 3 and 4 have 127 (R175). -/
def State.aScale (s : State) (k : Cmd) (m j : Nat) : Nat :=
  if k.afmt = 5 ∨ k.afmt = 6 then
    let i := m * (k.kk / 32) + j
    if i < k.scn then
      match spadAt k.core (windowBase + k.asc) with
      | some (c, off) => ((s.core c).spad.read (off + i)).toNat
      | none => 0xFF
    else 0xFF
  else 127

/-- B's scale of column n, block j (R178). -/
def State.bScale (s : State) (k : Cmd) (n j : Nat) : Nat :=
  if k.bfmt = 5 ∨ k.bfmt = 6 then ((s.cluster (clusterOf k.core)).wb.read (k.bsc + n * (k.kk / 32) + j)).toNat else 127

/-- One cell of C after an `mma`. -/
def State.mmaCell (s : State) (k : Cmd) (m n c : Nat) (a b : List Nat) : Nat :=
  if k.afmt = 7 then residueAdd c (dotInt a b)
  else
    let av := a.map (elemFmt k.afmt).val
    let bv := b.map (elemFmt k.bfmt).val
    if k.afmt = 1 ∨ k.afmt = 2 then dotDense c av bv else dotBlocks c av bv (s.aScale k m) (s.bScale k n)

/-- The cells of row m of the accumulator tile, N of them. -/
def State.cCells (s : State) (core : Nat) (t : Tile) (m n : Nat) : List Nat :=
  numbers 4 ((s.core core).acc.readN (t.base + m * t.pitch) (4 * n))

/-- A charge to the pushing context (R381). -/
def State.chargeFor (s : State) (core units : Nat) : State :=
  s.modCtx core (fun x => { x with sys := { x.sys with charge := x.sys.charge + units } })

/-- `mma` (R177): the first `done` rows of C, and DESYNC when the FIFO does not come out even (R178). -/
def State.mma (s : State) (k : Cmd) (done : Nat) : State :=
  let t := k.tile k.t2
  let a := s.aRows k
  let b := s.bCols k
  let rows := (upto 0 done).map (fun m =>
    (List.zip (s.cCells k.core t m k.nn) (List.zip (upto 0 k.nn) b)).map
      (fun c => s.mmaCell k m c.2.1 c.1 (a.getD m []) c.2.2))
  let u := (List.zip (upto 0 done) rows).foldl
    (fun u r => u.accWrite k.core (t.base + r.1 * t.pitch) (r.2.flatMap (leBytes 4))) s
  if (k.afmt = 5 ∨ k.afmt = 6) ∧ k.scn ≠ t.rows * (k.kk / 32) then
    u.modCtx k.core (fun x => x.mapCmd .array k.seq (fun k => { k with err := some .desync }))
  else u

/-! ## Bin products (R179, R219) -/

/-- A complex value of two parts. -/
abbrev Cx := FV × FV

/-- A CB16 element. -/
def cb16Val (v : Nat) : Cx := (bf16.val (v % 65536), bf16.val (v / 65536))

/-- The conjugate of packed element j: element 0 is two real values (R219). -/
def conjAt (j : Nat) (v : Cx) : Cx := if j = 0 then v else (v.1, v.2.negate)

/-- The products that a packed element adds to its two parts (R219). -/
def binTerms (j : Nat) (u v : Cx) : List FV × List FV :=
  if j = 0 then ([FV.mul u.1 v.1], [FV.mul u.2 v.2])
  else ([FV.mul u.1 v.1, (FV.mul u.2 v.2).negate], [FV.mul u.1 v.2, FV.mul u.2 v.1])

/-- One packed element accumulates its products, in groups of 8 of the summed index (R219). -/
def binSum (j : Nat) (c : Nat × Nat) (terms : List (Cx × Cx)) : Nat × Nat :=
  (pieces 8 terms).foldl (fun c g =>
    let ts := g.map (fun p => binTerms j p.1 p.2)
    (accumulate c.1 (FV.sum .rne (ts.flatMap (·.1))), accumulate c.2 (FV.sum .rne (ts.flatMap (·.2))))) c

/-- The packed element of a scratchpad CB16 tile. -/
def State.binOf (s : State) (core : Nat) (t : Tile) (row col : Nat) : Cx :=
  let c := s.core core
  cb16Val (leNat (expandN c.spad c.packed (t.at_ row col) 4))

/-- The packed element of a weight block (R179). -/
def State.weightOf (s : State) (k : Cmd) (p q j : Nat) : Cx :=
  let c := s.cluster (clusterOf k.core)
  cb16Val (leNat (expandN c.wb c.wbPacked (k.wbofs + (p * k.qq + q) * 2 * k.wbsz + 4 * j) 4))

/-- The terms of element j of block `blk` in row r of the result (R179). -/
def State.binPairs (s : State) (k : Cmd) (r blk j : Nat) : List (Cx × Cx) :=
  let h := k.wbsz / 2
  let a := k.tile k.t1
  match k.mode with
  | 0 => (upto 0 k.qq).map (fun q => (s.weightOf k blk q j, s.binOf k.core a r (q * h + j)))
  | 1 => (upto 0 k.pp).map (fun p => (conjAt j (s.weightOf k p blk j), s.binOf k.core a r (p * h + j)))
  | _ => (upto 0 a.rows).map (fun t =>
      (s.binOf k.core (k.tile k.t3) t (r * h + j), conjAt j (s.binOf k.core a t (blk * h + j))))

/-- One row of the result of `mmas`. -/
def State.binRow (s : State) (k : Cmd) (r : Nat) : List Byte :=
  let t := k.tile k.t2
  let h := k.wbsz / 2
  (upto 0 t.cols).flatMap (fun c =>
    let off := t.at_ r c
    let acc := (s.core k.core).acc
    let v := binSum (c % h) ((acc.lane off).toNat, (acc.lane (off + 4)).toNat) (s.binPairs k r (c / h) (c % h))
    leBytes 4 v.1 ++ leBytes 4 v.2)

/-- `mmas` (R179), the first `done` rows. -/
def State.mmas (s : State) (k : Cmd) (done : Nat) : State :=
  let t := k.tile k.t2
  (upto 0 done).foldl (fun u r => u.accWrite k.core (t.base + r * t.pitch) (s.binRow k r)) s

/-- The units of an array command (R381), charged at its completion, with an error or without: of an `mma` by M, N and K; of an `mmas` each
product counts as 4 BF16 operations. -/
def Cmd.arrayUnits (k : Cmd) : Nat :=
  let t := k.tile k.t2
  match k.op with
  | some .mma =>
    let macs := t.rows * k.nn * k.kk
    ceilDiv (if k.afmt = 1 ∨ k.afmt = 2 then 2 * macs else macs) 5
  | some .mmas =>
    ceilDiv (8 * (t.rows * t.cols * (match k.mode with
      | 0 => k.qq
      | 1 => k.pp
      | _ => (k.tile k.t1).rows))) 5
  | _ => 0

/-- `mzero` (R180). -/
def State.mzero (s : State) (k : Cmd) : State :=
  let t := k.tile k.t2
  (upto 0 t.rows).foldl (fun u r => u.accWrite k.core (t.base + r * t.pitch) (List.replicate t.rowBytes 0)) s

/-! ## `drain` (R181, R213) -/

/-- The parts of one row of the accumulator tile, as values (R213, step 1). -/
def State.drainParts (s : State) (k : Cmd) (i : Nat) : List FV :=
  let t := k.tile k.t2
  (numbers 4 ((s.core k.core).acc.readN (t.base + i * t.pitch) t.rowBytes)).map (fun v =>
    if t.fmt = 11 then
      let x := recombine v
      .num (x < 0) x.natAbs 0
    else fp32.val v)

/-- INFO bits of what was met at step 1 (R213). -/
def metInfo (vs : List FV) : Nat := (if vs.any FV.isNan then 1 else 0) ||| (if vs.any FV.isInf then 2 else 0)

/-- The random bits of part e of the command (R206). -/
def Cmd.random (k : Cmd) (e : Nat) : Nat := if k.ornd = .sr then random16 k.seed k.srseq e else 0

/-- A part rounded to a floating-point format, and its INFO bits (R213, step 3). -/
def roundPart (f : Fmt) (rnd : Rnd) (r : Nat) (v : FV) : Nat × Nat :=
  let x := f.ofVal rnd r v
  let big := match v with
    | .num neg m e => m != 0 && f.top ≤ f.roundMag rnd r neg (2 * m) (e - 1) false
    | _ => false
  (x, (if f.isNan x then 1 else 0) ||| (if big then 8 else 0))

/-- A part rounded to INT32 (R213). -/
def roundInt32 (rnd : Rnd) (r : Nat) (v : FV) : Nat × Nat :=
  match v with
  | .nan => (0, 1)
  | .inf neg => (if neg then 2 ^ 31 else 2 ^ 31 - 1, 10)
  | .num neg m e =>
    let x := roundInt rnd r neg m e
    let c := clamp (-2 ^ 31) (2 ^ 31 - 1) x
    ((c % 2 ^ 32).toNat, if c = x then 0 else 8)

/-- A part quantised to FP8 (R212). -/
def quantPart (two : Bool) (rnd : Rnd) (r s : Nat) (v : FV) : Nat × Nat :=
  let q := quantise two rnd r s v
  (q.1, (if (fp8 two).isNan q.1 then 1 else 0) ||| (if q.2 then 8 else 0))

/-- One scaled part of `drain` in the output format (R213, step 3). -/
def Cmd.drainPart (k : Cmd) (e scale : Nat) (v : FV) : Nat × Nat :=
  let r := k.random e
  match k.ofmt with
  | 8 => roundInt32 k.ornd r v
  | 3 => quantPart false k.ornd r 127 v
  | 4 => quantPart true k.ornd r 127 v
  | 5 => quantPart false k.ornd r scale v
  | 6 => quantPart true k.ornd r scale v
  | n => roundPart (elemFmt n) k.ornd r v

/-- The bytes of an output part. -/
def Cmd.partBytes (k : Cmd) : Nat := if k.ofmt = 9 then 2 else fmtBytes k.ofmt

/-- Whether `drain` writes block scales. -/
def Cmd.outScaled (k : Cmd) : Bool := k.ofmt == 5 || k.ofmt == 6

/-- One row of `drain`: the output bytes, the scale bytes, and the INFO bits. -/
def State.drainRow (s : State) (k : Cmd) (i : Nat) : List Byte × List Nat × Nat :=
  let raw := s.drainParts k i
  let vs := raw.map (FV.scale k.oexp)
  let scales := if k.outScaled then (pieces 32 vs).map (blockScale (k.ofmt == 6)) else []
  let empty := k.outScaled && (pieces 32 vs).any (fun b => b.all (fun v => v.isNan || v.isInf))
  let outs := (List.zip (upto 0 vs.length) vs).map (fun p => k.drainPart (i * vs.length + p.1) (scales.getD (p.1 / 32) 127) p.2)
  (outs.flatMap (fun o => leBytes k.partBytes o.1), scales,
    outs.foldl (fun n o => n ||| o.2) (metInfo raw ||| (if empty then 4 else 0)))

/-- The output bytes of a row are written: raw, or by slots, packed where they pack (R364). -/
def State.drainWrite (s : State) (k : Cmd) (off : Nat) (bs : List Byte) : State :=
  if k.cmp then
    ((pieces 256 bs).foldl (fun (p : State × Nat) slot =>
      (match packSlot k.ofmt (bits k.w0 35 1) slot with
       | some b => p.1.spadPacked k.core p.2 b
       | none => p.1.spadWrite k.core p.2 slot, p.2 + 256)) (s, off)).1
  else s.spadWrite k.core off bs

/-- One row of `drain` takes effect: its bytes, its scale bytes, and the clear of the accumulator row (R181). -/
def State.drainStep (s : State) (k : Cmd) (p : State × Nat) (i : Nat) : State × Nat :=
  let t := k.tile k.t2
  let o := k.tile k.t1
  let r := s.drainRow k i
  let u := if bitAt k.w0 34 then p.1.accWrite k.core (t.base + i * t.pitch) (List.replicate t.rowBytes 0) else p.1
  let u := u.drainWrite k (o.base + i * o.pitch) r.1
  let u := if k.outScaled then
      match spadAt k.core (windowBase + bits k.w2 0 24 + i * (o.cols / 32)) with
      | some (c, off) => u.spadWrite c off (r.2.1.map (BitVec.ofNat 8))
      | none => u
    else u
  (u, p.2 ||| r.2.2)

/-- `drain` (R181, R213), the first `done` rows. -/
def State.drain (s : State) (k : Cmd) (done : Nat) : State :=
  let r := (upto 0 done).foldl (s.drainStep k) (s, 0)
  r.1.modCtx k.core (fun x => x.mapCmd .array k.seq (fun k => { k with info := BitVec.ofNat 16 r.2 }))

/-! ## The steps -/

/-- The oldest array command of a cluster (R176). -/
def State.arrayHead (s : State) (cl : Nat) : Option Cmd :=
  match (s.cluster cl).arrayQ with
  | [] => none
  | q :: _ => (s.ctx q.1).liveCmd .array q.2

/-- The running command of a cluster's array, when it is `op` and its arithmetic is still to come. -/
def State.arrayRuns (s : State) (cl : Nat) (op : Op) : Option Cmd :=
  match s.arrayHead cl with
  | some k => if k.op = some op ∧ k.started.isSome ∧ k.worked = false then some k else none
  | none => none

/-- R177, R207 to R209: the arithmetic of a running `mma`. -/
def execArrayMma (cl : Nat) (s : State) : Host.Outcome State Fault Refusal :=
  .next (s.turned cl .array (fun s =>
    match s.arrayRuns cl .mma with
    | some k => s.opDone k (fun n u => u.mma k n)
    | none => s))

/-- R179, R219: the arithmetic of a running `mmas`. -/
def execArrayMmas (cl : Nat) (s : State) : Host.Outcome State Fault Refusal :=
  .next (s.turned cl .array (fun s =>
    match s.arrayRuns cl .mmas with
    | some k => s.opDone k (fun n u => u.mmas k n)
    | none => s))

/-- R180: the work of a running `mzero`. -/
def execArrayMzero (cl : Nat) (s : State) : Host.Outcome State Fault Refusal :=
  .next (s.turned cl .array (fun s =>
    match s.arrayRuns cl .mzero with
    | some k => s.opDone k (fun _ u => u.mzero k)
    | none => s))

/-- R181, R213: the work of a running `drain`. -/
def execArrayDrain (cl : Nat) (s : State) : Host.Outcome State Fault Refusal :=
  .next (s.turned cl .array (fun s =>
    match s.arrayRuns cl .drain with
    | some k => s.opDone k (fun n u => u.drain k n)
    | none => s))

end Sys2Proof.Machine
end

