-- ==== Sys2Proof/Machine/CMemory.lean ====
section
/-! DEFINITION. The memory instructions of C (R86 to R94): loads, stores, atomics, `fence` and `waita`. -/

namespace Sys2Proof.Machine

/-- A C access that misses asks for a walk and waits (R298). -/
def State.cWalk (s : State) (h : Hdr) (units va : Nat) (r w : Bool) : State :=
  s.issue .c h .go
    (((s.waits .c h units (.walk va r w)).dropLease s.me va).askWalk s.me va
      { core := s.me, why := .head .c, va := va, lane := none, r := r, w := w })

/-- A C access enters its class FIFO and holds C until its reply (R81, R236). -/
def State.cRemote (s : State) (h : Hdr) (units va : Nat) (p : Place) (k : AccKind) (cls : BitVec 4) (scp : Scp)
    (from_ : Nat) (e : Option Lease) (d : Option Reg) : State :=
  s.issue .c h .go
    (((s.modCtx s.me (fun x => x.post (s.newAcc s.me .c va p k cls scp from_ e none))).waits .c h units
      (.reply (s.ctx s.me).nextId none none d)).useLeases s.me (if e.isSome then [va] else []))

/-- A RESULT load (R97): a record is popped, or C waits for one, or the engine holds no command and the load returns 0. R87 gives the
occupancy of a load that pops a record; one that returns 0, for which the spec gives none, has the same 4 (DESIGN CHOICE, log 89). -/
def State.cResult (s : State) (h : Hdr) (eng : Eng) (d : Reg) : State :=
  let x := s.ctx s.me
  s.issue .c h .go
    (match x.recs eng with
     | r :: _ => s.resultPop s.me eng r (s.done .c h 4 24 (fun x => (x.popRec eng).putReg d r))
     | [] =>
       if (x.liveOf eng).isEmpty then s.done .c h 4 24 (fun x => x.putReg d 0)
       else s.waits .c h 24 (.result eng d))

/-- A C load (R86, R87, R89): `va` is the address, and D the register. -/
def State.cLoad (s : State) (h : Hdr) (di : BitVec 5) (va : Nat) (cls : BitVec 4) (scp : Scp) (sz : Sz) (sx : Bool) : State :=
  let n := szBytes sz
  let d := (s.ctx s.me).regOf di
  let k : AccKind := .load sz sx d
  match s.cTarget va n true false with
  | .bad t => s.issue .c h (.trap t) s
  | .walk => s.cWalk h 24 va true false
  | .spad core off =>
    if core ≠ s.me then s.cRemote h 24 va (.spad core off) k cls scp 9 none (some d)
    else
      s.issue .c h (if (s.core core).spadSound off n then .go else .trap (s.spadTrap core off n va))
        ((s.done .c h 4 24 id).direct s.me (s.newAcc s.me .c va (.spad core off) k cls scp 3 none none))
  | .cmd eng off =>
    match off / 8 with
    | 5 => s.cResult h eng d
    | 6 => s.issue .c h .go (s.done .c h 4 24 (fun x => x.putReg d (s.status s.me eng)))
    | _ => s.issue .c h .go (s.done .c h 4 24 (fun x => x.putReg d 0))
  | .rings off => s.issue .c h .go (s.done .c h 4 24 (fun x => x.putReg d (s.ringLoad s.me off)))
  | .tiles off => s.issue .c h .go (s.done .c h 4 24 (fun x => x.putReg d (extend sz sx (x.eng.imageBytes off n))))
  | .ext e p => s.cRemote h 24 va p k cls scp 1 (some e) (some d)

/-- A GO store (R76, R96): the checks, then the push, at once or when the release and the room allow it. -/
def State.cGo (s : State) (h : Hdr) (eng : Eng) (va : Nat) : State :=
  let k := s.goCmd s.me eng
  let ids := (s.core s.me).maskIds k.rmask
  s.issue .c h
    (match s.goFault k va with
     | some t => .trap t
     | none => .go)
    (if s.mayPush s.me eng ids then (s.done .c h 1 16 id).push k else s.waits .c h 16 (.go k k.rmask ids))

/-- A C store (R86, R87, R89): `va` is the address, `v` the value. -/
def State.cStore (s : State) (h : Hdr) (v : Word) (va : Nat) (cls : BitVec 4) (scp : Scp) (sz : Sz) : State :=
  let n := szBytes sz
  let k : AccKind := .store (leBytes n v.toNat)
  match s.cTarget va n false true with
  | .bad t => s.issue .c h (.trap t) s
  | .walk => s.cWalk h 24 va false true
  | .spad core off =>
    if core ≠ s.me then
      s.issue .c h .go
        ((s.done .c h 1 24 id).modCtx s.me (fun x => x.post (s.newAcc s.me .c va (.spad core off) k cls scp 8 none none)))
    else
      s.issue .c h .go
        ((s.done .c h 1 24 id).direct s.me (s.newAcc s.me .c va (.spad core off) k cls scp 2 none none))
  | .cmd eng off =>
    if off / 8 < 4 then
      s.issue .c h .go (s.done .c h 1 16 (fun x =>
        { x with eng := { x.eng with cmdw := x.eng.cmdw.set (4 * engNo eng + off / 8) v } }))
    else if off / 8 = 4 then s.cGo h eng va
    else s.issue .c h .go (s.done .c h 1 16 id)
  | .rings off =>
    match s.ringStore s.me off v with
    | .inl t => s.issue .c h (.trap { t with va := BitVec.ofNat 64 va }) s
    | .inr t => s.issue .c h .go (t.done .c h 1 24 id)
  | .tiles _ => s.issue .c h (.trap (addrTrap .perm va)) s
  | .ext e p =>
    if e.d ∧ (s.ctx s.me).launch.raceMode = 2 then s.cRemote h 24 va p k cls scp 1 (some e) none
    else
      s.issue .c h .go
        (((s.done .c h 1 24 id).modCtx s.me (fun x => x.post (s.newAcc s.me .c va p k cls scp 1 (some e) none))).useLeases
          s.me [va])

/-- An atomic of C (R90 to R92, R316): on a scratchpad at its bank, on device memory in the slice; another window offset
takes PERM. For an unmapped offset R33 and R89 give XLATE to any access, and R92 gives PERM to an atomic at every other window
offset: the model takes PERM (DESIGN CHOICE, log 82). -/
def State.cAtomic (s : State) (h : Hdr) (va : Nat) (cls : BitVec 4) (scp : Scp) (w32 : Bool) (k : AccKind) (d : Reg) :
    State :=
  let n := if w32 then 4 else 8
  match if va % n = 0 ∧ resolve s.me va n = .bad then .bad (addrTrap .perm va) else s.cTarget va n true true with
  | .bad t => s.issue .c h (.trap t) s
  | .walk => s.cWalk h 24 va true true
  | .spad core off =>
    if core ≠ s.me then s.cRemote h 24 va (.spad core off) k cls scp 11 none (some d)
    else
      s.issue .c h (if (s.core core).spadSound off n then .go else .trap (s.spadTrap core off n va))
        ((s.done .c h 6 24 id).direct s.me (s.newAcc s.me .c va (.spad core off) k cls scp 5 none none))
  | .ext e p =>
    if 64 ≤ (s.core s.me).atomsOut then s.issue .c h (.hold .busy) s
    else s.cRemote h 24 va p k cls scp 1 (some e) (some d)
  | _ => s.issue .c h (.trap (addrTrap .perm va)) s

/-- A + sext(OFS20) (R86). -/
def addrOfs (a : Word) (ofs : BitVec 20) : Nat := (a + sext ofs).toNat

/-- R86: `ld`. -/
def execCLd (h : Hdr) (d a : BitVec 5) (cls : BitVec 4) (scp : Scp) (sz : Sz) (sx : Bool) (ofs : BitVec 20) (s : State) :
    Host.Outcome State Fault Refusal :=
  .next (s.cLoad h d (addrOfs ((s.ctx s.me).reg a) ofs) cls scp sz sx)

/-- R86: `st`: D is the register stored. -/
def execCSt (h : Hdr) (d a : BitVec 5) (cls : BitVec 4) (scp : Scp) (sz : Sz) (ofs : BitVec 20) (s : State) :
    Host.Outcome State Fault Refusal :=
  .next (s.cStore h ((s.ctx s.me).reg d) (addrOfs ((s.ctx s.me).reg a) ofs) cls scp sz)

/-- R86: `ldx`: the address is A + B. -/
def execCLdx (h : Hdr) (d a b : BitVec 5) (cls : BitVec 4) (scp : Scp) (sx : Bool) (sz : Sz) (s : State) :
    Host.Outcome State Fault Refusal :=
  .next (s.cLoad h d ((s.ctx s.me).reg a + (s.ctx s.me).reg b).toNat cls scp sz sx)

/-- R86: `stx`: the address is A + B, and D is the register stored. -/
def execCStx (h : Hdr) (d a b : BitVec 5) (cls : BitVec 4) (scp : Scp) (sz : Sz) (s : State) :
    Host.Outcome State Fault Refusal :=
  .next (s.cStore h ((s.ctx s.me).reg d) ((s.ctx s.me).reg a + (s.ctx s.me).reg b).toNat cls scp sz)

/-- R90: `amo`. -/
def execCAmo (h : Hdr) (d a b : BitVec 5) (cls : BitVec 4) (scp : Scp) (w32 : Bool) (opn : AmoOp) (s : State) :
    Host.Outcome State Fault Refusal :=
  let x := s.ctx s.me
  .next (s.cAtomic h (x.reg a).toNat cls scp w32 (.amo w32 opn (x.reg b) (x.regOf d)) (x.regOf d))

/-- R91: `cas`. -/
def execCCas (h : Hdr) (d a b e : BitVec 5) (cls : BitVec 4) (scp : Scp) (w32 : Bool) (s : State) :
    Host.Outcome State Fault Refusal :=
  let x := s.ctx s.me
  .next (s.cAtomic h (x.reg a).toNat cls scp w32 (.cas w32 (x.reg b) (x.reg e) (x.regOf d)) (x.regOf d))

/-! ## Fences (R93, R238, R243) -/

/-- The accesses that a fence or a release waits for (R238), by the numbers of their issues: entries of the masked classes of the core
whose place lies within the scope, direct accesses of C, and vector accesses of a masked class that wait for a walk. -/
def State.fenceIds (s : State) (core : Nat) (scp : Scp) (mask : BitVec 16) : List Nat :=
  (((s.core core).posted.filter (fun a => bitAt mask a.cls.toNat && scpCode a.reach ≤ scpCode scp)) ++
    ((s.core core).direct.filter (fun a => a.st == .c && bitAt mask a.cls.toNat))).map (·.order) ++ (s.ctx core).unposted mask

/-- Whether the accesses of a list have all performed, those whose place lies within the scope. -/
def State.settled (s : State) (core : Nat) (scp : Scp) (ids : List Nat) : Bool :=
  !((s.core core).posted.any (fun a => ids.contains a.order && scpCode a.reach ≤ scpCode scp)) &&
    !((s.core core).direct.any (fun a => ids.contains a.order)) && !((s.ctx core).unposted (BitVec.allOnes 16)).any ids.contains

/-- The recorded failure that a fence takes (R89, R243). -/
def Ctx.failOf (x : Ctx) (scp : Scp) (mask : BitVec 16) : Option (BitVec 4 × Scp × Trap) :=
  x.fails.find? (fun f => bitAt mask f.1.toNat && scpCode f.2.1 ≤ scpCode scp)

/-- The end of a fence: it takes the failure of a posted access that it covers, or it is released. While a stop waits, the
fence fails and changes nothing: the failure stays recorded, and recurs (R79). -/
def State.fenceEnd (s : State) (core : Nat) (scp : Scp) (mask : BitVec 16) (go : State) : State :=
  match (s.ctx core).failOf scp mask with
  | some f =>
    if (s.ctx core).mode = .run then
      (s.modCtx core (fun x => { x.modStrm .c Stream.cut with fails := x.fails.erase f })).raise core .c f.2.2
    else s.modCtx core (fun x => x.modStrm .c Stream.cut)
  | none => go

/-- R93: `fence`: a zero mask releases at once. -/
def execCFence (h : Hdr) (scp : Scp) (mask : BitVec 16) (s : State) : Host.Outcome State Fault Refusal :=
  let ids := s.fenceIds s.me scp mask
  .next (s.issue .c h .go
    (if ids = [] then s.fenceEnd s.me scp mask (s.done .c h 1 8 id)
     else s.waits .c h 8 (.fence scp mask ids (s.ctx s.me).nextId)))

/-- R93, R238: a waiting fence is released when its accesses have performed. -/
def execFenceRelease (core : Nat) (s : State) : Host.Outcome State Fault Refusal :=
  .next (if s.barred core .c then s else match (s.ctx core).c.wait with
    | some (.fence scp mask ids _) =>
      if s.settled core scp ids then s.fenceEnd core scp mask (s.release core .c id) else s
    | _ => s)

/-! ## `waita` (R94, R386) -/

/-- The pair of a command's flag write, if one left a word (R245). -/
def State.flagPair (s : State) (core off : Nat) : List (Nat × Nat) := ((s.core core).flags.find off).toList

/-- R94: `waita`: only scratchpad addresses, else PERM, and XLATE for high bits that are not zero (R286); the word is tested
at issue. At an unmapped offset R94 gives PERM, where R33 gives XLATE: the model takes PERM (DESIGN CHOICE, log 82). -/
def execCWaita (h : Hdr) (d a b : BitVec 5) (slot : BitVec 3) (cnd : ICnd) (s : State) : Host.Outcome State Fault Refusal :=
  let x := s.ctx s.me
  let va := (x.reg a).toNat
  let B : Lane := (x.reg b).setWidth 32
  let go := fun (core off : Nat) =>
    s.issue .c h .go
      (if icndHolds cnd (s.watched core off) B then
        (s.acquire s.me (s.flagPair core off)).done .c h 1 24 (fun x => x.putReg (x.regOf d) ((s.watched core off).setWidth 64))
       else s.waits .c h 24 (.waita core off slot cnd B (x.regOf d) none))
  .next (if va % 4 ≠ 0 then s.issue .c h (.trap (addrTrap .align va)) s
    else
      match resolve s.me va 4 with
      | .win (.spad core off) =>
        match s.spadTarget s.me core off 4 va with
        | .bad t => s.issue .c h (.trap t) s
        | _ => go core off
      | _ => s.issue .c h (.trap (addrTrap (if 2 ^ 56 ≤ va then .xlate else .perm) va)) s)

/-- R94, R284: a waiting `waita` is released in the first cycle in which its condition holds, with what the first write to meet it left
(R241), or with WINLOST when its sibling is fenced. -/
def execWaitaRelease (core : Nat) (s : State) : Host.Outcome State Fault Refusal :=
  .next (if s.barred core .c then s else match (s.ctx core).c.wait with
    | some (.waita c off _ cnd b d met) =>
      if s.isFenced core c then
        (s.modCtx core (fun x => x.modStrm .c Stream.cut)).raise core .c
          { addrTrap .winlost (windowBase + 0x200000 * (1 + c % 4) + off) with core := c }
      else
        match met with
        | some (v, pair) => (s.acquire core pair.toList).release core .c (fun x => x.putReg d (v.setWidth 64))
        | none =>
          if icndHolds cnd (s.watched c off) b then
            (s.acquire core (s.flagPair c off)).release core .c (fun x => x.putReg d ((s.watched c off).setWidth 64))
          else s
    | _ => s)

end Sys2Proof.Machine
end

