-- ==== Sys2Proof/Machine/LoadStore.lean ====
section
/-! DEFINITION. The L and S instructions (R121 to R132): pointers, scratchpad and accumulator moves, and the vector
accesses to device memory. -/

namespace Sys2Proof.Machine

/-- Whether a stream is S, whose pointer set differs from L's (R42). -/
def isS : Strm → Bool
  | .s => true
  | _ => false

/-- A pointer update of L or S (R49, R122): the next instruction of the stream sees it; a value of `mtp` that would reach
the register in the same cycle was issued earlier and loses (R111). -/
def Ctx.setP (x : Ctx) (inS : Bool) (p : BitVec 4) (v : Word) (cyc : Nat) : Ctx :=
  { x with
    regs := x.regs.pset inS p v
    pend := x.pend.filter (fun r =>
      match r.dst with
      | .ptr b q _ => !(b == inS && q == p && r.due ≤ cyc + 1)
      | _ => true) }

/-- IMM36 sign-extended to 56 bits, bits [63:56] zero (R48). -/
def psetValue (imm : BitVec 36) : Word := (imm.signExtend 56).setWidth 64

/-- `pset` (R122). -/
def State.pset (s : State) (st : Strm) (h : Hdr) (p : BitVec 4) (imm : BitVec 36) : State :=
  s.issue st h .go (s.done st h 1 8 (fun x => x.setP (isS st) p (psetValue imm) (s.cyc s.me)))

/-- `padd` (R122). -/
def State.padd (s : State) (st : Strm) (h : Hdr) (p : BitVec 4) (imm : BitVec 36) : State :=
  s.issue st h .go
    (s.done st h 1 8 (fun x => x.setP (isS st) p (x.regs.pget (isS st) p + sext imm) (s.cyc s.me)))

/-- `lrs` and `srs` (R122): P := BASE + (P mod SLOTS) × SLOTSIZE. -/
def State.prs (s : State) (st : Strm) (h : Hdr) (p ring : BitVec 4) : State :=
  let x := s.ctx s.me
  match x.ringNo ring.toNat with
  | none => s.issue st h (.trap { cause := .synclimit }) s
  | some n =>
    let r := (s.part x.launch.part).ring n
    let v := (x.regs.pget (isS st) p).toNat
    s.issue st h (if r.slots = 0 then .trap { cause := .ringerr } else .go)
      (s.done st h 1 8 (fun x => x.setP (isS st) p
        (BitVec.ofNat 64 (r.base.toNat + v % r.slots.toNat * r.slotsize.toNat)) (s.cyc s.me)))

/-- R43: no operation. -/
def execLNop (h : Hdr) (s : State) : Host.Outcome State Fault Refusal := .next (s.issue .l h .go (s.done .l h 1 8 id))
/-- R122. -/
def execLPset (h : Hdr) (p : BitVec 4) (imm : BitVec 36) (s : State) : Host.Outcome State Fault Refusal :=
  .next (s.pset .l h p imm)
/-- R122. -/
def execLPadd (h : Hdr) (p : BitVec 4) (imm : BitVec 36) (s : State) : Host.Outcome State Fault Refusal :=
  .next (s.padd .l h p imm)
/-- R122. -/
def execLLrs (h : Hdr) (p ring : BitVec 4) (s : State) : Host.Outcome State Fault Refusal := .next (s.prs .l h p ring)
/-- R43: no operation. -/
def execSNop (h : Hdr) (s : State) : Host.Outcome State Fault Refusal := .next (s.issue .s h .go (s.done .s h 1 8 id))
/-- R122. -/
def execSPset (h : Hdr) (p : BitVec 4) (imm : BitVec 36) (s : State) : Host.Outcome State Fault Refusal :=
  .next (s.pset .s h p imm)
/-- R122. -/
def execSPadd (h : Hdr) (p : BitVec 4) (imm : BitVec 36) (s : State) : Host.Outcome State Fault Refusal :=
  .next (s.padd .s h p imm)
/-- R122. -/
def execSSrs (h : Hdr) (p ring : BitVec 4) (s : State) : Host.Outcome State Fault Refusal := .next (s.prs .s h p ring)

/-! ## Scratchpad and accumulator lines -/

/-- The address that MD forms, and P afterwards (R49). -/
def mdAddr (md : Md) (p : Word) (inc : BitVec 20) : Nat × Word :=
  match md with
  | .none => ((p + sext inc).toNat, p)
  | .post => (p.toNat, p + sext inc)
  | .pre => ((p + sext inc).toNat, p + sext inc)

/-- A line or one of its queues. -/
inductive Lane2 | q (n : BitVec 3) | g (x : Line)
  deriving DecidableEq, Repr

/-- The line of a designator of L. -/
def lqLine : LqLine → Lane2
  | .lq n => .q n
  | .line x => .g x

/-- The line of a designator of S. -/
def sqLine : SqLine → Lane2
  | .sq n => .q n
  | .line x => .g x

/-- The grid banks of a line operand: every lane (R22, R123). -/
def Lane2.touches (me : Nat) : Lane2 → List Touch
  | .q _ => []
  | .g x => lineBanks me x (BitVec.allOnes 64)

/-- The alignment of an AQ address (R125). -/
def aqAligned (va n : Nat) (one pk : Bool) : Bool := if one then va % n == 0 else if pk then va % 256 == 0 else va % 32 == 0

/-- An address in a command window or in the ring table (R32). -/
def inCommandRegion (va : Nat) : Bool :=
  windowBase ≤ va && ((0xA00000 ≤ va - windowBase && va - windowBase < 0xA000C0) || (0xA10000 ≤ va - windowBase && va - windowBase < 0xA11000))

/-- A scratchpad line's range after the checks of R123, R125 and R33: the owner and offset, a tile image, or a fault. A line
that begins in a command window or in the ring table takes PERM although it runs past that region (DEDUCED, log 37). A store
of S that begins in a tile image and runs past 0xA2_03FF meets two rows of R33, and takes XLATE (DESIGN CHOICE, log 62). -/
def State.lineTarget (s : State) (va n : Nat) (one load : Bool) (cv : Cv) : Target :=
  if !aqAligned va n one (cv == .pk) then .bad (addrTrap .align va)
  else if inCommandRegion va then .bad (addrTrap .perm va)
  else
    match resolve s.me va n with
    | .bad => .bad (addrTrap .xlate va)
    | .win (.spad core off) =>
      if s.isFenced s.me core then .bad { addrTrap .winlost va with core := core } else .spad core off
    | .win (.tiles off) => if load ∧ cv = .none then .tiles off else .bad (addrTrap .perm va)
    | .ext => .bad (addrTrap (if 2 ^ 56 ≤ va then .xlate else .perm) va)
    | _ => .bad (addrTrap .perm va)

/-- A coupling's queue is named where R133 forbids it: a load into a bound LQ, or a store from a bound SQ. -/
def Ctx.bound (x : Ctx) (load : Bool) : Lane2 → Bool
  | .q n => if load then x.launch.cplIn.contains n else x.launch.cplOut.any (fun c => c.1 == n)
  | .g _ => false

/-- Room in the LQ, or data in the SQ (R127). -/
def Ctx.lineReady (x : Ctx) (load : Bool) : Lane2 → Bool
  | .q n => if load then (x.lqueue n).length < 16 else ((x.squeue n).head?.map (·.filled)).getD false
  | .g _ => true

/-- The claim of a load's LQ entry. -/
def Ctx.lineClaim (x : Ctx) : Lane2 → Ctx
  | .q n => x.claimLq n 1
  | .g _ => x

/-- Where a line load goes; `id` is the claimed entry. -/
def Lane2.dst (id : Nat) : Lane2 → LineDst
  | .q n => .lq n id
  | .g x => .line x

/-- An access's checker entry. -/
def rdEntry (id core off n : Nat) (free : Option Nat) : ChkEntry := { id := id, rd := [spanOf core off n], wr := [], free := free }
@[inherit_doc rdEntry] def wrEntry (id core off n : Nat) (free : Option Nat) : ChkEntry :=
  { id := id, rd := [], wr := [spanOf core off n], free := free }

/-- The lanes of memory bytes by CV: a whole line, or one element in every lane (R123, R124). -/
def cvLanes (one : Bool) (cv : Cv) (bs : List Byte) : List Lane := if one then cvLoadOne cv bs else cvLoad cv bs

/-- The data of a line load are on their way to its LQ entry or its grid line (R126). -/
def Ctx.lineDue (x : Ctx) (dst : LineDst) (issued due : Nat) (v : List Lane) (bad : Option Trap) (captured : Bool) : Ctx :=
  match dst with
  | .lq q id => { x with fills := x.fills ++ [{ due := due, q := q, id := id, lanes := v, bad := bad }] }
  | .line l => { x with pend := x.pend ++ [{ due := due, issued := issued, st := .l,
                                             mask := 0, dst := .line l (BitVec.allOnes 64) v, captured := captured }] }

/-- A load of L to a grid line has issued: until its data are read, its entry and pointer can be put back (R128). -/
def State.gridIssued (t s : State) (id : Nat) (x : Lane2) (move : Option (BitVec 4 × Word × Word)) : State :=
  match x, (s.ctx s.me).l.queue with
  | .g _, e :: _ => t.modCtx s.me (fun y => { y with l := { y.l with undo := some (id, e, move) } })
  | _, _ => t

/-- The pointer that an AQ load moves, with its values before and after (R49): MD 0 moves none. -/
def aqMove (md : Md) (p : BitVec 4) (old new : Word) : Option (BitVec 4 × Word × Word) :=
  if md = .none then none else some (p, old, new)

/-- A scratchpad line load (R123 to R128): `ldq`, `ldg` and, with `one`, `ldb`. A tile image is read at issue (R235). -/
def State.lineLoad (s : State) (h : Hdr) (p : BitVec 4) (x : Lane2) (cv : Cv) (one : Bool) (md : Md) (inc : BitVec 20) :
    State :=
  let c := s.ctx s.me
  let cyc := s.cyc s.me
  let old := c.regs.pget false p
  let a := mdAddr md old inc
  let va := a.1
  let k : AccKind := .lineLoad (x.dst c.nextId) one cv
  let n := k.width
  let move := fun (y : Ctx) => if md = .none then y else y.setP false p a.2 cyc
  let isQ := match x with
    | .q _ => true
    | .g _ => false
  if c.bound true x then s.illegal .l 5
  else if !c.lineReady true x then s.issue .l h (.hold .busy) s
  else
    match s.lineTarget va n one true cv with
    | .spad core off =>
      let e := rdEntry (c.nextId + 1) core off n (if core = s.me then some (cyc + 3) else none)
      if !c.chkClear e cyc then s.issue .l h (.hold .busy) s
      else
        let v := s.touch s.me (spadBanks core off n ++ x.touches s.me) va
        let acc := fun (from_ : Nat) => s.newAcc s.me .l va (.spad core off) k 0 .core from_ none none
        if core = s.me then
          s.issue .l h v
            (((s.done .l h (if isQ then 1 else 4) 160 (fun y =>
              let z := move ((y.lineClaim x).chkAdd e)
              { z with nextId := c.nextId + 2 })).direct s.me (acc 3)).gridIssued s c.nextId x (aqMove md p old a.2))
        else if isQ then
          s.issue .l h v
            (s.done .l h 1 160 (fun y =>
              let z := move ((y.lineClaim x).chkAdd e)
              { z with nextId := c.nextId + 1 }.post (acc 20)))
        else
          s.issue .l h v
            ((s.modCtx s.me (fun y => { y.chkAdd e with nextId := c.nextId + 1 }.post (acc 20))).waits .l h 160
              (.gridLoad (c.nextId + 1) (if md = .none then none else some (p, a.2))))
    | .tiles off =>
      s.issue .l h (s.touch s.me (x.touches s.me) va)
        (s.done .l h (if isQ then 1 else 4) 160 (fun y =>
          let z := move (y.lineClaim x)
          { z with nextId := c.nextId + 1 }.lineDue (x.dst c.nextId) cyc (cyc + 12)
            (cvLanes one cv (c.eng.imageBytes off n)) none false))
    | .bad t => s.issue .l h (.trap t) s
    | _ => s.issue .l h (.trap (addrTrap .perm va)) s

/-- An accumulator tile that a queued or in-flight array command of the core names meets a byte range (R31, R127). -/
def Ctx.accBusy (x : Ctx) (off n : Nat) : Bool :=
  x.eng.live.any (fun k =>
    match k.accTile with
    | some t => (upto 0 t.rows).any (fun r => t.base + r * t.pitch < off + n && off < t.base + r * t.pitch + t.rowBytes)
    | none => false)

/-- The verdict of `lda` and `sta` on their range (R27, R125, R127, R128). -/
def State.accVerdict (s : State) (va : Nat) (pk : Bool) (x : Lane2) : Verdict :=
  if !aqAligned va 256 false pk then .trap (addrTrap .align va)
  else if 0x300000 < va + 256 then .trap (addrTrap .xlate va)
  else if (s.ctx s.me).accBusy va 256 then .trap (addrTrap .accbusy va)
  else s.touch s.me (accBanks s.me va 256 ++ x.touches s.me) va

/-- `lda` (R123, R126, R387). -/
def State.accLoad (s : State) (h : Hdr) (p : BitVec 4) (x : Lane2) (pk : Bool) (md : Md) (inc : BitVec 20) : State :=
  let c := s.ctx s.me
  let old := c.regs.pget false p
  let a := mdAddr md old inc
  let isQ := match x with
    | .q _ => true
    | .g _ => false
  if c.bound true x then s.illegal .l 5
  else if !c.lineReady true x then s.issue .l h (.hold .busy) s
  else
    s.issue .l h (s.accVerdict a.1 pk x)
      (((s.done .l h (if isQ then 1 else 4) 160 (fun y =>
        let z := y.lineClaim x
        let z := if md = .none then z else z.setP false p a.2 (s.cyc s.me)
        { z with nextId := c.nextId + 1 })).direct s.me
          (s.newAcc s.me .l a.1 (.acc a.1) (.lineLoad (x.dst c.nextId) false .none) 0 .core 3 none none)).gridIssued s c.nextId x
            (aqMove md p old a.2))

/-- The lanes of a store's operand, read at issue (R127). -/
def Ctx.storeLanes (x : Ctx) : Lane2 → List Lane
  | .q n => ((x.squeue n).head?.map (·.lanes)).getD []
  | .g l => x.regs.line l

/-- The pop of a store's SQ (R127). -/
def Ctx.storePop (x : Ctx) : Lane2 → Ctx
  | .q n => { x with sq := x.sq.set n.toNat (x.squeue n).tail }
  | .g _ => x

/-- A scratchpad line store (R123 to R128): `stq` and `stg`. -/
def State.lineStore (s : State) (h : Hdr) (p : BitVec 4) (x : Lane2) (cv : Cv) (md : Md) (inc : BitVec 20) : State :=
  let c := s.ctx s.me
  let cyc := s.cyc s.me
  let a := mdAddr md (c.regs.pget true p) inc
  let va := a.1
  let v := cvStore cv (c.storeLanes x)
  let n := (AccKind.lineLoad (.lq 0 0) false cv).width
  let move := fun (y : Ctx) => if md = .none then y else y.setP true p a.2 cyc
  if c.bound false x then s.illegal .s 5
  else if !c.lineReady false x then s.issue .s h (.hold .busy) s
  else
    match s.lineTarget va n false false cv with
    | .spad core off =>
      let e := wrEntry c.nextId core off n (if core = s.me then some (cyc + 6) else none)
      if !c.chkClear e cyc then s.issue .s h (.hold .busy) s
      else
        let vd := s.touch s.me (spadBanks core off n ++ x.touches s.me) va
        let acc := fun (from_ : Nat) => s.newAcc s.me .s va (.spad core off) (.store v) 0 .core from_ none none
        if core = s.me then
          s.issue .s h vd ((s.done .s h 1 160 (fun y => move ((y.storePop x).chkAdd e))).direct s.me (acc 6))
        else
          s.issue .s h vd (s.done .s h 1 160 (fun y => (move ((y.storePop x).chkAdd e)).post (acc 8)))
    | .bad t => s.issue .s h (.trap t) s
    | _ => s.issue .s h (.trap (addrTrap .perm va)) s

/-- `sta` (R123, R126, R387). -/
def State.accStore (s : State) (h : Hdr) (p : BitVec 4) (x : Lane2) (md : Md) (inc : BitVec 20) : State :=
  let c := s.ctx s.me
  let a := mdAddr md (c.regs.pget true p) inc
  let v := bytesOfLanes (c.storeLanes x)
  if c.bound false x then s.illegal .s 5
  else if !c.lineReady false x then s.issue .s h (.hold .busy) s
  else
    s.issue .s h (s.accVerdict a.1 false x)
      ((s.done .s h 1 160 (fun y =>
        let z := y.storePop x
        if md = .none then z else z.setP true p a.2 (s.cyc s.me))).direct s.me
          (s.newAcc s.me .s a.1 (.acc a.1) (.store v) 0 .core 8 none none))

/-- R123: TY has no effect on what is moved beyond the checks of R124. -/
def execLLdq (h : Hdr) (p : BitVec 4) (x : BitVec 3) (_ty : LaneTy) (cv : Cv) (md : Md) (inc : BitVec 20) (s : State) :
    Host.Outcome State Fault Refusal := .next (s.lineLoad h p (.q x) cv false md inc)
/-- R123. -/
def execLLdg (h : Hdr) (p : BitVec 4) (x : Line) (_ty : LaneTy) (cv : Cv) (md : Md) (inc : BitVec 20) (s : State) :
    Host.Outcome State Fault Refusal := .next (s.lineLoad h p (.g x) cv false md inc)
/-- R123. -/
def execLLdb (h : Hdr) (p : BitVec 4) (x : LqLine) (_ty : LaneTy) (cv : Cv) (md : Md) (inc : BitVec 20) (s : State) :
    Host.Outcome State Fault Refusal := .next (s.lineLoad h p (lqLine x) cv true md inc)
/-- R123. -/
def execLLda (h : Hdr) (p : BitVec 4) (x : LqLine) (_ty : LaneTy) (pk : Bool) (md : Md) (inc : BitVec 20) (s : State) :
    Host.Outcome State Fault Refusal := .next (s.accLoad h p (lqLine x) pk md inc)
/-- R123. -/
def execSStq (h : Hdr) (p : BitVec 4) (x : BitVec 3) (_ty : LaneTy) (cv : Cv) (md : Md) (inc : BitVec 20) (s : State) :
    Host.Outcome State Fault Refusal := .next (s.lineStore h p (.q x) cv md inc)
/-- R123. -/
def execSStg (h : Hdr) (p : BitVec 4) (x : Line) (_ty : LaneTy) (cv : Cv) (md : Md) (inc : BitVec 20) (s : State) :
    Host.Outcome State Fault Refusal := .next (s.lineStore h p (.g x) cv md inc)
/-- R123. -/
def execSSta (h : Hdr) (p : BitVec 4) (x : SqLine) (_ty : LaneTy) (md : Md) (inc : BitVec 20) (s : State) :
    Host.Outcome State Fault Refusal := .next (s.accStore h p (sqLine x) md inc)

/-! ## Device memory (R129 to R132) -/

/-- The lane addresses of a strided access (R129). -/
def strided (p : Word) (stride : BitVec 18) : List (Option Nat) :=
  (upto 0 64).map (fun j =>
    some (if stride = 0 then p + BitVec.ofNat 64 (4 * j) else p + BitVec.ofNat 64 j * sext stride).toNat)

/-- The lane addresses of a gather or scatter by a grid row; an offset of 0x8000_0000 skips its lane (R129). -/
def gathered (x : Ctx) (p : Word) (row : BitVec 6) : List (Option Nat) :=
  (upto 0 64).map (fun j =>
    let g := x.regs.cell (64 * row.toNat + j)
    if g = 0x80000000 then none else some (p + sext g).toNat)

/-- A fault of a lane. -/
def laneTrap (c : Cause) (va j : Nat) : Trap := { addrTrap c va with lane := some (BitVec.ofNat 6 j) }

/-- The lowest lane that fails the checks made at issue (R131). -/
def lanesBad : Nat → List (Option Nat) → Option Trap
  | _, [] => none
  | j, none :: t => lanesBad (j + 1) t
  | j, some va :: t =>
    if va % 4 ≠ 0 then some (laneTrap .align va j)
    else if windowBase ≤ va ∧ va < 2 ^ 56 then some (laneTrap .perm va j)
    else lanesBad (j + 1) t

/-- What translation gives a lane (R131, R291). -/
def State.laneTarget (s : State) (st : Strm) (va j : Nat) (r w : Bool) : Target :=
  match s.extTarget s.me st va r w with
  | .bad t => .bad { t with lane := some (BitVec.ofNat 6 j) }
  | t => t

/-- A lane that may be posted. -/
structure LaneGo where
  lane : Nat
  va : Nat
  e : Lease
  p : Place
  deriving DecidableEq, Repr

/-- What stops the lanes. -/
inductive LaneStop | none | walk (va lane : Nat) | bad (t : Trap)
  deriving DecidableEq, Repr

/-- The lanes that are not skipped, with their numbers. -/
def numbered (addrs : List (Option Nat)) : List (Nat × Nat) :=
  (upto 0 64).filterMap (fun j => (addrs.getD j none).map (fun va => (j, va)))

/-- The lanes of one page that have a place, up to the first that has none (R287). -/
def State.pageLanes (s : State) (e : Lease) : List (Nat × Nat) → List LaneGo × LaneStop
  | [] => ([], .none)
  | (j, va) :: t =>
    match s.placeOf (e.phys va) with
    | some p =>
      let q := s.pageLanes e t
      ({ lane := j, va := va, e := e, p := p } :: q.1, q.2)
    | none => ([], .bad (laneTrap .xlate va j))

/-- Resolves lanes page by page, in order of the lowest lane that falls on each page, up to the first page that cannot go
(R131); `fuel` bounds the pages. -/
def State.resolvePages (s : State) (st : Strm) (r w : Bool) : Nat → List (Nat × Nat) → List LaneGo × LaneStop
  | 0, _ => ([], .none)
  | _, [] => ([], .none)
  | fuel + 1, (j, va) :: t =>
    match s.laneTarget st va j r w with
    | .ext e _ =>
      let here := fun (l : Nat × Nat) => l.2 / 2 ^ e.log2 == va / 2 ^ e.log2
      let q := s.pageLanes e (((j, va) :: t).filter here)
      match q.2 with
      | .none =>
        let m := s.resolvePages st r w fuel (t.filter (fun l => !here l))
        (q.1 ++ m.1, m.2)
      | b => (q.1, b)
    | .bad tr => ([], .bad tr)
    | _ => ([], .walk va j)

/-- Lanes that are posted in one cycle go in increasing lane order (R131, R235). -/
def laneOrder (gs : List LaneGo) : List LaneGo := (upto 0 64).filterMap (fun j => gs.find? (fun g => g.lane == j))

/-- A vector access that has issued and waits for a walk takes its number, once, and keeps its lane addresses (R129). -/
def Ctx.holdLanes (x : Ctx) (st : Strm) (cls : BitVec 4) (addrs : List (Option Nat)) : Ctx :=
  match (x.strm st).lanes with
  | some _ => x
  | none => { x.modStrm st (fun t => { t with lanes := some (x.nextId, cls, addrs) }) with nextId := x.nextId + 1 }

/-- Asks for the walk of a lane and waits (R131, R298); the lane addresses stay those of the issue (R129). -/
def State.laneWalk (s : State) (st : Strm) (h : Hdr) (cls : BitVec 4) (addrs : List (Option Nat)) (va j : Nat) (r w : Bool) : State :=
  (((s.waits st h 400 (.walk va r w)).modCtx s.me (fun x => x.holdLanes st cls addrs)).dropLease s.me va).askWalk
    s.me va { core := s.me, why := .head st, va := va, lane := some (BitVec.ofNat 6 j), r := r, w := w }

/-- The lane addresses of the head: those of its issue, once it has issued (R129). -/
def Stream.laneAddrs (t : Stream) (addrs : List (Option Nat)) : List (Option Nat) := (t.lanes.map (·.2.2)).getD addrs

/-- The verdict of an AM instruction before translation (R127, R129, R131): made at its issue. -/
def State.amVerdict (s : State) (load : Bool) (x : BitVec 3) (row : Option (BitVec 6)) (addrs : List (Option Nat)) : Verdict :=
  let c := s.ctx s.me
  if (c.strm (if load then .l else .s)).lanes.isSome then .go
  else if !c.lineReady load (.q x) then .hold .busy
  else (s.touch s.me (match row with
      | some g => lineBanks s.me (.row g) (BitVec.allOnes 64)
      | none => []) 0).andThen
    (match lanesBad 0 addrs with
     | some t => .trap t
     | none => .go)

/-- A posted lane is recorded with its access at the head (R131). -/
def Ctx.postLane (x : Ctx) (st : Strm) (a : Acc) (lane : Nat) : Ctx :=
  (x.post a).modStrm st (fun t => { t with posted := t.posted ++ [(lane, x.nextId)] })

/-- In trap mode a vector access to a page marked D holds its stream until its lanes have performed, so that a RACE on one is
precise (R131, R247; DEDUCED, log 63). -/
def Ctx.raceHolds (x : Ctx) (gs : List LaneGo) : Bool := x.launch.raceMode = 2 && gs.any (fun g => g.e.d)

/-- `ldm` and `ldgx` (R129, R131, R132): nothing changes until every lane is translated. -/
def State.vecLoad (s : State) (h : Hdr) (x : BitVec 3) (cls : BitVec 4) (scp : Scp) (row : Option (BitVec 6))
    (addrs : List (Option Nat)) : State :=
  let c := s.ctx s.me
  let addrs := c.l.laneAddrs addrs
  if c.bound true (.q x) then s.illegal .l 5
  else
    match s.amVerdict true x row addrs with
    | .go =>
      let q := s.resolvePages .l true false 64 (numbered addrs)
      let gs := laneOrder q.1
      match q.2 with
      | .bad t => s.issue .l h (.trap t) s
      | .walk va j => s.issue .l h .go (s.laneWalk .l h cls addrs va j true false)
      | .none =>
        let go := fun (y : Ctx) =>
          let y := y.claimLq x gs.length
          let y := y.mapLq x.toNat c.nextId (fun e => { e with lanes := lanes (fun _ => 0), filled := gs.isEmpty })
          gs.foldl (fun y g => y.postLane .l (s.newAcc s.me .l g.va g.p (.laneLoad x c.nextId g.lane) cls scp 1 (some g.e)
            (some (BitVec.ofNat 6 g.lane))) g.lane) y
        s.issue .l h .go ((if c.raceHolds gs then (s.modCtx s.me go).waits .l h 400 (.lanes none) else s.done .l h 1 400 go).useLeases
          s.me (gs.map (·.va)))
    | v => s.issue .l h v s

/-- `stm`, `stsx` and `vamo` (R129 to R132): the lanes of a page are posted as it is resolved, and never again; the SQ head is
popped with the last. -/
def State.vecStore (s : State) (h : Hdr) (x : BitVec 3) (cls : BitVec 4) (scp : Scp) (row : Option (BitVec 6))
    (addrs : List (Option Nat)) (add : Option LaneTy) : State :=
  let c := s.ctx s.me
  let addrs := c.s.laneAddrs addrs
  let v := c.storeLanes (.q x)
  let atom := add.isSome
  if c.bound false (.q x) then s.illegal .s 5
  else
    match s.amVerdict false x row addrs with
    | .go =>
      let q := s.resolvePages .s atom true 64 ((numbered addrs).filter (fun l => !c.s.posted.any (fun o => o.1 == l.1)))
      let gs := laneOrder q.1
      let post := fun (y : Ctx) => gs.foldl (fun y g =>
        let l := laneAt v g.lane
        let k : AccKind := match add with
          | some ty => .laneAdd ty l
          | none => .store (leBytes 4 l.toNat)
        y.postLane .s (s.newAcc s.me .s g.va g.p k cls scp 1 (some g.e) (some (BitVec.ofNat 6 g.lane))) g.lane) y
      if atom ∧ 64 < (s.core s.me).atomsOut + gs.length then s.issue .s h (.hold .busy) s
      else
        match q.2 with
        | .bad t => s.issue .s h (if gs.isEmpty then .trap t else .go) ((s.modCtx s.me post).raise s.me .s t)
        | .walk va j => s.issue .s h .go ((s.laneWalk .s h cls addrs va j atom true).modCtx s.me post)
        | .none =>
          s.issue .s h .go
            ((if !atom ∧ (c.raceHolds gs = true ∨ (c.launch.raceMode = 2 ∧ c.s.posted ≠ [])) then
                ((s.modCtx s.me post).waits .s h 400 (.lanes (some x)))
              else s.done .s h 1 400 (fun y => (post y).storePop (.q x))).useLeases s.me (gs.map (·.va)))
    | vd => s.issue .s h vd s

/-- R129. -/
def execLLdm (h : Hdr) (p : BitVec 4) (x : BitVec 3) (cls : BitVec 4) (scp : Scp) (stride : BitVec 18) (s : State) :
    Host.Outcome State Fault Refusal :=
  .next (s.vecLoad h x cls scp none (strided ((s.ctx s.me).regs.pget false p) stride))
/-- R129. -/
def execLLdgx (h : Hdr) (p : BitVec 4) (x : BitVec 3) (cls : BitVec 4) (scp : Scp) (row : BitVec 6) (s : State) :
    Host.Outcome State Fault Refusal :=
  .next (s.vecLoad h x cls scp (some row) (gathered (s.ctx s.me) ((s.ctx s.me).regs.pget false p) row))
/-- R129. -/
def execSStm (h : Hdr) (p : BitVec 4) (x : BitVec 3) (cls : BitVec 4) (scp : Scp) (stride : BitVec 18) (s : State) :
    Host.Outcome State Fault Refusal :=
  .next (s.vecStore h x cls scp none (strided ((s.ctx s.me).regs.pget true p) stride) none)
/-- R129. -/
def execSStsx (h : Hdr) (p : BitVec 4) (x : BitVec 3) (cls : BitVec 4) (scp : Scp) (row : BitVec 6) (s : State) :
    Host.Outcome State Fault Refusal :=
  .next (s.vecStore h x cls scp (some row) (gathered (s.ctx s.me) ((s.ctx s.me).regs.pget true p) row) none)
/-- R129, R130. -/
def execSVamo (h : Hdr) (p : BitVec 4) (x : BitVec 3) (cls : BitVec 4) (scp : Scp) (ty : LaneTy) (stride : BitVec 18)
    (s : State) : Host.Outcome State Fault Refusal :=
  .next (s.vecStore h x cls scp none (strided ((s.ctx s.me).regs.pget true p) stride) (some ty))

end Sys2Proof.Machine
end

