-- ==== Sys2Proof/Machine/Perform.lean ====
section
/-! DEFINITION. The steps by which accesses perform (R234 to R238, R242, R243): direct accesses, class FIFOs, replies, walks
and resends, slice entries, and the landing of results (R19, R20, R126) and couplings (R133). -/

namespace Sys2Proof.Machine

/-! ## Results that land (R19, R20, R111, R151) -/

/-- A result reaches its place. -/
def Ctx.land (x : Ctx) (cyc : Nat) : PendDst → Ctx
  | .line l mask v => { x with regs := x.regs.setLine l mask v }
  | .kreg n v => { x with regs := { x.regs with k := x.regs.k.set n.toFin v } }
  | .zreg n mask v => { x with regs := x.regs.zset n mask v }
  | .sq q id v => x.mapSq q.toNat id (fun e => { e with filled := true, lanes := v, at_ := cyc })
  | .send id v => { x with send := mapEntry x.send id (fun e =>
      { e with filled := true, lanes := [v.setWidth 32, BitVec.ofNat 32 (bits v 32 32)] }) }
  | .ptr inS p v => { x with regs := x.regs.pset inS p v }

/-- Of two results of one cycle, the earlier-issued lands first, and an L result before a V result of the same issue
cycle (R19). -/
def Pend.before (a b : Pend) : Bool :=
  a.due < b.due || (a.due == b.due && (a.issued < b.issued || (a.issued == b.issued && strmCode a.st ≤ strmCode b.st)))

/-- The next result to land: due and not captured. -/
def nextPend (ps : List Pend) (cyc : Nat) : Option Pend :=
  (ps.filter (fun p => p.due ≤ cyc && !p.captured)).foldl (fun r p =>
    match r with
    | none => some p
    | some q => if q.before p then some q else some p) none

/-- R19, R20: the oldest due result of a core lands. -/
def execVResultWrite (core : Nat) (s : State) : Host.Outcome State Fault Refusal :=
  .next (match nextPend (s.ctx core).pend (s.cyc core) with
    | some p => s.modCtx core (fun x => ({ x with pend := x.pend.erase p }).land (s.cyc core) p.dst)
    | none => s)

/-- R310, R311: a captured result of a resumed core is delivered at its moved cycle: the same landing. -/
def execSnapshotDeliver (core : Nat) (s : State) : Host.Outcome State Fault Refusal :=
  .next (match nextPend (s.ctx core).pend (s.cyc core) with
    | some p => s.modCtx core (fun x => ({ x with pend := x.pend.erase p }).land (s.cyc core) p.dst)
    | none => s)

/-- R126: the LQ fills that are due: the data and a check mismatch reach the claimed entry. -/
def execLqFill (core : Nat) (s : State) : Host.Outcome State Fault Refusal :=
  let cyc := s.cyc core
  .next (s.modCtx core (fun x =>
    (x.fills.filter (fun f => f.due ≤ cyc)).foldl
      (fun y f => y.mapLq f.q.toNat f.id (fun e => { e with filled := true, lanes := f.lanes, bad := e.bad.or f.bad, left := 0 }))
      { x with fills := x.fills.filter (fun f => !(f.due ≤ cyc)) }))

/-! ## Direct accesses (R235) -/

/-- The bytes that an access of a place reads, for a core. -/
def State.placeBytes (s : State) (core : Nat) (p : Place) (n : Nat) (cpg : Bool) : List Byte :=
  match p with
  | .spad c off => (s.core c).spad.readN off n
  | .acc off => (s.core core).acc.readN off n
  | .tile off => (s.ctx core).eng.imageBytes off n
  | .dev pa => s.devRead cpg pa n
  | .peer pa => (upto 0 n).map (fun i => BitVec.ofNat 8 ((Config.freeValue (s.fresh)).toNat / 256 ^ ((pa + i) % 32)))

/-- The lanes that a line load delivers (R123, R124). -/
def State.lineLanes (s : State) (core : Nat) (p : Place) (one : Bool) (cv : Cv) : List Lane :=
  let n := (AccKind.lineLoad (.lq 0 0) one cv).width
  match p, cv with
  | .spad c off, .pk => lanesOfBytes 64 ((s.core c).slotBytes off)
  | _, _ => if one then cvLoadOne cv (s.placeBytes core p n false) else cvLoad cv (s.placeBytes core p n false)

/-- Whether the sectors that a line load reads match their checks (R124, R128, R360). -/
def State.lineSound (s : State) (core : Nat) (p : Place) (cv : Cv) (n : Nat) : Bool :=
  match p with
  | .spad c off => if cv = .pk then (s.core c).slotSound off else (s.core c).spadSound off n
  | .acc off => (s.core core).accSound off n
  | _ => true

/-- The bytes that a line load fetches at a scratchpad offset. -/
def State.lineFetch (s : State) (c off : Nat) (cv : Cv) (n : Nat) : Nat := if cv = .pk then (s.core c).slotFetch off else n

/-- The INTEGRITY of a line load (R128, R362). -/
def State.lineTrap (s : State) (core : Nat) (p : Place) (cv : Cv) (n va : Nat) : Trap :=
  match p with
  | .spad c off => s.spadTrap c off (s.lineFetch c off cv n) va
  | .acc off => s.accTrap core off n va
  | _ => addrTrap .integrity va

/-- The errors that the fetch of a direct access or of a line corrects are recorded (R361, R362). -/
def State.placeFetched (t s : State) (core : Nat) (p : Place) (cv : Cv) (n : Nat) : State :=
  match p with
  | .spad c off => t.spadFetched c off (s.lineFetch c off cv n)
  | .acc off => t.accFetched core off n
  | _ => t

/-- From issue to the cycle in which a line load's data are readable (R126). -/
def lineLatency (p : Place) (cv : Cv) (toQ : Bool) : Nat :=
  match p with
  | .acc _ => 16
  | _ => if toQ && cv == .pk then 14 else 12

/-- What the issue of a grid load has charged and counted is taken back, since a faulting instruction charges nothing and is not
counted (R121, R325): ENERGY keeps its value when it has saturated. -/
def Ctx.refund (x : Ctx) (units : Nat) : Ctx :=
  { x with
    sys := { x.sys with energy := if x.sys.energySat then x.sys.energy else x.sys.energy - BitVec.ofNat 48 units }
    counters := { x.counters with issued := x.counters.issued.set 1 (x.counters.issued.getD 1 0 - 1) } }

/-- The data of a grid load of L do not match their check (R128): the load is L's head again, its pointer as it was, and the
fault is taken in its turn. Its token bits and its IDLE are past; its units are due again when it is issued anew (R121). When a stop
has taken L past the load, L's next head takes the fault (DESIGN CHOICE, log 21). -/
def Ctx.gridFail (x : Ctx) (id : Nat) (f : Trap) : Ctx :=
  match x.l.undo with
  | some (i, e, mv) =>
    if i ≠ id then x
    else
      let y := { x.refund 160 with
        l := { x.l.failed f with queue := e :: x.l.queue, undo := none, anew := true, owed := 160, counted := false } }
      match mv with
      | some (p, old, new) => if y.regs.pget false p = new then { y with regs := y.regs.pset false p old } else y
      | none => y
  | none => { x with l := { x.l with due := x.l.due.or (some f) } }

/-- Whether a result that becomes known now was due after the stop cut, so that the snapshot captures it (R306, R311). -/
def Ctx.captures (x : Ctx) : Bool := x.frame.handler || x.mode == .stopped

/-- The due reads of a core's direct accesses: their values go to their registers, queues and lines. -/
def State.directRead (s t : State) (core : Nat) (a : Acc) : State :=
  match a.kind with
  | .load sz sx d => (t.placeFetched s core a.place .none (szBytes sz)).modCtx core
      (fun x => x.putReg d (extend sz sx (s.placeBytes core a.place (szBytes sz) false)))
  | .lineLoad dst one cv =>
    let v := s.lineLanes core a.place one cv
    let ok := s.lineSound core a.place cv a.kind.width
    let f := s.lineTrap core a.place cv a.kind.width a.addr
    let t := t.placeFetched s core a.place cv a.kind.width
    (match dst with
     | .lq _ _ => t.modCtx core (fun x =>
         x.lineDue dst a.issued (a.issued + lineLatency a.place cv true) v (if ok then none else some f) false)
     | .line _ => t.modCtx core (fun x =>
         if ok then x.lineDue dst a.issued (a.issued + lineLatency a.place cv false) v none x.captures else x.gridFail a.id f))
  | _ => t

/-- A due write of a direct access; an atomic reads and writes in one step (R92), and what its read corrects counts once (R361). -/
def State.directWrite (t : State) (core : Nat) (a : Acc) : State :=
  let put := fun (v : List Byte) =>
    match a.place with
    | .spad c off => t.spadWrite c off v
    | .acc off => t.accWrite core off v
    | _ => t
  match a.kind with
  | .store v => put v
  | k =>
    match k.update (t.placeBytes core a.place k.width false), k.dest with
    | some (v, old), some d => ((v.map put).getD (t.placeFetched t core a.place .none k.width)).modCtx core (fun x => x.putReg d old)
    | some (v, _), none => (v.map put).getD (t.placeFetched t core a.place .none k.width)
    | none, _ => t

/-- Writes of one cycle: the earlier-issued first, and C before L before S of one issue cycle (R235). -/
def Acc.before (a b : Acc) : Bool := a.issued < b.issued || (a.issued == b.issued && strmCode a.st ≤ strmCode b.st)

/-- Inserts an access in write order. -/
def insertAcc (a : Acc) : List Acc → List Acc
  | [] => [a]
  | b :: t => if a.before b then a :: b :: t else b :: insertAcc a t

/-- R235: the direct accesses of a core that are due perform: reads return the values from before the writes. -/
def execDirectAccessPerform (core : Nat) (s : State) : Host.Outcome State Fault Refusal :=
  let due := (s.core core).direct.filter (fun a => a.due ≤ s.cyc core)
  let t := s.modCore core (fun c => { c with direct := c.direct.filter (fun a => !(a.due ≤ s.cyc core)) })
  let t := due.foldl (fun t a => s.directRead t core a) t
  .next (((due.filter (fun a => !a.kind.reads)).foldr insertAcc []).foldl (fun t a => t.directWrite core a) t)

/-! ## Class FIFOs (R234, R236, R242, R243) -/

/-- Whether a fence of the core holds an entry (R93): of L or S, of a masked class, issued while the fence waits. -/
def Ctx.fenceHolds (x : Ctx) (a : Acc) : Bool :=
  match x.c.wait with
  | some (.fence _ mask _ after) => bitAt mask a.cls.toNat && after ≤ a.order
  | _ => false

/-- The time base at the place of an access (R243, R294): its slice's router's. The spec gives no relation between the time base of a peer
device and this device's: the model takes this device's own count for the peer's (DESIGN CHOICE, log 92). -/
def State.placeTime (s : State) : Place → Nat
  | .dev pa => s.sliceTime pa
  | _ => s.time

/-- Whether the lease of an access is not expired at its place (R243). -/
def State.leaseLives (s : State) (a : Acc) : Bool :=
  match a.expiry with
  | some e => s.placeTime a.place < e
  | none => true

/-- What an access sends to its place. -/
def AccKind.sends : AccKind → Option (List Byte)
  | .store bs => some bs
  | .laneAdd _ x => some (leBytes 4 x.toNat)
  | _ => none

/-- Whether its place answers with bytes. -/
def AccKind.answers (k : AccKind) : Bool := k.reads || k.isAtom

/-- Whether the oldest entry of a class FIFO may perform (R234, R236, R243): its flit must be able to move (R351, R353). -/
def State.mayPerform (s : State) (core : Nat) (a : Acc) : Bool :=
  a.due ≤ s.cyc core && !(s.ctx core).fenceHolds a && s.leaseLives a &&
    s.flows core (a.kind.sends.getD []).length (if a.kind.answers then a.kind.width else 0) a.place

/-- The reply of an access to the stream that waits for it. -/
def Wait.answer (w : Wait) (id : Nat) (v : Option Word) (f : Option Trap) : Wait :=
  match w with
  | .reply i v0 f0 d => if i = id then .reply i v f d else .reply i v0 f0 d
  | w => w

/-- Answers C's wait. -/
def Ctx.reply (x : Ctx) (id : Nat) (v : Option Word) (f : Option Trap) : Ctx :=
  { x with c := { x.c with wait := x.c.wait.map (fun w => w.answer id v f) } }

/-- Whether C waits for an access. -/
def Ctx.awaits (x : Ctx) (id : Nat) : Bool :=
  match x.c.wait with
  | some (.reply i none none _) => i == id
  | _ => false

/-- The waiting LQ entry of a load that takes a RACE leaves its queue (R131): the load claims it anew. -/
def Ctx.unclaim (x : Ctx) : AccKind → Ctx
  | .laneLoad q id _ => { x with lq := x.lq.set q.toNat ((x.lqueue q).filter (fun e => e.id != id)) }
  | _ => x

/-- A lane of a vector access that still is its stream's head takes RACE (R131, R247): its lanes that have not performed leave
the FIFO and are not posted, a load's entry is unclaimed, and the fault is taken in the head's turn. -/
def Ctx.laneFail (x : Ctx) (a : Acc) (t : Trap) : Ctx :=
  let mine := (x.strm a.st).posted
  let y := x.setFifo a.cls.toNat ((x.fifoOf a.cls.toNat).filter (fun b => !mine.any (fun o => o.2 == b.id)))
  (y.unclaim a.kind).modStrm a.st (fun h => { h.failed t with
    posted := if a.kind.reads then []
      else mine.filter (fun o => o.2 != a.id && !(x.fifoOf a.cls.toNat).any (fun b => b.id == o.2)) })

/-- An access does not perform (R89, R243): the stream that it holds gets the fault, a lane of a load marks its entry, and
a posted one is recorded. So is the RACE of a store that its stream has left, in trap mode: one posted under a lease with D = 0 whose
renewed leaf has D = 1, to which R247 gives no fate (DESIGN CHOICE, log 84). -/
def State.accFail (s : State) (core : Nat) (a : Acc) (c : Cause) : State :=
  let site := match c, a.place with
    | .integrity, .dev pa => some (s.devSite pa a.kind.width)
    | .integrity, .spad k off => (s.spadTrap k off a.kind.width a.addr).site
    | _, _ => none
  let t : Trap := { addrTrap c a.addr with lane := a.lane, site := site }
  s.modCtx core (fun x =>
    if x.awaits a.id then x.reply a.id none (some t)
    else if c = .race ∧ (x.strm a.st).posted.any (fun o => o.2 == a.id) = true then x.laneFail a t
    else
      match a.kind with
      | .laneLoad q id j => x.mapLq q.toNat id (fun e => e.settle j 0 (some t))
      | .lineLoad _ _ _ => x
      | _ => { x with fails := x.fails ++ [(a.cls, a.reach, t)] })

/-- The line of a sibling's scratchpad reaches L (R126): an LQ entry fills; a grid line is visible in the next cycle, or the
mismatch is INTEGRITY at the load. -/
def State.lineArrive (s : State) (core : Nat) (a : Acc) (dst : LineDst) (one : Bool) (cv : Cv) : State :=
  let v := s.lineLanes core a.place one cv
  let ok := s.lineSound core a.place cv a.kind.width
  let cyc := s.cyc core
  let s1 := (s.placeFetched s core a.place cv a.kind.width).modCtx core (fun x => x.chkFree a.id cyc)
  let f := s.lineTrap core a.place cv a.kind.width a.addr
  match dst with
  | .lq q id => s1.modCtx core (fun x => x.mapLq q.toNat id (fun e =>
      { e with filled := true, lanes := v, left := 0, bad := e.bad.or (if ok then none else some f) }))
  | .line l =>
    if ok then s1.modCtx core (fun x => { x with
      pend := x.pend ++ [{ due := cyc + 1, issued := a.issued, st := .l, mask := 0, dst := .line l (BitVec.allOnes 64) v, captured := false }] })
    else s1.modCtx core (fun x => x.modStrm .l (fun t => t.failed f))

/-- The race kind of an access (R333). -/
def raceKind : AccKind → Option (Nat × Bool)
  | .load _ _ _ => some (0, false)
  | .store v => some (if v.length = 4 then 3 else 1, true)
  | .laneLoad _ _ _ => some (2, false)
  | _ => none

/-- Whether trap mode may still give RACE to a lane of a load: only while its instruction waits at its head for it. V cannot take RACE
(R149), so a lane that its stream has left is not checked in that mode, whatever the mode or its page's D bit was when it issued (DESIGN
CHOICE, log 84). -/
def State.checksLane (s : State) (core : Nat) (a : Acc) : Bool :=
  match a.kind with
  | .laneLoad _ _ _ => (s.ctx core).launch.raceMode != 2 || ((s.ctx core).strm a.st).posted.any (fun o => o.2 == a.id)
  | _ => true

/-- The race check of an access at its slice (R246, R247): `none` when trap mode stops it. A C store is told from a lane
by its lane number. -/
def State.accRace (s : State) (core : Nat) (a : Acc) (pa : Nat) : Option State :=
  if !(a.d && s.checksLane core a) then some s
  else
    match raceKind a.kind with
    | none => some s
    | some (k, w) =>
      s.raceCheck core (if k = 3 ∧ a.lane = none then 1 else k) w a.addr (pa / 32) a.head (s.core core).race.intv.toNat
        (Scp.max a.scp a.reach)

/-- The recorded result of a tag (R316). -/
def State.tagFind (s : State) (core slice tag : Nat) : Option Word :=
  ((s.slices.tags.get (slice * 640 + core) []).find? (fun r => r.1 == tag)).map (·.2)

/-- Records the result of a tag: the last 64 (R316). -/
def State.tagPut (s : State) (core slice tag : Nat) (v : Word) : State :=
  { s with slices := { s.slices with tags := s.slices.tags.modify (slice * 640 + core) [] (fun l => ((tag, v) :: l).take 64) } }

/-- An atomic or a reducing lane at its slice (R242, R316): a tag that was applied answers and applies nothing. An error that its read
corrects counts once: with its write, or, where it writes nothing, by itself (R361). -/
def State.slicesAtom (s : State) (core : Nat) (a : Acc) (pa : Nat) : Option (State × Word) :=
  let sl := s.sliceOf pa
  let tag := a.tag.getD 0
  match s.tagFind core sl tag with
  | some v => some (s, v)
  | none =>
    match a.kind.update (s.devRead a.cpg pa a.kind.width) with
    | some (some v, old) => (s.devWrite a.cpg pa v).map (fun t => (t.tagPut core sl tag old, old))
    | some (none, old) => some ((s.fetched pa a.kind.width).tagPut core sl tag old, old)
    | none => none

/-- An access performs in this device's memory (R237, R242, R360). -/
def State.performDev (s : State) (core : Nat) (a : Acc) (pa : Nat) : State :=
  let n := a.kind.width
  if !s.reaches core pa then s.accFail core a .remote
  else if a.kind.answers && !s.slotSound a.cpg pa n then s.accFail core a .integrity
  else if s.isDead pa then s.accFail core a .integrity
  else
    match (if a.kind.reads then s.fetched pa n else s).accRace core a pa with
    | none => s.accFail core a .race
    | some t =>
      match a.kind with
      | .load sz sx _ => t.modCtx core (fun x => x.reply a.id (some (extend sz sx (t.devRead a.cpg pa n))) none)
      | .store v =>
        match t.devWrite a.cpg pa v with
        | some u => u.modCtx core (fun x => x.reply a.id (some 0) none)
        | none => (t.machineCheck 0 (t.refusedKind pa n) (t.sliceOf pa) (t.ctx core).launch.part pa 0).accFail core a .integrity
      | .laneLoad q id j =>
        t.modCtx core (fun x => x.mapLq q.toNat id (fun e => e.settle j (BitVec.ofNat 32 (leNat (t.devRead a.cpg pa 4))) none))
      | _ =>
        match t.slicesAtom core a pa with
        | some (u, old) => u.modCtx core (fun x => x.reply a.id (some old) none)
        | none => (t.machineCheck 0 (t.refusedKind pa n) (t.sliceOf pa) (t.ctx core).launch.part pa 0).accFail core a .integrity

/-- Whether a peer device answers a request with an error (R89): what it does is a free value, drawn at the request. -/
def peerRejects (v : BitVec 256) : Bool := bitAt v 255

/-- An access performs at a peer device (R287, R373): a store goes out; a load or atomic returns what the peer holds, which
the spec of this device does not give (a free value), or the peer answers with an error, REMOTE (R89). -/
def State.performPeer (s : State) (core : Nat) (a : Acc) (pa : Nat) : State :=
  if !s.peerReach pa then s.accFail core a .remote
  else
    let free := Config.freeValue s.fresh
    let v := free.setWidth 64
    let out := match a.kind.sends with
      | some bs => (pa, bs, false) :: s.fabric.peerOut
      | none => s.fabric.peerOut
    let t := { s with fresh := s.fresh + 1, fabric := { s.fabric with peerOut := out } }
    if peerRejects free then t.accFail core a .remote
    else match a.kind with
    | .load sz sx _ => t.modCtx core (fun x => x.reply a.id (some (extend sz sx (leBytes (szBytes sz) v.toNat))) none)
    | .store _ => t.modCtx core (fun x => x.reply a.id (some 0) none)
    | .laneLoad q id j => t.modCtx core (fun x => x.mapLq q.toNat id (fun e => e.settle j (v.setWidth 32) none))
    | .laneAdd _ _ => t
    | .amo w _ _ _ =>
      t.modCtx core (fun x => x.reply a.id (some (if w then (v.setWidth 32).setWidth 64 else v)) none)
    | .cas w _ _ _ =>
      t.modCtx core (fun x => x.reply a.id (some (if w then (v.setWidth 32).setWidth 64 else v)) none)
    | _ => t

/-- Whether a fence that was declared after its issue stops an access at a sibling's bank (R284): the bank has accepted the load of an
LQ entry when L has issued it, since V cannot take WINLOST (R149; DESIGN CHOICE, log 84). -/
def AccKind.fences : AccKind → Bool
  | .lineLoad (.lq _ _) _ _ => false
  | _ => true

/-- An access does not reach a sibling's bank that is fenced (R284): it takes WINLOST. -/
def State.spadLost (s : State) (core : Nat) (a : Acc) (c : Nat) : State :=
  let t := { addrTrap .winlost a.addr with core := c }
  s.modCtx core (fun x =>
    let x := x.chkFree a.id (s.cyc core)
    match a.kind with
    | .lineLoad (.line _) _ _ => x.modStrm .l (fun h => h.failed t)
    | _ => if x.awaits a.id then x.reply a.id none (some t) else { x with fails := x.fails ++ [(a.cls, a.reach, t)] })

/-- An access performs at a sibling's bank (R389, R92), unless the bank is fenced (R284). -/
def State.performSpad (s : State) (core : Nat) (a : Acc) (c off : Nat) : State :=
  let n := a.kind.width
  if s.isFenced core c = true ∧ a.kind.fences = true then s.spadLost core a c
  else match a.kind with
  | .load sz sx _ =>
    if (s.core c).spadSound off n then
      (s.spadFetched c off n).modCtx core (fun x => x.reply a.id (some (extend sz sx ((s.core c).spad.readN off n))) none)
    else s.accFail core a .integrity
  | .store v => ((s.spadWrite c off v).modCtx core (fun x => x.chkFree a.id (s.cyc core))).modCtx core
      (fun x => x.reply a.id (some 0) none)
  | .lineLoad dst one cv => s.lineArrive core a dst one cv
  | k =>
    if (s.core c).spadSound off n then
      match k.update ((s.core c).spad.readN off n) with
      | some (v, old) =>
        ((v.map (s.spadWrite c off)).getD (s.spadFetched c off n)).modCtx core (fun x => x.reply a.id (some old) none)
      | none => s
    else s.accFail core a .integrity

/-- An access performs at its place. -/
def State.performAt (s : State) (core : Nat) (a : Acc) : State :=
  match a.place with
  | .spad c off => s.performSpad core a c off
  | .dev pa => s.performDev core a pa
  | .peer pa => s.performPeer core a pa
  | .acc _ => s
  | .tile _ => s

/-- A step of a class FIFO, on the bank of the core whose oldest entry of the class issued first: posted accesses go on when
their context is exchanged (R306, R383). -/
def State.onFifo (s : State) (core : Nat) (cls : BitVec 4) (f : State → State) : State :=
  let older := match ((s.core core).alt.fifoOf cls.toNat), ((s.core core).ctx.fifoOf cls.toNat) with
    | a :: _, b :: _ => decide (a.issued < b.issued)
    | _ :: _, [] => true
    | [], _ => false
  if older then (f (s.flip core)).flip core else f s

/-- R234, R352: the flit of the oldest entry of a class FIFO goes out, and it performs. -/
def execPerform (core : Nat) (cls : BitVec 4) (s : State) : Host.Outcome State Fault Refusal :=
  .next (s.onFifo core cls (fun s =>
    match (s.ctx core).fifoOf cls.toNat with
    | a :: t =>
      if s.mayPerform core a then
        ((s.modCtx core (fun x => x.setFifo cls.toNat t)).sendTo core (a.kind.sends.getD [])
          (if a.kind.answers then s.placeBytes core a.place a.kind.width a.cpg else []) false a.place).performAt core a
      else s
    | [] => s))

/-- R87, R79: the reply of a waiting C access: the value is written and C released, or its fault is taken. -/
def execCLoadReply (core : Nat) (s : State) : Host.Outcome State Fault Refusal :=
  .next (if s.barred core .c then s else match (s.ctx core).c.wait with
    | some (.reply _ (some v) _ d) =>
      s.release core .c (fun x =>
        match d with
        | some r => x.putReg r v
        | none => x)
    | some (.reply _ none (some t) _) =>
      let s1 := s.modCtx core (fun x => x.modStrm .c Stream.cut)
      (match (s1.ctx core).mode with
       | .run => s1.raise core .c t
       | _ => s1)
    | _ => s)

/-- R126: a grid-line load from a sibling has its data: L is released, and its pointer moves, if its MD moves it (R49). A
value of `mtp` still in flight was issued later, and wins (R111). -/
def execGridLoadLand (core : Nat) (s : State) : Host.Outcome State Fault Refusal :=
  .next (if s.barred core .l then s else match (s.ctx core).l.wait with
    | some (.gridLoad id mv) =>
      if (s.ctx core).posted.any (fun a => a.id == id) then s
      else s.release core .l (fun x => match mv with
        | some (p, v) => { x with regs := x.regs.pset false p v }
        | none => x)
    | _ => s)

/-- A vector access that a race may still stop has performed all its posted lanes (R131, R247): its stream is released, and a
store pops its SQ. -/
def State.lanesDone (s : State) (core : Nat) (st : Strm) (pop : Option (BitVec 3)) : State :=
  let x := s.ctx core
  if x.posted.any (fun a => (x.strm st).posted.any (fun o => o.2 == a.id)) then s
  else s.release core st (fun x => match pop with
    | some q => x.storePop (.q q)
    | none => x)

/-- R145: a waiting `wstat` is released when every named domain is awake, and takes SLEEPING when one is off or retained
and not queued. A vector access that waits for its lanes is released by the same step (R131). -/
def execWstatRelease (core : Nat) (st : Strm) (s : State) : Host.Outcome State Fault Refusal :=
  .next (if s.barred core st then s else match ((s.ctx core).strm st).wait with
    | some (.wstat dt mask) =>
      match s.wstatFault core dt mask with
      | some i => (s.modCtx core (fun x => x.modStrm st Stream.cut)).raise core st (s.wstatTrap core dt i)
      | none => if s.allAwake core dt mask then s.release core st id else s
    | some (.lanes pop) => s.lanesDone core st pop
    | _ => s)

/-- R243: the oldest entry of a class FIFO finds its lease expired: it keeps its place and is translated again. -/
def execLeaseExpiry (core : Nat) (cls : BitVec 4) (s : State) : Host.Outcome State Fault Refusal :=
  .next (s.onFifo core cls (fun s =>
    match (s.ctx core).fifoOf cls.toNat with
    | a :: _ =>
      if !s.leaseLives a && !a.parked then
        s.askWalk core a.addr { core := core, why := .acc cls a.id, va := a.addr, lane := a.lane,
                                r := a.kind.reads || a.kind.isAtom, w := !a.kind.reads }
      else s
    | [] => s))

/-- R316: an atomic without a reply 20 µs after it was sent is sent again, and after the third resend it fails. -/
def execAtomicResend (core : Nat) (cls : BitVec 4) (s : State) : Host.Outcome State Fault Refusal :=
  .next (s.onFifo core cls (fun s =>
    match (s.ctx core).fifoOf cls.toNat with
    | a :: t =>
      if a.tag.isSome && a.sentAt + 20000 ≤ s.time then
        if a.resent < 3 then
          s.modCtx core (fun x => x.setFifo cls.toNat ({ a with resent := a.resent + 1, sentAt := s.time } :: t))
        else (s.modCtx core (fun x => x.setFifo cls.toNat t)).accFail core a .remote
      else s
    | [] => s))

/-- A write of a copy command that its slice does not apply is the failure of a posted store, with INTEGRITY (R243, R366): of class
0, its address the device offset, since the command has none left (DESIGN CHOICE, log 75). -/
def State.postedFail (s : State) (core pa : Nat) : State :=
  s.modCtx core (fun x => { x with
    fails := x.fails ++ [(0, .device, { addrTrap .integrity pa with site := some (s.devSite pa 32) })] })

/-- A copy-engine command ends with an error (R172): the first one stays. -/
def State.endCopy (s : State) (core seq : Nat) (c : Cause) : State :=
  s.modCtx core (fun x => x.mapCmd .copy seq (fun k => { k with
    err := k.err.or (some c), worked := true, doneAt := some (s.cyc core), buf := [] }))

/-- The write queue of a slice. -/
def State.setQueue (s : State) (slice : Nat) (q : List SliceEntry) : State :=
  { s with slices := { s.slices with queues := if q = [] then s.slices.queues.del slice else s.slices.queues.put slice q } }

/-- Whether an entry is a write of a command on the page of an address. -/
def SliceEntry.onPage (e : SliceEntry) (core seq va log2 : Nat) : Bool :=
  e.core == core && e.seq == seq && e.va / 2 ^ log2 == va / 2 ^ log2

/-- Whether the lease of an entry has expired at its slice (R243). -/
def State.entryStale (s : State) (e : SliceEntry) : Bool :=
  match e.expiry with
  | some x => x ≤ s.sliceTime e.pa
  | none => false

/-- An entry under a new lease (R243): it keeps its place, or goes to the slice or to the peer device of the new frame. -/
def State.renewEntry (s : State) (slice : Nat) (e : SliceEntry) (l : Lease) : State :=
  let out := s.setQueue slice ((s.slices.queues.get slice []).erase e)
  match s.placeOf (l.phys e.va) with
  | some (.dev pa) =>
    let n := { e with pa := pa, cpg := l.c, d := l.d, expiry := some l.expiry }
    if s.sliceOf pa = slice then
      s.setQueue slice ((s.slices.queues.get slice []).map (fun o => if o == e then n else o))
    else out.setQueue (s.sliceOf pa) (out.slices.queues.get (s.sliceOf pa) [] ++ [n])
  | some (.peer pa) =>
    let t := out.sendPeer pa e.bytes e.packed
    { t with fabric := { t.fabric with peerOut := (pa, e.bytes, e.packed) :: t.fabric.peerOut } }
  | _ => out.endCopy e.core e.seq .xlate

/-- The writes of a command that wait at slices, on a page that has been translated again. -/
def State.renewQueued (s : State) (core seq va : Nat) (l : Lease) : State :=
  s.slices.queues.foldl (fun t q =>
    (q.2.filter (fun e => e.onPage core seq va l.log2)).foldl (fun t e => t.renewEntry q.1 e l) t) s

/-- The expired writes of a command on a page whose new walk has failed are removed (R243). -/
def State.dropQueued (s : State) (core seq va : Nat) : State :=
  s.slices.queues.foldl (fun t q => t.setQueue q.1 (q.2.filter (fun e =>
    !(e.onPage core seq va (walkPage va) && s.entryStale e)))) s

/-- Whether a command has found the page of an address migrating (R301). -/
def Cmd.migrates (k : Cmd) (dst : Bool) (va : Nat) : Bool := k.migr.any (fun m => m.1 == dst && m.2.1 / 2 ^ m.2.2 == va / 2 ^ m.2.2)

/-- The request by which a command has the page of a write translated again; a page that migrates waits for a beacon (R301). -/
def State.askEntry (s : State) (e : SliceEntry) : State :=
  match (s.ctx e.core).liveCmd .copy e.seq with
  | some k =>
    if k.migrates true e.va then s
    else s.askWalk e.core e.va
      { core := e.core, why := .copy e.seq, va := e.va, lane := none, r := k.red && k.op == some .scat, w := true }
  | none => s

/-- The race check of a payload write, sector by sector as it performs (R246): none when trap mode stops it (R247). -/
def State.entryRace (s : State) (e : SliceEntry) : Option State :=
  if !e.d then some s
  else
    (sectorsOf e.pa e.bytes.length).foldl (fun o sec => o.bind (fun t =>
      t.raceCheck e.core 5 true (e.va + 32 * (sec - e.pa / 32)) sec e.head e.intv .device)) (some s)

/-- The bytes of an entry reach memory (R368). -/
def State.applyEntry (s : State) (slice : Nat) (e : SliceEntry) : State :=
  if e.packed then s.devWritePacked e.cpg e.pa e.bytes
  else
    match s.devWrite e.cpg e.pa e.bytes with
    | some u => u
    | none => (s.machineCheck 0 (s.refusedKind e.pa e.bytes.length) slice (s.ctx e.core).launch.part e.pa 0).postedFail e.core e.pa

/-- R368: a slice applies the oldest entry of its write queue whole. An entry whose lease has expired keeps its place and is translated
again (R243); at a slice that does not answer, its command ends with INTEGRITY (R172, R358), and with RACE at a conflict that trap
mode stops, which leaves the whole entry unwritten (R247). -/
def execSliceEntryApply (slice : Nat) (s : State) : Host.Outcome State Fault Refusal :=
  .next (match s.slices.queues.get slice [] with
    | e :: t =>
      if s.entryStale e then s.turned (clusterOf e.core) .copy (fun s => s.askEntry e)
      else
        let s1 := s.setQueue slice t
        if s1.isDead e.pa then
          s1.turned (clusterOf e.core) .copy (fun u => (u.checkAt (u.devSite e.pa 32) (u.ctx e.core).launch.part).endCopy e.core e.seq .integrity)
        else
          s1.turned (clusterOf e.core) .copy (fun u =>
            match u.entryRace e with
            | some v => v.applyEntry slice e
            | none => u.endCopy e.core e.seq .race)
    | [] => s)

/-! ## Walks (R243, R289 to R292, R298) -/

/-- A lease enters a core's access lease cache (R297): code 0 is never entered. -/
def State.cacheAccess (s : State) (core : Nat) (e : Lease) : State :=
  if e.len = 0 then s
  else s.modCore core (fun c => { c with leases := leaseAdd c.leases 128 (s.timeAt (clusterOf core)) e })

/-- A lease enters a cluster's copy lease cache (R297). -/
def State.cacheCopy (s : State) (cl : Nat) (e : Lease) : State :=
  if e.len = 0 then s
  else s.modCluster cl (fun c => { c with copyLeases := leaseAdd c.copyLeases 512 (s.timeAt cl) e })

/-- What a requester gets from a walk: the permission check comes after the walk (R291). -/
def State.verdictOf (s : State) (part : Nat) (q : WalkReq) : Found → Found
  | .lease e m =>
    if !e.permits (s.part part).xlcfg q.r q.w then .fail .perm else if m then .fail .migrating else .lease e false
  | .fail c => .fail c

/-- The end of a walk for the head that waits for it (R298, R79): the head goes on with the translation, or has a fault due in
its turn (R73). -/
def State.walkHead (s : State) (q : WalkReq) (st : Strm) (f : Found) : State :=
  if ((s.ctx q.core).strm st).wait = some (.walk q.va q.r q.w) then
    s.modCtx q.core (fun x => x.modStrm st (fun t =>
      match f with
      | .lease e _ => { t.walked with pages := e :: t.pages }
      | .fail c => t.failed { addrTrap c q.va with lane := q.lane }))
  else s

/-- The end of a walk for an access in a class FIFO (R243): it carries the new lease, or is removed with its fault; a lane
of a load whose page migrates, or whose cluster is skewed, waits for a beacon. -/
def State.walkAcc (s : State) (q : WalkReq) (cls : BitVec 4) (id : Nat) (f : Found) : State :=
  let put := fun (g : Acc → Acc) =>
    s.modCtx q.core (fun x => x.setFifo cls.toNat ((x.fifoOf cls.toNat).map (fun a => if a.id = id then g a else a)))
  match (s.ctx q.core).fifoOf cls.toNat |>.find? (fun a => a.id == id && a.addr == q.va) with
  | none => s
  | some a =>
    match f with
    | .lease e _ =>
      (match s.placeOf (e.phys a.addr) with
       | some p => put (fun a => { a with
           expiry := some e.expiry, place := p, cpg := e.c, reach := s.placeScope q.core p, d := e.d })
       | none => (s.modCtx q.core (fun x => x.setFifo cls.toNat ((x.fifoOf cls.toNat).erase a))).accFail q.core a .xlate)
    | .fail c =>
      let lane := match a.kind with
        | .laneLoad _ _ _ => true
        | _ => false
      if lane && (c == .migrating || c == .skew) then put (fun a => { a with parked := true })
      else (s.modCtx q.core (fun x => x.setFifo cls.toNat ((x.fifoOf cls.toNat).erase a))).accFail q.core a c

/-- The end of a walk for a copy command (R297, R300, R301): the command keeps the lease, the cache takes it, its writes that wait at
slices take the new lease, and a page that migrated is one no longer; a fault ends the command. A page with M = 1 pauses a command
that holds no lease of it. -/
def State.walkCopy (s : State) (q : WalkReq) (seq : Nat) (f : Found) : State :=
  match f with
  | .lease e _ =>
    ((s.cacheCopy (clusterOf q.core) e).renewQueued q.core seq q.va e).modCtx q.core (fun x => x.mapCmd .copy seq (fun k => { k with
      paused := k.paused && !k.migrates q.w q.va
      migr := k.migr.filter (fun m => !(m.1 == q.w && m.2.1 / 2 ^ m.2.2 == q.va / 2 ^ m.2.2))
      pages := e :: k.pages.filter (fun o => o.page / 2 ^ e.log2 != e.page / 2 ^ e.log2) }))
  | .fail .migrating =>
    s.modCtx q.core (fun x => x.mapCmd .copy seq (fun k =>
      let held := leaseFind (k.pages ++ (s.cluster (clusterOf q.core)).copyLeases) q.va (s.timeAt (clusterOf q.core))
      { k with
        paused := k.paused || held.isNone
        migr := if k.migrates q.w q.va then k.migr else k.migr ++ [(q.w, q.va, (held.map (·.log2)).getD (walkPage q.va))] }))
  | .fail c => (s.dropQueued q.core seq q.va).endCopy q.core seq c

/-- The end of a walk for a `pref` (R187): the lease goes into the copy cache, and with ACC into the access cache; a page
whose walk faults is counted, and so is one whose leaf has M = 1 (DESIGN CHOICE, log 65). -/
def State.walkPref (s : State) (q : WalkReq) (seq : Nat) (also : Bool) (f : Found) : State :=
  match f with
  | .lease e _ =>
    let t := s.cacheCopy (clusterOf q.core) e
    (if also then t.cacheAccess q.core e else t).modCtx q.core (fun x => x.mapCmd .copy seq (fun k => { k with sect := k.sect - 1 }))
  | .fail _ => s.modCtx q.core (fun x => x.mapCmd .copy seq (fun k => { k with
      sect := k.sect - 1, info := BitVec.ofNat 16 (min 0xFFFF (k.info.toNat + 1)) }))

/-- The caches that a preload record fills (R304): of a core, or of every launch core (0xFFFF), and its clusters'. -/
def State.preloadInto (s : State) (r : Region) (caches core : Nat) (e : Lease) : State :=
  let on := if core = 0xFFFF then r.cores else (r.cores.drop core).take 1
  let t := if caches % 2 = 1 then on.foldl (fun t n => t.cacheAccess n e) s else s
  if caches / 2 % 2 = 1 then ((on.map clusterOf).dedup).foldl (fun t c => t.cacheCopy c e) t else t

/-- The end of a walk for the loader of a region: of a page of its preloads (R304), or of a host page that it reads
(R303). -/
def State.walkPreload (s : State) (part order : Nat) (q : WalkReq) (f : Found) : State :=
  match (s.part part).regions.find? (fun r => r.order == order) with
  | none => s
  | some r =>
    match r.preload, f with
    | (va, stop, caches, core) :: rest, .lease e _ =>
      let next := (va / 2 ^ e.log2 + 1) * 2 ^ e.log2
      let left := if next < stop then (next, stop, caches, core) :: rest else rest
      let t := (s.preloadInto r caches core e).modEntry part order (fun r => { r with preload := left })
      match left with
      | (a, _, _, _) :: _ => t.askWalk q.core a { q with va := a }
      | [] => t
    | _ :: _, .fail _ => s.modEntry part order (fun r => { r with preload := [], err := 0x0A })
    | [], .lease e _ => s.modEntry part order (fun r => { r with hostPages := e :: r.hostPages })
    | [], .fail c => s.modEntry part order (fun r => { r with hostFails := (q.va / 4096, c) :: r.hostFails })

/-- A requester of a walk gets its result. A leaf with M = 1 is entered into no cache (R291). -/
def State.deliver (s : State) (part : Nat) (f0 : Found) (q : WalkReq) : State :=
  let f := match s.verdictOf part q f0 with
    | .lease e m => if (s.cluster (clusterOf q.core)).skewed then .fail .skew else .lease e m
    | .fail c => .fail c
  match q.why with
  | .head st =>
    let t := match f with
      | .lease e _ => s.cacheAccess q.core e
      | .fail _ => s
    t.walkHead q st f
  | .lpf =>
    match f with
    | .lease e _ => s.cacheAccess q.core e
    | .fail _ => s
  | .acc cls id =>
    let t := match f with
      | .lease e _ => s.cacheAccess q.core e
      | .fail _ => s
    if ((t.core q.core).alt.fifoOf cls.toNat).any (fun a => a.id == id && a.addr == q.va) then
      ((t.flip q.core).walkAcc q cls id f).flip q.core
    else t.walkAcc q cls id f
  | .copy seq => s.turned (clusterOf q.core) .copy (fun s => s.walkCopy q seq f)
  | .pref seq also => s.turned (clusterOf q.core) .copy (fun s => s.walkPref q seq also f)
  | .preload order => s.walkPreload part order q f

/-- A walk returns a page (R244): the detector words of its sectors take their Reset value when it is the first that returns it with
D = 1 in its frame. -/
def State.checkPage (s : State) (part : Nat) (e : Lease) : State :=
  let rest := s.slices.checked.filter (fun k => !(k.1 == part && k.2.1 == e.page && k.2.2.1 == e.log2))
  let lo := e.pa % 2 ^ 42 / 32
  if !e.d then { s with slices := { s.slices with checked := rest } }
  else if s.slices.checked.contains (part, e.page, e.log2, e.pa) || !s.isLocal e.pa then s
  else { s with slices := { s.slices with
    detect := s.slices.detect.filter (fun d => d.1 < lo || lo + 2 ^ e.log2 / 32 ≤ d.1)
    checked := (part, e.page, e.log2, e.pa) :: rest } }

/-- What a walk has found, at the slice of its page. -/
def State.foundPage (s : State) (part : Nat) : Found → State
  | .lease e false => s.checkPage part e
  | _ => s

/-- A walk ends: its walker is free, and every requester gets the result in order. -/
def State.endWalk (s : State) (cl : Nat) (k : Walk) (f : Found) : State :=
  k.reqs.foldl (fun t q => t.deliver k.part f q)
    ((s.foundPage k.part f).modCluster cl (fun c => { c with walks := c.walks.erase k }))

/-- A walk goes on. -/
def State.setWalk (s : State) (cl : Nat) (k k' : Walk) : State :=
  s.modCluster cl (fun c => { c with walks := c.walks.map (fun o => if o == k then k' else o) })

/-- The walks that hold a walker: the first 16 (R298). -/
def Cluster.running (c : Cluster) : List Walk := c.walks.take 16

/-- A walk sends its host translation request by the router of the host link (R292, R348), once its flit moves; it ends with REMOTE when
no route reaches that router (R351). -/
def State.askHost (s : State) (cl : Nat) (k : Walk) : State :=
  let r := clusterRouter cl
  if !s.reachesRouter r s.outerRouter || !s.reachesRouter s.outerRouter r then s.endWalk cl k (.fail .remote)
  else if !s.routeMoves r s.outerRouter 0 16 then s
  else
    let t := (s.setWalk cl k { k with ats := true }).sendOn r s.outerRouter k.va [] false
    { t with fabric := { t.fabric with
      ats := t.fabric.ats ++ [{ cl := cl, va := k.va / 4096 * 4096, pasid := bits (s.part k.part).xlcfg 32 20 }] } }

/-- A walk reads its next entry (R289, R290): XLATE where the device has no memory, or the root lies in another device (R287, R291),
REMOTE where no route leads (R351), and INTEGRITY, with a machine-check record, where the slice does not answer or the sector does not
match its check (R358, R362). -/
def State.readPte (s : State) (cl : Nat) (k : Walk) : State :=
  let pa := k.table % 2 ^ 42 + 8 * pteIndex k.level k.va
  let r := clusterRouter cl
  if s.slices.capacity ≤ pa || !s.isLocal k.table && k.level == 3 then s.endWalk cl k (.fail .xlate)
  else if !s.reachesFrom r pa then s.endWalk cl k (.fail .remote)
  else if !s.moves r pa 0 8 then s
  else if s.isDead pa || !s.slotSound true pa 8 then (s.checkAt (s.devSite pa 8) k.part).endWalk cl k (.fail .integrity)
  else
    let t := (s.sendFlit r pa [] (s.devRead true pa 8) false).fetched pa 8
    match s.pte (s.physWord pa) k.level k.va (s.sliceTime pa) with
    | .bad => t.endWalk cl k (.fail .xlate)
    | .table b => t.setWalk cl k { k with level := k.level - 1, table := b }
    | .leaf e m => t.endWalk cl k (.lease e m)

/-- R298: the oldest walk of a cluster that waits for no host reads its next entry (R289, R290), or sends its host
translation request (R292); at a leaf, or at an entry that ends it, it returns. -/
def execWalkReturn (cl : Nat) (s : State) : Host.Outcome State Fault Refusal :=
  .next (match ((s.cluster cl).running.find? (fun k => !k.ats)) with
    | none => s
    | some k =>
      match s.xlateCheck (4 * cl) k.part k.va, s.rodataLease k.part k.va s.time with
      | some c, _ => s.endWalk cl k (.fail c)
      | none, some e => s.endWalk cl k (.lease e false)
      | none, none => if k.va < 2 ^ 55 then s.askHost cl k else s.readPte cl k)

/-! ## Couplings (R133, R134, R223) -/

/-- Whether a context's streams are stopped (R305, R306): it is swapped out or stopped for Sapwood, or in handler mode. While a
stop is due and waits, they are not stopped yet (R79). A context whose launch has ended counts as stopped, so that an entry for its LQ
stays in the SQ (R134, R136; DESIGN CHOICE, log 85). -/
def Ctx.stopped (x : Ctx) : Bool := x.mode == .off || x.mode == .stopped || x.frame.handler

/-- Whether two contexts belong to one launch. -/
def Ctx.sibling (x y : Ctx) : Bool := x.launch.part == y.launch.part && x.launch.region == y.launch.region

/-- Whether an entry of a coupling moves now (R133, R351, R353): within a cluster it always does; between clusters it takes the route of their
routers, and waits where none leads, or a link of it retrains. -/
def State.couplingMoves (s : State) (a b : Nat) : Bool :=
  a == b || (s.reachesRouter (clusterRouter a) (clusterRouter b) && s.routeMoves (clusterRouter a) (clusterRouter b) 256 0)

/-- The flits of an entry of a coupling go out. -/
def State.couplingSend (s : State) (a b : Nat) (v : List Lane) : State :=
  if a = b then s else s.sendOn (clusterRouter a) (clusterRouter b) 0 (v.flatMap (fun l => leBytes 4 l.toNat)) false

/-- R133: the filled head of a coupled SQ moves to the tail of its LQ, 24 cycles after it was filled, when the LQ has a free
entry, the links on the way move, and neither core is stopped: the context of either that is not the active one is. R223 gives the cycle of an entry that is
filled at the head while no other coupling of the cluster carries entries. Where it gives none, the model does the same (DESIGN
CHOICE, log 85): other couplings do not delay an entry; one filled behind the head counts from its own fill, and one entry of a coupling
goes in a cycle; a stop that paused the coupling moves no fill cycle, so that an entry past its 24 cycles goes in the first cycle in
which neither core is stopped. -/
def execCouplingTransfer (core : Nat) (sq : BitVec 3) (s : State) : Host.Outcome State Fault Refusal :=
  let x := s.ctx core
  .next (match x.launch.cplOut.find? (fun c => c.1 == sq) with
    | none => s
    | some (_, dst, lq) =>
      match x.squeue sq with
      | e :: _ =>
        if e.filled && e.at_ + 24 ≤ s.cyc core && ((s.ctx dst).lqueue lq).length < 16 && !x.stopped && !(s.ctx dst).stopped && x.sibling (s.ctx dst) && s.couplingMoves (clusterOf core) (clusterOf dst) then
          ((s.couplingSend (clusterOf core) (clusterOf dst) e.lanes).modCtx core (fun x => x.storePop (.q sq))).modCtx dst (fun y => { y with
            lq := y.lq.set lq.toNat (y.lqueue lq ++ [{ e with id := y.nextId, at_ := 0 }]), nextId := y.nextId + 1 })
        else s
      | [] => s)

end Sys2Proof.Machine
end

