-- ==== Sys2Proof/Machine/Transform.lean ====
section
/-! DEFINITION. The transform engine (R189 to R191, R215 to R218). -/

namespace Sys2Proof.Machine

/-- rne32(cos(πk/64)) for k = 0 to 32: the twiddles of every block size (R216). -/
def quarterCosines : List Nat :=
  [0x3F800000, 0x3F7FB10F, 0x3F7EC46D, 0x3F7D3AAC, 0x3F7B14BE, 0x3F7853F8, 0x3F74FA0B, 0x3F710908, 0x3F6C835E, 0x3F676BD8,
   0x3F61C598] ++
  [0x3F5B941A, 0x3F54DB31, 0x3F4D9F02, 0x3F45E403, 0x3F3DAEF9, 0x3F3504F3, 0x3F2BEB4A, 0x3F226799, 0x3F187FC0, 0x3F0E39DA,
   0x3F039C3D] ++
  [0x3EF15AEA, 0x3EDAE880, 0x3EC3EF15, 0x3EAC7CD4, 0x3E94A031, 0x3E78CFCC, 0x3E47C5C2, 0x3E164083, 0x3DC8BD36, 0x3D48FB30,
   0x00000000]

/-- cos(πk/64) for 0 ≤ k < 64. -/
def cosAt (k : Nat) : FV :=
  if k ≤ 32 then fp32.val (quarterCosines.getD k 0) else (fp32.val (quarterCosines.getD (64 - k) 0)).negate

/-- sin(πk/64) for 0 ≤ k < 64. -/
def sinAt (k : Nat) : FV := fp32.val (quarterCosines.getD (if k ≤ 32 then 32 - k else k - 32) 0)

/-- The twiddle of butterfly j of stage m, by the sign of its imaginary part (R216, R217): exactly 1 for j = 0. Both zeros are nearest
to a part that is 0: it is +0 (DESIGN CHOICE, log 86). -/
def twiddle (inverse : Bool) (m j : Nat) : Cx :=
  let k := j * 128 / m
  if k = 0 then (cosAt 0, .num false 0 0) else (cosAt k, if inverse then sinAt k else (sinAt k).negate)

/-- A value rounded to FP32. -/
def round32 (v : FV) : FV := fp32.val (fp32.ofVal .rne 0 v)

/-- The product of a butterfly: each part one exact sum of two products, rounded once (R216). -/
def cxMul (w o : Cx) : Cx :=
  (round32 (FV.sum .rne [FV.mul w.1 o.1, (FV.mul w.2 o.2).negate]), round32 (FV.sum .rne [FV.mul w.1 o.2, FV.mul w.2 o.1]))

/-- A sum, each part rounded once. -/
def cxAdd (a b : Cx) : Cx := (round32 (FV.add .rne a.1 b.1), round32 (FV.add .rne a.2 b.2))

/-- The negative of both parts. -/
def cxNeg (a : Cx) : Cx := (a.1.negate, a.2.negate)

/-- One group of a stage: its first half and its second half (R216). -/
def butterfly (inverse : Bool) (m : Nat) (g : List Cx) : List Cx :=
  let e := g.take (m / 2)
  let t := (List.zip (upto 0 (m / 2)) (g.drop (m / 2))).map (fun p => cxMul (twiddle inverse m p.1) p.2)
  List.zipWith cxAdd e t ++ List.zipWith (fun a b => cxAdd a (cxNeg b)) e t

/-- The stages of a transform, from m upwards. -/
def stages (inverse : Bool) : Nat → Nat → List Cx → List Cx
  | 0, _, z => z
  | n + 1, m, z => stages inverse n (2 * m) ((pieces m z).flatMap (butterfly inverse m))

/-- The low n bits of a number in reverse order. -/
def bitRev : Nat → Nat → Nat
  | 0, _ => 0
  | n + 1, v => v % 2 * 2 ^ n + bitRev n (v / 2)

/-- A transform of b = 2^lg values (R216). -/
def transform (inverse : Bool) (lg : Nat) (z : List Cx) : List Cx :=
  stages inverse lg 2 ((upto 0 (2 ^ lg)).map (fun n => z.getD (bitRev lg n) (.num false 0 0, .num false 0 0)))

/-- +0. -/
def zeroFv : FV := .num false 0 0

/-- A CB16 element of two parts, rounded to BF16. -/
def cb16Of (v : Cx) : Nat := bf16.ofVal .rne 0 v.1 + 65536 * bf16.ofVal .rne 0 v.2

/-- The packed spectrum of a block (R216). -/
def fwdBlock (lg : Nat) (x : List FV) : List Nat :=
  let z := transform false lg (x.map (fun v => (v, zeroFv)))
  let at_ := fun n => z.getD n (zeroFv, zeroFv)
  cb16Of ((at_ 0).1, (at_ (2 ^ (lg - 1))).1) :: (upto 1 (2 ^ (lg - 1) - 1)).map (fun k => cb16Of (at_ k))

/-- The full spectrum of packed elements (R217). -/
def unfoldBlock (lg : Nat) (e : List Cx) : List Cx :=
  let h := 2 ^ (lg - 1)
  let e0 := e.getD 0 (zeroFv, zeroFv)
  (upto 0 (2 ^ lg)).map (fun k =>
    if k = 0 then (e0.1, zeroFv)
    else if k = h then (e0.2, zeroFv)
    else if k < h then e.getD k (zeroFv, zeroFv)
    else
      let c := e.getD (2 ^ lg - k) (zeroFv, zeroFv)
      (c.1, c.2.negate))

/-- The values of a packed spectrum (R217). -/
def invBlock (lg : Nat) (e : List Cx) : List Nat :=
  (transform true lg (unfoldBlock lg e)).map (fun z => bf16.ofVal .rne 0 (z.1.scale (-(lg : Int))))

/-- The elements of a row of a scratchpad tile, as their bytes are stored: a packed slot of TS is not expanded (R365 names XE
neither among the expanding readers nor among the others; DESIGN CHOICE, log 69). -/
def State.tileRow (s : State) (core : Nat) (t : Tile) (r : Nat) : List Nat :=
  numbers (fmtBytes t.fmt) ((s.core core).spad.readN (t.base + r * t.pitch) t.rowBytes)

/-- The output rows of `fwd` (R216). -/
def State.fwdRows (s : State) (k : Cmd) : List (List Byte) :=
  let t := k.tile k.t1
  let lg := log2 t.bsz
  (upto 0 t.rows).map (fun r =>
    (pieces t.bsz ((s.tileRow k.core t r).map (elemFmt t.fmt).val)).flatMap (fun x => (fwdBlock lg x).flatMap (leBytes 4)))

/-- The output rows of `inv` (R217). A last block that TS holds only in part has no values in the rule: its outputs, two for
each of its bins, are free values (DESIGN CHOICE, log 68). -/
def State.invRows (s : State) (k : Cmd) : List (List Byte) :=
  let t := k.tile k.t1
  let lg := log2 t.bsz
  (upto 0 t.rows).map (fun r =>
    (pieces (t.bsz / 2) ((s.tileRow k.core t r).map cb16Val)).flatMap (fun e =>
      (if e.length < t.bsz / 2 then
        (upto 0 (2 * e.length)).map (fun i => (Config.freeValue (s.fresh + 128 * r + i)).toNat % 65536)
       else invBlock lg e).flatMap (leBytes 2)))

/-- The free values that `inv` draws: 128 for each row with a block in part. -/
def Cmd.invDraws (k : Cmd) : Nat := if (k.tile k.t1).cols % ((k.tile k.t1).bsz / 2) = 0 then 0 else 128 * (k.tile k.t1).rows

/-- Rows are written to tile TD, all of them after all was read. -/
def State.writeRows (s : State) (k : Cmd) (rows : List (List Byte)) : State :=
  let t := k.tile k.t2
  (List.zip (upto 0 rows.length) rows).foldl (fun u r => u.spadWrite k.core (t.base + r.1 * t.pitch) r.2) s

/-- The command that a core's transform engine runs: its own or a sibling's (R191). -/
def State.xeRunning (s : State) (runner : Nat) : Option Cmd :=
  ((coresOf (clusterOf runner)).flatMap (fun c => (s.ctx c).liveOf .xe)).find? (fun k => k.started.isSome && k.runner == runner)

/-- The running command of a core's transform engine, when it is `op` and its work is still to come. -/
def State.xeRuns (s : State) (runner : Nat) (op : Op) : Option Cmd :=
  match s.xeRunning runner with
  | some k => if k.op = some op ∧ k.worked = false then some k else none
  | none => none

/-- R216: the arithmetic of the `fwd` that a core's transform engine runs. -/
def execXeFwd (core : Nat) (s : State) : Host.Outcome State Fault Refusal :=
  .next (s.turned (clusterOf core) .xe (fun s =>
    match s.xeRuns core .fwd with
    | some k => s.opDone k (fun n u => u.writeRows k ((u.fwdRows k).take n))
    | none => s))

/-- R217: the arithmetic of the `inv` that a core's transform engine runs. -/
def execXeInv (core : Nat) (s : State) : Host.Outcome State Fault Refusal :=
  .next (s.turned (clusterOf core) .xe (fun s =>
    match s.xeRuns core .inv with
    | some k => s.opDone k (fun n u => { u.writeRows k ((u.invRows k).take n) with fresh := u.fresh + k.invDraws })
    | none => s))

/-- R189, R190: a `tagset` moves nothing: its tag was set at its push. -/
def execXeTagset (core : Nat) (s : State) : Host.Outcome State Fault Refusal :=
  .next (s.turned (clusterOf core) .xe (fun s =>
    match s.xeRuns core .tagset with
    | some k => s.opDone k (fun _ u => u)
    | none => s))

end Sys2Proof.Machine
end

