-- ==== Sys2Proof/Machine/Copy.lean ====
section
/-! DEFINITION. The copy engine (R182 to R188, R300, R301, R367): slots, rows, pages, `flagw` and `pref`. -/

namespace Sys2Proof.Machine

/-! ## Commands in progress -/

/-- Changes a copy-engine command. -/
def State.modCopy (s : State) (k : Cmd) (f : Cmd → Cmd) : State := s.modCtx k.core (fun x => x.mapCmd .copy k.seq f)

/-- A command ends at the point of an error (R172). -/
def State.failCopy (s : State) (k : Cmd) (c : Cause) : State := s.endCopy k.core k.seq c

/-- A command ends at a mismatch, and a machine-check record says where it was found (R172, R307). -/
def State.failAt (s : State) (k : Cmd) (t : Site) : State := (s.checkAt t (s.ctx k.core).launch.part).failCopy k .integrity

/-- The started copy-engine command of a core (R182). -/
def State.copyRunning (s : State) (core : Nat) : Option Cmd := ((s.ctx core).liveOf .copy).find? (·.started.isSome)

/-- The started command of a core, when it is `op`, its work is still to come, and this cycle's slot is unused. -/
def State.copyRuns (s : State) (core : Nat) (op : Op) : Option Cmd :=
  match s.copyRunning core with
  | some k => if k.op = some op ∧ k.worked = false ∧ k.paused = false ∧ k.slot ≠ some (s.cyc core) then some k else none
  | none => none

/-! ## Rows (R183 to R185) -/

/-- Whether rows are selected by indices. -/
def Cmd.indexed (k : Cmd) : Bool := k.op == some .gath || k.op == some .scat

/-- Where element i of the index tile stands. -/
def Cmd.indexAt (k : Cmd) (i : Nat) : Nat :=
  let t := k.tile k.itile
  t.base + i / t.cols * t.pitch + 4 * (i % t.cols)

/-- The index of row i (R184). -/
def State.rowIndex (s : State) (k : Cmd) (i : Nat) : Nat := ((s.core k.core).spad.lane (k.indexAt i)).toNat

/-- The index that skips its row (R184). -/
def skipIndex : Nat := 0xFFFFFFFF

/-- Where a row is read. -/
def Cmd.rowFrom (k : Cmd) (r idx : Nat) : Nat := if k.op = some .gath then wrapAddr k.src (idx * k.rowb) else k.srcRow r

/-- Where a row is written; for `wfill` the offset in the weight buffer. -/
def Cmd.rowTo (k : Cmd) (r idx : Nat) : Nat :=
  match k.op with
  | some .scat => wrapAddr k.dst (idx * k.rowb)
  | some .wfill => bits k.w2 0 23 + r * k.rowb
  | _ => k.dstRow r

/-- The fate of an indexed row by its address (R194): outside the declared range PERM, beyond the address space XLATE. That of an address
beyond the address space comes after SKEW, as in R291. -/
def State.indexFault (s : State) (k : Cmd) (idx : Nat) : Option Cause :=
  let base := if k.op = some .gath then k.src else k.dst
  match spadAt k.core base with
  | some (_, off) => if off + idx * k.rowb + k.rowb ≤ 0x200000 then none else some .perm
  | none =>
    if base + idx * k.rowb + k.rowb ≤ windowBase then none
    else if base + idx * k.rowb < 2 ^ 56 then some .perm
    else if (s.cluster (clusterOf k.core)).skewed then some .skew else some .xlate

/-- The rows still to come meet a page at the source (`dst` = false) or at the destination. -/
def State.pageAhead (s : State) (k : Cmd) (dst : Bool) (page log2 : Nat) : Bool :=
  (upto (k.row + 1) (k.rows - (k.row + 1))).any (fun r =>
    let idx := if k.indexed then s.rowIndex k r else 0
    let a := if dst then k.rowTo r idx else k.rowFrom r idx
    !(k.indexed && idx == skipIndex) && a / 2 ^ log2 ≤ page && page ≤ (a + k.rowb - 1) / 2 ^ log2)

/-! ## Pages (R297, R300, R301) -/

/-- What a copy command finds for an address: it waits, it fails, or it may go on. -/
inductive Page
  | wait (s : State)
  | fail (c : Cause)
  | ok (s : State) (e : Lease) (p : Place)

/-- The size of the page of an address that a command has used: that of the migrating page or of the lease that holds it. -/
def Cmd.pageLog (k : Cmd) (dst : Bool) (va : Nat) : Nat :=
  match k.migr.find? (fun m => m.1 == dst && m.2.1 / 2 ^ m.2.2 == va / 2 ^ m.2.2), k.pages.find? (fun e => va / 2 ^ e.log2 == e.page / 2 ^ e.log2) with
  | some m, _ => m.2.2
  | none, some e => e.log2
  | none, none => walkPage va

/-- Whether a command pauses before a sector (R301): a page was found migrating at this endpoint, and the sector lies on another page
than the sector before it there, `prev`, if there was one. A change of page at the other endpoint is no pause point (DESIGN CHOICE,
log 90). -/
def Cmd.pausesAt (k : Cmd) (dst : Bool) (prev : Option Nat) (va : Nat) : Bool :=
  k.migr.any (fun m => m.1 == dst) && prev.any (fun b => b / 2 ^ k.pageLog dst b != va / 2 ^ k.pageLog dst b)

/-- The sector before one of the row in progress (R301): in the row, or the last one of the row before. -/
def Cmd.sectorBefore (k : Cmd) (dst : Bool) (first : Bool) (va : Nat) : Option Nat :=
  if first then (if dst then k.ends.2 else k.ends.1) else some (va - 32)

/-- A command pauses (R301). -/
def State.pauseCopy (s : State) (k : Cmd) : State := s.modCopy k (fun o => { o with paused := true })

/-- The request of a copy command. -/
def Cmd.request (k : Cmd) (dst : Bool) (va : Nat) : WalkReq :=
  { core := k.core, why := .copy k.seq, va := va, lane := none, r := !dst || k.red && k.op == some .scat, w := dst }

/-- The lease that a command holds of a page, or finds in the copy lease cache at its first sector there (R300). -/
def State.copyLease (s : State) (k : Cmd) (va : Nat) : Option Lease :=
  let cl := clusterOf k.core
  leaseFind (k.pages ++ (s.cluster cl).copyLeases) va (s.timeAt cl)

/-- A command uses a lease, and keeps it. -/
def State.holdLease (s : State) (k : Cmd) (va : Nat) (e : Lease) : State :=
  let cl := clusterOf k.core
  (s.modCluster cl (fun c => { c with copyLeases := leaseUse c.copyLeases [va] (s.timeAt cl) })).modCopy k (fun o => { o with
    pages := if o.pages.contains e then o.pages else e :: o.pages.filter (fun p => s.timeAt cl < p.expiry) })

/-- A command gives up a lease without the permissions that it needs (R297). -/
def State.giveUp (s : State) (k : Cmd) (e : Lease) : State :=
  (s.modCluster (clusterOf k.core) (fun c => { c with copyLeases := c.copyLeases.filter (fun o => !(o.page == e.page && o.log2 == e.log2)) })).modCopy k
    (fun o => { o with pages := o.pages.filter (fun p => !(p.page == e.page && p.log2 == e.log2)) })

/-- Whether a command renews a lease at a sector (R300): less than L/4 of it is left, sectors remain on its page (`next` is the next one
of the row), and the page has not been found migrating. -/
def State.renews (s : State) (k : Cmd) (dst : Bool) (va : Nat) (next : Option Nat) (e : Lease) : Bool :=
  4 * (e.expiry - s.timeAt (clusterOf k.core)) < (if e.len = 0 then 64 else e.len) && !k.migrates dst va &&
    (next.any (fun a => a / 2 ^ e.log2 == va / 2 ^ e.log2) || s.pageAhead k dst (va / 2 ^ e.log2) e.log2)

/-- The translation of an address of the source or of the destination, at one of its sectors; `next` is the row's next sector there, and
`out` and `back` are the bytes that the access and its answer carry, and `prev` is the sector before it there. On a page that has been found
migrating, the command pauses at the first sector after E (R301). -/
def State.copyPage (s : State) (k : Cmd) (dst : Bool) (prev : Option Nat) (va : Nat) (next : Option Nat) (out back : Nat) : Page :=
  let part := (s.ctx k.core).launch.part
  let q := k.request dst va
  match s.xlateCheck k.core part va with
  | some c => .fail c
  | none =>
    if k.pausesAt dst prev va then .wait (s.pauseCopy k)
    else
      match s.copyLease k va with
      | none => .wait (if k.migrates dst va then s.pauseCopy k else s.askWalk k.core va q)
      | some e =>
        if !e.permits (s.part part).xlcfg q.r q.w then .wait ((s.giveUp k e).askWalk k.core va q)
        else
          let s1 := s.holdLease k va e
          let s2 := if s.renews k dst va next e then s1.askWalk k.core va q else s1
          match s.placeOf (e.phys va) with
          | none => .fail .xlate
          | some p =>
            if !(match p with
              | .peer pa => s.peerReach pa
              | .dev pa => s.reaches k.core pa
              | _ => true) then .fail .remote
            else if e.expiry ≤ s.placeTime p then .wait (if k.migrates dst va then s1.pauseCopy k else s1.askWalk k.core va q)
            else if !s.flows k.core out back p then .wait s2
            else .ok s2 e p

/-- The race checks of the sectors of an engine read (R246): none when trap mode stops it. A `scat` with RED is neither checked
nor recorded, in its reads as in its writes. -/
def State.engineRace (s : State) (k : Cmd) (e : Lease) (va pa n : Nat) : Option State :=
  if !e.d || (k.red && k.op == some .scat) then some s
  else
    (sectorsOf pa n).foldl (fun o sec => o.bind (fun t =>
      t.raceCheck k.core 4 false (va + 32 * (sec - pa / 32)) sec k.head k.intv .device)) (some s)

/-! ## Reading (R182, R367) -/

/-- What the engine reads in one go: a packed block that it carries whole, or one raw sector. -/
inductive Elem
  | wait (s : State)
  | fail (c : Cause)
  | bad (t : Site)
  | ok (s : State) (packed : Bool) (bytes : List Byte)

/-- What a peer device answers to a read (R367): a raw sector, or a packed slot with its mark, whose number of sectors and bytes are
free values too. -/
def State.peerElem (s : State) (may : Bool) (free : BitVec 256) : Elem :=
  if may && bitAt free 254 then
    .ok { s with fresh := s.fresh + 8 } true
      (((upto 0 8).flatMap (fun i => leBytes 32 (Config.freeValue (s.fresh + i)).toNat)).take (32 * (bits free 248 3 + 1)))
  else .ok s false (leBytes 32 free.toNat)

/-- Reads at an address with `left` sectors of the row to come; `whole` says that a packed block may keep its mark. -/
def State.readElem (s : State) (k : Cmd) (va left : Nat) (whole : Bool) : Elem :=
  let may := whole && va % 256 == 0 && 8 ≤ left
  match spadAt k.core va with
  | some (c, off) =>
    let o := s.core c
    let pk := may && o.packed.contains (off / 256)
    let n := if pk then 32 * (packSectors (o.spad.readN off 8) + 1) else 32
    if o.spadSound off n then .ok (s.spadFetched c off n) pk (o.spad.readN off n) else .bad (s.rangeSite (.spad c off n))
  | none =>
    match s.copyPage k false (k.sectorBefore false (k.sect == 0) va) va (if 1 < left then some (va + 32) else none) 0 256 with
    | .wait t => .wait t
    | .fail c => .fail c
    | .ok t e (.dev pa) =>
      let pk := may && t.packedAt e.c pa
      let n := if pk then 32 * (packSectors (t.devRead e.c pa 8) + 1) else 32
      if !t.devSound pa n then .bad (t.devSite pa n)
      else
        match ((t.sendTo k.core [] (t.devRead e.c pa n) pk (.dev pa)).fetched pa n).engineRace k e va pa n with
        | some u => .ok u pk (u.devRead e.c pa n)
        | none => .fail .race
    | .ok t _ p => ({ t with fresh := t.fresh + 1 }.sendTo k.core [] [] false p).peerElem may (Config.freeValue t.fresh)

/-! ## Writing (R183, R368) -/

/-- A piece of a row at its place. -/
structure Piece where
  va : Nat
  place : Place
  lease : Option Lease
  packed : Bool
  bytes : List Byte
  deriving DecidableEq, Repr

/-- The pieces of a row, once every one of its pages is translated. -/
inductive Pieces
  | wait (s : State)
  | fail (c : Cause)
  | bad (t : Site)
  | ok (s : State) (ps : List Piece)

/-- The bytes of a row that an element stands for. -/
def elemSpan (e : Bool × List Byte) : Nat := if e.1 then 256 else e.2.length

/-- Finds the place of each element of a row; `first` says that the row begins with it. -/
def State.placeRow (s : State) (k : Cmd) (first : Bool) : Nat → List (Bool × List Byte) → Pieces
  | _, [] => .ok s []
  | va, e :: es =>
    let put := fun (t : State) (p : Piece) =>
      match t.placeRow k false (va + elemSpan e) es with
      | .ok u ps => Pieces.ok u (p :: ps)
      | r => r
    match spadAt k.core va with
    | some (c, off) => put s { va := va, place := .spad c off, lease := none, packed := e.1, bytes := e.2 }
    | none =>
      match s.copyPage k true (k.sectorBefore true first va) va (match es with
          | [] => none
          | _ :: _ => some (va + elemSpan e)) e.2.length 0 with
      | .wait t => .wait t
      | .fail c => .fail c
      | .ok t l p =>
        let red := k.red && k.op == some .scat
        match p with
        | .dev pa =>
          if t.isDead pa || (red && !t.devSound pa e.2.length) then .bad (t.devSite pa e.2.length)
          else put t { va := va, place := p, lease := some l, packed := e.1, bytes := e.2 }
        | _ => put t { va := va, place := p, lease := some l, packed := e.1, bytes := e.2 }

/-- An entry joins the write queue of its slice; raw bytes that follow those of the command's last entry in one line join
that entry (R368), under the earlier of the two expiries (R243). It carries what its race check needs as it performs (R246). -/
def State.queueWrite (s : State) (k : Cmd) (va pa : Nat) (l : Option Lease) (packed : Bool) (bytes : List Byte) : State :=
  let sl := s.sliceOf pa
  let q := s.slices.queues.get sl []
  let e : SliceEntry :=
    { pa := pa, va := va, bytes := bytes, packed := packed, cpg := l.any (·.c), d := l.any (·.d), expiry := l.map (·.expiry),
      core := k.core, seq := k.seq, head := k.head, intv := k.intv }
  let q' := match q.getLast? with
    | some o =>
      if !packed && !o.packed && o.core == k.core && o.seq == k.seq && o.pa / 256 == pa / 256 && o.pa + o.bytes.length == pa then
        q.dropLast ++ [{ o with bytes := o.bytes ++ bytes, d := o.d || e.d, expiry := e.expiry.merge min o.expiry }]
      else q ++ [e]
    | none => [e]
  { s with slices := { s.slices with queues := s.slices.queues.put sl q' } }

/-- The lane type of a reduction (R184). -/
def rtyOf (n : Nat) : LaneTy :=
  match n with
  | 0 => .i32
  | 1 => .ui32
  | 2 => .f32
  | 3 => .bf16x2
  | _ => .f16x2

/-- The elements of a reduction are added at their slice (R184, R242). -/
def State.reduceAt (s : State) (core : Nat) (ty : LaneTy) (cpg : Bool) (pa : Nat) (bytes : List Byte) : State :=
  (List.zip (upto 0 (bytes.length / 4)) (pieces 4 bytes)).foldl (fun t p =>
    let a := pa + 4 * p.1
    let v := laneSum ty (BitVec.ofNat 32 (leNat (t.devRead cpg a 4))) (BitVec.ofNat 32 (leNat p.2))
    (t.devWrite cpg a (leBytes 4 v.toNat)).getD
      ((t.machineCheck 0 (t.refusedKind a 4) (t.sliceOf a) (t.ownerOf a) a 0).postedFail core a)) s

/-- The flits of a piece of a row go out. A row goes whole, and may have more flits than the replay buffers have room: those before it on
its way are acknowledged first (R183, R352; DESIGN CHOICE, log 77). -/
def State.sendPiece (s : State) (k : Cmd) (p : Piece) : State :=
  (if s.flows k.core p.bytes.length 0 p.place then s else s.acknowledgeTo k.core p.place).sendTo k.core p.bytes [] p.packed p.place

/-- One piece is written. -/
def State.writePiece (s : State) (k : Cmd) (p : Piece) : State :=
  let cpg := (p.lease.map (·.c)).getD false
  match p.place with
  | .spad c off => if p.packed then s.spadPacked c off p.bytes else s.spadWrite c off p.bytes
  | .dev pa =>
    let t := s.sendPiece k p
    if k.red && k.op == some .scat then t.reduceAt k.core (rtyOf k.rty) cpg pa p.bytes
    else t.queueWrite k p.va pa p.lease p.packed p.bytes
  | .peer pa =>
    let t := s.sendPiece k p
    { t with fabric := { t.fabric with peerOut := (pa, p.bytes, p.packed) :: t.fabric.peerOut } }
  | _ => s

/-- The row of `wfill` lands in the weight buffer (R185). -/
def State.fillRow (s : State) (k : Cmd) : Nat → List (Bool × List Byte) → State
  | _, [] => s
  | off, e :: es => (s.wbWrite (clusterOf k.core) off e.2 e.1).fillRow k (off + elemSpan e) es

/-- A row is done: its last sectors are those before the next row's first (R301). A skipped row has read none, and may have written
none. -/
def State.nextRow (s : State) (k : Cmd) (read write : Option Nat) : State :=
  s.modCopy k (fun o => { o with
    row := o.row + 1, sect := 0, buf := [], worked := k.rows ≤ o.row + 1, ends := (read.or o.ends.1, write.or o.ends.2) })

/-- A row that has been read is written whole (R183). -/
def State.writeRow (s : State) (k : Cmd) (es : List (Bool × List Byte)) (idx : Nat) : State × Bool :=
  let read := if k.indexed && idx == skipIndex then none else some (k.rowFrom k.row idx + k.rowb - 32)
  let last := k.rowTo k.row idx + k.rowb - 32
  if k.op = some .wfill then ((s.fillRow k (k.rowTo k.row idx) es).nextRow k read none, true)
  else
    match s.placeRow k true (k.rowTo k.row idx) es with
    | .wait t => (t, false)
    | .fail c => (s.failCopy k c, false)
    | .bad b => (s.failAt k b, false)
    | .ok t ps =>
      ((ps.foldl (fun u p => u.writePiece k p) t).nextRow k read (some last), true)

/-! ## Slots (R182) -/

/-- The index of the row in progress, or the fault of its row. -/
def State.currentIndex (s : State) (k : Cmd) : (Cause × Option Site) ⊕ Nat :=
  if !k.indexed then .inr 0
  else if k.sect ≠ 0 then .inr k.idx
  else if !(s.core k.core).spadSound (k.indexAt k.row) 4 then .inl (.integrity, some (s.rangeSite (.spad k.core (k.indexAt k.row) 4)))
  else
    let i := s.rowIndex k k.row
    if i = skipIndex then .inr i
    else
      match s.indexFault k i with
      | some c => .inl (c, none)
      | none => .inr i

/-- Moves on within a slot: one element read, or one row written; `budget` sectors are left in the slot. The answer says
how many are left then; 0 ends the slot. What the read of an index corrects counts once (R361). -/
def State.moveOn (s : State) (k : Cmd) (budget : Nat) : State × Nat :=
  match s.currentIndex k with
  | .inl (_, some b) => (s.failAt k b, 0)
  | .inl (c, none) => (s.failCopy k c, 0)
  | .inr idx =>
    let n := k.rowb / 32
    let skip := k.indexed && idx == skipIndex
    let read := fun (t : State) => if k.indexed && k.sect == 0 then t.spadFetched k.core (k.indexAt k.row) 4 else t
    if skip ∧ k.op = some .scat then ((read s).nextRow k none none, budget)
    else if skip then
      let r := s.writeRow k (List.replicate n (false, List.replicate 32 0)) idx
      (if r.2 then read r.1 else r.1, if r.2 then budget else 0)
    else if k.sect < n then
      let whole := !(k.red && k.op == some .scat) && (k.rowTo k.row idx + 32 * k.sect) % 256 == 0
      match s.readElem k (k.rowFrom k.row idx + 32 * k.sect) (n - k.sect) whole with
      | .wait t => (t, 0)
      | .fail c => (s.failCopy k c, 0)
      | .bad b => (s.failAt k b, 0)
      | .ok t pk bs =>
        if budget < bs.length / 32 then (s, 0)
        else
          ((read t).modCopy k (fun o => { o with idx := idx, sect := o.sect + elemSpan (pk, bs) / 32, buf := o.buf ++ [(pk, bs)] }),
            budget - bs.length / 32 + (if k.sect + elemSpan (pk, bs) / 32 = n then 1 else 0))
    else
      let r := s.writeRow k k.buf idx
      (r.1, if r.2 then budget - 1 else 0)

/-- A slot: elements and rows in order while sectors are left (a row that is read whole is written in its slot). -/
def State.slotGo (s : State) (core : Nat) : Nat → Nat → State
  | 0, _ => s
  | _, 0 => s
  | f + 1, b + 1 =>
    match s.copyRunning core with
    | none => s
    | some k =>
      if k.worked ∨ k.paused then s
      else
        let r := s.moveOn k (b + 1)
        r.1.slotGo core f r.2

/-- The slot of a core's running command (R182): only in the cycles of the core, and once in each. -/
def State.copySlot (s : State) (core : Nat) (k : Cmd) : State :=
  if s.cyc core % 4 = core % 4 then
    (s.modCopy k (fun o => { o with slot := some (s.cyc core) })).slotGo core 40 8
  else s

/-- R183: one slot of the running `copy` of a core. -/
def execCeCopy (core : Nat) (s : State) : Host.Outcome State Fault Refusal :=
  .next (s.turned (clusterOf core) .copy (fun s =>
    match s.copyRuns core .copy with
    | some k => s.copySlot core k
    | none => s))

/-- R184: one slot of the running `gath` of a core. -/
def execCeGath (core : Nat) (s : State) : Host.Outcome State Fault Refusal :=
  .next (s.turned (clusterOf core) .copy (fun s =>
    match s.copyRuns core .gath with
    | some k => s.copySlot core k
    | none => s))

/-- R184: one slot of the running `scat` of a core. -/
def execCeScat (core : Nat) (s : State) : Host.Outcome State Fault Refusal :=
  .next (s.turned (clusterOf core) .copy (fun s =>
    match s.copyRuns core .scat with
    | some k => s.copySlot core k
    | none => s))

/-- R185: one slot of the running `wfill` of a core. -/
def execCeWfill (core : Nat) (s : State) : Host.Outcome State Fault Refusal :=
  .next (s.turned (clusterOf core) .copy (fun s =>
    match s.copyRuns core .wfill with
    | some k => s.copySlot core k
    | none => s))

/-- R182: the slot of this cycle of a cluster's copy engine goes to core c mod 4. -/
def execCopyEngineSlot (cl : Nat) (s : State) : Host.Outcome State Fault Refusal :=
  let core := 4 * cl + (s.cluster cl).cyc % 4
  .next (s.turned cl .copy (fun s =>
    match s.copyRunning core with
    | some k =>
      if k.worked = false ∧ k.paused = false ∧ k.slot ≠ some (s.cyc core) ∧ k.op ≠ some .flagw ∧ k.op ≠ some .pref then
        s.copySlot core k
      else s
    | none => s))

/-! ## Flags and `flagw` (R186, R188) -/

/-- The write of a flag word in a scratchpad: the pair of the command's GO stands with it (R188, R245). -/
def State.flagWrite (s : State) (k : Cmd) (c off : Nat) : State :=
  ((s.spadStore c off (leBytes 4 k.fval)).modCore c (fun o => { o with flags := o.flags.put off (k.core, k.intv) })).tellWaiters c off 4
    (some (k.core, k.intv))

/-- R186: the write of a running `flagw`, 8 cycles after its start. -/
def execCeFlagw (core : Nat) (s : State) : Host.Outcome State Fault Refusal :=
  .next (s.turned (clusterOf core) .copy (fun s =>
    match s.copyRuns core .flagw with
    | none => s
    | some k =>
      if k.doneAt.all (fun d => s.cyc core < d) then s
      else
        let fin := fun (t : State) => t.modCopy k (fun o => { o with worked := true })
        match spadAt k.core k.dst with
        | some (c, off) => fin (s.flagWrite k c off)
        | none =>
          match s.copyPage k true none k.dst none 4 0 with
          | .wait t => t
          | .fail c => s.failCopy k c
          | .ok t e (.dev pa) =>
            if t.isDead pa then t.failAt k (t.devSite pa 4)
            else
              match t.devWrite e.c pa (leBytes 4 k.fval) with
              | some u => fin (u.sendTo core (leBytes 4 k.fval) [] false (.dev pa))
              | none => (t.machineCheck 0 (t.refusedKind pa 4) (t.sliceOf pa) (t.ctx core).launch.part pa 0).failCopy k .integrity
          | .ok t _ (.peer pa) =>
            let u := t.sendTo core (leBytes 4 k.fval) [] false (.peer pa)
            fin { u with fabric := { u.fabric with peerOut := (pa, leBytes 4 k.fval, false) :: u.fabric.peerOut } }
          | .ok t _ _ => t))

/-! ## `pref` (R187) -/

/-- ACC and LEN of `pref` (R187). -/
def Cmd.alsoAcc (k : Cmd) : Bool := bitAt k.w0 48
@[inherit_doc Cmd.alsoAcc] def Cmd.len (k : Cmd) : Nat := bits k.w2 0 40

/-- The pages of a byte range by R187: 64 KiB in the upper half, 4 KiB in the lower one; the window has none. -/
def pageCount (lo hi : Nat) : Nat :=
  let part := fun (a b log2 : Nat) => if a < b then (b - 1) / 2 ^ log2 + 1 - a / 2 ^ log2 else 0
  part lo (min hi (2 ^ 55)) 12 + part (max lo (2 ^ 55)) (min hi windowBase) 16 + part (max lo (2 ^ 56)) hi 16

/-- R187: the next page of a running `pref`: at most 16 walks are outstanding, and one page goes in a cycle. -/
def execCePref (core : Nat) (s : State) : Host.Outcome State Fault Refusal :=
  .next (s.turned (clusterOf core) .copy (fun s =>
    match s.copyRuns core .pref with
    | none => s
    | some k =>
      let va := k.src + k.row
      let next := (va / 2 ^ walkPage va + 1) * 2 ^ walkPage va - k.src
      if k.len ≤ k.row then (if k.sect = 0 then s.modCopy k (fun o => { o with worked := true }) else s)
      else if windowBase ≤ va ∧ va < 2 ^ 56 then s.modCopy k (fun o => { o with row := 2 ^ 56 - k.src })
      else if (s.xlateCheck core (s.ctx core).launch.part va).isSome then
        s.modCopy k (fun o => { o with
          row := next, slot := some (s.cyc core), info := BitVec.ofNat 16 (min 0xFFFF (o.info.toNat + 1)) })
      else if 16 ≤ k.sect then s
      else
        (s.modCopy k (fun o => { o with row := next, slot := some (s.cyc core), sect := o.sect + 1 })).askWalk core va
          { core := core, why := .pref k.seq k.alsoAcc, va := va, lane := none, r := false, w := false }))

end Sys2Proof.Machine
end

