-- ==== Sys2Proof/Machine/Engine.lean ====
section
/-! DEFINITION. The start and the completion of engine commands (R176, R182, R188, R191 to R193, R240), and the ballast
(R377). -/

namespace Sys2Proof.Machine

/-- The duration of a command (R192), for what does not depend on device memory. -/
def Cmd.duration (k : Cmd) : Nat :=
  let a := k.tile k.t1
  let c := k.tile k.t2
  match k.op with
  | some .mma => 40 + (if k.afmt = 1 ∨ k.afmt = 2 then a.rows else ceilDiv a.rows 2)
  | some .mmas => 40 + ceilDiv (a.rows * k.pp * k.qq * k.wbsz) 8192
  | some .mzero => 8 + ceilDiv (c.rows * c.rowBytes) 256
  | some .drain => 24 + ceilDiv (a.rows * a.rowBytes + (if k.outScaled then a.rows * (a.cols / 32) else 0)) 64
  | some .flagw => 8
  | some .pref => 16 + pageCount k.src (k.src + k.len)
  | some .fwd => 24 + ceilDiv (a.rows * a.cols * log2 a.bsz) 128
  | some .inv => 24 + ceilDiv (a.rows * (2 * a.cols) * log2 a.bsz) 128
  | some .tagset => 1
  | _ => 16 + 4 * ceilDiv (k.rows * k.rowb) 256

/-- Whether the range checker lets a command start (R193, R229): no older entry that still counts conflicts with it. -/
def State.chkLets (s : State) (k : Cmd) : Bool :=
  let own : ChkEntry := { id := k.chk, rd := k.rdSet, wr := k.wrSet, free := none }
  !(s.ctx k.core).eng.checker.any (fun o => o.id < k.chk && o.holds (s.cyc k.core) && own.conflicts o)

/-- The oldest command of a core on an engine that has not started. -/
def State.nextCmd (s : State) (core : Nat) (eng : Eng) : Option Cmd := ((s.ctx core).liveOf eng).find? (·.started.isNone)

/-- Whether an engine takes a command now by its order (R176, R182, R191, R192). -/
def State.engineLets (s : State) (k : Cmd) : Bool :=
  let cyc := s.cyc k.core
  match k.eng with
  | .array =>
    let c := s.cluster (clusterOf k.core)
    c.arrayQ.head? == some (k.core, k.seq) && c.arrayFree ≤ cyc && k.notBefore ≤ cyc
  | .copy => (s.copyRunning k.core).isNone && (s.core k.core).ceFree ≤ cyc
  | .xe => (s.xeRunning k.core).isNone && (s.core k.core).xeFree ≤ cyc

/-- The command starts (R192). An array command ends a fade (R377). -/
def State.startCmd (s : State) (k : Cmd) (runner : Nat) (info : BitVec 16) : State :=
  let cyc := s.cyc k.core
  let t := s.modCtx k.core (fun x => x.mapCmd k.eng k.seq (fun o => { o with
    started := some cyc, runner := runner, info := info, doneAt := some (cyc + k.duration) }))
  match k.eng with
  | .array => t.modCluster (clusterOf k.core) (fun c => { c with fade := none, fadeDue := none })
  | _ => t

/-- R192, R193: an engine starts a core's oldest command, when its order and the range checker let it. -/
def execCommandStart (core : Nat) (eng : Eng) (s : State) : Host.Outcome State Fault Refusal :=
  .next (s.turned (clusterOf core) eng (fun s =>
    match s.nextCmd core eng with
    | some k => if s.engineLets k ∧ s.chkLets k then s.startCmd k core 0 else s
    | none => s))

/-- Whether a sibling may pull a command (R191): its XE is awake, and no command of its own is queued or running. -/
def State.mayPull (s : State) (n : Nat) : Bool :=
  (s.dom n .xe 0).st == .awake && ((s.ctx n).liveOf .xe).isEmpty && (s.xeRunning n).isNone && (s.core n).xeFree ≤ s.cyc n

/-- R191: a waiting command with R = 1 is pulled by the lowest-numbered sibling that may. -/
def execXeSiblingPull (core : Nat) (s : State) : Host.Outcome State Fault Refusal :=
  .next (s.turned (clusterOf core) .xe (fun s =>
    match s.nextCmd core .xe with
    | none => s
    | some k =>
      if bitAt k.w0 55 ∧ s.chkLets k ∧ (s.xeRunning core).isSome then
        match (coresOf (clusterOf core)).find? (fun n => n != core && s.mayPull n) with
        | some n => s.startCmd k n (BitVec.ofNat 16 (2 ^ 15 + n % 4 * 2 ^ 13))
        | none => s
      else s))

/-- Whether writes of a command still wait in a slice's queue (R240, R368). -/
def State.writesLeft (s : State) (k : Cmd) : Bool :=
  k.eng == .copy && s.slices.queues.any (fun q => q.2.any (fun e => e.core == k.core && e.seq == k.seq))

/-- The command of a core on an engine that may complete in this cycle. -/
def State.finished (s : State) (core : Nat) (eng : Eng) : Option Cmd :=
  ((s.ctx core).liveOf eng).find? (fun k =>
    k.started.isSome && k.worked && k.doneAt.any (fun d => d ≤ s.cyc core) && !s.writesLeft k &&
      (eng != .array || (s.cluster (clusterOf core)).arrayQ.head? == some (core, k.seq)))

/-- The completion flag of a command without an error (R188). -/
def State.completionFlag (s : State) (k : Cmd) : State :=
  if k.eng == .copy && k.fe && k.err.isNone then
    match spadAt k.core (windowBase + k.fword) with
    | some (c, off) => s.flagWrite k c off
    | none => s
  else s

/-- The engine is free for its next command from the next cycle on (R192); an idle array is due to fade when the context that
pushed the command has BAL = 1 (R377). -/
def State.engineFree (s : State) (k : Cmd) : State :=
  let cyc := s.cyc k.core
  match k.eng with
  | .array => s.modCluster (clusterOf k.core) (fun c => { c with
      arrayQ := c.arrayQ.tail, arrayFree := cyc + 1, fadeDue :=
        let x := s.ctx k.core
        if c.arrayQ.tail = [] ∧ bitAt x.sys.pwrset 2 then some (k.core, (s.core k.core).bank, x.launch.part, x.launch.region) else none })
  | .copy => s.modCore k.core (fun c => { c with ceFree := cyc + 1 })
  | .xe => s.modCore k.runner (fun c => { c with xeFree := cyc + 1 })

/-- R170, R188, R240, R381: a command whose work is done completes: its flag, its record, its range-checker entry, and the charge of an
array command. -/
def execCommandComplete (core : Nat) (eng : Eng) (s : State) : Host.Outcome State Fault Refusal :=
  .next (s.turned (clusterOf core) eng (fun s =>
    match s.finished core eng with
    | none => s
    | some k =>
      (((s.completionFlag k).engineFree k).chargeFor k.core k.arrayUnits).modCtx core (fun x =>
        { x with eng := { x.eng with
          live := x.eng.live.filter (fun o => !(o.eng == k.eng && o.seq == k.seq))
          records := x.eng.records.set (engNo eng) (x.recs eng ++ [k.record])
          checker := x.eng.checker.map (fun e => if e.id = k.chk then { e with free := some (s.cyc core) } else e) } })))

/-- R377: a fade starts in the cycle after the array completes its last queued command, with BAL = 1; without it there is
none. -/
def execBallastFadeStart (cl : Nat) (s : State) : Host.Outcome State Fault Refusal :=
  let c := s.cluster cl
  .next (match c.fadeDue, c.fade with
    | some n, none =>
      if c.cyc < c.arrayFree then s
      else if s.ballasts n then s.setCluster cl { c with fade := some c.cyc }
      else s.setCluster cl { c with fadeDue := none }
    | _, _ => s)

/-- R377: a fade ends after its cycle 3,999, or at once when the last command's context has BAL = 0. -/
def execBallastFadeEnd (cl : Nat) (s : State) : Host.Outcome State Fault Refusal :=
  let c := s.cluster cl
  .next (match c.fadeDue, c.fade with
    | some n, some f =>
      if f + 4000 ≤ c.cyc ∨ s.ballasts n = false then s.setCluster cl { c with fade := none, fadeDue := none } else s
    | _, _ => s)

end Sys2Proof.Machine
end

