-- ==== Sys2Proof/Machine/Sync.lean ====
section
/-! DEFINITION. Rings and barriers: the instructions (R105 to R107), the homes that apply them one at a time (R103), the
release of C (R388), and the pairs of the race detector that they carry (R245). -/

namespace Sys2Proof.Machine

/-! ## The instructions -/

/-- A counter's distance ahead of another, modulo 65,536. -/
def ahead (a b : BitVec 16) : Nat := (a - b).toNat

/-- Whether slot A may be published or released (R106): `lo` and `hi` bound the positions, `marks` are the bits set. -/
def slotOpen (r : Ring) (a : Nat) (lo hi : BitVec 16) (marks : Word) : Bool :=
  a < r.slots.toNat && ((a + r.slots.toNat - lo.toNat % r.slots.toNat) % r.slots.toNat < ahead hi lo) && !bitAt marks a

/-- Whether an operation on slot A takes RINGERR (R106). -/
def Ring.refuses (r : Ring) (op : SyncOp) (a : Nat) : Bool :=
  r.slots == 0 ||
    (match op with
     | .pub => !slotOpen r a r.tail r.claim r.pub
     | .rel => !slotOpen r a r.head r.take r.rel
     | _ => false)

/-- An operation joins the arrivals of its home. -/
def State.arriveHome (s : State) (p n : Nat) (o : HomeOp) : State :=
  s.modPart p (fun q =>
    if o.op == .bar then { q with bars := q.bars.put n { q.barrier n with arrivals := (q.barrier n).arrivals ++ [o] } }
    else { q with rings := q.rings.put n { q.ring n with arrivals := (q.ring n).arrivals ++ [o] } })

/-- The generation of an arrival that its home has not counted. -/
def noGen : Nat := 65536

/-- The issue of an operation: it reaches its home when its release has completed (R241), at once when it waits for
nothing. -/
def State.syncGo (s : State) (h : Hdr) (op : SyncOp) (n : Nat) (scp : Scp) (mask : BitVec 16) (slot : Nat) (d : Option Reg) :
    State :=
  let ids := s.fenceIds s.me scp mask
  let t := s.waits .c h 8 (.sync op n scp mask ids ids.isEmpty slot none d noGen)
  if ids.isEmpty then t.arriveHome (s.ctx s.me).launch.part n { core := s.me, op := op, slot := slot } else t

/-- A ring instruction (R105, R106). -/
def State.ringOp (s : State) (h : Hdr) (op : SyncOp) (idx : BitVec 6) (scp : Scp) (mask : BitVec 16) (slot : Nat)
    (d : Option Reg) : State :=
  let x := s.ctx s.me
  match x.ringNo idx.toNat with
  | none => s.issue .c h (.trap { cause := .synclimit }) s
  | some n =>
    s.issue .c h (if ((s.part x.launch.part).ring n).refuses op slot then .trap { cause := .ringerr } else .go)
      (s.syncGo h op n scp mask slot d)

/-- R105: `rclaim`. -/
def execCRclaim (h : Hdr) (d : BitVec 5) (idx : BitVec 6) (scp : Scp) (s : State) : Host.Outcome State Fault Refusal :=
  .next (s.ringOp h .claim idx scp 0 0 (some ((s.ctx s.me).regOf d)))

/-- R105: `rpub`. -/
def execCRpub (h : Hdr) (a : BitVec 5) (idx : BitVec 6) (scp : Scp) (mask : BitVec 16) (s : State) :
    Host.Outcome State Fault Refusal :=
  .next (s.ringOp h .pub idx scp mask ((s.ctx s.me).reg a).toNat none)

/-- R105: `rwaitf`. -/
def execCRwaitf (h : Hdr) (d : BitVec 5) (idx : BitVec 6) (scp : Scp) (s : State) : Host.Outcome State Fault Refusal :=
  .next (s.ringOp h .waitf idx scp 0 0 (some ((s.ctx s.me).regOf d)))

/-- R105: `rrel`. -/
def execCRrel (h : Hdr) (a : BitVec 5) (idx : BitVec 6) (scp : Scp) (mask : BitVec 16) (s : State) :
    Host.Outcome State Fault Refusal :=
  .next (s.ringOp h .rel idx scp mask ((s.ctx s.me).reg a).toNat none)

/-- R105: `rwaite`. -/
def execCRwaite (h : Hdr) (idx : BitVec 6) (scp : Scp) (s : State) : Host.Outcome State Fault Refusal :=
  .next (s.ringOp h .waite idx scp 0 0 none)

/-- R107: `bar`. An arrival that a stop kept waits for its generation without arriving again, and is released at once when
the generation has completed (R80). -/
def execCBar (h : Hdr) (d : BitVec 5) (idx : BitVec 6) (scp : Scp) (mask : BitVec 16) (s : State) :
    Host.Outcome State Fault Refusal :=
  let x := s.ctx s.me
  let r := x.regOf d
  .next (match x.barNo idx.toNat with
    | none => s.issue .c h (.trap { cause := .synclimit }) s
    | some n =>
      s.issue .c h .go
        (match x.c.kept with
         | some (_, g) =>
           if (((s.part x.launch.part).barrier n).gen.toNat = g) then
             s.waits .c h 8 (.sync .bar n scp mask [] true 0 none (some r) g)
           else s.done .c h 1 8 (fun y => y.putReg r (BitVec.ofNat 64 g))
         | none => s.syncGo h .bar n scp mask 0 (some r)))

/-! ## The homes (R103, R105, R107) -/

/-- TAIL passes the published slots in order, HEAD the released ones (R105). -/
def passSlots (slots : Nat) (hi : BitVec 16) : Nat → BitVec 16 → Word → BitVec 16 × Word
  | 0, lo, marks => (lo, marks)
  | k + 1, lo, marks =>
    if lo ≠ hi ∧ bitAt marks (lo.toNat % slots) = true then
      passSlots slots hi k (lo + 1) (setField marks (lo.toNat % slots) 1 0)
    else (lo, marks)

/-- Whether the wait condition of an operation holds (R105). -/
def Ring.holds (r : Ring) : SyncOp → Bool
  | .claim => ahead r.claim r.head < r.slots.toNat
  | .waitf => r.take != r.tail
  | .waite => r.head == r.claim
  | _ => true

/-- The value that an operation returns. -/
def Ring.value (r : Ring) : SyncOp → Word
  | .claim => BitVec.ofNat 64 (r.claim.toNat % r.slots.toNat)
  | .waitf => BitVec.ofNat 64 (r.take.toNat % r.slots.toNat)
  | _ => 0

/-- The pair kept with a slot. -/
def setPair (ps : List (Nat × Nat × Nat)) (slot core i : Nat) : List (Nat × Nat × Nat) :=
  (slot, core, i) :: ps.filter (fun p => p.1 != slot)

/-- The ring after an operation of a core whose interval is `i` (R105, R245). -/
def Ring.apply (r : Ring) (o : HomeOp) (i : Nat) : Ring :=
  match o.op with
  | .claim => { r with claim := r.claim + 1 }
  | .waitf => { r with take := r.take + 1 }
  | .pub =>
    let q := passSlots r.slots.toNat r.claim 64 r.tail (setField r.pub o.slot 1 1)
    { r with tail := q.1, pub := q.2, pubPairs := setPair r.pubPairs o.slot o.core i }
  | .rel =>
    let q := passSlots r.slots.toNat r.take 64 r.head (setField r.rel o.slot 1 1)
    { r with head := q.1, rel := q.2, relPairs := setPair r.relPairs o.slot o.core i }
  | _ => r

/-- The pairs that an operation acquires (R245). -/
def Ring.acquires (r : Ring) (op : SyncOp) : List (Nat × Nat) :=
  match op with
  | .claim => (r.relPairs.filter (fun p => p.1 == r.claim.toNat % r.slots.toNat)).map (·.2)
  | .waitf => (r.pubPairs.filter (fun p => p.1 == r.take.toNat % r.slots.toNat)).map (·.2)
  | .waite => r.relPairs.map (·.2)
  | _ => []

/-- Whether an operation is a release, which closes the interval. -/
def SyncOp.releases : SyncOp → Bool
  | .pub => true
  | .rel => true
  | .bar => true
  | _ => false

/-- The home's answer to C. -/
def Wait.applied (v : Word) : Wait → Wait
  | .sync op n scp mask ids at_ slot _ d gen => .sync op n scp mask ids at_ slot (some v) d gen
  | w => w

/-- C has its answer. -/
def Ctx.answered (x : Ctx) (v : Word) : Ctx := { x with c := { x.c with wait := x.c.wait.map (Wait.applied v) } }

/-- The next operation of a ring: the oldest that stands aside and may now proceed, or the first arrival that may, those
before it standing aside (R103). -/
def Ring.turn (r : Ring) : List HomeOp → List HomeOp → Option (HomeOp × Ring)
  | [], _ => none
  | o :: t, past =>
    if r.holds o.op then some (o, { r with arrivals := t, aside := r.aside ++ past })
    else Ring.turn r t (past ++ [o])

/-- The next operation of a ring, if any may be applied. -/
def Ring.pick (r : Ring) : Option (HomeOp × Ring) :=
  match r.aside.find? (fun o => r.holds o.op) with
  | some o => some (o, { r with aside := r.aside.erase o })
  | none => r.turn r.arrivals []

/-- A ring applies one operation. A publication or release that another core has made meanwhile takes RINGERR at its
instruction (R106). -/
def State.applyRing (s : State) (p n : Nat) : State :=
  match ((s.part p).ring n).pick with
  | none => s
  | some (o, r) =>
    let put := fun (r' : Ring) => s.modPart p (fun q => { q with rings := q.rings.put n r' })
    if r.refuses o.op o.slot then
      (put r).modCtx o.core (fun x => x.modStrm .c (fun t => t.failed { cause := .ringerr }))
    else
      let t := ((put (r.apply o (s.core o.core).race.intv.toNat)).acquire o.core (r.acquires o.op)).modCtx o.core
        (fun x => x.answered (r.value o.op))
      if o.op.releases then t.closeInterval o.core else t

/-- Whether a context names a partition barrier among its program's (R103). -/
def Ctx.hasBar (x : Ctx) (n : Nat) : Bool :=
  let b := bits x.sys.syncwin 24 8
  b ≤ n && n < b + bits x.sys.syncwin 16 8

/-- Releases the cores of a completed generation: a waiting C has its answer; a core that was stopped acquires (R80). -/
def State.openBar (s : State) (n : Nat) (g : BitVec 16) (pairs : List (Nat × Nat)) (core : Nat) : State :=
  let ans := fun (x : Ctx) =>
    match x.c.wait with
    | some (.sync .bar m _ _ _ true _ none _ _) => if m = n then x.answered (g.setWidth 64) else x
    | _ => x
  (s.acquire core pairs).modCore core (fun c => if c.ctx.hasBar n then { c with ctx := ans c.ctx } else { c with alt := ans c.alt })

/-- The generation that an arrival joined stands in C's wait (R80). -/
def Wait.joined (g : Nat) : Wait → Wait
  | .sync op n scp mask ids at_ slot a d _ => .sync op n scp mask ids at_ slot a d g
  | w => w

/-- A barrier applies one arrival (R107). -/
def State.applyBar (s : State) (p n : Nat) : State :=
  let b := (s.part p).barrier n
  match b.arrivals with
  | [] => s
  | o :: t =>
    let i := (s.core o.core).race.intv.toNat
    let s1 := (s.closeInterval o.core).modCtx o.core (fun x =>
      { x with c := { x.c with wait := x.c.wait.map (Wait.joined b.gen.toNat) } })
    let ws := b.waiting ++ [(o.core, i)]
    let put := fun (t : State) (b' : Barrier) => t.modPart p (fun q => { q with bars := q.bars.put n b' })
    if b.count + 1 < b.need then put s1 { b with arrivals := t, count := b.count + 1, waiting := ws }
    else
      ws.foldl (fun u w => u.openBar n b.gen ws w.1)
        (put s1 { b with arrivals := t, count := 0, gen := b.gen + 1, waiting := [] })

/-- C's operation whose release has completed goes to its home (R241): the operation, when it is for this home. -/
def State.readyFor (s : State) (p : Nat) (bar : Bool) (n core : Nat) : Option HomeOp :=
  match (s.ctx core).c.wait with
  | some (.sync op m scp _ ids false slot none _ _) =>
    if (s.ctx core).launch.part = p ∧ m = n ∧ (op == .bar) = bar ∧ s.settled core scp ids = true then
      some { core := core, op := op, slot := slot }
    else none
  | _ => none

/-- The operation stands at its home. -/
def Wait.home : Wait → Wait
  | .sync op n scp mask ids _ slot a d gen => .sync op n scp mask ids true slot a d gen
  | w => w

/-- The operations of a partition's cores whose releases have completed arrive at a home, in ascending core (R103). -/
def State.gather (s : State) (p : Nat) (bar : Bool) (n : Nat) : State :=
  ((s.part p).clusters.flatMap coresOf).foldl (fun t core =>
    match s.readyFor p bar n core with
    | some o => (t.modCtx core (fun x => { x with c := { x.c with wait := x.c.wait.map Wait.home } })).arriveHome p n o
    | none => t) s

/-- R103, R105, R107: the home of a ring, or of a barrier, applies one operation. -/
def execHomeApply (part : Nat) (bar : Bool) (n : Nat) (s : State) : Host.Outcome State Fault Refusal :=
  let t := s.gather part bar n
  .next (if bar then t.applyBar part n else t.applyRing part n)

/-- R388: C is released with the answer of its home. -/
def execSyncRelease (core : Nat) (s : State) : Host.Outcome State Fault Refusal :=
  .next (if s.barred core .c then s else match (s.ctx core).c.wait with
    | some (.sync _ _ _ _ _ _ _ (some v) d _) =>
      s.release core .c (fun x =>
        match d with
        | some r => x.putReg r v
        | none => x)
    | _ => s)

end Sys2Proof.Machine
end

