-- ==== Sys2Proof/Machine/System.lean ====
section
/-! DEFINITION. The system instructions of C: leases and batches (R98 to R102, R195), tiles and formats (R108 to R110),
values for other streams (R111, R112), the system registers and the fault frame (R113 to R117, R308), `iter` (R118). -/

namespace Sys2Proof.Machine

/-! ## Values for other streams (R111, R112) -/

/-- R111: `mtk`: the value reaches K two cycles after issue. -/
def execCMtk (h : Hdr) (a : BitVec 5) (k : BitVec 4) (s : State) : Host.Outcome State Fault Refusal :=
  .next (s.issue .c h .go (s.done .c h 1 8 (fun x => x.inFlight .c 0 (s.cyc s.me) 2 (.kreg k ((x.reg a).setWidth 32)))))

/-- R111: `mtp`: the value reaches P of L or of S two cycles after issue. -/
def execCMtp (h : Hdr) (a : BitVec 5) (inS : Bool) (p : BitVec 4) (s : State) : Host.Outcome State Fault Refusal :=
  .next (s.issue .c h .go (s.done .c h 1 8 (fun x => x.inFlight .c 0 (s.cyc s.me) 2 (.ptr inS p (x.reg a)))))

/-- The value at the head of the send queue, once V has filled it (R112, R167). -/
def Ctx.sendHead (x : Ctx) : Option Word :=
  match x.send with
  | e :: _ => if e.filled then some (BitVec.ofNat 64 ((laneAt e.lanes 0).toNat + (laneAt e.lanes 1).toNat * 2 ^ 32)) else none
  | [] => none

/-- The pop of the send queue into a register. -/
def Ctx.recv (x : Ctx) (d : Reg) (v : Word) : Ctx := { x with send := x.send.tail }.putReg d v

/-- R112: `recv`: pops the send queue, or waits while it is empty. -/
def execCRecv (h : Hdr) (d : BitVec 5) (s : State) : Host.Outcome State Fault Refusal :=
  let r := (s.ctx s.me).regOf d
  .next (s.issue .c h .go
    (match (s.ctx s.me).sendHead with
     | some v => s.done .c h 1 8 (fun x => x.recv r v)
     | none => s.waits .c h 8 (.recv r)))

/-- R112: a waiting `recv` is released when a value has arrived. -/
def execRecvRelease (core : Nat) (s : State) : Host.Outcome State Fault Refusal :=
  .next (if s.barred core .c then s else match (s.ctx core).c.wait, (s.ctx core).sendHead with
    | some (.recv d), some v => s.release core .c (fun x => x.recv d v)
    | _, _ => s)

/-! ## System registers (R113, R308) -/

/-- FSNAP (R308): the entries of the snapshot buffer. -/
def Ctx.fsnap (x : Ctx) : Nat := (x.pend.filter (·.captured)).length

/-- ENERGY as `mfsr` reads it: its value at the end of the previous cycle (R379). -/
def Sys.energyWord (y : Sys) : Word := BitVec.ofNat 64 ((if y.energySat then 2 ^ 63 else 0) + y.energy.toNat)

/-- Reads a fault-frame register (R308); `none` for a number that is not listed. -/
def Ctx.frameReg (x : Ctx) (n : Nat) : Option Word :=
  match n with
  | 0x100 => some x.frame.fstat
  | 0x101 => some ((x.frame.heads.getD 0 0).setWidth 64)
  | 0x102 => some ((x.frame.heads.getD 1 0).setWidth 64)
  | 0x103 => some ((x.frame.heads.getD 2 0).setWidth 64)
  | 0x104 => some ((x.frame.heads.getD 3 0).setWidth 64)
  | 0x105 => some x.frame.fva
  | 0x106 => some x.frame.finfo
  | 0x107 => some x.frame.frec
  | 0x108 => some x.frame.ftime
  | 0x109 => some (BitVec.ofNat 64 x.fsnap)
  | 0x10F => some 0
  | _ => none

/-- Reads a system register (R113) of a core's context; `none` where the access takes PERM. -/
def Ctx.sysReg (x : Ctx) (core n : Nat) : Option Word :=
  match n with
  | 0 => some (x.sys.window.setWidth 64)
  | 1 => some (x.sys.srseed.setWidth 64)
  | 2 => some (x.sys.srseq.setWidth 64)
  | 3 => some (x.sys.ftbase.setWidth 64)
  | 4 => some (x.sys.syncwin.setWidth 64)
  | 5 => some (x.sys.slotshare.setWidth 64)
  | 6 => some (x.sys.pwrset.setWidth 64)
  | 7 => some x.sys.energyWord
  | 8 => some (BitVec.ofNat 64 core)
  | n => if x.frame.handler then x.frameReg n else none

/-- The RW bits of FSTAT and FINFO (R308). -/
def fstatMask : Word := 0xFFFFFF000000037F
@[inherit_doc fstatMask] def finfoMask : Word := 0x000003FF00FF0FBF

/-- A write of WINDOW (R14): a value below 16 stores 16. -/
def windowValue (v : Word) : BitVec 12 := if bits v 0 12 < 16 then 16 else BitVec.ofNat 12 (bits v 0 12)

/-- A write of PWRSET (R375): bit 3 is reserved, and RAIL 2 or 3 stores 0. -/
def pwrValue (v : Word) : BitVec 16 :=
  BitVec.ofNat 16 (bits v 4 12 * 16 + bits v 2 1 * 4 + (if bits v 0 2 = 1 then 1 else 0))

/-- Writes a fault-frame register in handler mode (R308); FWD is written by `mtsr` itself. -/
def Ctx.setFrameReg (x : Ctx) (n : Nat) (v : Word) : Option Ctx :=
  let f := x.frame
  let head := fun (i : Nat) => some { x with frame := { f with heads := f.heads.set i (v.setWidth 15) } }
  match n with
  | 0x100 => some { x with frame := { f with fstat := v &&& fstatMask } }
  | 0x101 => head 0
  | 0x102 => head 1
  | 0x103 => head 2
  | 0x104 => head 3
  | 0x105 => some { x with frame := { f with fva := v } }
  | 0x106 => some { x with frame := { f with finfo := v &&& finfoMask } }
  | 0x107 => some { x with frame := { f with frec := v } }
  | 0x108 => some { x with frame := { f with ftime := v } }
  | 0x10F => some x
  | _ => none

/-- Writes a system register (R113); `none` where the access takes PERM. -/
def Ctx.setSysReg (x : Ctx) (n : Nat) (v : Word) : Option Ctx :=
  let y := x.sys
  let hm := x.frame.handler
  match n with
  | 0 => some { x with sys := { y with window := windowValue v } }
  | 1 => some { x with sys := { y with srseed := v.setWidth 32 } }
  | 2 => some { x with sys := { y with srseq := v.setWidth 32 } }
  | 3 => some { x with sys := { y with ftbase := v.setWidth 5 } }
  | 4 => if hm then some { x with sys := { y with syncwin := v.setWidth 32 } } else none
  | 5 => none
  | 6 => if hm then some { x with sys := { y with pwrNew := some (pwrValue v) } } else none
  | 7 => if hm then some { x with sys := { y with energySat := bitAt v 63, energy := v.setWidth 48 } } else none
  | 8 => none
  | n => if hm then x.setFrameReg n v else none

/-- R113: `mfsr`. -/
def execCMfsr (h : Hdr) (d : BitVec 5) (n : BitVec 16) (s : State) : Host.Outcome State Fault Refusal :=
  .next (match (s.ctx s.me).sysReg s.me n.toNat with
    | some v => s.issue .c h .go (s.done .c h 1 8 (fun x => x.setReg d v))
    | none => s.issue .c h (.trap { cause := .perm }) s)

/-- R113: `mtsr`; a write of 1 to FWD forwards the frame (R308, R313). -/
def execCMtsr (h : Hdr) (a : BitVec 5) (n : BitVec 16) (s : State) : Host.Outcome State Fault Refusal :=
  let v := (s.ctx s.me).reg a
  .next (match (s.ctx s.me).setSysReg n.toNat v with
    | some _ =>
      let t := s.done .c h 1 8 (fun x => (x.setSysReg n.toNat v).getD x)
      s.issue .c h .go (if n.toNat = 0x10F ∧ v = 1 then t.forward s.me else t)
    | none => s.issue .c h (.trap { cause := .perm }) s)

/-- R117: `rdtb`: the time base as the core's router copy holds it. -/
def execCRdtb (h : Hdr) (d : BitVec 5) (s : State) : Host.Outcome State Fault Refusal :=
  .next (s.issue .c h .go (s.done .c h 1 8 (fun x => x.setReg d (BitVec.ofNat 64 (s.timeAt (clusterOf s.me))))))

/-- R117, R333: `mark`: with MEN, the record is made with the heads of this cycle, at its end. -/
def execCMark (h : Hdr) (code : BitVec 16) (s : State) : Host.Outcome State Fault Refusal :=
  .next (s.issue .c h .go (s.done .c h 1 8 (fun x => if bitAt x.launch.trc 62 then { x with mark := some code } else x)))

/-- R115: `trap` issues, and SWTRAP is taken with C's head at the next word. -/
def execCTrap (h : Hdr) (code : BitVec 16) (s : State) : Host.Outcome State Fault Refusal :=
  .next (s.issue .c h .go ((s.done .c h 1 8 (fun x => { x with c := x.c.past })).raise s.me .c { cause := .swtrap, code := code }))

/-- The return from handler mode in cycle e (R310): C's class in this cycle is that of `eret`, which is still the head that a sample
names (R333), and no breakpoint fires on the first words (R335). -/
def Ctx.leave (x : Ctx) (e : Nat) : Ctx :=
  let y := x.resume e true
  { y with c := { y.c with cls := .issue, seen := x.c.seen, seenIters := x.c.seenIters, moved := false }, frame := { y.frame with left := some e } }

/-- R116, R310: `eret`: leaves handler mode; PERM outside it. -/
def execCEret (h : Hdr) (s : State) : Host.Outcome State Fault Refusal :=
  .next (if (s.ctx s.me).frame.handler then
      s.issue .c h .go ((((if (s.ctx s.me).c.leaves && bitAt (s.ctx s.me).launch.trc 61 then s.logReplay s.me .c else s).modCtx s.me
        (fun x => (x.pay .c h 8).leave (s.cyc s.me))).refill s.me))
    else s.issue .c h (.trap { cause := .perm }) s)

/-! ## `iter` (R118, R232, R277, R278) -/

/-- The indices of iteration n by the order of the dimensions, outermost first: the last varies fastest (R277). -/
def nestIndices (counts : List Nat) : List Nat → Nat → List Nat → List Nat
  | [], _, out => out
  | d :: t, n, out => nestIndices counts t (n / max 1 (counts.getD d 1)) (out.set d (n % max 1 (counts.getD d 1)))

/-- The iterations of a nest; no nest has none. -/
def Region.total (r : Region) : Nat :=
  if r.walk = [] then 0 else (r.walk.take r.walkOrder.length).foldl (· * ·) 1

/-- The walker's answer (R118, R278): S1 to S6, and the region after it. -/
def Region.answer (r : Region) : List Word × Region :=
  if r.walkNext < r.total then
    let ix := nestIndices r.walk r.walkOrder.reverse r.walkNext [0, 0, 0, 0]
    (ix.map (BitVec.ofNat 64) ++ [BitVec.ofNat 64 r.walkNext, 1], { r with walkNext := r.walkNext + 1 })
  else ([0, 0, 0, 0, 0, 0], r)

/-- Sets S1 to S6. -/
def Ctx.setIter (x : Ctx) (vs : List Word) : Ctx :=
  (upto 0 6).foldl (fun x i => x.putReg (.s (BitVec.ofNat 5 (i + 1))) (vs.getD i 0)) x

/-- The `iter` requests of a partition that are pending (R232). -/
def State.itersOf (s : State) (p : Nat) : Nat :=
  ((s.part p).regions.map (fun r => r.iterQ.length)).foldl (· + ·) 0

/-- R118: `iter` asks the walker and waits; R232 gives the earliest release. -/
def execCIter (h : Hdr) (s : State) : Host.Outcome State Fault Refusal :=
  let l := (s.ctx s.me).launch
  .next (s.issue .c h .go
    ((s.waits .c h 8 (.iter (s.cyc s.me + 12 + 4 * s.itersOf l.part))).modRegion l.part l.region
      (fun r => { r with iterQ := r.iterQ ++ [s.me] })))

/-- R232, R278: the walker answers the oldest request of a region with the next iteration, or with zeros. -/
def execIterAnswer (core : Nat) (s : State) : Host.Outcome State Fault Refusal :=
  let l := (s.ctx core).launch
  .next (if s.barred core .c then s else match (s.ctx core).c.wait with
    | some (.iter due) =>
      if s.cyc core < due then s
      else
        match s.regionOf core with
        | none => s.release core .c (fun x => x.setIter [0, 0, 0, 0, 0, 0])
        | some r =>
          if r.iterQ.head? = some core then
            (s.modRegion l.part l.region (fun r => { r.answer.2 with iterQ := r.iterQ.tail })).release core .c
              (fun x => x.setIter r.answer.1)
          else s
    | _ => s)

/-! ## Tiles and formats (R108 to R110) -/

/-- The image that `tcfg` writes from A:B: bits [127:124] and [47:0] ignored, VALID 1 (R108). -/
def tileValue (a b : Word) : TileImage :=
  BitVec.ofNat 128 ((a.toNat * 2 ^ 64 + b.toNat) % 2 ^ 124 / 2 ^ 48 * 2 ^ 48 + 2 ^ 125)

/-- R108, with the checks of R29 and R30. -/
def execCTcfg (h : Hdr) (a b : BitVec 5) (idx : BitVec 6) (s : State) : Host.Outcome State Fault Refusal :=
  let x := s.ctx s.me
  let v := tileValue (x.reg a) (x.reg b)
  .next (s.issue .c h
    (if (tileOf v).ok = false then .trap { cause := .illegal, code := 4 }
     else if x.eng.inUse idx.toNat then .trap { cause := .tilebusy } else .go)
    (s.done .c h 1 8 (fun x => { x with eng := { x.eng with tiles := x.eng.tiles.set idx.toNat v } })))

/-- The image that `trel` leaves: VALID and TAG become 0 (R30); an entry whose VALID is 0 stays as it is (R109). -/
def releasedImage (v : TileImage) : TileImage := if bitAt v 125 then setImage (setImage v 125 1 0) 123 1 0 else v

/-- R109, R30: `trel`. -/
def execCTrel (h : Hdr) (idx : BitVec 6) (s : State) : Host.Outcome State Fault Refusal :=
  .next (s.issue .c h (if (s.ctx s.me).eng.inUse idx.toNat then .trap { cause := .tilebusy } else .go)
    (s.done .c h 1 8 (fun x => { x with eng := { x.eng with
      tiles := x.eng.tiles.set idx.toNat (releasedImage (x.eng.tiles.getD idx.toNat 0)) } })))

/-- R110. -/
def execCFtset (h : Hdr) (a idx : BitVec 5) (s : State) : Host.Outcome State Fault Refusal :=
  .next (s.issue .c h .go (s.done .c h 1 8 (fun x =>
    { x with eng := { x.eng with fmts := x.eng.fmts.set idx.toNat (x.reg a) } })))

/-! ## The array lease (R98, R99, R195) -/

/-- R98: `lease`: the holder sets its count left; another core waits for the grant. The spec gives the holder's `lease` no occupancy: it has
1 (DESIGN CHOICE, log 89). -/
def execCLease (h : Hdr) (d : BitVec 5) (n1 : BitVec 6) (s : State) : Host.Outcome State Fault Refusal :=
  let n := n1.toNat + 1
  let c := s.cluster (clusterOf s.me)
  .next (s.issue .c h .go
    (if c.holder = some s.me then
      (s.done .c h 1 8 (fun x => x.setReg d (BitVec.ofNat 64 c.granted))).modCluster (clusterOf s.me) (fun c => { c with left := n })
     else s.waits .c h 8 (.lease (s.cyc s.me) n ((s.ctx s.me).regOf d))))

/-- R99: `ulease`. -/
def execCUlease (h : Hdr) (s : State) : Host.Outcome State Fault Refusal :=
  .next (s.issue .c h .go ((s.done .c h 1 8 id).endLease s.me))

/-- A pending request that may be granted in this cycle (R195): not before issue + 4. -/
def State.leaseAsks (s : State) (core : Nat) : Option (Nat × Reg) :=
  match (s.ctx core).c.wait with
  | some (.lease since n d) => if since + 4 ≤ s.cyc core ∧ s.barred core .c = false then some (n, d) else none
  | _ => none

/-- R195: while no core holds the lease, it goes to the first core after the last holder that asks. -/
def execLeaseGrant (cl : Nat) (s : State) : Host.Outcome State Fault Refusal :=
  let c := s.cluster cl
  let order := (upto 1 4).map (fun k => 4 * cl + (c.leaseLast + k) % 4)
  .next (if c.holder.isSome ∨ c.cyc < c.freeFrom then s
    else
      match order.find? (fun k => (s.leaseAsks k).isSome) with
      | none => s
      | some k =>
        match s.leaseAsks k with
        | none => s
        | some (n, d) =>
          (s.setCluster cl { c with holder := some k, left := n, granted := s.timeAt cl, leaseLast := k % 4 }).release k .c
            (fun x => x.putReg d (BitVec.ofNat 64 (s.timeAt cl))))

/-- R98: the lease ends 16 µs after its grant. -/
def execLeaseTimeout (cl : Nat) (s : State) : Host.Outcome State Fault Refusal :=
  .next (match (s.cluster cl).holder with
    | some k => if (s.cluster cl).granted + 16000 ≤ s.timeAt cl then s.endLease k else s
    | none => s)

/-! ## Batches (R100, R101, R172) -/

/-- Closes the open batch of an engine. -/
def Ctx.closeBatch (x : Ctx) (eng : Eng) : Ctx :=
  { x with eng := { x.eng with
    openBatch := x.eng.openBatch.set (engNo eng) ((x.eng.openBatch.getD (engNo eng) 0 + 1) % 65536) } }

/-- R100: `cbatch`. -/
def execCCbatch (h : Hdr) (d : BitVec 5) (eng : Eng) (s : State) : Host.Outcome State Fault Refusal :=
  .next (s.issue .c h .go (s.done .c h 1 8 (fun x =>
    (x.closeBatch eng).setReg d (BitVec.ofNat 64 (x.eng.openBatch.getD (engNo eng) 0)))))

/-- BATCH and SEQ of a record (R170). -/
def recBatch (r : Word) : Nat := bits r 32 16
@[inherit_doc recBatch] def recSeq (r : Word) : Nat := bits r 16 16

/-- Whether every command of a batch has completed. -/
def Ctx.batchDone (x : Ctx) (eng : Eng) (b : Nat) : Bool := !(x.liveOf eng).any (fun k => k.batch == b)

/-- The error record of a batch that is delivered first: the lowest SEQ (R172). -/
def Ctx.batchError (x : Ctx) (eng : Eng) (b : Nat) : Option Word :=
  ((x.recs eng).filter (fun r => recBatch r == b && recErr r != 0)).foldl (fun o r =>
    match o with
    | none => some r
    | some q => if recSeq r < recSeq q then some r else some q) none

/-- The records of a batch removed by the release of its `waitb` (R170). -/
def Ctx.dropBatch (x : Ctx) (eng : Eng) (b : Nat) : Ctx :=
  { x with eng := { x.eng with records := x.eng.records.set (engNo eng) ((x.recs eng).filter (fun r => recBatch r != b)) } }

/-- One record removed. -/
def Ctx.dropRec (x : Ctx) (eng : Eng) (r : Word) : Ctx :=
  { x with eng := { x.eng with records := x.eng.records.set (engNo eng) ((x.recs eng).erase r) } }

/-- The end of a `waitb` of a completed batch: its first error is delivered as a fault (R172), or C goes on. -/
def State.batchEnd (s : State) (core : Nat) (eng : Eng) (b : Nat) (go : State) : State :=
  match (s.ctx core).batchError eng b with
  | some r => (s.modCtx core (fun x => (x.modStrm .c Stream.cut).dropRec eng r)).raise core .c (recTrap r)
  | none => go

/-- R101: `waitb`. -/
def execCWaitb (h : Hdr) (a : BitVec 5) (eng : Eng) (s : State) : Host.Outcome State Fault Refusal :=
  let x := s.ctx s.me
  let n := bits (x.reg a) 0 16
  let d := (x.eng.openBatch.getD (engNo eng) 0 + 65536 - n) % 65536
  let close := fun (y : Ctx) => if d = 0 then y.closeBatch eng else y
  .next (s.issue .c h .go
    (if 32768 ≤ d then s.done .c h 1 8 id
     else if x.batchDone eng n then s.batchEnd s.me eng n (s.done .c h 1 8 (fun y => (close y).dropBatch eng n))
     else (s.waits .c h 8 (.waitb eng n)).modCtx s.me close))

/-- R101, R172: a waiting `waitb` is released when every command of its batch has completed. -/
def execWaitbRelease (core : Nat) (s : State) : Host.Outcome State Fault Refusal :=
  .next (if s.barred core .c then s else match (s.ctx core).c.wait with
    | some (.waitb eng b) =>
      if (s.ctx core).batchDone eng b then s.batchEnd core eng b (s.release core .c (fun x => x.dropBatch eng b)) else s
    | _ => s)

/-! ## `lpf` (R102) -/

/-- The walks of a byte range: pages already held, and the window, are passed over; the walks go out while a walker is
free. -/
def State.prefetch (s : State) (core : Nat) : Nat → Nat → Nat → State
  | 0, _, _ => s
  | k + 1, va, stop =>
    let cl := clusterOf core
    if stop ≤ va ∨ windowBase ≤ va ∨ 16 ≤ (s.cluster cl).walks.length then s
    else if (s.xlateCheck core (s.ctx core).launch.part va).isSome then
      s.prefetch core k (if va < 2 ^ 55 then 2 ^ 55 else stop) stop
    else
      match leaseFind (s.core core).leases va (s.timeAt cl) with
      | some e => s.prefetch core k ((va / 2 ^ e.log2 + 1) * 2 ^ e.log2) stop
      | none =>
        (s.askWalk core va { core := core, why := .lpf, va := va, lane := none, r := false, w := false }).prefetch core k
          ((va / 2 ^ walkPage va + 1) * 2 ^ walkPage va) stop

/-- R102: `lpf`: at most 16 walks start, and at most 128 held leases are passed over. -/
def execCLpf (h : Hdr) (a b : BitVec 5) (s : State) : Host.Outcome State Fault Refusal :=
  let x := s.ctx s.me
  let va := (x.reg a).toNat
  .next (s.issue .c h .go ((s.done .c h 1 8 id).prefetch s.me 512 va (va + (x.reg b).toNat)))

end Sys2Proof.Machine
end

