-- ==== Sys2Proof/Machine/Loader.lean ====
section
/-! DEFINITION. What the device itself reads and writes for a region (R268, R271, R303), the object format as the loader
reads it (R248 to R258), and the loader's checks (R265). -/

namespace Sys2Proof.Machine

/-! ## The device's own reads and writes -/

/-- Why the device itself cannot read a device offset: no memory lies there (R287), no route leads there (R351), or its slice does not answer
or its sectors do not match their checks (R358, R360). It reads from the router of the management complex. -/
def State.ownBar (s : State) (c : Bool) (pa n : Nat) : Option Cause :=
  if s.slices.capacity ≤ pa then some .xlate
  else if !s.reachesFrom s.outerRouter pa then some .remote
  else if !s.linesSound c pa n then some .integrity else none

/-- A walk made whole (R289, R290), from a level and a table downwards: what it finds, and the X bit of the leaf. -/
def State.walkWhole (s : State) (va : Nat) : Nat → Nat → Found × Bool
  | 0, _ => (.fail .xlate, false)
  | l + 1, table =>
    let pa := table + 8 * pteIndex (l + 1) va
    match s.ownBar true pa 8 with
    | some c => (.fail c, false)
    | none =>
      match s.pte (s.physWord pa) (l + 1) va (s.sliceTime pa) with
      | .bad => (.fail .xlate, false)
      | .table t => s.walkWhole va l t
      | .leaf e m => (.lease e m, bitAt (s.physWord pa) 4)

/-- The entries that such a walk reads. -/
def State.walkReads (s : State) (va : Nat) : Nat → Nat → List Nat
  | 0, _ => []
  | l + 1, table =>
    let pa := table + 8 * pteIndex (l + 1) va
    pa :: (if (s.ownBar true pa 8).isSome then []
      else match s.pte (s.physWord pa) (l + 1) va (s.sliceTime pa) with
        | .table t => s.walkReads va l t
        | _ => [])

/-- The translation of an upper-half address for the device itself: a root table lies in this device (R290). -/
def State.walkUpper (s : State) (part va : Nat) : Found × Bool :=
  let root := bits (s.part part).xlroot 16 36 * 2 ^ 16
  match s.rodataLease part va s.time with
  | some e => (.lease e false, false)
  | none => if s.isLocal root then s.walkWhole va 3 (root % 2 ^ 42) else (.fail .xlate, false)

/-- What a read of the device does at a device offset: nothing where no memory lies or no route leads; otherwise its flits pass, the errors
that it corrects count, and a mismatch, or a slice that does not answer, leaves its machine-check record (R352, R358, R361, R362). -/
def State.ownFetch (s : State) (part : Nat) (c : Bool) (pa n : Nat) : State :=
  if s.slices.capacity ≤ pa || !s.reachesFrom s.outerRouter pa then s
  else
    let t := (s.outerCarry 0 pa n false).fetched pa n
    if t.linesSound c pa n then t else t.checkAt (t.devSite pa n) part

/-- What the device's own walk of an address does. -/
def State.walkFetched (s : State) (part va : Nat) : State :=
  let root := bits (s.part part).xlroot 16 36 * 2 ^ 16
  if va < 2 ^ 55 || 2 ^ 56 ≤ va || !bitAt (s.part part).xlroot 0 || (s.rodataLease part va s.time).isSome || !s.isLocal root then s
  else (s.walkReads va 3 (root % 2 ^ 42)).foldl (fun t pa => t.ownFetch part true pa 8) s

/-- The host pages that the device has been given for a region's reads, and those whose walks have faulted (R303). -/
abbrev HostPages := List Lease × List (Nat × Cause)

/-- Those of a region. -/
def Region.host (r : Region) : HostPages := (r.hostPages, r.hostFails)

/-- What a read of the device finds: bytes, a host page that it has yet to be given, or a fault. -/
inductive Got
  | ok (v : List Byte)
  | need (va : Nat)
  | fail (c : Cause)
  deriving DecidableEq, Repr

/-- The translation of one address, for a read (R291, R303): with `x` the page must have X as well. -/
def State.devPage (s : State) (part : Nat) (host : HostPages) (x : Bool) (va : Nat) : Lease ⊕ Got :=
  let p := s.part part
  let judge := fun (f : Found) (xbit : Bool) =>
    match f with
    | .fail c => .inr (.fail c)
    | .lease e m =>
      if !e.permits p.xlcfg true false || (x && !xbit) then .inr (.fail .perm)
      else if m then .inr (.fail .migrating) else .inl e
  if 2 ^ 56 ≤ va then .inr (.fail .xlate)
  else if 2 ^ 55 ≤ va then
    if !bitAt p.xlroot 0 then .inr (.fail .xlate) else judge (s.walkUpper part va).1 (s.walkUpper part va).2
  else if !bitAt p.xlcfg 0 then .inr (.fail .xlate)
  else
    match host.2.find? (fun f => f.1 == va / 4096), leaseFind host.1 va s.time with
    | some f, _ => .inr (.fail f.2)
    | none, some e => judge (.lease e false) e.r
    | none, none => .inr (.need va)

/-- The bytes at a translated place; a peer's are free values, and REMOTE where no port leads to it (R373). -/
def State.bytesAt (s : State) (e : Lease) (va n : Nat) : Got :=
  match s.placeOf (e.phys va) with
  | some (.dev pa) =>
    (match s.ownBar e.c pa n with
     | some c => .fail c
     | none => .ok (s.devRead e.c pa n))
  | some (.peer pa) =>
    if s.peerReach pa then .ok ((upto 0 n).map (fun i => (Config.freeValue (s.fresh + i)).setWidth 8)) else .fail .remote
  | _ => .fail .xlate

/-- Reads bytes page by page. -/
def State.readVirt (s : State) (part : Nat) (host : HostPages) (x : Bool) : Nat → Nat → Nat → Got
  | 0, _, _ => .ok []
  | k + 1, va, n =>
    if n = 0 then .ok []
    else
      let sz := 2 ^ walkPage va
      let c := min n (sz - va % sz)
      match s.devPage part host x va with
      | .inr g => g
      | .inl e =>
        match s.bytesAt e va c with
        | .ok v =>
          (match s.readVirt part host x k (va + c) (n - c) with
           | .ok w => .ok (v ++ w)
           | g => g)
        | g => g

/-- What the reads of `readVirt` do, up to the one that finds no bytes. -/
def State.fetchVirt (part : Nat) (host : HostPages) (x : Bool) : Nat → State → Nat → Nat → State
  | 0, s, _, _ => s
  | k + 1, s, va, n =>
    if n = 0 then s
    else
      let sz := 2 ^ walkPage va
      let c := min n (sz - va % sz)
      let t := s.walkFetched part va
      match s.devPage part host x va with
      | .inr _ => t
      | .inl e =>
        match s.placeOf (e.phys va) with
        | some (.dev pa) =>
          if (s.ownBar e.c pa c).isSome then t.ownFetch part e.c pa c
          else State.fetchVirt part host x k (t.ownFetch part e.c pa c) (va + c) (n - c)
        | some (.peer pa) => if s.peerReach pa then State.fetchVirt part host x k (t.sendPeer pa [] false) (va + c) (n - c) else t
        | _ => t

/-- What a read of `n` bytes at an address does. -/
def State.fetchAt (s : State) (part : Nat) (host : HostPages) (va n : Nat) : State :=
  State.fetchVirt part host false (n / 4096 + 2) s va n

/-- Reads `n` bytes at an address. -/
def State.readAt (s : State) (part : Nat) (host : HostPages) (x : Bool) (va n : Nat) : Got :=
  s.readVirt part host x (n / 4096 + 2) va n

/-- The place in device memory of a structure that the device itself reads and writes (a queue entry, an RCB): through the
partition's translation in the upper half; otherwise a physical address of the partition's own memory (DESIGN CHOICE,
log 30). -/
def State.devAddr (s : State) (part va : Nat) : Option (Nat × Bool) :=
  let p := s.part part
  if 2 ^ 55 ≤ va then
    if 2 ^ 56 ≤ va || !bitAt p.xlroot 0 then none
    else
      match (s.walkUpper part va).1 with
      | .lease e _ =>
        (match s.placeOf (e.phys va) with
         | some (.dev pa) => if keyOk p.xlcfg e.key then some (pa, e.c) else none
         | _ => none)
      | .fail _ => none
  else if s.isLocal va && p.memBase ≤ va % 2 ^ 42 && va % 2 ^ 42 < p.memBase + p.memLen then some (va % 2 ^ 42, false)
  else none

/-- Reads bytes of a structure that lies within one page. -/
def State.readOwn (s : State) (part va n : Nat) : Option (List Byte) :=
  match s.devAddr part va with
  | some (pa, c) => if (s.ownBar c pa n).isNone then some (s.devRead c pa n) else none
  | none => none

/-- What such a read does. -/
def State.fetchOwn (s : State) (part va n : Nat) : State :=
  match s.devAddr part va with
  | some (pa, c) => (s.walkFetched part va).ownFetch part c pa n
  | none => s.walkFetched part va

/-- Writes bytes of such a structure: nothing where no route leads, since no one waits for it (DESIGN CHOICE, log 77); a write that is not
applied, because a sector cannot be merged or the slice does not answer, leaves a machine-check record (R358, R360). -/
def State.writeOwn (s : State) (part va : Nat) (v : List Byte) : State :=
  let t := s.walkFetched part va
  match s.devAddr part va with
  | some (pa, c) => t.storeFrom t.outerRouter part c pa v
  | none => t

/-- Bytes at a device offset that the device itself, Heartwood or Sapwood reads for an operation of its own; `none` where they cannot be
read. -/
def State.ownBytes (s : State) (a n : Nat) : Option (List Byte) :=
  if a + n ≤ s.slices.capacity && (s.ownBar true a n).isNone then some (s.devRead true a n) else none

/-- What such a read does. -/
def State.ownRead (s : State) (a n : Nat) : State := s.ownFetch (s.ownerOf a) true a n

/-! ## The object format (R248 to R258) -/

/-- A number at a byte offset. -/
def num (bs : List Byte) (off n : Nat) : Nat := leNat ((bs.drop off).take n)

/-- Whether `n` bytes from an offset are zero. -/
def zeros (bs : List Byte) (off n : Nat) : Bool := ((bs.drop off).take n).all (fun b => b == 0)

/-- A section-table entry (R250). -/
structure Sect where
  ty : Nat
  ent : Nat
  count : Nat
  off : Nat
  size : Nat
  reserved : Bool
  deriving DecidableEq, Repr

/-- One entry of the section table. -/
def sectOf (bs : List Byte) : Sect :=
  { ty := num bs 0 1, ent := num bs 2 2, count := num bs 4 4, off := num bs 8 8, size := num bs 16 8,
    reserved := zeros bs 1 1 && zeros bs 24 8 }

/-- The chunksOf of `n` bytes of a list of records. -/
def chunksOf (n : Nat) : Nat → List Byte → List (List Byte)
  | 0, _ => []
  | k + 1, bs => bs.take n :: chunksOf n k (bs.drop n)

/-- The section table of a file. -/
def sectsOf (file : List Byte) : List Sect := (chunksOf 32 (num file 8 2) (file.drop (num file 16 8))).map sectOf

/-- The section of a type. -/
def sectOf? (file : List Byte) (ty : Nat) : Option Sect := (sectsOf file).find? (fun x => x.ty == ty)

/-- The contents of a section; none has no bytes. -/
def sectBytes (file : List Byte) (ty : Nat) : List Byte :=
  match sectOf? file ty with
  | some x => (file.drop x.off).take x.size
  | none => []

/-- The records of a section with records of one size. -/
def records (file : List Byte) (ty : Nat) : List (List Byte) :=
  match sectOf? file ty with
  | some x => chunksOf x.ent x.count (sectBytes file ty)
  | none => []

/-- ENTSIZE by type (R251). -/
def entSize : Nat → Nat
  | 1 => 8
  | 4 => 24
  | 5 => 16
  | 6 => 24
  | 7 => 8
  | 8 => 24
  | 9 => 32
  | 10 => 48
  | 11 => 24
  | 12 => 12
  | _ => 0

/-- The end of a file whose header and section table are given: the greatest end of its parts. -/
def fileEnd (file : List Byte) : Nat :=
  (sectsOf file).foldl (fun m x => max m (x.off + x.size)) (max 64 (num file 16 8 + 32 * num file 8 2))

/-- A spad record (R252): CORE, OFS, LEN, whether its reserved bytes are zero, and its data. -/
structure SpadRec where
  core : Nat
  ofs : Nat
  len : Nat
  reserved : Bool
  data : List Byte
  deriving DecidableEq, Repr

/-- The spad records of a section. -/
def spadRecs : Nat → List Byte → List SpadRec
  | 0, _ => []
  | k + 1, bs =>
    { core := num bs 0 2, ofs := num bs 4 4, len := num bs 8 4, reserved := zeros bs 2 2 && zeros bs 12 4,
      data := (bs.drop 16).take (num bs 8 4) } :: spadRecs k (bs.drop (16 + num bs 8 4))

/-- The spad records of a file. -/
def spadOf (file : List Byte) : List SpadRec :=
  match sectOf? file 3 with
  | some x => spadRecs x.count (sectBytes file 3)
  | none => []

/-- Whether a record with a CORE field fills a launch core. -/
def fills (core i : Nat) : Bool := core == i || core == 0xFFFF

/-! ## Relocations (R257, R258) -/

/-- The final value of a symbol, and whether it is defined; rodata lies at `ro`. -/
def symValue (file : List Byte) (ro n : Nat) : Option Nat :=
  match (records file 10)[n]? with
  | none => none
  | some r =>
    if num r 44 1 = 0xFF ∨ num r 46 1 = 2 then none
    else if num r 45 1 = 2 then some (num r 32 8 + ro) else some (num r 32 8)

/-- S + A of a relocation record, modulo 2^64. -/
def relValue (file : List Byte) (ro : Nat) (r : List Byte) : Option Nat :=
  (symValue file ro (num r 12 4)).map (fun v => (v + num r 16 8) % 2 ^ 64)

/-- Whether a relocation passes its check (R258): types 4 to 7 alone may remain. -/
def relOk (file : List Byte) (ro : Nat) (r : List Byte) : Bool :=
  match relValue file ro r with
  | none => false
  | some v =>
    zeros r 10 2 &&
      (match num r 9 1 with
       | 4 => true
       | 5 => v / 2 ^ 59 == 0 || v / 2 ^ 59 == 31
       | 6 => v < 2 ^ 56 && (v / 2 ^ 35 == 0 || v / 2 ^ 35 == 2 ^ 21 - 1)
       | 7 => true
       | _ => false)

/-- The type of the section that a relocation patches. -/
def relSect (file : List Byte) (r : List Byte) : Nat :=
  match (sectsOf file)[num r 8 1]? with
  | some x => x.ty
  | none => 0

/-- Puts bytes into a list of bytes. -/
def patch (bs : List Byte) (off : Nat) (v : List Byte) : List Byte := bs.take off ++ v ++ bs.drop (off + v.length)

/-- Puts a field of `n` bits into the doubleword at an offset. -/
def patchBits (bs : List Byte) (off n v : Nat) : List Byte :=
  patch bs off (leBytes 8 (num bs off 8 / 2 ^ n * 2 ^ n + v % 2 ^ n))

/-- Applies one relocation to the bytes of a section of type `ty`. No check of R265 covers a relocation whose SECT names no text, rodata or
sync section, or whose OFFSET lies past its section's end: the first is ignored, and the second lengthens its section (DESIGN CHOICE,
log 93). -/
def applyRel (file : List Byte) (ro ty : Nat) (bs r : List Byte) : List Byte :=
  if relSect file r ≠ ty then bs
  else
    let v := (relValue file ro r).getD 0
    let at_ := if ty = 1 then 8 * num r 0 8 else num r 0 8
    match num r 9 1 with
    | 4 => patchBits bs at_ 30 v
    | 5 => patchBits bs at_ 30 (v / 2 ^ 30)
    | 6 => patchBits bs at_ 36 v
    | _ => patch bs at_ (leBytes 8 v)

/-- The bytes of a section after the load-time relocations. -/
def relocated (file : List Byte) (ro ty : Nat) : List Byte :=
  (records file 11).foldl (fun bs r => applyRel file ro ty bs r) (sectBytes file ty)

/-! ## The loader's checks (R265) -/

/-- What the checks are made against. -/
structure Load where
  file : List Byte
  /-- the address of the read-only data -/
  ro : Nat
  /-- the number of launch cores -/
  cores : Nat
  /-- the longest free runs of rings and barriers (R266) -/
  ringRoom : Nat
  barRoom : Nat
  /-- the lease records of the RCB, and its nest record -/
  leases : List (List Byte)
  nest : Option (List Byte)
  deriving DecidableEq, Repr

/-- What check 1 asks of the 64 bytes of the header alone: a handler image (KIND 2) is no program (R264). -/
def headerOk (file : List Byte) : Bool :=
  num file 0 4 == 0x4F564C7F && num file 4 2 == 1 && num file 6 1 == 1 && zeros file 7 1 && zeros file 25 3 && zeros file 32 32

/-- Check 1. -/
def Load.check1 (k : Load) : Bool := headerOk k.file && num k.file 28 4 == crc32c (k.file.drop 64)

/-- Whether two byte ranges are apart. -/
def apart (a m b n : Nat) : Bool := m == 0 || n == 0 || a + m ≤ b || b + n ≤ a

/-- Whether every element is related to every later one. -/
def allPairs {α : Type} (f : α → α → Bool) : List α → Bool
  | [] => true
  | x :: t => t.all (f x) && allPairs f t

/-- Check 2: R248, R250, R251. The spec does not say whether SIZE of a spad section must end with its records: bytes behind them pass, and
are ignored (DESIGN CHOICE, log 93). -/
def Load.check2 (k : Load) : Bool :=
  let n := num k.file 8 2
  let ss := sectsOf k.file
  1 ≤ n && n ≤ 12 &&
    ss.all (fun x => 1 ≤ x.ty && x.ty ≤ 12 && x.reserved && x.off % 8 == 0 && x.ent == entSize x.ty && 64 ≤ x.off &&
      (x.ent == 0 || x.size == x.count * x.ent) && (x.ty != 2 || x.size == x.count) &&
      apart x.off x.size (num k.file 16 8) (32 * n)) &&
    allPairs (fun (x y : Sect) => x.ty != y.ty && apart x.off x.size y.off y.size) ss && ss.any (fun x => x.ty == 1) &&
    ss.all (fun x => x.ty != 9 || x.count ≤ 1)

/-- Check 3. -/
def Load.check3 (k : Load) : Bool :=
  match sectOf? k.file 1 with
  | some x => 1 ≤ x.count && x.count ≤ 28672
  | none => false

/-- Check 4. -/
def Load.check4 (k : Load) : Bool := (records k.file 11).all (relOk k.file k.ro)

/-- The sync records (R254), after the load-time relocations. -/
def Load.syncAll (k : Load) : List (List Byte) := chunksOf 24 ((relocated k.file k.ro 6).length / 24) (relocated k.file k.ro 6)

/-- The sync records of a kind. -/
def Load.syncs (k : Load) (kind : Nat) : List (List Byte) := k.syncAll.filter (fun r => num r 0 1 == kind)

/-- The declared count of rings (KIND 1) or barriers (KIND 2): one more than the highest IDX. -/
def Load.declared (k : Load) (kind : Nat) : Nat := (k.syncs kind).foldl (fun m r => max m (num r 1 1 + 1)) 0

/-- Whether a sync record follows R254. -/
def syncOk (cores : Nat) (r : List Byte) : Bool :=
  match num r 0 1 with
  | 1 => 1 ≤ num r 2 2 && num r 2 2 ≤ 64 && num r 4 4 % 32 == 0 && num r 4 4 < 2 ^ 20 && num r 8 8 < 2 ^ 56 && num r 1 1 < 16 &&
      zeros r 16 8
  | 2 => 1 ≤ num r 2 2 && num r 2 2 ≤ cores && num r 4 4 == 0 && num r 8 8 == 0 && num r 1 1 < 16 && zeros r 16 8
  | 3 => num r 1 1 < 8 && num r 2 2 < cores && num r 4 4 < cores && num r 2 2 != num r 4 4 && num r 8 8 / 2048 == 0 &&
      num r 8 8 / 8 % 32 == 0 && zeros r 16 8
  | _ => false

/-- Check 5. -/
def Load.check5 (k : Load) : Bool :=
  k.declared 1 ≤ min 16 k.ringRoom && k.declared 2 ≤ min 16 k.barRoom && k.syncAll.all (syncOk k.cores) &&
    [1, 2, 3].all (fun kind => allPairs (fun (a b : List Byte) => num a 1 1 != num b 1 1) (k.syncs kind)) &&
    [1, 2].all (fun kind => (upto 0 (k.declared kind)).all (fun i => (k.syncs kind).any (fun r => num r 1 1 == i))) &&
    allPairs (fun (a b : List Byte) =>
      !(num a 2 2 == num b 2 2 && num a 8 8 % 8 == num b 8 8 % 8) &&
        !(num a 4 4 == num b 4 4 && num a 8 8 / 256 % 8 == num b 8 8 / 256 % 8)) (k.syncs 3)

/-- The lease records, the program's and then the RCB's. -/
def Load.allLeases (k : Load) : List (List Byte) := records k.file 8 ++ k.leases

/-- Check 6. -/
def Load.check6 (k : Load) : Bool :=
  let ok := fun (c : Nat) => c < k.cores || c == 0xFFFF
  (spadOf k.file).all (fun r => ok r.core) && (records k.file 4).all (fun r => ok (num r 2 2)) &&
    (records k.file 5).all (fun r => ok (num r 2 2)) && (records k.file 7).all (fun r => ok (num r 0 2)) &&
    k.allLeases.all (fun r => ok (num r 18 2))

/-- The domain type of a code that a domains record may name. -/
def awakeTy : Nat → Option DomTy
  | 0 => some .vlg
  | 1 => some .gfb
  | 2 => some .spb
  | 3 => some .acb
  | 4 => some .xe
  | 7 => some .ce
  | _ => none

/-- Check 7. -/
def Load.check7 (k : Load) : Bool :=
  (records k.file 7).all (fun r =>
    match awakeTy (num r 2 2) with
    | some t => num r 4 4 < 2 ^ (t.last + 1)
    | none => false)

/-- Whether a bank is in the awake set of a launch core. -/
def Load.awakes (k : Load) (i : Nat) (t : DomTy) (bank : Nat) : Bool :=
  (records k.file 7).any (fun r => fills (num r 0 2) i && awakeTy (num r 2 2) == some t && num r 4 4 / 2 ^ bank % 2 == 1)

/-- Check 8. -/
def Load.check8 (k : Load) : Bool :=
  let rs := spadOf k.file
  rs.all (fun r => r.reserved && r.ofs % 32 == 0 && r.len % 32 == 0 && 32 ≤ r.len && r.ofs + r.len ≤ 0x200000 &&
    r.data.length == r.len &&
    (upto 0 k.cores).all (fun i => !fills r.core i || (spadBanks 0 r.ofs r.len).all (fun b => k.awakes i .spb b.2.2))) &&
    allPairs (fun (a b : SpadRec) => a.core != b.core || apart a.ofs a.len b.ofs b.len) rs

/-- The tile value of a record (R253), as `tcfg` writes it. -/
def tileRec (r : List Byte) : TileImage := tileValue (BitVec.ofNat 64 (num r 16 8)) (BitVec.ofNat 64 (num r 8 8))

/-- Check 9. -/
def Load.check9 (k : Load) : Bool :=
  (records k.file 4).all (fun r => num r 0 2 < 64 && zeros r 4 4 && num r 23 1 / 16 == 0 && (tileOf (tileRec r)).ok) &&
    (records k.file 5).all (fun r => num r 0 2 < 32 && zeros r 4 4) &&
    [4, 5].all (fun ty => allPairs (fun (a b : List Byte) => num a 0 4 != num b 0 4) (records k.file ty))

/-- Whether a lease record passes check 10. -/
def leaseOk (r : List Byte) : Bool :=
  let b := num r 0 8
  let n := num r 8 8
  b % 65536 == 0 && b < 2 ^ 56 && 1 ≤ n && zeros r 20 4 && 1 ≤ num r 16 2 && num r 16 2 ≤ 3 &&
    (b + n ≤ 2 ^ 55 || (2 ^ 55 ≤ b && b + n ≤ windowBase))

/-- Check 10. -/
def Load.check10 (k : Load) : Bool := k.allLeases.length ≤ 256 && k.allLeases.all leaseOk

/-- The nest record in use: the RCB's, or the program's. -/
def Load.nestRec (k : Load) : Option (List Byte) := k.nest.or (records k.file 9).head?

/-- The order of a nest record, outermost first. -/
def nestOrder (r : List Byte) : List Nat := (upto 0 (num r 16 1)).map (fun i => num r 17 1 / 4 ^ i % 4)

/-- Whether a nest record passes check 11. -/
def nestOk (r : List Byte) : Bool :=
  let n := num r 16 1
  1 ≤ n && n ≤ 4 && zeros r 18 14 && (upto 0 4).all (fun d => if d < n then num r (4 * d) 4 != 0 else num r (4 * d) 4 == 0) &&
    (nestOrder r).all (fun d => d < n) && allPairs (fun (a b : Nat) => a != b) (nestOrder r)

/-- Check 11: the program's nest record, and the RCB's. -/
def Load.check11 (k : Load) : Bool := (records k.file 9).all nestOk && k.nest.all nestOk

/-- Check 12. -/
def Load.check12 (k : Load) : Bool := num k.file 10 2 ≤ 4095 && num k.file 24 1 ≤ 31

/-- The lowest code that fails (R265). -/
def Load.failure (k : Load) : Option Nat :=
  if !k.check1 then some 1 else if !k.check2 then some 2 else if !k.check3 then some 3 else if !k.check4 then some 4
  else if !k.check5 then some 5 else if !k.check6 then some 6 else if !k.check7 then some 7 else if !k.check8 then some 8
  else if !k.check9 then some 9 else if !k.check10 then some 10 else if !k.check11 then some 11
  else if !k.check12 then some 12 else none

end Sys2Proof.Machine
end

