-- ==== Sys2Proof/Machine/Launch.lean ====
section
/-! DEFINITION. Regions and launches: submission (R270 to R272), dispatch and the loader's steps (R265 to R267, R273,
R274), the start of a launch (R275), its end (R136, R384), the end of a region (R276), launch records (R327). -/

namespace Sys2Proof.Machine

/-! ## Launch records (R327) -/

/-- The counters in the layout of R325, 76 doublewords. -/
def Ctx.counterList (x : Ctx) : List Nat :=
  [x.counters.cyc, x.counters.hcyc] ++ x.counters.issued ++ x.counters.head ++ x.counters.flagw ++
    [x.sys.energyWord.toNat, x.counters.samples]

/-- Where the record of a launch core lies. -/
def Part.recordAt (p : Part) (regid lcore : Nat) : Nat :=
  bits p.lrbase 20 22 * 2 ^ 20 + (regid % 16 * 640 + lcore) * 0x400

/-- The device adds to a doubleword of a launch record, modulo 2^64. -/
def State.addTo (s : State) (part a v : Nat) : State := s.store part a (leBytes 8 (((s.physWord a).toNat + v) % 2 ^ 64))

/-- A start packet (R327): the bank's values are latched; `first` zeroes the record and names it. -/
def State.startPacket (s : State) (n : Nat) (first : Bool) : State :=
  let x := s.ctx n
  let p := s.part x.launch.part
  let a := p.recordAt x.launch.regid x.launch.lcore
  let t := s.modCtx n (fun x => { x with counters := { x.counters with latched := x.counterList, running := true } })
  if first && bitAt p.lrbase 0 then
    t.store x.launch.part a (List.replicate 0x3F0 0 ++ leBytes 8 (x.launch.regid + x.launch.lcore * 2 ^ 16 + n * 2 ^ 32) ++ leBytes 8 0)
  else t

/-- A stop packet (R327) of a context. -/
def State.stopPacket (s : State) (x : Ctx) : State :=
  let p := s.part x.launch.part
  let a := p.recordAt x.launch.regid x.launch.lcore
  if x.counters.running && bitAt p.lrbase 0 then
    let t := ((List.zip x.counterList x.counters.latched).zip (upto 0 76)).foldl
      (fun t p => t.addTo x.launch.part (a + 8 * p.2) (p.1.1 + 2 ^ 64 - p.1.2)) s
    t.addTo x.launch.part (a + 0x3F8) 1
  else s

/-! ## Banks -/

/-- A context with the numbers of the core's accesses and atomics, and its samples, where the core stands (R242, R316, R333): they go on
through exchanges, saves and launches. -/
def Ctx.countOn (x y : Ctx) : Ctx :=
  { x with
    nextId := max x.nextId y.nextId, atomSeq := y.atomSeq
    launch := { x.launch with sampled := max x.launch.sampled y.launch.sampled } }

/-- The banks of a core change places; the array lease ends (R314). -/
def State.swapBanks (s : State) (n : Nat) : State :=
  (s.endLease n).modCore n (fun c => { c with ctx := c.alt.countOn c.ctx, alt := c.ctx, bank := !c.bank, exchangeDue := false })

/-- The region of a context. -/
def State.regionFor (s : State) (x : Ctx) : Option Region := (s.part x.launch.part).region x.launch.region

/-- Whether the region of a context is being pre-empted (R318). -/
def State.preempting (s : State) (x : Ctx) : Bool :=
  match (s.part x.launch.part).pctlOp with
  | some (1, order, _) => order == x.launch.region
  | _ => false

/-- Whether a core of a region with FDOM = 0 has forwarded, and Sapwood has not answered: every launch core of the region stands (R313). -/
def Part.forwarded (p : Part) (r : Region) : Bool := !r.fdom && p.posted.any (fun k => k.1 == r.order)

/-- Whether a stopped context may be restarted by an exchange: it waits for nothing from Sapwood (R313), and its region is not
being pre-empted (R282). -/
def State.mayRun (s : State) (x : Ctx) : Bool :=
  x.mode == .stopped && !s.preempting x && (match s.regionFor x with
    | some r => !r.held && !(s.part x.launch.part).forwarded r
    | none => false)

/-- Whether the context in the resident bank may be restarted by an exchange. -/
def State.altReady (s : State) (n : Nat) : Bool := s.mayRun (s.core n).alt

/-- An exchange occupies cycles f to f + 191: a context of 96 KiB, at 512 bytes a cycle (R4, R383). -/
def State.exchangeFrom (s : State) (n f : Nat) : State :=
  (s.swapBanks n).modCore n (fun c => { c with exchange := some (f + 191) })

/-! ## The end of a core's launch (R136, R196, R384) -/

/-- One domain record of a core at the end of a launch in a bank: a queued wake is removed, and the domain goes off; any
other domain that the bank holds sleeps with mode off. -/
def Dom.release (d : Dom) (ty : DomTy) (bank : Bool) (cyc : Nat) : Dom :=
  if d.owner != bank then d
  else if d.st == .waking && d.queued then { d with st := .off, queued := false, cold := true, sleepPend := none }
  else d.sleep ty false cyc

/-- A cluster domain at the end of the last launch of the cluster (R196). -/
def Dom.releaseShared (d : Dom) (ty : DomTy) (cyc : Nat) : Dom :=
  if d.st == .waking && d.queued then { d with st := .off, queued := false, cold := true, sleepPend := none }
  else d.sleep ty false cyc

/-- The domains that a bank of a core holds go to sleep, CE's reference bit included (R136, R39): with the last one a queued wake of CE is
removed from the queue of whichever core it stands in (R143). -/
def State.sleepBank (s : State) (n : Nat) (bank : Bool) : State :=
  let cyc := s.cyc n
  let mine := fun (k : Nat) => k < 65 && (let d := (s.core n).doms.get k Dom.init; d.st == .waking && d.queued && d.owner == bank)
  let s1 := s.modCore n (fun c => { c with
    wakeQ := c.wakeQ.filter (fun k => !mine k)
    doms := c.doms.map (fun d => (d.1, d.2.release (coreSlot d.1).1 bank cyc)) })
  let s2 := s1.modCluster (clusterOf n) (fun c => { c with ceRefs := c.ceRefs.filter (fun r => r != (n, bank)) })
  if (s.cluster (clusterOf n)).ceRefs.contains (n, bank) && !s2.ceHeld n then
    ((coresOf (clusterOf n)).foldl (fun t k => t.modCore k (fun c => { c with wakeQ := c.wakeQ.filter (fun k => k != 65) })) s2).setDom
      n .ce 0 ((s2.dom n .ce 0).releaseShared .ce cyc)
  else s2

/-- Whether the wakes of a resume or of a placement are in progress on a cluster (R318, R382): it holds the cluster's domains for the
contexts that it brings. -/
def Part.waking (p : Part) (cl : Nat) : Bool :=
  p.regions.any (fun r => (p.placing == some (r.order, true) || p.pctlOp == some (2, r.order, true)) && r.on.contains cl)

/-- Whether any context of a cluster's cores has a launch, or is being brought back there. -/
def State.clusterBusy (s : State) (cl : Nat) : Bool :=
  (coresOf cl).any (fun n => (s.core n).ctx.mode != .off || (s.core n).alt.mode != .off) || s.parts.any (fun p => p.2.waking cl)

/-- With the last launch of a cluster, every cluster domain sleeps (R196). -/
def State.sleepCluster (s : State) (cl : Nat) : State :=
  if s.clusterBusy cl then s
  else s.modCluster cl (fun c => { c with
    wakeQ := [], doms := c.doms.map (fun d => (d.1, d.2.releaseShared (clusterSlot d.1).1 c.cyc)) })

/-- A direct access of a launch that ends by system software: what it reads has no place to go to. -/
def AccKind.orphan : AccKind → AccKind
  | .amo w op b _ => .amo w op b (.s 0)
  | .cas w b e _ => .cas w b e (.s 0)
  | k => k

/-- A stream of a launch that has ended: the loop counters stay. -/
def Stream.finish (t : Stream) : Stream := { Stream.init with loops := t.loops }

/-- A context whose launch has ended: its registers, counters and commands stay as they are until the next launch, and its
results in flight still land (R144). -/
def Ctx.finish (x : Ctx) : Ctx :=
  { x with
    mode := .off, c := x.c.finish, l := x.l.finish, v := x.v.finish, s := x.s.finish, lq := List.replicate 8 [],
    sq := List.replicate 8 [], bq := [], send := [], pend := x.pend.filter (fun p => !p.captured), fills := [], fails := []
    counters := { x.counters with running := false }
    frame := { x.frame with handler := false, pending := none } }

/-- The launch of a region on a core ends, in whichever bank its context stands. After the end of a running context an
exchange to the other bank starts, when that holds a context (R384). -/
def State.endCore (s : State) (part order n : Nat) : State :=
  let ended := fun (t : State) => (t.modRegion part order (fun r => { r with ended := addOnce r.ended n })).modPart part
    (fun p => { p with posted := p.posted.filter (fun k => k != (order, n)) })
  if (s.ctx n).belongs part order then
    let s0 := (s.withdraw n).modCore n (fun c => { c with
      direct := (c.direct.filter (fun a => !a.kind.reads)).map (fun a => { a with kind := a.kind.orphan }) })
    let s1 := (s0.endLease n).stopPacket (s.ctx n)
    let s2 := ((s1.modCtx n Ctx.finish).sleepBank n (s.core n).bank).sleepCluster (clusterOf n)
    let s3 := ended s2
    if (s3.core n).exchange.isNone && s3.altReady n then s3.exchangeFrom n (s.cyc n) else s3
  else if (s.core n).alt.belongs part order then
    let s1 := s.stopPacket (s.core n).alt
    ended ((((s1.modCore n (fun c => { c with alt := c.alt.finish, exchangeDue := false })).sleepBank n (!(s.core n).bank))).sleepCluster (clusterOf n))
  else ended s

/-- Whether every stream of a context has come to stand at an `all.end` (R136). -/
def Ctx.allEnded (x : Ctx) : Bool :=
  [Strm.c, .l, .v, .s].all (fun st => (x.strm st).stand.any (fun k => k.2 == .fin))

/-- Whether a context's commands have completed and its accesses have performed (R136). -/
def Ctx.drained (x : Ctx) : Bool := x.eng.live.isEmpty && x.fifo.all (fun q => q.2.isEmpty)

/-- An error not yet delivered (R172): of the engines in order, the lowest SEQ. -/
def Ctx.undelivered (x : Ctx) : Option (Eng × Word) :=
  [Eng.array, .copy, .xe].findSome? (fun e =>
    (((x.recs e).filter (fun r => recErr r != 0)).foldl (fun o r =>
      match o with
      | none => some r
      | some q => if recSeq r < recSeq q then some r else some q) none).map (fun r => (e, r)))

/-- Whether every condition of R136 holds for a context, whether it runs or is stopped: its commands and posted accesses go on while it is
(R306, R383). -/
def Ctx.over (x : Ctx) : Bool :=
  (x.mode == .run || x.mode == .stopped) && !x.frame.handler && x.frame.pending.isNone && x.allEnded && x.drained

/-- Whether every condition of R136 holds for the context in the active bank of a core, and in the resident one: the direct accesses of
the latter have performed once its exchange is over. -/
def State.launchOver (s : State) (core : Nat) : Bool := (s.ctx core).over && (s.core core).direct.isEmpty
@[inherit_doc State.launchOver] def State.residentOver (s : State) (core : Nat) : Bool :=
  (s.core core).alt.over && ((s.core core).exchange.isNone || (s.core core).direct.isEmpty)

/-- The end of a launch whose conditions hold and that has no error due (R384): `note` keeps its end cycle, and the cycle after it is the
end itself. -/
def State.endLaunch (s : State) (core : Nat) (x : Ctx) (note : State) : State :=
  match x.ending with
  | none => note
  | some e => if e < s.cyc core then s.endCore x.launch.part x.launch.region core else s

/-- The end of the launch of the resident context: an error that is due waits until the context runs. -/
def State.endResident (s : State) (core : Nat) : State :=
  let y := (s.core core).alt
  if s.residentOver core && y.undelivered.isNone && y.fails.isEmpty then
    s.endLaunch core y (s.modCore core (fun c => { c with alt := { y with ending := some (s.cyc core) } }))
  else s

/-- The end of the launch of the active context: an error or a recorded failure that is not yet delivered is taken first, by a context that
runs (R172, R243). -/
def State.endActive (s : State) (core : Nat) : State :=
  let x := s.ctx core
  if s.launchOver core then
    match x.undelivered, x.fails with
    | some (e, r), _ => if x.mode = .run then (s.modCtx core (fun x => x.dropRec e r)).raise core .c (recTrap r) else s
    | none, f :: t => if x.mode = .run then (s.modCtx core (fun x => { x with fails := t })).raise core .c f.2.2 else s
    | none, [] => s.endLaunch core x (s.modCtx core (fun x => { x with ending := some (s.cyc core) }))
  else s

/-- R136, R172, R243, R384: in the first cycle in which every condition of R136 holds an error or a recorded failure that is not
yet delivered is taken; without one that is the launch's end cycle, and in the next its domains sleep. -/
def execLaunchEnd (core : Nat) (s : State) : Host.Outcome State Fault Refusal := .next ((s.endResident core).endActive core)

/-! ## Submission (R270 to R272) -/

/-- The entries of a submission queue. -/
def Part.queueSize (p : Part) : Nat := 2 ^ bits p.sqcfg 0 4

/-- A doorbell write that is ignored, or a write of SQCFG (R271, R370). -/
def State.sqError (s : State) (part : Nat) : State := (s.modPart part (fun p => { p with sqerr := true })).raisePart part 1

/-- R271: a doorbell write. -/
def execDoorbell (part : Nat) (tail : BitVec 16) (s : State) : Host.Outcome State Fault Refusal :=
  let p := s.part part
  .next (if (p.queueSize : Int) - ((p.tail - p.head).toNat : Int) < ((tail - p.tail).toNat : Int) then s.sqError part
    else s.modPart part (fun p => { p with tail := tail }))

/-- A field of an RCB (R268). -/
abbrev Rcb := List Byte

/-- The field groups of INHERIT (R269), with their offsets and sizes. -/
def Rcb.inherits (r : Rcb) (g : Nat) : Bool := num r 0x3E 2 / 2 ^ g % 2 == 1

/-- Whether the PARENT and INHERIT of an RCB, and its reserved bytes, follow R268: a root inherits nothing (R269). -/
def Rcb.sound (r : Rcb) : Bool :=
  zeros r 0x3D 1 && zeros r 0x42 6 && zeros r 0x58 40 && num r 0x3E 2 / 2 ^ 11 == 0 && num r 0 8 % 128 == 0 &&
    (num r 0 8 != 0 || num r 0x3E 2 == 0)

/-- Whether the fields of a group follow R268 in the RCB that supplies them. -/
def Rcb.supplies (r : Rcb) (clusters : Nat) : Nat → Bool
  | 2 => num r 0x2A 2 ≤ 256
  | 5 => 1 ≤ num r 0x34 2 && num r 0x34 2 ≤ clusters
  | 6 => 1 ≤ num r 0x36 2 && num r 0x36 2 ≤ 3200
  | 7 => num r 0x38 1 ≤ 7
  | 8 => num r 0x39 1 / 2 == 0
  | 9 => num r 0x3A 1 != 0 && num r 0x3A 1 / 16 == 0
  | 10 => num r 0x3B 1 ≤ 16 && num r 0x3C 1 ≤ 16
  | _ => true

/-- The chain from an RCB to its root (R269): at most `k` RCBs; `none` when one cannot be read or is not sound. -/
def State.rcbChain (s : State) (part : Nat) : Nat → Nat → Option (List Rcb)
  | 0, _ => none
  | k + 1, va =>
    match s.readOwn part va 128 with
    | none => none
    | some r =>
      if !Rcb.sound r then none
      else if num r 0 8 = 0 then some [r]
      else (s.rcbChain part k (num r 0 8)).map (fun t => r :: t)

/-- The RCBs that the reading of a chain reads, by their addresses. -/
def State.chainReads (s : State) (part : Nat) : Nat → Nat → List Nat
  | 0, _ => []
  | k + 1, va =>
    va :: (match s.readOwn part va 128 with
      | some r => if Rcb.sound r && num r 0 8 != 0 then s.chainReads part k (num r 0 8) else []
      | none => [])

/-- The RCB that supplies a group: the nearest that does not inherit it (R269). -/
def supplier (chain : List Rcb) (g : Nat) : Rcb := (chain.find? (fun r => !Rcb.inherits r g)).getD []

/-- Whether every RCB of a chain follows R268 in what it supplies, and the submitted one in its reserved bits (R269, R272). -/
def chainOk (chain : List Rcb) (clusters : Nat) : Bool :=
  (upto 0 11).all (fun g => Rcb.supplies (supplier chain g) clusters g) && Rcb.supplies (chain.headD []) clusters 8 &&
    num (chain.headD []) 0x3A 1 / 16 == 0

/-- A waiting region of a chain of RCBs at `va` (R268, R269). -/
def regionOfChain (va order : Nat) (chain : List Rcb) : Region :=
  let f := supplier chain
  { regid := num (chain.headD []) 0x28 2, rcb := va, st := .waiting, prog := num (f 0) 8 8, nest := num (f 1) 16 8,
    leasesAt := num (f 2) 24 8, nlease := num (f 2) 0x2A 2, slotmask := BitVec.ofNat 64 (num (f 3) 0x20 8),
    preds := (upto 0 4).map (fun i => num (f 4) (0x2C + 2 * i) 2), clusters := num (f 5) 0x34 2, pwrcap := num (f 6) 0x36 2,
    prio := num (f 7) 0x38 1, fdom := num (f 8) 0x39 1 % 2 == 1, cmask := BitVec.ofNat 4 (num (f 9) 0x3A 1),
    rings := num (f 10) 0x3B 1, bars := num (f 10) 0x3C 1, order := order, on := [], cores := [], ended := [], err := 0,
    preload := [], rodata := none, hostPages := [], hostFails := [], held := false, fenced := [], ringBase := 0, ringN := 0, barBase := 0, barN := 0, walk := [],
    walkOrder := [], walkNext := 0, iterQ := [] }

/-- Whether a region is within the partition's budgets (R272). -/
def Part.affords (p : Part) (r : Region) : Bool :=
  r.clusters ≤ p.clusters.length && r.pwrcap ≤ p.pcap && r.rings ≤ p.ringAllot && r.bars ≤ p.barAllot &&
    r.slotmask &&& ~~~p.slots == 0

/-- A region's state has become 3 or 4. -/
def RegionSt.isEnd : RegionSt → Bool
  | .done => true
  | .failed => true
  | _ => false

/-- STATE 3 or 4, ERRCODE and TEND are written, STATE last (R276), and REGDONE is set. -/
def State.writeEnd (s : State) (part rcb err : Nat) : State :=
  (((s.writeOwn part (rcb + 0x41) (leBytes 1 err)).writeOwn part (rcb + 0x50) (leBytes 8 s.time)).writeOwn part (rcb + 0x40)
    (leBytes 1 (if err = 0 then 3 else 4))).raisePart part 0

/-- A region ends with an ERRCODE. -/
def State.closeRegion (s : State) (part : Nat) (r : Region) (err : Nat) : State :=
  (s.modEntry part r.order (fun r => { r with st := if err = 0 then .done else .failed, err := err, iterQ := [] })).writeEnd part r.rcb err

/-- The region table (R272): the 1,024 most recently accepted regions. -/
def Part.table (p : Part) : List Region := p.regions.filter (fun o => p.accepted ≤ o.order + 1024)

/-- The acceptance number of a predecessor, when the table holds a region of its REGID: the latest (R272). -/
def Part.predecessor (p : Part) (regid : Nat) : Option Nat :=
  (p.table.filter (fun o => o.regid == regid)).foldl (fun m o => some (max o.order (m.getD 0))) none

/-- Enters a region (R272). Beside the table, the device keeps the regions that have not ended, and those that one of these waits
on. -/
def Part.enter (p : Part) (r : Region) : Part :=
  let all := p.regions ++ [r]
  { p with
    regions := all.filter (fun o => !o.st.isEnd || p.accepted + 1 ≤ o.order + 1024 ||
      all.any (fun w => w.st == .waiting && w.preds.contains o.order))
    accepted := p.accepted + 1 }

/-- R271, R272: the device accepts the entry at HEAD. A REGID may be that of a region that has not ended (DESIGN CHOICE, log 31). The spec
gives no fate to an entry whose RCB cannot be read, or whose address is not a multiple of 128: HEAD advances, and nothing else happens
(DESIGN CHOICE, log 39). -/
def execRcbAccept (part : Nat) (s : State) : Host.Outcome State Fault Refusal :=
  let p := s.part part
  .next (if p.head = p.tail then s
    else
      let s1 := s.modPart part (fun p => { p with head := p.head + 1 })
      let entry := bits p.sqcfg 12 44 * 4096 + 8 * (p.head.toNat % p.queueSize)
      let s1 := s1.fetchOwn part entry 8
      match s.readOwn part entry 8 with
      | none => s1
      | some e =>
        let va := leNat e
        if va % 128 ≠ 0 then s1
        else
          let s1 := (s.chainReads part 8 va).foldl (fun t a => t.fetchOwn part a 128) s1
          match if (s.readOwn part va 128).isSome then some (s.rcbChain part 8 va) else none with
          | none => s1
          | some none => s1.writeEnd part va 0x0E
          | some (some chain) =>
            let r := regionOfChain va p.accepted chain
            if r.regid = 0 || !chainOk chain p.clusters.length || !p.affords r then s1.writeEnd part va 0x0E
            else
              (s1.modPart part (fun p => p.enter { r with preds := r.preds.filterMap p.predecessor })).writeOwn part (va + 0x40) (leBytes 2 0))

/-! ## Dispatch (R273, R274) -/

/-- Whether a region holds clusters: it loads or runs. -/
def Region.holds (r : Region) : Bool := r.st == .loading || r.st == .running

/-- Whether a waiting region is ready: every predecessor has STATE 3 (R272). -/
def Part.ready (p : Part) (r : Region) : Bool :=
  r.st == .waiting && r.err == 0 && r.preds.all (fun i => p.regions.all (fun o => o.order != i || o.st == .done))

/-- A waiting region with a failed predecessor (R272). -/
def Part.doomed (p : Part) : Option Region :=
  p.regions.find? (fun r => r.st == .waiting && (r.err != 0 || r.preds.any (fun i => p.regions.any (fun o => o.order == i && o.st == .failed))))

/-- The first ready region: the highest PRIO, then the order of acceptance (R273). -/
def Part.foremost (p : Part) : Option Region :=
  (p.regions.filter p.ready).foldl (fun o r =>
    match o with
    | none => some r
    | some q => if q.prio < r.prio || (q.prio == r.prio && r.order < q.order) then some r else some q) none

/-- The launch cores of clusters under a CMASK (R274). -/
def launchCores (cls : List Nat) (cmask : BitVec 4) : List Nat :=
  cls.flatMap (fun c => (coresOf c).filter (fun n => bitAt cmask (n % 4)))

/-- Whether nothing of an earlier launch is left in flight on a cluster's cores. -/
def State.quiet (s : State) (cl : Nat) : Bool :=
  (coresOf cl).all (fun n => let c := s.core n; c.ctx.mode == .off && c.exchange.isNone && c.ctx.drained && c.direct.isEmpty)

/-- The launch cores of a region that have not ended. -/
def Region.left (r : Region) : List Nat := r.cores.filter (fun n => !r.ended.contains n)

/-- Whether a region is placed, or is being placed (R382): its contexts stand in the resident banks, and not after a forward. -/
def State.placed (s : State) (part : Nat) (r : Region) : Bool :=
  (s.part part).placing.any (fun k => k.1 == r.order) ||
    (r.st == .running && !r.held && !r.left.isEmpty && r.left.all (fun n => (s.core n).alt.belongs part r.order))

/-- Whether a region keeps a cluster from others (R273, R382). -/
def State.claims (s : State) (part : Nat) (r : Region) (c : Nat) : Bool := r.holds && !s.placed part r && r.on.contains c

/-- The clusters that a region takes (R274), when enough are free (R273, R382): those of a placed region count for a
launch on exactly its launch cores. -/
def State.pick (s : State) (part : Nat) (p : Part) (r : Region) : Option (List Nat) :=
  let free := p.clusters.filter (fun c => !p.regions.any (fun o => s.claims part o c) && s.quiet c)
  let placed := p.regions.filter (s.placed part)
  let plain := free.filter (fun c => !placed.any (fun o => o.on.contains c))
  let beside : Option (List Nat) := placed.findSome? (fun o : Region =>
    let cls := (free.filter (fun c => plain.contains c || o.on.contains c)).take r.clusters
    if cls.length == r.clusters && o.cores == launchCores cls r.cmask then some cls else none)
  beside.or (if r.clusters ≤ plain.length then some (plain.take r.clusters) else none)

/-- The other conditions of R273. -/
def Part.room (p : Part) (r : Region) : Bool :=
  let run := p.regions.filter Region.holds
  let act := p.regions.filter Region.active
  (run.map (·.pwrcap)).foldl (· + ·) r.pwrcap ≤ p.pcap &&
    (act.map (fun o => max o.rings o.ringN)).foldl (· + ·) r.rings ≤ p.ringAllot &&
    (act.map (fun o => max o.bars o.barN)).foldl (· + ·) r.bars ≤ p.barAllot &&
    run.all (fun o => o.slotmask &&& r.slotmask == 0) &&
    (!bitAt p.lrbase 0 || act.all (fun o => o.regid % 16 != r.regid % 16))

/-! ## The loader (R265 to R267) -/

/-- Whether a run of numbers is free of the runs in use. -/
def runFree (used : List (Nat × Nat)) (b n : Nat) : Bool := used.all (fun u => apart b n u.1 u.2)

/-- The lowest free run of `n` numbers below `allot` (R266). -/
def lowestRun (used : List (Nat × Nat)) (allot n : Nat) : Nat :=
  ((upto 0 (allot + 1 - n)).find? (fun b => runFree used b n)).getD 0

/-- The longest free run, of at most 16 numbers. -/
def longestRun (used : List (Nat × Nat)) (allot : Nat) : Nat :=
  ((upto 0 17).filter (fun n => (upto 0 (allot + 1 - n)).any (fun b => runFree used b n))).foldl max 0

/-- The rings, and the barriers, in use in a partition: the runs that active regions have declared. What a region reserves by RINGS or BARS
and does not declare is free for another program, and a program may declare more than its RCB reserves (R265, R266; DESIGN CHOICE,
log 87). -/
def Part.ringRuns (p : Part) : List (Nat × Nat) := (p.regions.filter Region.active).map (fun r => (r.ringBase, r.ringN))
@[inherit_doc Part.ringRuns] def Part.barRuns (p : Part) : List (Nat × Nat) :=
  (p.regions.filter Region.active).map (fun r => (r.barBase, r.barN))

/-- The next read, when a read has succeeded. -/
def Got.andThen {α : Type} (g : Got) (f : List Byte → α ⊕ Got) : α ⊕ Got :=
  match g with
  | .ok v => f v
  | g => .inr g

/-- Where a run of `n` units goes among `room`, apart from the runs in use: at a place, at the start, or behind a run in use. The spec gives no
fate to data for which no free run is large enough: they go to the place all the same (DESIGN CHOICE, log 94). -/
def fitRun (used : List (Nat × Nat)) (room place n : Nat) : Nat :=
  let at_ := place % (room + 1 - n)
  ((at_ :: 0 :: used.map (fun u => u.1 + u.2)).find? (fun b => b + n ≤ room && runFree used b n)).getD at_

/-- Where the read-only data of a region goes (R267 step 1): an address, a frame in the partition's memory, and pages, apart from those of
the active regions. -/
def Part.placeRodata (p : Part) (part order pages : Nat) : Nat × Nat × Nat :=
  let used := (p.regions.filter Region.active).filterMap (·.rodata)
  (2 ^ 55 + 65536 * fitRun (used.map (fun u => ((u.1 - 2 ^ 55) / 65536, u.2.2))) (2 ^ 39 - 257) (Config.rodataPage part order) pages,
   p.memBase + 65536 * fitRun (used.map (fun u => ((u.2.1 - p.memBase) / 65536, u.2.2))) (p.memLen / 65536) (Config.rodataFrame part order)
     pages, pages)

/-- Reads the lease and nest records that the RCB names. Records that cannot be read end the region only when no check of what can be read
fails, since those have the lower codes (R265, R276). -/
def State.loadRecords (s : State) (part : Nat) (r : Region) (k : Load) : Load ⊕ Got :=
  let rd := s.readAt part r.host false
  let judge := fun (k : Load) (c : Option Cause) =>
    match if k.failure.isSome then none else c with
    | some c => .inr (.fail c)
    | none => .inl k
  match rd r.leasesAt (24 * r.nlease), if r.nest = 0 then .ok [] else rd r.nest 32 with
  | .need va, _ => .inr (.need va)
  | _, .need va => .inr (.need va)
  | .ok ls, .ok nest => .inl { k with leases := chunksOf 24 r.nlease ls, nest := if r.nest = 0 then none else some nest }
  | .ok ls, .fail c => judge { k with leases := chunksOf 24 r.nlease ls } (some c)
  | .fail c, .ok nest => judge { k with nest := if r.nest = 0 then none else some nest } (some c)
  | .fail c, .fail _ => judge k (some c)

/-- Reads what the loader checks: the program, and the lease and nest records that the RCB names. Of a program whose header fails
check 1, the lowest code, nothing else is read; the header names the whole section table, whatever its length. -/
def State.loadInput (s : State) (part : Nat) (r : Region) (cores : Nat) : Load ⊕ Got :=
  let p := s.part part
  let rd := s.readAt part r.host false
  (rd r.prog 64).andThen (fun head =>
    if !headerOk head then .inl { file := head, ro := 0, cores := cores, ringRoom := 0, barRoom := 0, leases := [], nest := none }
    else (rd r.prog (num head 16 8 + 32 * num head 8 2)).andThen (fun table =>
      (rd r.prog (fileEnd table)).andThen (fun file =>
        s.loadRecords part r
          { file := file, ro := (p.placeRodata part r.order (ceilDiv (sectBytes file 2).length 65536)).1, cores := cores,
            ringRoom := longestRun p.ringRuns p.ringAllot, barRoom := longestRun p.barRuns p.barAllot, leases := [], nest := none })))

/-- How many bytes of the program the loader reads: the header, the section table, and the whole file, as far as each can be read; and
whether it could read what it asked for. -/
def State.loadExtent (s : State) (part : Nat) (r : Region) : Nat × Bool :=
  let rd := s.readAt part r.host false
  match rd r.prog 64 with
  | .ok head =>
    if !headerOk head then (64, false)
    else
      let n := num head 16 8 + 32 * num head 8 2
      match rd r.prog n with
      | .ok table => (fileEnd table, match rd r.prog (fileEnd table) with
          | .ok _ => true
          | _ => false)
      | _ => (n, false)
  | _ => (64, false)

/-- What the reads of the loader do. -/
def State.loadFetched (s : State) (part : Nat) (r : Region) : State :=
  let go := fun (t : State) (va n : Nat) => t.fetchAt part r.host va n
  let n := s.loadExtent part r
  let t := go s r.prog n.1
  if n.2 then go (go t r.leasesAt (24 * r.nlease)) r.nest (if r.nest = 0 then 0 else 32) else t

/-- Step 2: the text of a launch core; the words up to 0x6FFF that it does not hold read as R74 gives. -/
def textWords (text : List Byte) : Store Word :=
  (upto 0 (text.length / 8)).map (fun i => (i, BitVec.ofNat 64 (num text (8 * i) 8)))

/-- Step 3 for one domain: awake and zero-filled, recorded for the launched bank; its wake is charged (R381). -/
def State.loadDomain (s : State) (n : Nat) (t : DomTy) (i : Nat) : State :=
  let bank := (s.core n).bank
  let d := s.dom n t i
  if t = .ce then
    (s.setCeRef n bank).setDom n .ce 0 { Dom.init with st := .awake }
  else if d.st != .off && d.owner != bank then s
  else if d.st == .awake then s
  else ((s.setDom n t i { Dom.init with st := .awake, owner := bank }).zeroFill n t i).modCtx n (fun x =>
    { x with sys := { x.sys with charge := x.sys.charge + wakeUnits t true } })

/-- Step 3 for a launch core, in record order. -/
def State.loadAwake (s : State) (k : Load) (n i : Nat) : State :=
  (records k.file 7).foldl (fun t r =>
    if fills (num r 0 2) i then
      match awakeTy (num r 2 2) with
      | some ty => (maskIxs ty (BitVec.ofNat 32 (num r 4 4))).foldl (fun u b => u.loadDomain n ty b) t
      | none => t
    else t) s

/-- One spad record: a bank that the other register bank holds keeps its contents (DEDUCED, log 33). -/
def State.loadSpadRec (s : State) (n : Nat) (r : SpadRec) : State :=
  (spadBanks n r.ofs r.len).foldl (fun t b =>
    let lo := max r.ofs (0x10000 * b.2.2)
    let hi := min (r.ofs + r.len) (0x10000 * b.2.2 + 0x10000)
    if (t.dom n .spb b.2.2).owner = (t.core n).bank then t.spadWrite n lo ((r.data.drop (lo - r.ofs)).take (hi - lo)) else t) s

/-- Step 4 for a launch core: the 0xFFFF records first. -/
def State.loadSpad (s : State) (k : Load) (n i : Nat) : State :=
  let put := fun (t : State) (r : SpadRec) => t.loadSpadRec n r
  (((spadOf k.file).filter (fun r => r.core == 0xFFFF)) ++ (spadOf k.file).filter (fun r => r.core == i)).foldl put s

/-- Step 5: tiles and formats, the 0xFFFF records first, so that a core's own record stands. -/
def Load.engines (k : Load) (e : Engines) (i : Nat) : Engines :=
  let ordered := fun (ty : Nat) => (records k.file ty).filter (fun r => num r 2 2 == 0xFFFF) ++ (records k.file ty).filter (fun r => num r 2 2 == i)
  { e with
    tiles := (ordered 4).foldl (fun ts r => ts.set (num r 0 2) (tileRec r)) e.tiles
    fmts := (ordered 5).foldl (fun fs r => fs.set (num r 0 2) (BitVec.ofNat 64 (num r 8 8))) e.fmts }

/-- SLOTSHARE of a set of slots (R280). -/
def slotShare (set : Word) : BitVec 16 :=
  let on := (upto 0 64).filter (bitAt set)
  let gap := fun (i : Nat) => ((upto 1 64).find? (fun d => bitAt set ((i + d) % 64))).getD 64
  BitVec.ofNat 16 ((on.map gap).foldl max 1 * 256 + on.length)

/-- Step 6: the couplings of a launch core (R133, R254). -/
def Load.couplings (k : Load) (cores : List Nat) (i : Nat) : List (BitVec 3 × Nat × BitVec 3) × List (BitVec 3) :=
  let rs := k.syncs 3
  ((rs.filter (fun r => num r 2 2 == i)).map (fun r => (BitVec.ofNat 3 (num r 8 8), cores.getD (num r 4 4) 0, BitVec.ofNat 3 (num r 8 8 / 256))),
   (rs.filter (fun r => num r 4 4 == i)).map (fun r => BitVec.ofNat 3 (num r 8 8 / 256)))

/-- The context of a launch core after steps 5 and 6. -/
def State.loadCtx (s : State) (k : Load) (part : Nat) (r : Region) (cores : List Nat) (n i : Nat) : Ctx :=
  let p := s.part part
  let cpl := k.couplings cores i
  { Ctx.init with
    eng := k.engines Engines.init i
    nextId := (s.ctx n).nextId, atomSeq := (s.ctx n).atomSeq
    sys := { Sys.init with
      window := windowValue (BitVec.ofNat 64 (if num k.file 10 2 = 0 then 256 else num k.file 10 2))
      window0 := windowValue (BitVec.ofNat 64 (if num k.file 10 2 = 0 then 256 else num k.file 10 2))
      srseed := BitVec.ofNat 32 (num k.file 12 4), ftbase := BitVec.ofNat 5 (num k.file 24 1)
      syncwin := BitVec.ofNat 32 (k.declared 1 + r.ringBase * 2 ^ 8 + k.declared 2 * 2 ^ 16 + r.barBase * 2 ^ 24)
      slotshare := slotShare (if r.slotmask = 0 then p.slots else r.slotmask)
      pwrset := BitVec.ofNat 16 (min 4095 (r.pwrcap / cores.length) * 16 + 4) }
    launch := { Launch.init with
      part := part, region := r.order, regid := r.regid, lcore := i, cplOut := cpl.1, cplIn := cpl.2, banks := [(s.core n).bank],
      sampled := (s.ctx n).launch.sampled } }

/-- Steps 2 to 6 on one launch core. -/
def State.loadCore (s : State) (k : Load) (part : Nat) (r : Region) (cores : List Nat) (text : List Byte) (n i : Nat) : State :=
  let s1 := s.modCore n (fun c => { c with
    ctx := { s.loadCtx k part r cores n i with text := textWords text }, leases := [], launches := c.launches + 1, race := { intv := 1, v := [] }, flags := [],
    exchangeDue := false, since := 0 })
  (s1.loadAwake k n i).loadSpad k n i

/-- Step 6: the rings and barriers of the program (R254, R266). -/
def Part.loadSync (p : Part) (k : Load) (r : Region) : Part :=
  { p with
    rings := (k.syncs 1).foldl (fun m q => m.put (r.ringBase + num q 1 1) { Ring.init with
      base := BitVec.ofNat 56 (num q 8 8), slots := BitVec.ofNat 7 (num q 2 2), slotsize := BitVec.ofNat 20 (num q 4 4) }) p.rings
    bars := (k.syncs 2).foldl (fun m q => m.put (r.barBase + num q 1 1) { Barrier.init with need := num q 2 2 }) p.bars }

/-- Step 7: the records to preload (R304). -/
def Load.preloads (k : Load) : List (Nat × Nat × Nat × Nat) :=
  k.allLeases.map (fun q => (num q 0 8, num q 0 8 + num q 8 8, num q 16 2, num q 18 2))

/-- The read-only data in its frame, filled with zeros to whole sectors, with new checks (R267 step 1, R360): its pages have C = 0. -/
def State.storeRodata (s : State) (part frame : Nat) (v : List Byte) : State :=
  s.storeFrom s.outerRouter part false frame (v ++ List.replicate (32 * ceilDiv v.length 32 - v.length) 0)

/-- The loader's steps 1 to 6, and the first walk of step 7: STATE becomes 1. -/
def State.loadRegion (s : State) (part : Nat) (r0 : Region) (cls : List Nat) (k : Load) (text : List Byte) : State :=
  let p := s.part part
  let cores := launchCores cls r0.cmask
  let ro := sectBytes k.file 2
  let place := p.placeRodata part r0.order (ceilDiv ro.length 65536)
  let nest := k.nestRec
  let r : Region := { r0 with
    st := .loading, on := cls, cores := cores, ended := [], fenced := []
    ringBase := lowestRun p.ringRuns p.ringAllot (k.declared 1), ringN := k.declared 1
    barBase := lowestRun p.barRuns p.barAllot (k.declared 2), barN := k.declared 2
    rodata := if ro = [] then none else some place
    walk := (match nest with
      | some q => (upto 0 4).map (fun d => num q (4 * d) 4)
      | none => [])
    walkOrder := (match nest with
      | some q => nestOrder q
      | none => [])
    walkNext := 0, iterQ := [], preload := k.preloads, hostPages := [], hostFails := [] }
  let s1 := (s.modEntry part r.order (fun _ => r)).modPart part (fun p => p.loadSync k r)
  let s2 := s1.storeRodata part place.2.1 (relocated k.file k.ro 2)
  let s3 := cls.foldl (fun t c => t.modCluster c (fun c => { c with copyLeases := [] })) s2
  let s5 := (cores.zip (upto 0 cores.length)).foldl (fun t c => t.loadCore k part r cores text c.1 c.2) s3
  let s6 := s5.writeOwn part (r.rcb + 0x40) (leBytes 1 1)
  match r.preload with
  | (va, _, _, _) :: _ => s6.askWalk (cores.headD 0) va
      { core := cores.headD 0, why := .preload r.order, va := va, lane := none, r := false, w := false }
  | [] => s6

/-- R273, and R267 steps 1 to 7: a waiting region whose predecessor failed ends; otherwise the foremost ready region, when
it fits, is checked and loaded. A host page that the loader must read is asked for first (R292). -/
def execRegionDispatch (part : Nat) (s : State) : Host.Outcome State Fault Refusal :=
  let p := s.part part
  .next (match p.doomed with
    | some r => s.closeRegion part r (if r.err = 0 then 0x0D else r.err)
    | none =>
      match p.foremost with
      | none => s
      | some r =>
        match if p.room r then s.pick part p r else none with
        | none => s
        | some cls =>
          let cores := launchCores cls r.cmask
          let fault := fun (g : Got) =>
            match g with
            | .need va =>
              let n := cores.headD 0
              s.askWalkOf part n va
                { core := n, why := .preload r.order, va := va, lane := none, r := false, w := false }
            | .fail c => (s.loadFetched part r).closeRegion part r (0x80 + c.code)
            | .ok _ => s
          match s.loadInput part r cores.length with
          | .inr g => fault g
          | .inl k =>
            match k.failure with
            | some code => (s.loadFetched part r).closeRegion part r code
            | none =>
              let t := (sectOf? k.file 1).getD (sectOf [])
              match s.readAt part r.host true (r.prog + t.off) t.size with
              | .ok _ => (s.loadFetched part r).loadRegion part r cls k (relocated k.file k.ro 1)
              | g => fault g)

/-! ## Start and end -/

/-- The first multiple of the sample period at or after a time (R333). -/
def nextSample (trc : Word) (time : Nat) : Nat :=
  let per := 2 ^ (bits trc 48 4 + 8)
  ceilDiv time per * per

/-- The breakpoint registers of a launch core (R334). -/
def Part.bpsOf (p : Part) (lcore : Nat) : List Word := (upto 0 4).map (fun k => p.bps.get (4 * lcore + k) 0)

/-- The modes of a partition that a launch or a resume takes (R247, R328), and the breakpoints of the launch core (R334). -/
def Launch.remode (l : Launch) (p : Part) (time : Nat) : Launch :=
  { l with trc := p.trcctl, raceMode := p.racectl, sampled := max l.sampled time, bps := p.bpsOf l.lcore }

/-- Step 8 on one launch core (R275): the registers that a program finds, and the modes of the launch. -/
def Ctx.begin (x : Ctx) (rcb cores cyc time : Nat) (p : Part) : Ctx :=
  let set := fun (y : Ctx) (i : Nat) (v : Nat) => y.putReg (.s (BitVec.ofNat 5 i)) (BitVec.ofNat 64 v)
  let go := fun (t : Stream) => { t with last := cyc }
  let y := set (set (set x 7 x.launch.lcore) 8 cores) 9 rcb
  { y with
    mode := .run, c := go y.c, l := go y.l, v := go y.v, s := go y.s
    launch := y.launch.remode p time }

/-- R267 step 8, R274, R275: when the last preload walk of a region, given by its acceptance number, has returned, every stream of every
launch core is let fetch. A preload walk that faulted ends the region (R304). -/
def execLaunchStart (part order : Nat) (s : State) : Host.Outcome State Fault Refusal :=
  let p := s.part part
  .next (match p.regions.find? (fun r => r.order == order && r.st == .loading && r.preload.isEmpty) with
    | none => s
    | some r =>
      if r.err ≠ 0 then
        (r.cores.foldl (fun t n => (t.sleepBank n (t.core n).bank).sleepCluster (clusterOf n)) s).closeRegion part r r.err
      else
        let s1 := r.cores.foldl (fun t n =>
          (t.modCtx n (fun x => x.begin r.rcb r.cores.length (t.cyc n) (t.timeAt (clusterOf n)) p)).startPacket n true) s
        let s2 := r.on.foldl (fun t c => t.modCluster c (fun c => { c with leaseLast := 3 })) s1
        ((s2.modRegion part order (fun r => { r with st := .running })).writeOwn part (r.rcb + 0x48) (leBytes 8 s.time)).writeOwn part
          (r.rcb + 0x40) (leBytes 1 2))

/-- Whether every access of a region's cores has performed, and its commands have completed (R276). On a core on which another context
runs, and that is past its exchange, no direct access of the region is left. -/
def State.settledRegion (s : State) (part : Nat) (r : Region) : Bool :=
  r.cores.all (fun n =>
    (((s.ctx n).mode != .off && (s.core n).exchange.isNone) || (s.core n).direct.isEmpty) && [(s.core n).ctx, (s.core n).alt].all (fun x =>
      !(x.launch.part == part && x.launch.region == r.order) || x.mode != .off || x.drained))

/-- R276: when every launch core of a region, given by its acceptance number, has ended, the device writes TEND and STATE. -/
def execRegionEnd (part order : Nat) (s : State) : Host.Outcome State Fault Refusal :=
  .next (match (s.part part).regions.find? (fun r => r.order == order && (r.st == .running || r.st == .preempted)) with
    | none => s
    | some r =>
      if r.cores.all (fun n => r.ended.contains n) && s.settledRegion part r then
        (s.closeRegion part r r.err).modPart part (fun p => { p with
          saved := p.saved.filter (fun c => c.region != order), posted := p.posted.filter (fun k => k.1 != order) })
      else s)

end Sys2Proof.Machine
end

