-- ==== Sys2Proof/Machine/Save.lean ====
section
/-! DEFINITION. The save area (R319) and the storage-region records (R320): saving a context of a core, and restoring it. -/

namespace Sys2Proof.Machine

/-! ## Storage regions (R320) -/

/-- The codes of chunks after the chunk `prev`, and the payload (R320). -/
def codeChunks : Nat → Option (List Byte) → List Byte → List Nat × List Byte
  | 0, _, _ => ([], [])
  | k + 1, prev, bs =>
    let c := bs.take 64
    let r := codeChunks k (some c) (bs.drop 64)
    if c.all (fun b => b == 0) then (0 :: r.1, r.2)
    else if prev = some c then (1 :: r.1, r.2)
    else if c = (List.replicate 16 (c.take 4)).flatten then (2 :: r.1, c.take 4 ++ r.2)
    else (3 :: r.1, c ++ r.2)

/-- The code map of chunk codes: chunk i in bits [2i+1:2i]. -/
def codeMap (cs : List Nat) : Nat := cs.foldr (fun c m => c + 4 * m) 0

/-- The record of a 4 KiB region; a region whose codes are all 00 has none. -/
def regionRecord (ty ix reg : Nat) (bs : List Byte) : List Byte :=
  let r := codeChunks 64 none bs
  if codeMap r.1 = 0 then []
  else leBytes 8 (r.2.length * 2 ^ 32 + ty * 2 ^ 16 + ix * 2 ^ 8 + reg) ++ leBytes 16 (codeMap r.1) ++ r.2 ++
    List.replicate ((8 - r.2.length % 8) % 8) 0

/-- The bytes that a code map and a payload stand for. -/
def expandChunks : Nat → Nat → List Byte → List Byte → List Byte
  | 0, _, _, _ => []
  | k + 1, map, prev, pay =>
    let (c, rest) := match map % 4 with
      | 0 => (List.replicate 64 0, pay)
      | 1 => (prev, pay)
      | 2 => ((List.replicate 16 (pay.take 4)).flatten, pay.drop 4)
      | _ => (pay.take 64, pay.drop 64)
    c ++ expandChunks k (map / 4) c rest

/-- The tag after the last record (R319). -/
def lastTag : Nat := 2 ^ 64 - 1

/-- A record as it is read back: type, index, region, its bytes, and how many it took. -/
structure RegionRec where
  ty : Nat
  ix : Nat
  reg : Nat
  bytes : List Byte
  size : Nat

/-- The records that a reader of bytes finds from an address on, up to the last tag; at most `k`. -/
def readRecords (rd : Nat → Nat → List Byte) : Nat → Nat → List RegionRec
  | 0, _ => []
  | k + 1, a =>
    let tag := leNat (rd a 8)
    if tag = lastTag then []
    else
      let n := tag / 2 ^ 32 % 2 ^ 16
      let size := 24 + (n + 7) / 8 * 8
      { ty := tag / 2 ^ 16 % 16, ix := tag / 2 ^ 8 % 32, reg := tag % 128, size := size,
        bytes := expandChunks 64 (leNat (rd (a + 8) 16)) [] (rd (a + 24) n) } :: readRecords rd k (a + size)

/-- Whether a bank of a core holds a domain's contents: awake or retained, and recorded for that bank (R319, R320). -/
def Dom.heldBy (d : Dom) (bank : Bool) : Bool := (d.st == .awake || d.st == .retained) && d.owner == bank

/-- Whether a context of a bank has a domain to itself: the domain is recorded for that bank, or the core's other bank holds no
context (R319). -/
def State.bankOwns (s : State) (n : Nat) (bank : Bool) (d : Dom) : Bool := d.owner == bank || ((s.core n).bankCtx (!bank)).mode == .off

/-- The records of a store's dirty regions (R320), in ascending domain and region. -/
def storeRecords (m : Memory) (dirty : List Nat) (ty : DomTy) (held : Nat → Bool) : List Byte :=
  (upto 0 (ty.last + 1)).flatMap (fun i =>
    let b := bankBytes ty i
    if held i then
      (upto 0 ((b.2 - b.1) / 4096)).flatMap (fun g =>
        if dirty.contains (b.1 / 4096 + g) then regionRecord (domCode ty) i g (m.readN (b.1 + 4096 * g) 4096) else [])
    else [])

/-! ## Saving (R318 steps 4 to 6, R319) -/

/-- The mask of the domains of a type in a state, as a save area of a bank records it (R319): cluster domains are the
lowest launch core's (`lead`). -/
def State.saveMask (s : State) (n : Nat) (bank lead : Bool) (st : DomSt) (ty : DomTy) : Nat :=
  ((upto 0 (ty.last + 1)).map (fun i =>
    let d := s.dom n ty i
    let on := match ty with
      | .maq => lead && d.st == st
      | .wbb => lead && d.st == st && s.bankOwns n bank d
      | .ce => d.st == st && (s.cluster (clusterOf n)).ceRefs.contains (n, bank)
      | _ => d.st == st && s.bankOwns n bank d
    if on then 2 ^ i else 0)).foldl (· + ·) 0

/-- The domain types in the order of their codes (R35). -/
def domTypes : List DomTy := [.vlg, .gfb, .spb, .acb, .xe, .maq, .wbb, .ce]

/-- The C stream of a context's program: as its stop cut found it, in handler mode too (R309). -/
def Ctx.program (x : Ctx) : Stream := x.frame.cstream

/-- The doubleword at 0x0_00D0: C's head there is the program's. -/
def Ctx.saveFlags (x : Ctx) (ce : Bool) : Nat :=
  let b := fun (p : Bool) (n : Nat) => if p then 2 ^ n else 0
  let c := x.program
  b x.frame.handler 0 + b x.frame.pending.isSome 1 + b ce 2 + (if x.frame.handler then x.c.head % 2 ^ 15 * 2 ^ 4 else 0) +
    b c.anew 19 +
    (match c.kept with
     | some (n, g) => 2 ^ 20 + (n - bits x.sys.syncwin 24 8) % 16 * 2 ^ 21 + g % 65536 * 2 ^ 25
     | none => 0)

/-- The frame registers 0x0100 to 0x010F. -/
def Ctx.frameBytes (x : Ctx) : List Byte :=
  (upto 0x100 16).flatMap (fun n => leBytes 8 ((x.frameReg n).getD 0).toNat)

/-- Loop state of the four streams at their heads (R226, R323): COUNT, END, ITER and ACTIVE of each counter. -/
def Ctx.loopBytes (x : Ctx) : List Byte :=
  [x.program, x.l, x.v, x.s].flatMap (fun t => t.headLoops.flatMap (fun l =>
    leBytes 8 l.count ++ leBytes 8 l.last ++ leBytes 8 l.iter ++ leBytes 8 (if l.active then 1 else 0)))

/-- The registers at 0x0_0108. -/
def Regs.bytes (r : Regs) : List Byte :=
  let d := fun (vs : List Word) => vs.flatMap (fun v => leBytes 8 v.toNat)
  d r.s.toList ++ d r.pl.toList ++ d r.ps.toList ++ bytesOfLanes r.k.toList ++ d r.z.toList ++ d r.h.toList

/-- The value of a captured result, as the save area holds it. -/
def PendDst.bytes : PendDst → List Byte
  | .line _ _ v => bytesOfLanes v
  | .kreg _ v => leBytes 4 v.toNat
  | .zreg _ _ v => leBytes 8 v.toNat
  | .sq _ _ v => bytesOfLanes v
  | .send _ v => leBytes 8 v.toNat
  | .ptr _ _ v => leBytes 8 v.toNat

/-- The 16 entries of each of eight queues, from the head. -/
def queueBytes (qs : List (List QLine)) : List (Nat × List Byte) :=
  (upto 0 8).flatMap (fun q => ((qs.getD q []).zip (upto 0 16)).map (fun e => (4096 * q + 256 * e.2, bytesOfLanes e.1.lanes)))

/-- The kind of a captured result's place, and its number. -/
def PendDst.code : PendDst → Nat × Nat
  | .line x _ _ => (1, x.bits.toNat)
  | .kreg n _ => (2, n.toNat)
  | .zreg n _ _ => (3, n.toNat)
  | .sq q _ _ => (4, q.toNat)
  | .send _ _ => (5, 0)
  | .ptr inS p _ => (6, p.toNat + if inS then 16 else 0)

/-- The lanes, or the bits, that a captured result writes. -/
def PendDst.mask : PendDst → Word
  | .line _ m _ => m
  | .zreg _ m _ => m
  | _ => BitVec.allOnes 64

/-- The place of an entry in a queue. -/
def entryAt (q : List QLine) (id : Nat) : Nat := q.findIdx (fun e => e.id == id)

/-- The metadata of a captured result, 32 bytes: kind, number, stream, entry, mask, due cycle, issue cycle. -/
def Ctx.snapMeta (x : Ctx) (p : Pend) : List Byte :=
  let entry := match p.dst with
    | .sq q id _ => entryAt (x.squeue q) id
    | .send id _ => entryAt x.send id
    | _ => 0
  leBytes 1 p.dst.code.1 ++ leBytes 1 p.dst.code.2 ++ leBytes 1 (strmCode p.st) ++ leBytes 5 entry ++ leBytes 8 p.dst.mask.toNat ++
    leBytes 8 p.due ++ leBytes 8 p.issued

/-- The count of a queue, and which of its entries are filled: 4 bytes. -/
def countBytes (q : List QLine) : List Byte :=
  leBytes 2 q.length ++ leBytes 2 (((q.zip (upto 0 16)).map (fun e => if e.1.filled then 2 ^ e.2 else 0)).foldl (· + ·) 0)

/-- The records of an engine that wait, 16 places, and their count. -/
def recBytes (rs : List Word) : List Byte :=
  leBytes 8 rs.length ++ (rs ++ List.replicate (16 - rs.length) 0).flatMap (fun (r : Word) => leBytes 8 r.toNat)

/-- Offsets in the block of 2,608 bytes at 0x0_05D0, whose layout R319 leaves open (DESIGN CHOICE, log 32): broadcast values, who
has popped them and their count; send values; the counts of LQ0 to LQ7, SQ0 to SQ7 and the send queue; command words; records;
tiles; formats; snapshot metadata. -/
def bqAt : Nat := 0x5D0
@[inherit_doc bqAt] def sendAt : Nat := 0x620
@[inherit_doc bqAt] def countAt : Nat := 0x660
@[inherit_doc bqAt] def cmdAt : Nat := 0x6A8
@[inherit_doc bqAt] def recAt : Nat := 0x708
@[inherit_doc bqAt] def tileAt : Nat := 0x8A0
@[inherit_doc bqAt] def fmtAt : Nat := 0xCA0
@[inherit_doc bqAt] def snapAt : Nat := 0xDA0

/-- The pieces of that block. -/
def Ctx.blockPieces (x : Ctx) : List (Nat × List Byte) :=
  let flags := fun (e : BEntry) => (if e.l then 1 else 0) + (if e.v then 2 else 0) + (if e.s then 4 else 0)
  (x.bq.zip (upto 0 8)).map (fun e => (bqAt + 8 * e.2, leBytes 8 e.1.val.toNat)) ++
    (x.bq.zip (upto 0 8)).map (fun e => (bqAt + 64 + e.2, leBytes 1 (flags e.1))) ++
    [(bqAt + 72, leBytes 8 x.bq.length)] ++
    (x.send.zip (upto 0 8)).map (fun e => (sendAt + 8 * e.2, (bytesOfLanes e.1.lanes).take 8)) ++
    [(countAt, x.lq.flatMap countBytes ++ x.sq.flatMap countBytes ++ countBytes x.send),
     (cmdAt, x.eng.cmdw.flatMap (fun w => leBytes 8 w.toNat)), (recAt, x.eng.records.flatMap recBytes),
     (tileAt, x.eng.tiles.flatMap (fun t => leBytes 16 t.toNat)), (fmtAt, x.eng.fmts.flatMap (fun w => leBytes 8 w.toNat))] ++
    ((x.pend.filter (·.captured)).zip (upto 0 16)).map (fun p => (snapAt + 32 * p.2, x.snapMeta p.1))

/-- Writes pieces at offsets from a base. -/
def Memory.writeAll (m : Memory) (base : Nat) (ps : List (Nat × List Byte)) : Memory :=
  ps.foldl (fun m p => Memory.writeN m (base + p.1) p.2) m

/-- The pieces of a save area, up to its region records (R319). -/
def State.savePieces (s : State) (n : Nat) (bank lead : Bool) (x : Ctx) : List (Nat × List Byte) :=
  let snap := x.pend.filter (·.captured)
  let sys := fun (v : Nat) => leBytes 8 v
  [(0, leBytes 4 0x5843564C ++ leBytes 2 1 ++ leBytes 2 snap.length), (0x10, x.frameBytes),
   (0x90, (domTypes.flatMap (fun t => leBytes 4 (s.saveMask n bank lead .awake t))) ++
          domTypes.flatMap (fun t => leBytes 4 (s.saveMask n bank lead .retained t))),
   (0xD0, leBytes 8 (x.saveFlags ((s.cluster (clusterOf n)).ceRefs.contains (n, bank)))),
   (0xD8, sys x.sys.window.toNat ++ sys x.sys.srseed.toNat ++ sys x.sys.srseq.toNat ++ sys x.sys.ftbase.toNat ++
          sys x.sys.pwrset.toNat ++ sys x.sys.energyWord.toNat),
   (0x108, x.regs.bytes ++ x.loopBytes), (0x5C8, x.tok.map (BitVec.ofNat 8))] ++
  x.regs.grid.map (fun c => (0x1000 + 4 * c.1, leBytes 4 c.2.toNat)) ++
  (queueBytes x.lq).map (fun p => (0x5000 + p.1, p.2)) ++ (queueBytes x.sq).map (fun p => (0xD000 + p.1, p.2)) ++
  (snap.zip (upto 0 16)).map (fun p => (0x15000 + 256 * p.2, p.1.dst.bytes)) ++ x.blockPieces

/-- The storage-region records of a save area, and the last tag. -/
def State.saveRecords (s : State) (n : Nat) (bank lead : Bool) : List Byte :=
  let c := s.core n
  let k := s.cluster (clusterOf n)
  let held := fun (ty : DomTy) (i : Nat) => let d := s.dom n ty i; (d.st == .awake || d.st == .retained) && s.bankOwns n bank d
  storeRecords c.spad c.dirtySpad .spb (held .spb) ++ storeRecords c.acc c.dirtyAcc .acb (held .acb) ++
    (if lead then storeRecords k.wb k.wbDirty .wbb (held .wbb) else []) ++ leBytes 8 lastTag

/-- Saves a context of a core at a base (R318 steps 4 to 6); the context's domains then sleep, and its bank is free. Beside the
area the device keeps what R319 gives no place (`Saved`). The area is stored from the router of the core's cluster, in whole sectors, with
new checks (R360). -/
def State.saveCtx (s : State) (part order n : Nat) (active lead : Bool) (base : Nat) : State :=
  let c := s.core n
  let x := if active then c.ctx else c.alt
  let bank := if active then c.bank else !c.bank
  let area : Memory := Memory.writeAll [] 0 (s.savePieces n bank lead x)
  let recs := s.saveRecords n bank lead
  let k := s.cluster (clusterOf n)
  let keep : Saved :=
    { region := order, lcore := x.launch.lcore, ctx := x, packed := c.packed, bad := c.badSpad, badAcc := c.badAcc,
      wbPacked := if lead then k.wbPacked else [], wbBad := if lead then k.wbBad else [] }
  let gone : Ctx := { Ctx.init with counters := { x.counters with running := false } }.countOn x
  let s1 := (s.storeFrom (clusterRouter (clusterOf n)) part true base (area.readN 0 0x18000 ++ recs ++ List.replicate (32 * ceilDiv recs.length 32 - recs.length) 0)).modPart part (fun p => { p with saved := keep :: p.saved })
  let s2 := s1.modCore n (fun c => if active then { c with ctx := gone } else { c with alt := gone })
  (s2.sleepBank n bank).sleepCluster (clusterOf n)

/-! ## Restoring (R318 resume steps 1 to 3) -/

/-- A doubleword of a save area. -/
def areaWord (m : Memory) (base off : Nat) : Word := m.word (base + off)

/-- Doublewords of a save area as registers. -/
def areaRegs (m : Memory) (base off n : Nat) : Vector Word n := Vector.ofFn (fun i => m.word (base + off + 8 * i.val))

/-- The registers of a save area. -/
def areaBank (m : Memory) (base : Nat) (r : Regs) : Regs :=
  { r with
    s := areaRegs m base 0x108 32, pl := areaRegs m base 0x208 16, ps := areaRegs m base 0x288 16,
    k := Vector.ofFn (fun (i : Fin 16) => m.lane (base + 0x308 + 4 * i.val)), z := areaRegs m base 0x348 8,
    h := areaRegs m base 0x388 8,
    grid := (upto 0 4096).filterMap (fun i =>
      let v := m.lane (base + 0x1000 + 4 * i)
      if v = 0 then none else some (i, v)) }

/-- An entry of a queue of a save area: filled or claimed, with its lanes; its number, and the mark of an entry that failed its
check, are those of the kept entry. -/
def areaEntry (kept : List QLine) (i fresh : Nat) (filled : Bool) (v : List Lane) : QLine :=
  let e : QLine := kept.getD i { id := fresh + i, filled := filled, lanes := v, bad := none, left := 0, at_ := 0 }
  { e with filled := filled, lanes := if filled then v else e.lanes }

/-- A queue of a save area, from its count and its lines. -/
def areaQueue (m : Memory) (count lines : Nat) (kept : List QLine) (fresh : Nat) : List QLine :=
  (upto 0 (min 16 (leNat (m.readN count 2)))).map (fun i =>
    areaEntry kept i fresh (leNat (m.readN (count + 2) 2) / 2 ^ i % 2 == 1) (lanesOfBytes 64 (m.readN (lines + 256 * i) 256)))

/-- Eight queues of a save area. -/
def areaQueues (m : Memory) (counts lines : Nat) (kept : List (List QLine)) (fresh : Nat) : List (List QLine) :=
  (upto 0 8).map (fun q => areaQueue m (counts + 4 * q) (lines + 4096 * q) (kept.getD q []) (fresh + 16 * q))

/-- The send queue of a save area. -/
def areaSend (m : Memory) (base : Nat) (kept : List QLine) (fresh : Nat) : List QLine :=
  (upto 0 (min 8 (leNat (m.readN (base + countAt + 64) 2)))).map (fun i =>
    areaEntry kept i fresh (leNat (m.readN (base + countAt + 66) 2) / 2 ^ i % 2 == 1) (lanesOfBytes 2 (m.readN (base + sendAt + 8 * i) 8)))

/-- The broadcast queue of a save area. -/
def areaBq (m : Memory) (base : Nat) : List BEntry :=
  (upto 0 (min 8 (m.word (base + bqAt + 72)).toNat)).map (fun i =>
    let f := (m.read (base + bqAt + 64 + i)).toNat
    { val := m.word (base + bqAt + 8 * i), pushed := 0, l := f % 2 == 1, v := f / 2 % 2 == 1, s := f / 4 % 2 == 1 })

/-- The loop counters of a stream (0 to 3) in a save area: COUNT, END, ITER and ACTIVE; what else the model holds of a counter
is as it was kept. -/
def areaLoops (m : Memory) (base st : Nat) (kept : List Loop) : List Loop :=
  (kept.zip (upto 0 4)).map (fun l =>
    let w := fun (k : Nat) => (m.word (base + 0x3C8 + 128 * st + 32 * l.2 + 8 * k)).toNat
    { l.1 with count := w 0, last := w 1, iter := w 2, active := w 3 % 2 == 1 })

/-- A stream of a save area, at its head: its queue is refilled from there at the restart (R310). At another head than the kept
one it stands at no barrier word. -/
def areaStream (m : Memory) (base st : Nat) (t : Stream) : Stream :=
  let head := (m.word (base + 0x18 + 8 * st)).toNat % 2 ^ 15
  let u := { t with queue := [], fetch := head, loops := areaLoops m base st t.headLoops, ended := false }
  if t.head = head then u else { u with stand := none, anew := false, posted := [], pages := [], kept := none }

/-- The captured results of a save area: the value of each, at the place that its metadata names; the lanes whose groups it touches are
as they were kept. -/
def areaSnap (m : Memory) (base : Nat) (kept : List Pend) (sq send : List (List QLine)) : List Pend :=
  (upto 0 (min 16 (leNat (m.readN (base + 6) 2)))).filterMap (fun i =>
    let a := base + snapAt + 32 * i
    let n := (m.read (a + 1)).toNat
    let id := fun (q : List QLine) => ((q[leNat (m.readN (a + 3) 5)]?).map (·.id)).getD 0
    let v := lanesOfBytes 64 (m.readN (base + 0x15000 + 256 * i) 256)
    let w := m.word (base + 0x15000 + 256 * i)
    let st : Strm := match (m.read (a + 2)).toNat with
      | 0 => .c
      | 1 => .l
      | 2 => .v
      | _ => .s
    let put := fun (d : PendDst) => some ({ due := (m.word (a + 16)).toNat, issued := (m.word (a + 24)).toNat, st := st, dst := d,
                                            mask := ((kept[i]?).map (·.mask)).getD 0, captured := true } : Pend)
    match (m.read a).toNat with
    | 1 => (Line.ofBits (BitVec.ofNat 8 n)).bind (fun x => put (.line x (m.word (a + 8)) v))
    | 2 => put (.kreg (BitVec.ofNat 4 n) (w.setWidth 32))
    | 3 => put (.zreg (BitVec.ofNat 3 n) (m.word (a + 8)) w)
    | 4 => put (.sq (BitVec.ofNat 3 n) (id (sq.getD n [])) v)
    | 5 => put (.send (id (send.headD [])) w)
    | 6 => put (.ptr (16 ≤ n) (BitVec.ofNat 4 n) w)
    | _ => none)

/-- A tile entry of a save area: its reserved bits and INUSE read as zero, whatever the area holds (R8, R28). -/
def areaTile (t : Nat) : TileImage := BitVec.ofNat 128 (t % 2 ^ 124 / 2 ^ 48 * 2 ^ 48 + t / 2 ^ 125 % 2 * 2 ^ 125)

/-- The engine registers of a save area. -/
def areaEngines (m : Memory) (base : Nat) (e : Engines) : Engines :=
  { e with
    cmdw := (upto 0 12).map (fun i => m.word (base + cmdAt + 8 * i))
    records := (upto 0 3).map (fun k => (upto 0 (min 16 (m.word (base + recAt + 136 * k)).toNat)).map (fun i => m.word (base + recAt + 136 * k + 8 + 8 * i)))
    tiles := (upto 0 64).map (fun i => areaTile (leNat (m.readN (base + tileAt + 16 * i) 16)))
    fmts := (upto 0 32).map (fun i => m.word (base + fmtAt + 8 * i)) }

/-- The context that a save area gives, with the kept values of what R319 gives no place. Reserved bits of a register read as
zero (R8), whatever the area holds. -/
def restoreCtx (m : Memory) (base : Nat) (x : Ctx) : Ctx :=
  let w := areaWord m base
  let flags := w 0xD0
  let sq := areaQueues m (base + countAt + 32) (base + 0xD000) x.sq (x.nextId + 128)
  let send := areaSend m base x.send (x.nextId + 256)
  let cs := { areaStream m base 0 x.program with
    anew := bitAt flags 19
    kept := if bitAt flags 20 then some (bits flags 21 4 + bits x.sys.syncwin 24 8, bits flags 25 16) else none }
  { x with
    mode := .stopped
    nextId := x.nextId + 264
    regs := areaBank m base x.regs
    c := if bitAt flags 0 then { x.c with queue := [], fetch := bits flags 4 15 } else cs
    l := areaStream m base 1 x.l, v := areaStream m base 2 x.v, s := areaStream m base 3 x.s
    tok := (m.readN (base + 0x5C8) 8).map (·.toNat)
    lq := areaQueues m (base + countAt) (base + 0x5000) x.lq x.nextId
    sq := sq, send := send, bq := areaBq m base, eng := areaEngines m base x.eng
    pend := x.pend.filter (fun p => !p.captured) ++ areaSnap m base (x.pend.filter (·.captured)) sq [send]
    sys := { x.sys with
      window := windowValue (w 0xD8), srseed := (w 0xE0).setWidth 32, srseq := (w 0xE8).setWidth 32, ftbase := (w 0xF0).setWidth 5,
      pwrset := pwrValue (w 0xF8), energy := (w 0x100).setWidth 48, energySat := bitAt (w 0x100) 63, charge := 0 }
    frame := { x.frame with
      fstat := w 0x10 &&& fstatMask, heads := (upto 0 4).map (fun i => (w (0x18 + 8 * i)).setWidth 15), fva := w 0x38
      finfo := w 0x40 &&& finfoMask, frec := w 0x48, ftime := w 0x50, cstream := cs, handler := bitAt flags 0
      pending := if bitAt flags 1 then x.frame.pending else none } }

/-- A byte of a save area of a core as it is read back (R366). The spec does not say what stands where it cannot be read: a free value
(R351, R358, R360; DESIGN CHOICE, log 96). -/
def State.areaByte (s : State) (n a : Nat) : Byte :=
  if s.reachesFrom (clusterRouter (clusterOf n)) a && !s.isDead a && s.sectorSound (a / 32) then s.devByte true a
  else (Config.freeValue (s.fresh + a)).setWidth 8

/-- A save area as it is read back: its 96 KiB before the records. -/
def State.areaView (s : State) (n base : Nat) : Memory :=
  (upto base 0x18000).filterMap (fun a => if s.areaByte n a = 0 then none else some (a, s.areaByte n a))

/-- The storage-region records of a save area: at most 512 + 768 + 2,048 (R320). -/
def State.areaRecords (s : State) (n base : Nat) : List RegionRec :=
  readRecords (fun a k => (upto a k).map (s.areaByte n)) 3328 (base + 0x18000)

/-- The length of a save area as it is read back. -/
def State.areaLength (s : State) (n base : Nat) : Nat := (s.areaRecords n base).foldl (fun a r => a + r.size) 0x18008

/-- Whether a resume or a placement leaves a domain as it is: the other bank holds it (log 33). -/
def State.heldElsewhere (s : State) (n : Nat) (bank : Bool) (ty : DomTy) (i : Nat) : Bool :=
  recordsBank ty && (s.dom n ty i).st != .off && (s.dom n ty i).owner != bank

/-- The domains of a type that the save area of a launch core lists, in index order: awake or retained (R319). -/
def areaDoms (m : Memory) (base : Nat) (ty : DomTy) : List Nat :=
  maskIxs ty (m.lane (base + 0x90 + 4 * domCode ty) ||| m.lane (base + 0xB0 + 4 * domCode ty))

/-- The types in the order of the wakes: a core's, then a cluster's (R318 resume step 1). -/
def wakeOrder : List DomTy := [.gfb, .vlg, .spb, .acb, .xe]
@[inherit_doc wakeOrder] def clusterWakeOrder : List DomTy := [.wbb, .maq, .ce]

/-- The domains of one type of a save area join the wake queue of a core (R143). -/
def State.wakeArea (s : State) (by_ n : Nat) (bank : Bool) (base : Nat) (m : Memory) (ty : DomTy) : State :=
  (areaDoms m base ty).foldl (fun t i => if t.heldElsewhere n bank ty i then t else t.joinWake by_ bank ty i) s

/-- Resume step 1 of R318, for launch cores in ascending order, each with its bank, its save area's base and the area: a core's domains by
itself, the cluster's by its lowest launch core of these. CE's reference bits are those of the areas. -/
def State.wakeSaved (s : State) (areas : List (Nat × Bool × Nat × Memory)) : State :=
  let s1 := areas.foldl (fun t a => wakeOrder.foldl (fun t ty => t.wakeArea a.1 a.1 a.2.1 a.2.2.1 a.2.2.2 ty) t) s
  let s2 := areas.foldl (fun t a => if areaDoms a.2.2.2 a.2.2.1 .ce = [] then t else t.setCeRef a.1 a.2.1) s1
  let lead := fun (n : Nat) => ((areas.find? (fun b => clusterOf b.1 == clusterOf n)).map (·.1)).getD n
  areas.foldl (fun t a => clusterWakeOrder.foldl (fun t ty => t.wakeArea (lead a.1) a.1 a.2.1 a.2.2.1 a.2.2.2 ty) t) s2

/-- Whether every domain of a save area has been woken. -/
def State.areaAwake (s : State) (n base : Nat) (m : Memory) : Bool :=
  domTypes.all (fun ty => (areaDoms m base ty).all (fun i => (s.dom n ty i).st != .waking))

/-- Retained domains return to retention (R318 resume step 2). -/
def State.retainArea (s : State) (n : Nat) (bank : Bool) (base : Nat) (m : Memory) : State :=
  domTypes.foldl (fun t ty => (maskIxs ty (m.lane (base + 0xB0 + 4 * domCode ty))).foldl (fun t i =>
    if t.heldElsewhere n bank ty i then t else t.setDom n ty i { t.dom n ty i with st := .retained }) t) s

/-- One storage-region record is written back (R320), into a domain that the bank holds. -/
def State.restoreRecord (s : State) (n : Nat) (bank : Bool) (r : RegionRec) : State :=
  let held := fun (ty : DomTy) => (s.dom n ty r.ix).heldBy bank
  match r.ty with
  | 2 => if held .spb then s.modCore n (fun c => { c with
      spad := c.spad.writeN (r.ix * 0x10000 + 4096 * r.reg) r.bytes, dirtySpad := addOnce c.dirtySpad (r.ix * 16 + r.reg) }) else s
  | 3 => if held .acb then s.modCore n (fun c => { c with
      acc := c.acc.writeN (r.ix * 0x20000 + 4096 * r.reg) r.bytes, dirtyAcc := addOnce c.dirtyAcc (r.ix * 32 + r.reg) }) else s
  | 6 => if held .wbb then s.modCluster (clusterOf n) (fun c => { c with
      wb := c.wb.writeN (r.ix * 0x80000 + 4096 * r.reg) r.bytes, wbDirty := addOnce c.wbDirty (r.ix * 128 + r.reg) }) else s
  | _ => s

/-- What the reads of a save area of a core do, by the router of its cluster: their flits pass, an error that is corrected counts, and one that
is not, or a slice that does not answer, leaves its machine-check record (R352, R358, R361, R362). -/
def State.areaFetch (s : State) (part core base n : Nat) : State :=
  let t := (s.linesCarry (clusterRouter (clusterOf core)) base n false).fetched base n
  if t.devSound base n then t else t.checkAt (t.devSite base n) part

/-- Sets the entries of a table. -/
def putAll {α : Type} (m more : Store α) : Store α := more.foldl (fun m e => m.put e.1 e.2) m

/-- Restores a context of a core from its save area, into the active bank or the resident one; it stands stopped. Its domains are awake.
The counters are the bank's, zeroed when the launch's context has not stood in it before (R325). The marks of the stores come back with the domains that the bank holds. -/
def State.restoreCore (s : State) (part : Nat) (k : Saved) (n : Nat) (active : Bool) (base : Nat) : State :=
  let bank := if active then (s.core n).bank else !(s.core n).bank
  let m := s.areaView n base
  let recs := s.areaRecords n base
  let x := restoreCtx m base k.ctx
  let s1 := (s.areaFetch part n base (s.areaLength n base)).retainArea n bank base m
  let s2 := recs.foldl (fun t r => t.restoreRecord n bank r) s1
  let held := fun (ty : DomTy) (bytes unit k : Nat) => (s2.dom n ty (k * unit / bytes)).heldBy bank
  let s3 := s2.modCore n (fun c => { c with
    packed := addAll c.packed (k.packed.filter (held .spb 0x10000 256))
    badSpad := putAll c.badSpad (k.bad.filter (fun e => held .spb 0x10000 32 e.1))
    badAcc := putAll c.badAcc (k.badAcc.filter (fun e => held .acb 0x20000 32 e.1)) })
  let s4 := s3.modCluster (clusterOf n) (fun c => { c with
    wbPacked := addAll c.wbPacked (k.wbPacked.filter (held .wbb 0x80000 256))
    wbBad := putAll c.wbBad (k.wbBad.filter (fun e => held .wbb 0x80000 32 e.1)) })
  s4.modCore n (fun c =>
    let old := if active then c.ctx else c.alt
    let y := { x with
      counters := if x.launch.banks.contains bank then old.counters else Counters.init
      launch := { x.launch with banks := if x.launch.banks.contains bank then x.launch.banks else bank :: x.launch.banks } }
    if active then { c with ctx := y.countOn c.ctx } else { c with alt := y })

end Sys2Proof.Machine
end

