-- ==== Sys2Proof/Machine/Preempt.lean ====
section
/-! DEFINITION. Stops and restarts: taking a fault whose stop waited (R305), forwards (R313), pre-emption and resume (R317,
R318), the end of a launch by Sapwood (R283, R284), bank sharing (R382, R383), DBGHALT (R336). -/

namespace Sys2Proof.Machine

/-! ## Stops -/

/-- The launch cores of the running regions of a partition, each with its region: those whose launch goes on, and also those that stand
after a forward (R313). -/
def State.running (s : State) (part : Nat) : List (Nat × Nat) :=
  ((s.part part).regions.filter (fun r => r.st == .running)).flatMap (fun r => r.left.map (fun n => (r.order, n)))

/-- A context that stands keeps a fault pending: it is entered at its vector when the context runs again (R318). -/
def Ctx.keepFault (x : Ctx) (t : Trap) (st : Strm) : Ctx :=
  { x with frame := { x.frame with pending := x.frame.pending.or (some (t, st)) } }

/-- The BREAK of R336 on one launch core of a region. A core in handler mode takes it there. One that stops already keeps the fault that
was due (R79); a stop for an exchange gives way to it; one that stands, or stops, for an exchange, a pre-emption or a forward keeps it
pending, so that the core does not issue before it (DEDUCED, log 43). -/
def State.haltOne (s : State) (part order n : Nat) : State :=
  let brk := breakTrap 4
  if (s.ctx n).belongs part order then
    match (s.ctx n).mode with
    | .run =>
      if !(s.ctx n).frame.handler then s.raise n .c brk
      else if (s.ctx n).stopWaits then s.stopWait n (some (brk, .c)) else s.takeFault n .c brk
    | .stopping none =>
      if (s.core n).exchangeDue then
        (s.modCtx n (fun x => { x with mode := .stopping (some (brk, .c)) })).modCore n (fun c => { c with exchangeDue := false })
      else s.modCtx n (fun x => x.keepFault brk .c)
    | .stopping (some _) => s
    | _ => s.modCtx n (fun x => x.keepFault brk .c)
  else if (s.core n).alt.belongs part order then s.modCore n (fun c => { c with alt := c.alt.keepFault brk .c })
  else s

/-- R336: every launch core of the running regions stops with BREAK and CODE 0x0004, each in its first cycle of one nanosecond of the
time base, as the routers of the clusters hold it: the one after the write (DESIGN CHOICE, log 43). The write acts while an unlock has
opened SCOPE[1] (R346; DEDUCED, log 43). -/
def execDbghalt (part : Nat) (s : State) : Host.Outcome State Fault Refusal :=
  .next (if !bitAt s.mgmt.scopes 1 then s
    else s.modPart part (fun p => { p with halts := p.halts ++ (s.running part).map (fun k => (s.time + 1, k.1, k.2)) }))

/-- Whether a stop of DBGHALT is one that is due on a core. -/
def State.isDue (s : State) (n : Nat) (k : Nat × Nat × Nat) : Bool := k.2.2 == n && k.1 ≤ s.timeAt (clusterOf n)

/-- Whether a stop of DBGHALT is due on a core (R336). -/
def State.haltDue (s : State) (n : Nat) : Bool := s.parts.any (fun p => p.2.halts.any (s.isDue n))

/-- The stops of DBGHALT that are due on a core. -/
def State.takeHalts (s : State) (n : Nat) : State :=
  if s.haltDue n then
    s.parts.foldl (fun t p => (p.2.halts.filter (s.isDue n)).foldl (fun u k => u.haltOne p.1 k.2.1 n)
      (t.modPart p.1 (fun q => { q with halts := q.halts.filter (fun k => !s.isDue n k) }))) s
  else s

/-- The stop of a core goes on (R305, R318): a fault whose stop waited is taken, a stop for Sapwood is complete, or a fault kept pending
at a restart is taken. -/
def State.stopGo (s : State) (core : Nat) : State :=
  let x := s.ctx core
  match x.mode, x.frame.pending with
  | .stopping (some (t, st)), _ => if x.stopWaits then s else s.takeFault core st t
  | .stopping none, _ =>
    if x.stopWaits then s
    else
      let t := (s.stopCut core).modCtx core (fun x => { x with mode := .stopped })
      if s.preempting x then t.endLease core else t
  | .run, some (t, st) =>
    (s.modCtx core (fun x => { x with frame := { x.frame with pending := none } })).raise core st t
  | _, _ => s

/-- R305, R318, R336: a stop of DBGHALT that is due comes first. -/
def execFaultStop (core : Nat) (s : State) : Host.Outcome State Fault Refusal := .next ((s.takeHalts core).stopGo core)

/-! ## Restarts (R310, R318) -/

/-- A context restarts, with e the last cycle before it. A core in handler mode goes on in it: what issued in handler mode
moves by e less its halt, and the frame stays the fault's; the halt's Δ is off the count of R337 until the program's own stop ends. -/
def Ctx.restart (x : Ctx) (e : Nat) : Ctx :=
  if x.frame.handler then
    let delta := e - x.frame.halted
    { x with
      mode := .run
      c := { x.c with last := x.c.last + delta, notBefore := e + 1 }
      launch := { x.launch with delta := x.launch.delta + delta }
      frame := { x.frame with lag := x.frame.lag + delta }
      pend := x.pend.map (fun p =>
        if p.captured && x.frame.f < p.issued then { p with due := p.due + delta, captured := false } else p) }
  else x.resume e false

/-- The active context of a core restarts after cycle e, its queues refilled: a segment starts (R327), and the count toward
SLICE (R383). -/
def State.restart (s : State) (n e : Nat) : State :=
  let t := ((s.modCtx n (fun x => x.restart e)).modCore n (fun c => { c with since := e + 1, exchange := none })).refill n
  if (t.ctx n).counters.running then t else t.startPacket n false

/-- A resume takes the partition's trace and race modes anew (R247, R328). -/
def Ctx.remode (x : Ctx) (p : Part) (time : Nat) : Ctx := { x with launch := x.launch.remode p time }

/-! ## Forwards (R313) -/

/-- Whether a core's context of a region stands stopped, in either bank. -/
def State.stoodStill (s : State) (part order n : Nat) : Bool :=
  let c := s.core n
  (c.ctx.belongs part order && c.ctx.mode == .stopped && c.exchange.isNone) || (c.alt.belongs part order && c.alt.mode == .stopped)

/-- Whether the wakes of a placement on any of the cores are in progress (R382). -/
def State.placingOn (s : State) (part : Nat) (cores : List Nat) : Bool :=
  match (s.part part).placing with
  | some (order, true) => ((s.part part).region order).any (fun r => r.cores.any cores.contains)
  | _ => false

/-- R313 steps 3 and 4: with FDOM = 0, once the last launch core of the region has halted, its contexts go into the resident
banks by exchanges of R383, during which commands and posted accesses go on, and which end 192 cycles later (R4); a placed region
then runs from its own stop cut. A placement that is in progress on these cores ends first (R382; DEDUCED, log 33). -/
def execFwd (core : Nat) (s : State) : Host.Outcome State Fault Refusal :=
  let x := s.ctx core
  let part := x.launch.part
  .next (match s.regionFor x with
    | none => s
    | some r =>
      if (s.part part).posted.contains (r.order, core) && x.belongs part r.order && !r.fdom && !r.held && !s.placingOn part r.cores &&
          r.left.all (fun n => s.stoodStill part r.order n &&
            ((s.core n).alt.belongs part r.order || (s.core n).direct.isEmpty)) then
        r.left.foldl (fun t n =>
          if (t.ctx n).belongs part r.order then t.exchangeFrom n (t.cyc n) else t)
          (s.modRegion part r.order (fun r => { r with held := true }))
      else s)

/-! ## PCTL (R317, R318) -/

/-- A PCTL operation has ended: BUSY clears, and PCTLDONE is set. -/
def State.pctlDone (s : State) (part : Nat) : State :=
  (s.modPart part (fun p => { p with pctlBusy := false, pctlOp := none })).raisePart part 2

/-- The save area of a launch core (R317). -/
def Part.areaAt (p : Part) (lcore : Nat) : Nat := bits p.psave 16 26 * 65536 + lcore * 0x1000000

/-- Whether every launch core's save area lies in the partition's memory (R317). -/
def State.areasOk (s : State) (p : Part) (cores : Nat) : Bool :=
  s.isLocal (bits p.psave 16 36 * 65536) && bits p.psave 52 4 == 0 && p.memBase ≤ p.areaAt 0 && p.areaAt cores ≤ p.memBase + p.memLen

/-- The region of a REGID that a PCTL operation may name: the oldest. -/
def Part.named (p : Part) (regid : Nat) (ok : Region → Bool) : Option Region :=
  if p.pctlBusy then none else p.regions.find? (fun r => r.regid == regid && ok r)

/-- Stops the context of a core for a pre-emption (R318 step 1): when it stands, its array lease ends (R195). -/
def State.stopFor (s : State) (n : Nat) : State :=
  let t := s.halt n
  if (t.ctx n).mode == .stopped then t.endLease n else t

/-- R317, R318 step 1: a pre-emption stops every launch core at its own stop cut. -/
def State.preempt (s : State) (part regid : Nat) : State :=
  let p := s.part part
  match p.named regid (fun r => r.st == .running) with
  | none => s
  | some r =>
    if s.areasOk p r.cores.length then
      r.left.foldl (fun t n => if (t.ctx n).belongs part r.order then t.stopFor n else t)
        (s.modPart part (fun p => { p with pctlBusy := true, pctlRegid := BitVec.ofNat 16 regid, pctlOp := some (1, r.order, false) }))
    else s

/-- R317: a resume is begun, of a pre-empted region or of one that waits after a forward. -/
def State.resumeRegion (s : State) (part regid : Nat) : State :=
  match (s.part part).named regid (fun r => r.st == .preempted || r.held) with
  | none => s
  | some r => s.modPart part (fun p => { p with pctlBusy := true, pctlRegid := BitVec.ofNat 16 regid, pctlOp := some (2, r.order, false) })

/-- The context of a launch core of a region, wherever it stands: in the active bank, in the resident one, or saved. -/
def State.contextOf (s : State) (part : Nat) (r : Region) (n : Nat) : Option Ctx :=
  if (s.core n).ctx.belongs part r.order then some (s.core n).ctx
  else if (s.core n).alt.belongs part r.order then some (s.core n).alt
  else ((s.part part).saved.find? (fun k => k.region == r.order && r.cores[k.lcore]? == some n)).map (·.ctx)

/-- ERRCODE of a region that Sapwood ends (R276): of the fault that a launch core has forwarded, or 0xFF. -/
def State.endCode (s : State) (part : Nat) (r : Region) : Nat :=
  match r.cores.find? (fun n => (s.part part).posted.contains (r.order, n)) with
  | some n =>
    (match s.contextOf part r n with
     | some x => 0x80 + bits x.frame.fstat 0 7
     | none => 0xFF)
  | none => 0xFF

/-- A region ends by system software with an ERRCODE: every launch core's launch ends (R276, R283). -/
def State.killRegion (s : State) (part : Nat) (r : Region) (err : Nat) : State :=
  r.left.foldl (fun t n => t.endCore part r.order n)
    (s.modRegion part r.order (fun r => { r with err := if r.err = 0 then err else r.err, held := false }))

/-- R317: OP 3. -/
def State.endRegionOp (s : State) (part regid : Nat) : State :=
  match (s.part part).named regid (fun r => r.st == .running || r.st == .preempted) with
  | none => s
  | some r =>
    ((s.modPart part (fun p => { p with pctlRegid := BitVec.ofNat 16 regid })).killRegion part r (s.endCode part r)).pctlDone part

/-- The launch core that a write with ONE = 1 names: of a region with FDOM = 1, stopped by a forward (R317). -/
def State.oneCore (s : State) (part regid lcore : Nat) : Option Nat :=
  match (s.part part).named regid (fun r => r.st == .running && r.fdom) with
  | none => none
  | some r =>
    match r.cores[lcore]? with
    | some n => if (s.part part).posted.contains (r.order, n) && (s.ctx n).belongs part r.order && (s.ctx n).mode == .stopped then some n else none
    | none => none

/-- Whether a write of PCTL is ignored (R317): while BUSY; with ONE = 1 of a core that it may not name, or with OP 1; with OP 1 when the
save areas do not lie in the partition's memory. -/
def State.pctlIgnores (s : State) (part regid op lcore : Nat) (one : Bool) : Bool :=
  (s.part part).pctlBusy ||
    (if one then op == 1 || (s.oneCore part regid lcore).isNone
     else op == 1 && ((s.part part).named regid (fun r => r.st == .running)).any (fun r => !s.areasOk (s.part part) r.cores.length))

/-- R313: Sapwood resumes the forwarding core alone; it goes on in handler mode at the word after its `c.mtsr`. -/
def State.resumeOne (s : State) (part regid lcore : Nat) : State :=
  match s.oneCore part regid lcore with
  | none => s
  | some n =>
    let order := (s.ctx n).launch.region
    ((s.modPart part (fun p => { p with
      pctlRegid := BitVec.ofNat 16 regid, posted := p.posted.filter (fun k => k != (order, n)) })).restart n (s.cyc n)).pctlDone part

/-- R283, R284: Sapwood makes a forwarded fault fatal: the core's scratchpad is fenced, and its launch ends alone. -/
def State.endOne (s : State) (part regid lcore : Nat) : State :=
  match s.oneCore part regid lcore with
  | none => s
  | some n =>
    let code := 0x80 + bits (s.ctx n).frame.fstat 0 7
    let order := (s.ctx n).launch.region
    let t := s.modPart part (fun p => { p with pctlRegid := BitVec.ofNat 16 regid })
    ((t.modRegion part order (fun r => { r with err := code, fenced := addOnce r.fenced lcore })).endCore part order n).pctlDone part

/-- R317, R318. -/
def execPctlPreempt (part regid : Nat) (s : State) : Host.Outcome State Fault Refusal := .next (if s.mgmt.swHeld then s else s.preempt part regid)

/-- R317, R318. -/
def execPctlResume (part regid : Nat) (s : State) : Host.Outcome State Fault Refusal := .next (if s.mgmt.swHeld then s else s.resumeRegion part regid)

/-- R276, R317. -/
def execPctlEnd (part regid : Nat) (s : State) : Host.Outcome State Fault Refusal := .next (if s.mgmt.swHeld then s else s.endRegionOp part regid)

/-- R313, R317. -/
def execPctlOneResume (part regid lcore : Nat) (s : State) : Host.Outcome State Fault Refusal :=
  .next (if s.mgmt.swHeld then s else s.resumeOne part regid lcore)

/-- R283, R284, R317. -/
def execPctlOneEnd (part regid lcore : Nat) (s : State) : Host.Outcome State Fault Refusal := .next (if s.mgmt.swHeld then s else s.endOne part regid lcore)

/-- Whether no wake and no sleep of a domain is in progress. -/
def Dom.calm (d : Dom) : Bool := d.st != .waking && d.sleptAt.isNone

/-- Whether the wakes and sleeps of a bank's domains on a core are complete, the cluster's that its context has woken included
(R318 step 2). -/
def State.domsCalm (s : State) (n : Nat) (bank : Bool) : Bool :=
  let c := s.cluster (clusterOf n)
  (s.core n).doms.all (fun d => d.2.owner != bank || d.2.calm) &&
    c.doms.all (fun d => match (clusterSlot d.1).1 with
      | .wbb => !s.bankOwns n bank d.2 || d.2.calm
      | .ce => !c.ceRefs.contains (n, bank) || d.2.calm
      | _ => d.2.calm)

/-- Whether the commands of a context have completed, or stand paused at a migrating page, and its accesses have performed
(R318 step 3). -/
def Ctx.drainedForSave (x : Ctx) : Bool := x.eng.live.all (fun k => k.paused && !k.migr.isEmpty) && x.fifo.all (fun q => q.2.isEmpty)

/-- Whether the flits of a core's save area move now (R351, R353): until they do, the save or the resume waits. -/
def State.areaMoves (s : State) (n base len : Nat) (wr : Bool) : Bool := s.linesMove (clusterRouter (clusterOf n)) base len wr

/-- Whether a launch core of a region may be saved. -/
def State.mayShelve (s : State) (part order n : Nat) : Bool :=
  let c := s.core n
  s.stoodStill part order n &&
    (if c.ctx.belongs part order then !c.ctx.counters.running && s.domsCalm n c.bank && c.ctx.drainedForSave && c.direct.isEmpty
     else !c.alt.counters.running && s.domsCalm n (!c.bank) && c.alt.drainedForSave)

/-- The stop packet of a launch core that stands for a pre-emption (R327): its last classed cycle is counted. -/
def State.seal (s : State) (part order n : Nat) : State :=
  let off := fun (x : Ctx) => { x with counters := { x.counters with running := false } }
  if !s.stoodStill part order n then s
  else if (s.ctx n).belongs part order then
    if s.cyc n ≤ max (s.ctx n).frame.f (s.ctx n).frame.halted then s else (s.stopPacket (s.ctx n)).modCtx n off
  else (s.stopPacket (s.core n).alt).modCore n (fun c => { c with alt := off c.alt })

/-- R318 steps 2 to 6: when the launch cores stand and all that was in progress is complete, their contexts and storage go
out to the save areas, the cluster's domains with the lowest launch core that has not ended; BUSY clears, and the clusters are free. -/
def execPreemptDone (part : Nat) (s : State) : Host.Outcome State Fault Refusal :=
  let p := s.part part
  .next (match p.pctlOp with
    | some (1, order, _) =>
      (match p.regions.find? (fun r => r.order == order && r.st == .running) with
       | none => s.pctlDone part
       | some r =>
         let u := r.left.foldl (fun t n => t.seal part order n) s
         if r.left.all (fun n => u.mayShelve part order n && u.areaMoves n (p.areaAt (r.cores.idxOf n)) 0x18000 true) then
           let lead := fun (n : Nat) => !r.left.any (fun k => k < n && clusterOf k == clusterOf n)
           ((r.left.foldl (fun t n =>
              t.saveCtx part order n ((t.ctx n).belongs part order) (lead n) (p.areaAt (r.cores.idxOf n))) u).modRegion part order
                (fun r => { r with st := .preempted, held := false })).pctlDone part
         else u)
    | _ => s)

/-- Whether the cores of a pre-empted region are free (R318): a region that is placed on its clusters has exactly its launch cores (R382). -/
def State.coresFree (s : State) (part : Nat) (p : Part) (r : Region) : Bool :=
  r.on.all (fun c => s.quiet c && !p.regions.any (fun o => o.order != r.order && s.claims part o c)) &&
    p.regions.all (fun o => !s.placed part o || o.cores == r.cores || !r.on.any o.on.contains)

/-- The replay records in a trace buffer, from an address on (R337): up to the first record of another kind, or one that cannot be read; at
most `k`. -/
def readLog (rd : Nat → Option (List Byte)) : Nat → Nat → List (List Byte)
  | 0, _ => []
  | k + 1, a =>
    match rd a with
    | some v => if num v 7 1 = 7 then v :: readLog rd k (a + 32) else []
    | none => []

/-- What a replay record says, when it is of a core (R337). -/
def logEntry (core : Nat) (v : List Byte) : Option (Strm × Nat × Nat × Nat) :=
  let h := num v 8 8
  let st : Strm := match h / 2 ^ 10 % 4 with
    | 0 => .c
    | 1 => .l
    | 2 => .v
    | _ => .s
  if h % 2 ^ 10 = core then some (st, num v 16 8, num v 24 8 % 2 ^ 15, h / 2 ^ 12 % 2 ^ 17) else none

/-- The records of the log at an address. -/
def State.logAt (s : State) (a : Nat) : List (List Byte) := readLog (fun a => s.ownBytes a 32) (2 ^ 27) a

/-- The log that a launch core replays from, when Sapwood has handed it one (R338). -/
def State.replayLog (s : State) (p : Part) (n lcore : Nat) : Option (List (Strm × Nat × Nat × Nat)) :=
  (p.replays.find lcore).map (fun a => (s.logAt a).filterMap (logEntry n))

/-- What the reads of the logs of a resume do, the record that ends each included. -/
def State.logsFetched (s : State) (p : Part) : State :=
  p.replays.foldl (fun t e => t.ownRead e.2 (32 * ((s.logAt e.2).length + 1))) s

/-- With a launch, a resume or a placement of the region the resident image's count of faults starts again (R307): H5 holds its key, and H6
the count. How Sapwood sees to it is DESIGN CHOICE, log 78. -/
def Ctx.recount (x : Ctx) (m : Mgmt) : Ctx :=
  if m.resident && m.images.isEmpty then { x with regs := { x.regs with h := (x.regs.h.set 5 0).set 6 0 } } else x

/-- A core of a region restarts in a resume: with the partition's modes (R247, R328), and the count of R307. -/
def State.resumeCore (s : State) (p : Part) (n : Nat) : State :=
  (s.modCtx n (fun x => (x.remode p (s.timeAt (clusterOf n))).recount s.mgmt)).restart n (s.cyc n)

/-- A region has no forward that waits for Sapwood. -/
def State.unpost (s : State) (part order : Nat) : State :=
  s.modPart part (fun p => { p with posted := p.posted.filter (fun k => k.1 != order) })

/-- A held region comes back from the resident banks (R313, R318): once its cores are free its contexts are exchanged (R4), and when
they stand in the active banks all restart together. -/
def State.resumeHeld (s : State) (part : Nat) (p : Part) (r : Region) : State :=
  let here := fun (n : Nat) => (s.ctx n).belongs part r.order
  if !r.left.all (fun n => (s.core n).exchange.isNone && (here n || (s.ctx n).mode == .off)) then s
  else if r.left.all here then
    (r.left.foldl (fun t n => t.resumeCore p n)
      ((s.modRegion part r.order (fun r => { r with held := false })).unpost part r.order)).pctlDone part
  else r.left.foldl (fun t n => if (t.ctx n).belongs part r.order then t else t.exchangeFrom n (t.cyc n)) s

/-- The kept contexts of a region, in the order of its launch cores, each with its core. -/
def Part.savedOf (p : Part) (r : Region) : List (Saved × Nat) :=
  (r.cores.zip (upto 0 r.cores.length)).filterMap (fun c =>
    (p.saved.find? (fun k => k.region == r.order && k.lcore == c.2)).map (fun k => (k, c.1)))

/-- The save areas of a region as the wakes of a resume or a placement read them. -/
def State.areas (s : State) (p : Part) (r : Region) (active : Bool) : List (Nat × Bool × Nat × Memory) :=
  (p.savedOf r).map (fun k =>
    let base := p.areaAt k.1.lcore
    (k.2, (s.core k.2).bank == active, base, s.areaView k.2 base))

/-- What that reading does: the masks of the domains are fetched (R319). -/
def State.areasFetched (s : State) (part : Nat) (p : Part) (r : Region) : State :=
  (p.savedOf r).foldl (fun t k => t.areaFetch part k.2 (p.areaAt k.1.lcore + 0x90) 0x40) s

/-- Whether the flits of a region's save areas move now. -/
def State.areasMove (s : State) (p : Part) (r : Region) : Bool :=
  (p.savedOf r).all (fun k => s.areaMoves k.2 (p.areaAt k.1.lcore) (s.areaLength k.2 (p.areaAt k.1.lcore)) false)

/-- Whether the domains of a region's save areas have been woken, and the areas can be read back. -/
def State.areasAwake (s : State) (p : Part) (r : Region) (active : Bool) : Bool :=
  (s.areas p r active).all (fun a => s.areaAwake a.1 a.2.2.1 a.2.2.2) && s.areasMove p r

/-- Resume steps 2 and 3 of R318 on a pre-empted region, whose kept contexts are then gone. -/
def State.restoreRegion (s : State) (part : Nat) (p : Part) (r : Region) (active : Bool) : State :=
  (((p.savedOf r).foldl (fun t k => t.restoreCore part k.1 k.2 active (p.areaAt k.1.lcore)) s).modPart part
    (fun p => { p with saved := p.saved.filter (fun k => k.region != r.order) })).unpost part r.order

/-- R318 resume step 4, and R310: the launch cores of a restored region restart together after cycle e, those that were given a log from
it (R338). -/
def State.resumeAll (s : State) (part : Nat) (p : Part) (r : Region) : State :=
  ((p.savedOf r).foldl (fun t k =>
    (t.modCtx k.2 (fun x => { x with launch := { x.launch with replay := s.replayLog p k.2 k.1.lcore } })).resumeCore p k.2)
    ((s.restoreRegion part p r true).logsFetched p)).modPart part (fun p => { p with replays := [] })

/-- R310, R318: a resume: once its cores are free, the region's domains join the wake queues (R143), and when they are awake the
contents and registers are restored, and all streams restart together. A region that waited after a forward comes back from the
resident banks. -/
def execResumeRestart (part : Nat) (s : State) : Host.Outcome State Fault Refusal :=
  let p := s.part part
  .next (match p.pctlOp with
    | some (2, order, woken) =>
      (match p.region order with
       | none => s.pctlDone part
       | some r =>
         if woken then (if s.areasAwake p r true then (s.resumeAll part p r).pctlDone part else s)
         else if r.held then s.resumeHeld part p r
         else if r.st ≠ .preempted then s.pctlDone part
         else if p.placing.all (fun k => k.1 ≠ order) && s.coresFree part p r then
           (((s.areasFetched part p r).wakeSaved (s.areas p r true)).modRegion part order (fun r => { r with st := .running })).modPart part
             (fun p => { p with pctlOp := some (2, order, true) })
         else s)
    | _ => s)

/-! ## Bank sharing (R382, R383) -/

/-- A write of SLICE (R382): 1 to 63 stores 64. -/
def sliceValue (slice : Nat) : Nat := if 1 ≤ slice ∧ slice < 64 then 64 else slice

/-- Whether a placement of a pre-empted region is valid (R382): its launch cores are those of the running region, or no region
runs on them; and its banks are free. A region that loads on them counts as one that runs. -/
def State.placeable (s : State) (part : Nat) (p : Part) (r : Region) : Bool :=
  let on := p.regions.filter (fun o => o.holds && !s.placed part o && o.cores.any r.cores.contains)
  on.all (fun o => o.cores == r.cores) && r.left.all (fun n => (s.core n).alt.mode == .off)

/-- The pre-empted region of a REGID that a placement may name: the oldest. -/
def State.placeFor (s : State) (part regid : Nat) : Option Region :=
  let p := s.part part
  (p.regions.find? (fun r => r.regid == regid && r.st == .preempted)).filter (s.placeable part p)

/-- R382: a write of BSHARE with OP 1: one that names no region that may be placed is ignored. -/
def State.place (s : State) (part slice regid : Nat) : State :=
  match if (s.part part).placing.isSome then none else s.placeFor part regid with
  | none => s
  | some r => s.modPart part (fun p => { p with
      placing := some (r.order, false), slice := sliceValue slice, bshare := BitVec.ofNat 64 (regid % 2 ^ 16) })

/-- R382: a write of BSHARE with OP 2: no timed exchange is made from now on. -/
def State.stopSharing (s : State) (part slice : Nat) : State :=
  if (s.part part).placing.isSome then s
  else s.modPart part (fun p => { p with shared := none, slice := sliceValue slice })

/-- R382. -/
def execBsharePlace (part : Nat) (slice : BitVec 16) (regid : Nat) (s : State) : Host.Outcome State Fault Refusal :=
  .next (if s.mgmt.swHeld then s else s.place part slice.toNat regid)

/-- R382. -/
def execBshareStop (part : Nat) (slice : BitVec 16) (s : State) : Host.Outcome State Fault Refusal :=
  .next (if s.mgmt.swHeld then s else s.stopSharing part slice.toNat)

/-- A placement has ended: BUSY clears, and PLACED is set (R371, R382). -/
def State.endPlacing (s : State) (part : Nat) : State := (s.modPart part (fun p => { p with placing := none })).raisePart part 3

/-- A placement ends without a region: one that has been ended meanwhile. What it has woken sleeps. -/
def State.dropPlacing (s : State) (part : Nat) : State :=
  let cores := ((s.part part).placing.bind (fun k => (s.part part).regions.find? (fun r => r.order == k.1))).elim [] (·.cores)
  cores.foldl (fun t n => if (t.core n).alt.mode == .off then (t.sleepBank n (!(t.core n).bank)).sleepCluster (clusterOf n) else t)
    (s.endPlacing part)

/-- The first cycle of a core after the one in which the time now lies (R383): its cluster's next cycle begins now, or later. -/
def State.afterNow (s : State) (n : Nat) : Nat := if (s.cluster (clusterOf n)).edge ≤ s.now then s.cyc n + 1 else s.cyc n

/-- The contexts of a restored region stand in the resident banks, and share them with the region that holds the active ones (R382). Their
counts of faults start again (R307), and a slice ends in the cycle after this one at the earliest (R383). -/
def State.placedNow (s : State) (part : Nat) (p : Part) (r : Region) : State :=
  let t := (p.savedOf r).foldl (fun t k =>
    t.modCore k.2 (fun c => { c with alt := (c.alt.remode p (t.timeAt (clusterOf k.2))).recount s.mgmt, paired := s.afterNow k.2 }))
    (s.restoreRegion part p r false)
  let other := (p.regions.find? (fun o => o.holds && o.order != r.order && o.cores == r.cores)).map (·.order)
  ((t.modRegion part r.order (fun r => { r with st := .running })).modPart part (fun p =>
    { p with shared := some (other.getD 0, r.order) })).endPlacing part

/-- R382: a placement goes on: the region's domains join the wake queues (R143) for the resident banks, and when they are awake its
contents and registers are restored there. -/
def execPlacementDone (part : Nat) (s : State) : Host.Outcome State Fault Refusal :=
  let p := s.part part
  .next (match p.placing with
    | none => s
    | some (order, woken) =>
      match p.regions.find? (fun r => r.order == order && r.st == .preempted) with
      | none => s.dropPlacing part
      | some r =>
        if woken then (if s.areasAwake p r false then s.placedNow part p r else s)
        else if s.placeable part p r then
          ((s.areasFetched part p r).wakeSaved (s.areas p r false)).modPart part (fun p => { p with placing := some (order, true) })
        else s.dropPlacing part)

/-- The first cycle that counts toward SLICE, once there is one (R383): the last restart, or cycle 0. -/
def Core.sliceFrom (c : Core) : Option Nat :=
  if c.since ≠ 0 then some c.since else if c.ctx.launch.zero = 0 then none else some c.ctx.launch.zero

/-- Whether a core's slice has run out (R383): both banks hold contexts, timed exchanges are made, the count has reached
SLICE, not before the cycle after the placement, and C is not in handler mode: after its `c.eret` the stop is due in the cycle after
that. -/
def State.sliceOut (s : State) (n : Nat) : Bool :=
  let c := s.core n
  let p := s.part c.ctx.launch.part
  c.ctx.mode == .run && !c.ctx.frame.handler && c.ctx.frame.left.all (fun e => e < s.cyc n) && c.ctx.frame.pending.isNone && c.exchange.isNone && s.altReady n && p.shared.isSome &&
    p.slice != 0 && c.paired ≤ s.cyc n && (match c.sliceFrom with
      | some q => q + p.slice ≤ s.cyc n
      | none => false)

/-- R383: a slice ends: the stop, at once or when accepted requests are released, and then the exchange of the banks. When by then
the other context may not run (its region is being pre-empted, R282), the stopped one goes on. -/
def execSliceExpiry (core : Nat) (s : State) : Host.Outcome State Fault Refusal :=
  let t := if s.sliceOut core then (s.modCore core (fun c => { c with exchangeDue := true })).halt core else s
  .next (if (t.core core).exchangeDue && (t.ctx core).mode == .stopped && (t.core core).direct.isEmpty then
    if t.altReady core then t.exchangeFrom core (t.ctx core).frame.f
    else if t.mayRun (t.ctx core) then (t.modCore core (fun c => { c with exchangeDue := false })).restart core (t.cyc core)
    else t
  else t)

/-- R383: at the end of an exchange the other context restarts under R310; one that may not run by then stays stopped. Where its launch has
been ended during the exchange, the exchange back to the other bank starts (R384). -/
def execBankRestart (core : Nat) (s : State) : Host.Outcome State Fault Refusal :=
  .next (match (s.core core).exchange with
    | some e =>
      if s.cyc core < e then s
      else if s.mayRun (s.ctx core) then (s.restart core e).modCore core (fun c => { c with exchange := some e })
      else if (s.ctx core).mode = .off && s.altReady core then s.exchangeFrom core (s.cyc core)
      else s
    | none => s)

end Sys2Proof.Machine
end

