-- ==== Sys2Proof/Machine/Rails.lean ====
section
/-! DEFINITION. The time base's beacons (R294, R295, R372), the rails (R374, R376), and the thermal trip (R378). -/

namespace Sys2Proof.Machine

/-! ## Beacons -/

/-- A signed value in 16 bits, saturating. -/
def sat16 (v : Int) : BitVec 16 := BitVec.ofInt 16 (max (-32768) (min 32767 v))

/-- The marking of a cluster (R295): its lease caches are discarded, MARKS counts, and SKEW is set. -/
def State.markSkewed (s : State) (cl : Nat) : State :=
  if (s.cluster cl).skewed then s
  else
    let s1 := s.modCluster cl (fun c => { c with
      skewed := true, goodBeacons := 0, copyLeases := [], marks := BitVec.ofNat 16 (min 0xFFFF (c.marks.toNat + 1)) })
    ((coresOf cl).foldl (fun t n => t.modCore n (fun c => { c with leases := [] })) s1).raiseMgmt 3

/-- After a beacon an access of either bank that waited for one may walk again (R243), and a copy command walks its migrating
page again (R301). -/
def State.rewalk (s : State) (cl : Nat) : State :=
  (coresOf cl).foldl (fun t n =>
    let free := fun (x : Ctx) => { x with fifo := x.fifo.map (fun q => (q.1, q.2.map (fun a => { a with parked := false }))) }
    let t1 := t.modCore n (fun c => { c with ctx := free c.ctx, alt := free c.alt })
    ((t1.ctx n).liveOf .copy ++ (t1.core n).alt.liveOf .copy).foldl (fun u k =>
      k.migr.foldl (fun u m => u.askWalk n m.2.1 (k.request m.1 m.2.1)) u) t1) s

/-- A copy after a beacon at a time (R294): it does not fall below what it read, and from now on it runs `drift` ns ahead of the time base,
or, negative, behind, until the next beacon (DESIGN CHOICE, log 88). -/
def Clock.align (c : Clock) (time : Nat) (drift : Int) : Clock := { hold := c.read time, off := drift, beacon := time }

/-- The beacon of a host link's router (R294, R348), which serves no cluster. -/
def State.hostBeacon (s : State) (link : Nat) (drift : Int) : State :=
  { s with fabric := { s.fabric with
      hostClocks := s.fabric.hostClocks.set link ((s.fabric.hostClocks.getD link Clock.init).align s.time drift) } }

/-- R294, R295: a beacon re-aligns the copy of router cl + 1, modulo 162: that of a cluster, or, from 160 on, that of host link 1 and of
host link 0. A copy found ahead holds its count until the beacon reaches it, and one behind steps forward; beyond ±8 ns the cluster is
marked, and two beacons within ±2 ns clear the marking. Until the next beacon the copy drifts by `drift` ns. -/
def execTimeBeacon (cl : Nat) (drift : Int) (s : State) : Host.Outcome State Fault Refusal :=
  if 160 ≤ cl then .next (s.hostBeacon (161 - cl) drift) else
  let found : Int := (s.timeAt cl : Int) - s.time
  let t := s.modCluster cl (fun c => { c with clock := c.clock.align s.time drift, offset := sat16 found })
  let near := decide (-2 ≤ found ∧ found ≤ 2)
  let u := if 8 < found ∨ found < -8 then (t.markSkewed cl).modCluster cl (fun c => { c with goodBeacons := 0 })
    else t.modCluster cl (fun c =>
      let g := if near then c.goodBeacons + 1 else 0
      { c with goodBeacons := g, skewed := c.skewed && g < 2 })
  .next (u.rewalk cl)

/-- R295: a cluster that receives no beacon for 3 µs is marked. -/
def execBeaconTimeout (cl : Nat) (s : State) : Host.Outcome State Fault Refusal :=
  .next (if (s.cluster cl).clock.beacon + 3000 ≤ s.time then s.markSkewed cl else s)

/-- R294, R372: a time exchange over the host link finds the host's time `ahead` ns: from now on the beacon slews to it, by at most
100 ns in a millisecond, and the count does not fall. -/
def execPtmExchange (ahead : Int) (s : State) : Host.Outcome State Fault Refusal :=
  .next (match s.hostLink with
    | some l => { s with mgmt := { s.mgmt with
        adj := s.mgmt.slewed s.now, slew := 10 * ahead, slewAt := s.now, hold := s.time, ptmAt := s.time, ptmLink := l } }
    | none => s)

/-- R295: a read of TBSTAT clears MARKS. -/
def State.tbstat (c : Cluster) : Nat := (if c.skewed then 2 ^ 63 else 0) + c.marks.toNat * 2 ^ 32 + c.offset.toNat

/-- What a reader receives. -/
def State.emit (s : State) (v : List Byte) : State := { s with fabric := { s.fabric with hostOut := v :: s.fabric.hostOut } }

/-- R295. -/
def execTbstatRead (cl : Nat) (s : State) : Host.Outcome State Fault Refusal :=
  .next ((s.emit (leBytes 8 (State.tbstat (s.cluster cl)))).modCluster cl (fun c => { c with marks := 0 }))

/-! ## Rails (R374, R376) -/

/-- Whether a context runs: not in an exchange, nor forwarded, pre-empted or halted (R313, R383). -/
def Ctx.runs (x : Ctx) : Bool :=
  match x.mode with
  | .run => true
  | .stopping _ => true
  | _ => false

/-- The running contexts of a cluster. -/
def State.runningOn (s : State) (cl : Nat) : List Ctx := ((coresOf cl).map s.ctx).filter Ctx.runs

/-- Whether the cap rule forces the low rail, at an average power (R376). -/
def capped (xs : List Ctx) (watts : Nat) : Bool :=
  !xs.isEmpty && xs.all (fun x => bits x.sys.pwrset 4 12 != 0) && (xs.map (fun x => bits x.sys.pwrset 4 12)).foldl (· + ·) 0 < watts

/-- Whether a cluster runs on the low rail in the next window (R374). -/
def State.wantsLow (s : State) (cl watts : Nat) : Bool :=
  let xs := s.runningOn cl
  (!xs.isEmpty && xs.all (fun x => bits x.sys.pwrset 0 2 == 1)) || capped xs watts

/-- Whether a window of 1,024 ns of the time base has begun since the cluster's last one (R374). -/
def State.newWindow (s : State) (cl : Nat) : Bool := (s.cluster cl).window < s.time / 1024

/-- R374, R376: a window boundary, with the average power of the window that ends: a change of rail begins to switch. -/
def execRailWindow (cl watts : Nat) (s : State) : Host.Outcome State Fault Refusal :=
  let low := s.wantsLow cl watts
  .next (if s.newWindow cl then
      s.modCluster cl (fun c => { c with watts := watts, window := s.time / 1024, switching := if low = c.low then none else some low })
    else s)

/-- R374: the multiplexers have switched: the clock goes on, on the other rail, and no cycle was counted. -/
def execRailSwitchEnd (cl : Nat) (s : State) : Host.Outcome State Fault Refusal :=
  .next (s.modCluster cl (fun c =>
    match c.switching with
    | some low => { c with low := low, switching := none, edge := max c.edge s.now }
    | none => c))

/-- R378: a trip: power is cut, and all device state is lost but THERMCAUSE and Heartwood's retirement list; channels that failed stay
so. A trip that has not been cleared keeps its cause. -/
def execThermalTrip (code : BitVec 8) (sensor : Nat) (s : State) : Host.Outcome State Fault Refusal :=
  let m := s.mgmt
  .next { State.reset with
    fresh := s.fresh
    slices := { Slices.init with dead := s.slices.dead, worn := s.slices.worn }
    mgmt := { Mgmt.init with
      off := true, trip := true, tripCode := if m.trip then m.tripCode else code
      tripSensor := if m.trip then m.tripSensor else BitVec.ofNat 8 sensor } }

end Sys2Proof.Machine
end

