-- ==== Sys2Proof/Machine/Debug.lean ====
section
/-! DEFINITION. Samples (R333), the trace registers (R328), and replay (R338). -/

namespace Sys2Proof.Machine

/-- Whether a cycle of a core is classed (R324): the core is neither stopped nor swapped out; the cycle of a stop is, but for that of a
slice's end, with which the exchange begins (R383), and the cycles from the last restart of Sapwood on. -/
def State.classed (s : State) (n : Nat) : Bool :=
  let x := s.ctx n
  let cyc := s.cyc n
  (s.core n).exchange.isNone &&
    (match x.mode with
     | .off => false
     | .stopped => !(s.core n).exchangeDue && (x.frame.f == cyc || x.frame.halted == cyc)
     | _ => (s.core n).since ≤ cyc)

/-- Whether a cycle is one of handler mode: from the cycle after the stop to the last cycle of `c.eret` (R309, R325). -/
def State.inHandler (s : State) (n : Nat) : Bool :=
  let x := s.ctx n
  if x.frame.handler then x.frame.f < s.cyc n else x.frame.left == some (s.cyc n)

/-- R333: a running core takes a sample in its first classed cycle at or after each multiple of the period, one for a multiple whichever of
its contexts runs. -/
def execSample (core : Nat) (s : State) : Host.Outcome State Fault Refusal :=
  let x := s.ctx core
  let time := s.timeAt (clusterOf core)
  .next (if bitAt x.launch.trc 63 && s.classed core && nextSample x.launch.trc x.launch.sampled ≤ time then
    (s.modCtx core (fun x => { x with
      counters := { x.counters with samples := x.counters.samples + 1 }
      launch := { x.launch with sampled := time + 1 } })).record x.launch.part (s.sampleRecord core) true (bitAt x.launch.trc 60)
  else s)

/-- Whether a stream's records of a log count in this cycle (R337, R338): the core runs, and in handler mode only C does. -/
def State.replays (s : State) (n : Nat) (st : Strm) : Bool :=
  let x := s.ctx n
  s.classed n && x.mode == .run && x.frame.pending.isNone && (!x.frame.handler || (st == .c && s.inHandler n))

/-- The next replay record of a stream, once its logged cycle has come (R338). A record of a handler word counts in handler mode, and one
of a program word outside it. -/
def State.replayDue (s : State) (n : Nat) (st : Strm) : Option (Strm × Nat × Nat × Nat) :=
  let x := s.ctx n
  if s.replays n st then
    (x.replayNext st).filter (fun r => r.2.1 ≤ x.launchCycle (s.cyc n) && decide (0x7000 ≤ r.2.2.1) == x.frame.handler)
  else none

/-- Whether a stream's head is held in the logged cycle of the record that names it (R338): it has neither issued nor been released. -/
def State.diverges (s : State) (n : Nat) (st : Strm) : Bool :=
  let t := (s.ctx n).strm st
  (s.replayDue n st).any (fun r => !t.moved && t.named r.2.2.1 r.2.2.2)

/-- R328: a read of TLOST clears it. -/
def execTlostRead (part : Nat) (s : State) : Host.Outcome State Fault Refusal :=
  .next ((s.emit (leBytes 8 (s.part part).tlost)).modPart part (fun p => { p with tlost := 0 }))

/-- R338: in the logged cycle of a stream's next replay record the head that it names, if it has neither issued nor been released in this
cycle, stops the core; otherwise the record is past. -/
def execReplayRelease (core : Nat) (st : Strm) (s : State) : Host.Outcome State Fault Refusal :=
  let x := s.ctx core
  .next (match x.launch.replay, s.replayDue core st with
    | some log, some r =>
      let t := s.modCtx core (fun x => { x with launch := { x.launch with replay := some (log.erase r) } })
      if s.diverges core st then t.raise core st (breakTrap 0x8000) else t
    | _, _ => s)

end Sys2Proof.Machine
end

