-- ==== Sys2Proof/Machine/Links.lean ====
section
/-! DEFINITION. Links (R352 to R354), link loss and routes (R351), host links and translation services (R292, R293, R369,
R371), and slices that stop answering (R358). -/

namespace Sys2Proof.Machine

/-! ## Link ends (R352 to R354) -/

/-- Changes a link end: of a router's port, or a peer port. -/
def State.modLink (s : State) (peer : Bool) (r p : Nat) (f : Link → Link) : State :=
  if peer then { s with fabric := { s.fabric with peers := s.fabric.peers.modify p Link.init f } }
  else { s with fabric := { s.fabric with links := s.fabric.links.modify (16 * r + p) Link.init f } }

/-- A link end. -/
def State.linkEnd (s : State) (peer : Bool) (r p : Nat) : Link := if peer then s.peerLink p else s.link r p

/-- Changes both ends of a link; a peer port's other end is the peer's. -/
def State.modEnds (s : State) (peer : Bool) (r p : Nat) (f : Link → Link) : State :=
  let t := s.modLink peer r p f
  if peer then t else t.modLink false (farEnd r p).1 (farEnd r p).2 f

/-- Whether a link may lose lanes and train again (R353): one that crosses dies, or a peer port. -/
def retrains (peer : Bool) (r p : Nat) : Bool := peer || dieCrossing r p

/-- A link retrains: it moves no flits (R353). -/
def State.retrain (s : State) (peer : Bool) (r p : Nat) : State :=
  (s.modEnds peer r p (fun l => { l with up := false, training := true, recent := [] })).raiseMgmt 2

/-- The flit that arrives at a link end with a sequence number: the sender's, or a peer's; noise on the link spoils its CRC. -/
def State.arriving (s : State) (peer : Bool) (r p : Nat) (seq : BitVec 8) (clean : Bool) : Flit :=
  let sent := if peer then [] else (s.link (farEnd r p).1 (farEnd r p).2).unacked
  let f := (sent.find? (fun f => f.seq == seq)).getD (Flit.make seq r 0 [] false)
  if clean then f else { f with crc := f.crc ^^^ 1 }

/-- A sender's flits up to a number are acknowledged (R352). -/
def Link.acked (l : Link) (seq : BitVec 8) : Link :=
  if l.unacked.any (fun f => f.seq == seq) then { l with unacked := (l.unacked.dropWhile (fun f => f.seq != seq)).drop 1 } else l

/-- A sound flit acknowledges: at a router's link its sender's flits up to it, and at a peer port all that the port has sent, since
a peer's acknowledgements come with its flits (DESIGN CHOICE, log 77). -/
def State.acknowledge (s : State) (peer : Bool) (r p : Nat) (seq : BitVec 8) : State :=
  if peer then s.modLink true r p (fun l => { l with unacked := [] })
  else s.modLink false (farEnd r p).1 (farEnd r p).2 (fun l => l.acked seq)

/-- A receiver discards a flit and requests a replay (R352); more than 16 within 1 µs retrain the link (R353). -/
def State.requestReplay (s : State) (peer : Bool) (r p : Nat) : State :=
  let l := s.linkEnd peer r p
  let recent := (s.time :: l.recent).filter (fun t => s.time < t + 1000)
  let t := s.modLink peer r p (fun l => { l with replays := min 0xFFFF (l.replays + 1), recent := recent })
  if 16 < recent.length && retrains peer r p then t.retrain peer r p else t

/-- R352: a link end receives a flit: in sequence and sound, it is accepted; a sound duplicate is discarded; any other is
discarded and a replay requested. -/
def execFlitReceive (peer : Bool) (router port : Nat) (seq : BitVec 8) (crcOk : Bool) (s : State) :
    Host.Outcome State Fault Refusal :=
  let l := s.linkEnd peer router port
  let sound := (s.arriving peer router port seq crcOk).sound
  .next (if !l.up || l.lost then s
    else if sound && seq == l.nextSeq then
      (s.modLink peer router port (fun l => { l with nextSeq := l.nextSeq + 1 })).acknowledge peer router port seq
    else if sound && (l.nextSeq - seq).toNat ≤ 128 then s.acknowledge peer router port seq
    else s.requestReplay peer router port)

/-- R353: a die-crossing link, or a peer port, retrains: it moves no flits. -/
def execLinkRetrain (peer : Bool) (router port : Nat) (s : State) : Host.Outcome State Fault Refusal :=
  let l := s.linkEnd peer router port
  .next (if !l.up || l.lost || !retrains peer router port then s else s.retrain peer router port)

/-- The unit of a machine-check record for a link end (R362). -/
def linkUnit (peer : Bool) (router port : Nat) : Nat × Nat := if peer then (5, port) else (1, 16 * router + port)

/-- The port by which a flit of a lost peer port is replayed: by its granule, among those of its device that are not lost. -/
def State.livePort (s : State) (pa : Nat) : Option Nat :=
  let ps := (s.peerPorts (pa / 2 ^ 42)).filter (fun q => !(s.peerLink q).lost)
  ps[pa % 2 ^ 42 / 256 % ps.length]?

/-- The flits that a lost peer port has not had acknowledged are replayed elsewhere, in sequence, as far as the replay buffer there has room
(R352, R373); the others follow later. Where no port is left they are gone (DESIGN CHOICE, log 77). -/
def State.replayElsewhere (s : State) (q : Nat) : State :=
  (s.peerLink q).unacked.foldl (fun t f =>
    if (t.peerLink q).unacked.head? ≠ some f then t
    else
      let u := t.modLink true 0 q (fun l => { l with unacked := l.unacked.drop 1 })
      match t.livePort f.pa with
      | none => u
      | some k => if (t.peerLink k).free 1 then u.modLink true 0 k (fun l => l.send f.dest f.pa f.data f.packed) else t) s

/-- A link is lost (R351, R353). -/
def State.loseLink (s : State) (peer : Bool) (router port : Nat) : State :=
  let u := linkUnit peer router port
  let t := (((s.modEnds peer router port (fun l => { l with up := false, training := false, lost := true })).raiseMgmt 2).machineCheck
    u.1 3 u.2 0xFFFFFFFF 0 0)
  if peer then t.replayElsewhere port else t

/-- The lanes of half of a link: 16 of 32, or 2 of 4. -/
def halfLanes (peer : Bool) : Nat := if peer then 2 else 16

/-- R353: the retrain ends, with the lanes that failed training. With none failed the link keeps its width (DEDUCED, log
34); with one half whole it goes on at half width, until a cold reset; otherwise it is lost. -/
def execRetrainEnd (peer : Bool) (router port : Nat) (bad : BitVec 32) (s : State) : Host.Outcome State Fault Refusal :=
  let l := s.linkEnd peer router port
  let n := halfLanes peer
  let b := bits bad 0 (2 * n)
  let u := linkUnit peer router port
  .next (if !l.training then s
    else
      let t := s.modEnds peer router port (fun l => { l with lanebad := l.lanebad ||| BitVec.ofNat 32 b })
      if b = 0 then (t.modEnds peer router port (fun l => { l with up := true, training := false })).raiseMgmt 2
      else if b % 2 ^ n = 0 ∨ b / 2 ^ n = 0 then
        ((t.modEnds peer router port (fun l => { l with up := true, training := false, half := true })).raiseMgmt 2).machineCheck u.1 4 u.2
          0xFFFFFFFF 0 0
      else t.loseLink peer router port)

/-- R351, R353: a link is lost. -/
def execLinkLoss (peer : Bool) (router port : Nat) (s : State) : Host.Outcome State Fault Refusal :=
  .next (if (s.linkEnd peer router port).lost then s else s.loseLink peer router port)

/-- The flits that a router has sent towards a destination by a port and not had acknowledged (R351). -/
def State.sentTowards (s : State) (r p dest : Nat) : List Flit := (s.link r p).unacked.filter (fun f => f.dest == dest)

/-- Whether the flits sent towards a destination by a lost port have room in the replay buffer of the new one (R351, R352), or no route is
left for them. -/
def State.rerouteRoom (s : State) (r p dest : Nat) : Bool :=
  let e := routeFor s.linkLive r dest
  !bitAt e 4 || (s.link r (bits e 0 4)).unacked.length + (s.sentTowards r p dest).length ≤ 128

/-- The flits sent towards a destination by a lost port are replayed by the new one, in sequence (R351). Where no route is left they are
gone (DESIGN CHOICE, log 77). -/
def State.reroute (s : State) (r p dest : Nat) : State :=
  let t := s.modLink false r p (fun l => { l with unacked := l.unacked.filter (fun f => f.dest != dest) })
  if !bitAt (t.route r dest) 4 then t
  else (s.sentTowards r p dest).foldl (fun t f =>
    t.modLink false r (bits (t.route r dest) 0 4) (fun l => l.send dest f.pa f.data f.packed)) t

/-- R351: a router applies the new entry for a destination: a route of at most two hops that still stands is kept, and no entry is
applied before the flits sent on the old route are acknowledged or replayed, which takes room in the new port's buffer (R352). -/
def execRouteTableApply (router dest : Nat) (s : State) : Host.Outcome State Fault Refusal :=
  let p := bits (s.route router dest) 0 4
  .next (if s.routeStands router dest || (!(s.link router p).lost && !(s.sentTowards router p dest).isEmpty) ||
      !s.rerouteRoom router p dest then s
    else ({ s with fabric := { s.fabric with
      routes := s.fabric.routes.put (162 * router + dest) (routeFor s.linkLive router dest) } }).reroute router p dest)

/-! ## The links between two cycles of the schedule (R351 to R353) -/

/-- The state after an outcome. -/
def after (o : Host.Outcome State Fault Refusal) (s : State) : State :=
  match o with
  | .next t => t
  | _ => s

/-- A router's link: the flits on their way arrive, and a retrain ends with no lane failed. -/
def State.linkArrive (s : State) (k : Nat) (l : Link) : State :=
  let far := farEnd (k / 16) (k % 16)
  let t := l.unacked.foldl (fun t f => after (execFlitReceive false far.1 far.2 f.seq true t) t) s
  if l.training then after (execRetrainEnd false (k / 16) (k % 16) 0 t) t else t

/-- A peer port: the peer acknowledges, or a lost port's flits are replayed elsewhere, and a retrain ends. -/
def State.peerArrive (s : State) (q : Nat) (l : Link) : State :=
  let t := if l.unacked.isEmpty then s else if l.lost then s.replayElsewhere q else after (execFlitReceive true 0 q l.nextSeq true s) s
  if l.training then after (execRetrainEnd true 0 q 0 t) t else t

/-- Once a link is lost the routers' tables are brought up to date (R351). -/
def State.updateRoutes (s : State) : State :=
  if s.fabric.links.any (fun e => e.2.lost) then
    (List.range 162).foldl (fun t r => ((List.range 162).filter (t.stale r)).foldl (fun t d => after (execRouteTableApply r d t) t) t) s
  else s

/-- A time exchange every millisecond (R372): the host's time is still ahead by what the slewing has not made good. -/
def State.exchangeTime (s : State) : State :=
  if s.mgmt.ptmAt + 1000000 ≤ s.time then
    after (execPtmExchange ((s.mgmt.adj + s.mgmt.slew - s.mgmt.slewed s.now) / 10) s) s
  else s

/-- What the links do between two cycles of the schedule; an agenda may hold the same steps at any other time (log 1). -/
def State.linkCycle (s : State) : State :=
  (s.fabric.peers.foldl (fun t e => t.peerArrive e.1 e.2)
    (s.fabric.links.foldl (fun t e => t.linkArrive e.1 e.2) s)).updateRoutes.exchangeTime

/-- The two doublewords of a link end's status (R354, R370). -/
def Link.status (l : Link) : List Byte :=
  let b := fun (p : Bool) (n : Nat) => if p then n else 0
  leBytes 8 (l.replays * 2 ^ 48 + l.lanebad.toNat % 2 ^ 16 * 2 ^ 32 + b l.lost 4 + b l.half 2 + b l.up 1) ++ leBytes 8 l.lanebad.toNat

/-- R354: a read of a link end's status clears REPLAYS. -/
def execLinkStatusRead (peer : Bool) (router port : Nat) (s : State) : Host.Outcome State Fault Refusal :=
  .next ((s.emit (s.linkEnd peer router port).status).modLink peer router port (fun l => { l with replays := 0 }))

/-! ## Slices and host links -/

/-- One stored bit of a sector turns over. -/
def flipBit (bad : Store Flaw) (k b : Nat) : Store Flaw := bad.modify k 0 (fun e => e ^^^ (1#304 <<< b))

/-- An error in one stored bit (R361): of device memory, or of a scratchpad, an accumulator store or a weight buffer. Its number
counts from 96: modulo 4 the memory, then the core or the cluster of 1,024, then the bit of 304, then the sector (DESIGN CHOICE,
log 75). -/
def State.softError (s : State) (n : Nat) : State :=
  let owner := n / 4 % 1024
  let k := n / 4096 / 304
  let flip := fun (bad : Store Flaw) => flipBit bad k (n / 4096 % 304)
  match n % 4 with
  | 0 => { s with slices := { s.slices with bad := flip s.slices.bad } }
  | 1 => s.modCore owner (fun c => { c with badSpad := flip c.badSpad })
  | 2 => s.modCore owner (fun c => { c with badAcc := flip c.badAcc })
  | _ => s.modCluster owner (fun c => { c with wbBad := flip c.wbBad })

/-- R358: a slice stops answering; numbers from 96 upward stand for an error in a stored bit (R361). -/
def execSliceStopsAnswering (slice : Nat) (s : State) : Host.Outcome State Fault Refusal :=
  .next (if slice < 96 then { s with slices := { s.slices with dead := addOnce s.slices.dead slice } } else s.softError (slice - 96))

/-- R371: host link 0 is down: link 1 carries its messages and time exchanges; while link 0 is down, link 1 goes down (DESIGN
CHOICE, log 81). -/
def execHostLinkDown (s : State) : Host.Outcome State Fault Refusal :=
  .next { s with fabric := { s.fabric with hostUp := s.fabric.hostUp.set (if s.fabric.hostUp.getD 0 false then 0 else 1) false } }

/-- R369: a host link has trained, at ×16, ×8 or ×4; the messages that waited for a link go out. -/
def execHostLinkUp (link : BitVec 1) (width : Nat) (s : State) : Host.Outcome State Fault Refusal :=
  .next (if [4, 8, 16].contains width then
    State.sendPending { s with fabric := { s.fabric with
      hostUp := s.fabric.hostUp.set link.toNat true, hostWidth := s.fabric.hostWidth.set link.toNat width } }
  else s)

/-! ## Host translations (R292, R293) -/

/-- What a completion gives the walk of an address (R292): at most the 512 MiB piece that holds it. -/
def hostLease (va page log2 pa : Nat) (r w : Bool) (code time : Nat) : Lease :=
  let l := min log2 29
  let base := va / 2 ^ l * 2 ^ l
  { page := base, log2 := l, pa := pa + (base - page), r := r, w := w, key := 0, d := false, c := false,
    len := if code = 0 then 0 else leaseLen code, expiry := time + leaseLen code, used := time }

/-- R292: a completion for a cluster's oldest request, of an aligned range of 4 KiB or more that holds the address, at the time of the
router of the host link that is up. Its flit goes to the cluster's router: it is held while it cannot move (R353), and where no route leads
there the walk ends with REMOTE (R351). -/
def execAtsCompletion (cl page log2 pa : Nat) (r w : Bool) (s : State) : Host.Outcome State Fault Refusal :=
  let now := s.hostTime (s.hostLink.getD 0)
  .next (match if s.hostLink.isSome then s.fabric.ats.find? (fun q => q.cl == cl) else none with
    | none => s
    | some q =>
      if log2 < 12 || page % 2 ^ log2 != 0 || q.va / 2 ^ log2 != page / 2 ^ log2 ||
          !s.routeMoves s.outerRouter (clusterRouter cl) 16 0 then s
      else
        let lost := !s.reachesRouter s.outerRouter (clusterRouter cl)
        let s := s.sendOn s.outerRouter (clusterRouter cl) page (leBytes 8 pa) false
        let s1 := { s with fabric := { s.fabric with
          ats := s.fabric.ats.erase q
          inval := s.fabric.inval.map (fun i =>
            if i.reqs.contains q then ({ i with last := max i.last now, reqs := i.reqs.erase q } : Inval) else i) } }
        match (s.cluster cl).walks.find? (fun k => k.ats && k.va / 4096 * 4096 == q.va && bits (s.part k.part).xlcfg 32 20 == q.pasid) with
        | none => s1
        | some k =>
          s1.endWalk cl k (if lost then .fail .remote else if !r && !w then .fail .xlate
            else .lease (hostLease k.va page log2 pa r w (bits (s.part k.part).xlcfg 8 4) now) false))

/-- The lease of the largest HLEASE that a partition's XLCFG has held in the last 1,048,576 ns (R293). -/
def Part.longestHost (p : Part) (time : Nat) : Nat :=
  ((p.hleases.filter (fun h => time ≤ h.2 + 1048576)).map (fun h => leaseLen h.1)).foldl max (leaseLen (bits p.xlcfg 8 4))

/-- R293: an Invalidation Request arrives at the router of the host link that is up; at most 32 wait. The spec does not say at which instant
the 1,048,576 ns of L_H end: L_H is fixed at the receipt (DESIGN CHOICE, log 95). -/
def execAtsInvalidationRequest (part tag : Nat) (s : State) : Host.Outcome State Fault Refusal :=
  let now := s.hostTime (s.hostLink.getD 0)
  .next (if s.hostLink.isNone || 32 ≤ s.fabric.inval.length || s.fabric.inval.any (fun i => i.tag == tag) then s
    else { s with fabric := { s.fabric with
      inval := s.fabric.inval ++ [{ tag := tag, last := now, len := (s.part part).longestHost now, reqs := s.fabric.ats }] } })

/-- R293: the Invalidation Completion is sent. -/
def execInvalidationCompletion (tag : Nat) (s : State) : Host.Outcome State Fault Refusal :=
  let now := s.hostTime (s.hostLink.getD 0)
  .next (match s.fabric.inval.find? (fun i => i.tag == tag) with
    | none => s
    | some i =>
      if s.hostLink.isSome && i.reqs.isEmpty && i.last + i.len + 48 ≤ now then
        { s with fabric := { s.fabric with inval := s.fabric.inval.erase i, invalDone := (tag, now) :: s.fabric.invalDone } }
      else s)

end Sys2Proof.Machine
end

