-- ==== Sys2Proof/Machine/Firmware.lean ====
section
/-! DEFINITION. Heartwood: measurements and the cold reset (R341, R342), the mailbox (R343, R344), quotes (R345), partition
set-up (R344) and the debug unlock (R346). -/

namespace Sys2Proof.Machine

/-! ## Measurements (R341) -/

/-- The bytes of a 256-bit value. -/
def hashBytes (v : BitVec 256) : List Byte := leBytes 32 v.toNat

/-- A 256-bit value of bytes. -/
def hashOf (bs : List Byte) : BitVec 256 := BitVec.ofNat 256 (leNat (bs.take 32))

/-- An extend: MSi := SHA-256(MSi ‖ d). -/
def Mgmt.extend (m : Mgmt) (i : Nat) (d : BitVec 256) : Mgmt :=
  { m with ms := m.ms.set i (Config.sha256 (hashBytes (m.ms.getD i 0) ++ hashBytes d)) }

/-- The fuse configuration record that MS2 takes (R341). -/
def fuseRecord : List Byte := leBytes 16 Config.uid.toNat ++ leBytes 1 Config.life.toNat ++ hashBytes Config.pkhFirmware ++ hashBytes Config.pkhDebug

/-! ## The cold reset (R342, R355, R358) -/

/-- A draw of the marker: any value but 0 and 0xFFFF_FFFF (R342 step 3). -/
def drawMarker (n : Nat) : Lane := BitVec.ofNat 32 (1 + (Config.freeValue n).toNat % (2 ^ 32 - 2))

/-- The memory configuration at a cold reset: a slice that has stopped answering is left out, fuses retire lines, and the units on
the retirement list are retired. -/
def State.bootSlices (s : State) : Slices :=
  let x : Slices := { Slices.init with
    active := (List.range 96).filter (fun k => !s.slices.dead.contains k), dead := s.slices.dead, worn := s.slices.worn, retired := s.slices.worn }
  { x with capacity := 256 * (x.active.map x.lines).foldl (· + ·) 0 }

/-- MEMCFG at a cold reset (R355). -/
def Mgmt.bootMem (m : Mgmt) (x : Slices) : Mgmt :=
  { m with
    memcfgCmin := BitVec.ofNat 32 ((least (x.active.map x.lines)).getD 0), memcfgSact := BitVec.ofNat 8 x.active.length
    memcfgRetired := BitVec.ofNat 16 (((List.range 96).map (fun k => Config.fusedLines k / 8192)).foldl (· + ·) 0 + x.retired.length) }

/-- The bytes of a handler image as it is held, R74's filler behind its words: what MS4 takes the hash of (R264, R341). -/
def imageBytes (ws : List Word) : List Byte := (upto 0 4096).flatMap (fun i => leBytes 8 (ws.getD i textFiller).toNat)

/-- The resident image. -/
def residentImage : List Word := (upto 0x7000 4096).map residentWord

/-- Sapwood installs a linked handler image (KIND 2) that stands at a device offset, on every core, and Heartwood extends MS4 (R264): of
at most 4,096 words, with the header's CRC; anything else, and a file that cannot be read, is left. The spec does not say what else
Sapwood asks of the file: other sections, relocations and reserved header bytes are no bar (DESIGN CHOICE, log 78). -/
def State.installImage (s : State) (a : Nat) : State :=
  let n := (s.ownBytes a 64).map (fun h => num h 16 8 + 32 * num h 8 2)
  let len := (n.bind (s.ownBytes a)).map fileEnd
  let file := (len.bind (s.ownBytes a)).getD []
  let text := sectBytes file 1
  let s := s.ownRead a (len.getD (n.getD 64))
  if num file 0 4 == 0x4F564C7F && num file 4 2 == 1 && num file 6 1 == 2 && num file 28 4 == crc32c (file.drop 64) &&
      text.length ≤ 32768 then
    let ws := (upto 0 (text.length / 8)).map (fun i => BitVec.ofNat 64 (num text (8 * i) 8))
    { s with mgmt := ({ s.mgmt with images := s.mgmt.images ++ [ws] } : Mgmt).extend 4 (Config.sha256 (imageBytes ws)) }
  else s

/-- Steps 2 to 5 of a cold reset, from the state of Heartwood after step 1, with the outcome of Sapwood's signature check: Sapwood
starts, and installs its resident handler image on every core (R264, R307; DESIGN CHOICE, log 78: before anything else). -/
def Mgmt.boot (m : Mgmt) (x : Slices) (fresh : Nat) (swOk : Bool) : Mgmt :=
  let m2 := (m.extend 2 (Config.sha256 fuseRecord)).extend 3 (Config.sha256 [0])
  let m3 := { m2.bootMem x with hwok := true, marker := drawMarker fresh, swHeld := !swOk }
  if swOk then { (m3.extend 1 (Config.imageHash 1)).extend 4 (Config.sha256 (imageBytes residentImage)) with swok := true, resident := true } else m3

/-- R342: a cold reset, with the outcomes of the two signature checks: a failure of the first leaves every core in reset. THERMCAUSE,
the retirement list and the free values go on. -/
def execColdReset (hwOk swOk : Bool) (s : State) : Host.Outcome State Fault Refusal :=
  let m0 : Mgmt := { Mgmt.init with trip := s.mgmt.trip, tripCode := s.mgmt.tripCode, tripSensor := s.mgmt.tripSensor, off := !hwOk }
  let m1 := m0.extend 0 (Config.imageHash 0)
  let x := s.bootSlices
  .next { State.reset with
    fresh := s.fresh + 1, slices := if hwOk then x else { Slices.init with dead := s.slices.dead, worn := s.slices.worn }
    mgmt := if hwOk then m1.boot x s.fresh swOk else m1 }

/-! ## Starting an operation (R343) -/

/-- A write of HWMB with an OP (R343): ignored while BUSY. Sapwood writes nothing while the management cores are in reset (R342). -/
def State.startMailbox (s : State) (who : Party) (code : Nat) (op : Option MbOp) : State :=
  if s.mgmt.busy || (who == .sapwood && s.mgmt.swHeld) then s
  else if code = 0 then { s with mgmt := { s.mgmt with op := 0 } }
  else { s with mgmt := { s.mgmt with busy := true, op := BitVec.ofNat 8 code, running := op.map (fun o => (who, o)) } }

/-- R343. -/
def execMbNonce (who : Party) (s : State) : Host.Outcome State Fault Refusal := .next (s.startMailbox who 1 (some .nonce))

/-- R343, R346. -/
def execMbUnlock (who : Party) (s : State) : Host.Outcome State Fault Refusal := .next (s.startMailbox who 2 (some .unlock))

/-- R343. -/
def execMbQuote (who : Party) (s : State) : Host.Outcome State Fault Refusal := .next (s.startMailbox who 3 (some .quote))

/-- R343. -/
def execMbExtend (who : Party) (s : State) : Host.Outcome State Fault Refusal := .next (s.startMailbox who 4 (some .extend))

/-- R343. -/
def execMbIdent (who : Party) (s : State) : Host.Outcome State Fault Refusal := .next (s.startMailbox who 5 (some .ident))

/-- R343, R344. -/
def execMbPsetup (who : Party) (s : State) : Host.Outcome State Fault Refusal := .next (s.startMailbox who 6 (some .psetup))

/-! ## The operations (R343 to R346) -/

/-- What an operation comes to: a STATUS, and the state after it. -/
abbrev MbResult := Nat × State

/-- Whether a requester may ask for an operation (R343). -/
def MbOp.allowed : MbOp → Party → Bool
  | .nonce, .host => true
  | .unlock, .host => true
  | .quote, _ => true
  | .extend, .sapwood => true
  | .ident, _ => true
  | .psetup, .sapwood => true
  | _, _ => false

/-- The request buffer (R344): an offset in this device's memory, outside every carve-out, which lie above the installed capacity, and
outside every confidential partition's range; none gives STATUS 1. -/
def State.mailBuffer (s : State) (len : Nat) : Option Nat :=
  let a := bits s.mgmt.hwarg 6 46 * 64
  let o := a % 2 ^ 42
  if bits s.mgmt.hwarg 52 4 != 0 || !s.isLocal a || s.slices.capacity < o + len then none
  else if s.parts.any (fun p => p.2.confidential && !apart o len p.2.memBase p.2.memLen) then none
  else some o

/-- The size of an operation's buffer. -/
def MbOp.size : MbOp → Nat
  | .nonce => 32
  | .unlock => 16336
  | .quote => 0x40 + 16552
  | .extend => 64
  | .ident => 0x50
  | .psetup => 0x40

/-- The bytes that an operation reads from its buffer. -/
def MbOp.reads : MbOp → Nat
  | .unlock => 16336
  | .quote => 64
  | .extend => 64
  | .psetup => 0x40
  | _ => 0

/-- Writes bytes of a result at a buffer. -/
def State.putBytes (s : State) (a : Nat) (v : List Byte) : State := s.ingress 0 (s.ownerOf a) a v

/-- A list of bytes of a given length. -/
def fit (n : Nat) (v : List Byte) : List Byte := (v ++ List.replicate n 0).take n

/-- NONCE. -/
def State.opNonce (s : State) (a : Nat) : MbResult :=
  let v := Config.freeValue s.fresh
  (0, { s with fresh := s.fresh + 1, mgmt := { s.mgmt with nonce := some v, nonceAt := s.time } }.putBytes a (hashBytes v))

/-- The quote of R345. -/
def State.quote (s : State) (part : Nat) (challenge : List Byte) : List Byte :=
  let conf := part ≠ 0xFFFF ∧ (s.part part).confidential = true
  let head := leBytes 4 0x45514F51 ++ leBytes 2 1 ++ leBytes 1 Config.life.toNat ++
    leBytes 1 ((if s.mgmt.debugOpen then 1 else 0) + (if conf then 2 else 0)) ++ leBytes 16 Config.uid.toNat ++ leBytes 2 part ++
    List.replicate 6 0 ++ challenge ++ s.mgmt.ms.flatMap hashBytes ++ leBytes 8 s.time
  head ++ fit 16224 (Config.sign Config.identitySeed head)

/-- QUOTE. -/
def State.opQuote (s : State) (a : Nat) : MbResult :=
  let r := s.devRead true a 64
  let p := num r 32 2
  if (p < 64 ∨ p = 0xFFFF) ∧ zeros r 34 30 = true then (0, s.putBytes (a + 0x40) (s.quote p (r.take 32))) else (1, s)

/-- EXTEND. -/
def State.opExtend (s : State) (a : Nat) : MbResult :=
  let r := s.devRead true a 64
  let i := num r 0 1
  if 5 ≤ i ∧ i ≤ 7 ∧ zeros r 1 31 = true then (0, { s with mgmt := s.mgmt.extend i (hashOf (r.drop 32)) }) else (1, s)

/-- IDENT. -/
def State.opIdent (s : State) (a : Nat) : MbResult :=
  (0, s.putBytes a (leBytes 16 Config.uid.toNat ++ leBytes 1 Config.life.toNat ++ List.replicate 15 0 ++
    (List.range 48).map Config.identityKey))

/-- The clusters and the slots that a PSETUP request names. -/
def reqClusters (r : List Byte) : List Nat := (List.range 160).filter (fun c => num r 16 20 / 2 ^ c % 2 == 1)

/-- Whether a PSETUP request is well formed (R344). -/
def psetupOk (r : List Byte) : Bool :=
  num r 0 2 < 64 && num r 2 1 / 4 == 0 && zeros r 3 5 && (num r 2 1 / 2 % 2 == 1 ||
    (zeros r 0x24 4 && zeros r 0x2E 2 && 1 ≤ num r 0x28 2 && num r 0x28 2 ≤ 3200 && num r 0x2A 2 ≤ 256 && num r 0x2C 2 ≤ 256 &&
      num r 0x30 8 % 2 ^ 21 == 0 && num r 0x38 8 % 2 ^ 21 == 0 && 2 ^ 21 ≤ num r 0x38 8))

/-- Whether a PSETUP request meets the conditions of R344 against the other partitions. -/
def State.psetupFits (s : State) (n : Nat) (r : List Byte) : Bool :=
  let others := s.parts.filter (fun p => p.1 != n)
  let sum := fun (f : Part → Nat) => (others.map (fun p => f p.2)).foldl (· + ·) 0
  others.all (fun p => (reqClusters r).all (fun c => !p.2.clusters.contains c) && p.2.slots &&& BitVec.ofNat 64 (num r 8 8) == 0 &&
      apart (num r 0x30 8) (num r 0x38 8) p.2.memBase p.2.memLen) &&
    num r 0x30 8 + num r 0x38 8 ≤ s.slices.capacity && sum (·.ringAllot) + num r 0x2A 2 ≤ 256 && sum (·.barAllot) + num r 0x2C 2 ≤ 256 &&
    sum (·.pcap) + num r 0x28 2 ≤ 3200

/-- The partition after a PSETUP (R344): a fresh key, or a dissolve. -/
def Part.setUp (p : Part) (r : List Byte) (key : BitVec 256) : Part :=
  if num r 2 1 / 2 % 2 = 1 then
    { p with clusters := [], slots := 0, memBase := 0, memLen := 0, pcap := 0, ringAllot := 0, barAllot := 0, key := 0, confidential := false }
  else
    { p with
      clusters := reqClusters r, slots := BitVec.ofNat 64 (num r 8 8), memBase := num r 0x30 8, memLen := num r 0x38 8, pcap := num r 0x28 2,
      ringAllot := num r 0x2A 2, barAllot := num r 0x2C 2, key := key, confidential := num r 2 1 % 2 == 1 }

/-- Heartwood takes its carve-outs and sets PODID, at the first set-up (R339): the carve-outs are the highest granules, with the
machine-check ring at their first multiple of 64 KiB (R357, R362; DESIGN CHOICE, log 79). -/
def State.carveOut (s : State) : State :=
  if s.slices.carve ≠ 0 then s
  else
    let size := 2 ^ 21 * (1 + Config.carveUnits)
    let base := s.slices.capacity - size
    { s with
      slices := { s.slices with capacity := base, carve := size }
      mgmt := { s.mgmt with
        podid := Config.podid, mcbase := BitVec.ofNat 64 (Config.podid.toNat * 2 ^ 42 + (base + 65535) / 65536 * 65536) } }

/-- The bytes of a range read through another transform, zeros included: what was written under a key that has been wiped stays as
ciphertext (R344, R346). -/
def State.reseal (s : State) (lo len : Nat) (f : Nat → Byte → Byte) : State :=
  { s with mem := (upto lo len).foldl (fun m a => m.write a (f a (s.mem.read a))) s.mem }

/-- A partition's memory as ciphertext under its key (R321): of a confidential one. -/
def State.toCipher (s : State) (n : Nat) : State :=
  let p := s.part n
  if p.confidential then s.reseal p.memBase p.memLen (Config.encrypt p.key) else s

/-- A partition's memory as it reads under its key. -/
def State.ofCipher (s : State) (n : Nat) : State :=
  let p := s.part n
  if p.confidential then s.reseal p.memBase p.memLen (Config.decrypt p.key) else s

/-- PSETUP. Heartwood clears TRIP (R378). The trace budget is credited up to now at the slots held so far (R332). -/
def State.opPsetup (s : State) (a : Nat) : MbResult :=
  let r := s.devRead true a 0x40
  let n := num r 0 2
  let c := s.carveOut
  let busy := (s.part n).regions.any (fun o => o.st == .running || o.st == .preempted)
  if psetupOk r && !busy && (num r 2 1 / 2 % 2 == 1 || c.psetupFits n r) then
    (0, ((({ c with fresh := c.fresh + 1, mgmt := { c.mgmt with trip := false } }).toCipher n).modPart n
      (fun p => (p.fund s.time).setUp r (Config.freeValue s.fresh))).ofCipher n)
  else (1, s)

/-- A domain at a debug unlock: off, its contents lost (R346 step 5). -/
def Dom.cutOff (d : Dom) : Dom := { d with st := .off, queued := false, cold := true, sleepPend := none }

/-- Every partition's key is wiped; its memory stays as ciphertext (R346). -/
def State.wipeKeys (s : State) : State :=
  s.parts.foldl (fun t p => ((t.toCipher p.1).modPart p.1 (fun q => { q with key := 0 })).ofCipher p.1) s

/-- R346 step 5: running regions end with 0xFF, keys are wiped, and every domain sleeps with mode off. -/
def State.lockdown (s : State) : State :=
  let s1 := s.parts.foldl (fun t p =>
    (p.2.regions.filter (fun r => r.st == .running)).foldl (fun u r => u.killRegion p.1 r 0xFF) t) s
  let s2 := s1.wipeKeys
  { s2 with
    cores := s2.cores.map (fun c => (c.1, { c.2 with doms := c.2.doms.map (fun d => (d.1, d.2.cutOff)), wakeQ := [] }))
    clusters := s2.clusters.map (fun c => (c.1, { c.2 with doms := c.2.doms.map (fun d => (d.1, d.2.cutOff)), wakeQ := [], ceRefs := [] })) }

/-- UNLOCK (R346). -/
def State.opUnlock (s : State) (a : Nat) : MbResult :=
  let t := s.devRead true a 16336
  let used := { s with mgmt := { s.mgmt with nonce := none } }
  if !(s.mgmt.nonce == some (hashOf (t.drop 24)) && s.time ≤ s.mgmt.nonceAt + 60000000000) then (3, used)
  else if num t 0 16 ≠ Config.uid.toNat ∨ num t 16 1 ≠ Config.life.toNat then (5, used)
  else if num t 0x38 8 ≤ s.time then (4, used)
  else if Config.sha256 ((t.drop 0x40).take 48) ≠ Config.pkhDebug ∨ Config.verify (t.take 0x70) (t.drop 0x70) = false then (2, used)
  else if num t 17 1 / 4 ≠ 0 ∨ zeros t 18 6 = false then (1, used)
  else
    let u := used.lockdown
    let m := { u.mgmt with debugOpen := true }.extend 3 (Config.sha256 (1 :: hashBytes (Config.sha256 (t.take 0x70))))
    (0, { u with mgmt := { m with scopes := m.scopes ||| BitVec.ofNat 2 (num t 17 1) } })

/-- Whether an operation is answered: while the management cores are in reset, IDENT and QUOTE (R342 step 4). -/
def Mgmt.answers (m : Mgmt) (op : MbOp) : Bool := !m.swHeld || op == .ident || op == .quote

/-- An operation at its buffer. -/
def State.opAt (s : State) (op : MbOp) (a : Nat) : MbResult :=
  match op with
  | .nonce => s.opNonce a
  | .unlock => s.opUnlock a
  | .quote => s.opQuote a
  | .extend => s.opExtend a
  | .ident => s.opIdent a
  | .psetup => s.opPsetup a

/-- Where an operation of a requester has its buffer, if it may be done. -/
def State.opBuffer (s : State) (who : Party) (op : MbOp) : Option Nat :=
  if op.allowed who && s.mgmt.answers op then s.mailBuffer op.size else none

/-- An operation of a requester. A request that cannot be read gives STATUS 1 (R351, R358, R360; DESIGN CHOICE, log 49). -/
def State.mailOp (s : State) (who : Party) (op : MbOp) : MbResult :=
  match s.opBuffer who op with
  | none => (1, s)
  | some a =>
    if op.reads = 0 then s.opAt op a
    else
      let t := s.ownRead a op.reads
      if (s.ownBar true a op.reads).isSome then (1, t) else t.opAt op a

/-- Whether the flits of an operation's request and result move now (R351, R353). -/
def State.opMoves (s : State) (who : Party) (op : MbOp) : Bool :=
  (s.opBuffer who op).all (fun a => s.outerMoves 0 a op.size true && s.outerMoves 0 a op.size false)

/-- R343: the running operation ends: its result stands in the buffer, STATUS is set, BUSY clears, and MBDONE is set. An OP
that is none of the six ends with STATUS 1. An operation whose flits a link holds goes on later. -/
def execMailboxComplete (s : State) : Host.Outcome State Fault Refusal :=
  .next (if !s.mgmt.busy || s.mgmt.running.any (fun q => !s.opMoves q.1 q.2) then s
    else
      let r : MbResult := match s.mgmt.running with
        | some (who, op) => s.mailOp who op
        | none => (1, s)
      { r.2 with mgmt := { r.2.mgmt with busy := false, running := none, status := BitVec.ofNat 7 r.1 } }.raiseMgmt 0)

end Sys2Proof.Machine
end

