-- ==== Sys2Proof/Machine/Registers.lean ====
section
/-! DEFINITION. Writes and reads of device registers (R9, R270, R370, R371), the counter window (R326), the MSI-X table (R371), and the
accesses of the host, of peers and of Sapwood (R299, R346, R360, R369, R373). -/

namespace Sys2Proof.Machine

/-! ## The partition register page (R370) -/

/-- Whether a region of a partition runs (R288). -/
def Part.runs (p : Part) : Bool := p.regions.any (fun r => r.st == .loading || r.st == .running)

/-- A write of SQCFG (R370): ignored, with SQERR, while HEAD and TAIL differ. -/
def State.writeSqcfg (s : State) (part : Nat) (v : Word) : State :=
  let p := s.part part
  if p.head ≠ p.tail then s.sqError part
  else
    let n := bits v 0 4
    s.modPart part (fun p => { p with sqcfg := BitVec.ofNat 64 (bits v 12 44 * 4096 + (if 4 ≤ n ∧ n ≤ 12 then n else 4)) })

/-- A write of XLCFG (R288): the HLEASE that ends is remembered (R293). -/
def Part.writeXlcfg (p : Part) (v : Word) (time : Nat) : Part :=
  { p with
    xlcfg := BitVec.ofNat 64 (bits v 32 20 * 2 ^ 32 + bits v 16 16 * 2 ^ 16 + bits v 8 4 * 2 ^ 8 + bits v 0 1)
    hleases := ((bits p.xlcfg 8 4, time) :: p.hleases).filter (fun h => time ≤ h.2 + 1048576) }

/-- A write of TRCCTL (R328): a PER of more than 12 stores 12. -/
def trcValue (v : Word) : Word := BitVec.ofNat 64 (bits v 59 5 * 2 ^ 59 + min 12 (bits v 48 4) * 2 ^ 48)

/-- A write of PCTL (R317). -/
def State.writePctl (s : State) (part : Nat) (v : Word) : State :=
  let regid := bits v 0 16
  if s.pctlIgnores part regid (bits v 54 2) (bits v 16 10) (bitAt v 26) then s
  else
    let t := s.modPart part (fun p => { p with pctlRegid := BitVec.ofNat 16 regid })
    match bits v 54 2, bitAt v 26 with
    | 1, false => t.preempt part regid
    | 2, false => t.resumeRegion part regid
    | 3, false => t.endRegionOp part regid
    | 2, true => t.resumeOne part regid (bits v 16 10)
    | 3, true => t.endOne part regid (bits v 16 10)
    | _, _ => t

/-- A write of BSHARE (R382): ignored while BUSY, and with OP 1 of a region that may not be placed. -/
def State.writeBshare (s : State) (part : Nat) (v : Word) : State :=
  if (s.part part).placing.isSome then s
  else
    let t := s.modPart part (fun p => { p with bshare := BitVec.ofNat 64 (bits v 0 16) })
    match bits v 54 2 with
    | 1 => s.place part (bits v 32 16) (bits v 0 16)
    | 2 => t.stopSharing part (bits v 32 16)
    | _ => t.modPart part (fun p => { p with slice := sliceValue (bits v 32 16) })

/-- An enable bit set while its status bit is 1 sends a message (R371). -/
def State.enablePart (s : State) (part : Nat) (v : Word) : State :=
  let p := s.part part
  let en := BitVec.ofNat 5 (bits v 0 5)
  let vec := BitVec.ofNat 6 (if bits v 8 6 = 0 then 1 else bits v 8 6)
  let t := s.modPart part (fun p => { p with pintEn := en, pintVec := vec })
  (List.range 5).foldl (fun u i => if bitAt en i && !bitAt p.pintEn i && bitAt p.pintstat i then u.message vec.toNat else u) t

/-- The mask of a breakpoint register's fields (R334). -/
def bpMask : Word := BitVec.ofNat 64 ((2 ^ 64 - 2 ^ 41) + (2 ^ 15 - 1))

/-- The launch core n of the running regions of a partition: its region, by acceptance number, and its core. -/
def Part.launchCore (p : Part) (n : Nat) : List (Nat × Nat) :=
  (p.regions.filter (fun r => r.st == .running)).filterMap (fun r => (r.cores[n]?).map (fun c => (r.order, c)))

/-- Whether a context issues: not in handler mode, in which the core is stopped (R306, R324). -/
def Ctx.issues (x : Ctx) : Bool :=
  match x.mode with
  | .run => !x.frame.handler
  | .stopping _ => true
  | _ => false

/-- A write of BPk of launch core n (R334): ignored while that core runs a launch and is not stopped. The register keeps its value over
launches, and a context of the core that stands takes it at once. -/
def State.writeBp (s : State) (part n k : Nat) (v : Word) : State :=
  let on := (s.part part).launchCore n
  if on.any (fun q => (s.core q.2).ctx.belongs part q.1 && (s.core q.2).ctx.issues) then s
  else
    let w := v &&& bpMask
    let put := fun (q : Nat × Nat) (x : Ctx) =>
      if x.belongs part q.1 then { x with launch := { x.launch with bps := x.launch.bps.set k w } } else x
    on.foldl (fun t q => t.modCore q.2 (fun c => { c with ctx := put q c.ctx, alt := put q c.alt }))
      (s.modPart part (fun p => { p with bps := p.bps.put (4 * n + k) w }))

/-- A write at an offset of a partition page. Of these registers the host reaches the doorbell, SQHEAD, the interrupt
registers, RACECTL, TRPTR and DBGHALT; the others are Sapwood's (R270, R340; log 35). -/
def State.writePart (s : State) (who : Party) (part off : Nat) (v : Word) : State :=
  let fw := who = .sapwood
  match off with
  | 0x00 => if bitAt v 16 then s.modPart part (fun p => { p with sqerr := false }) else s
  | 0x08 =>
    (match execDoorbell part (v.setWidth 16) s with
     | .next t => t
     | _ => s)
  | 0x10 => if fw then s.writeSqcfg part v else s
  | 0x20 => if fw ∧ (s.part part).runs = false then s.modPart part (fun p => { p with xlroot := BitVec.ofNat 64 (bits v 16 36 * 2 ^ 16 + bits v 0 1) }) else s
  | 0x28 => if fw ∧ (s.part part).runs = false then s.modPart part (fun p => p.writeXlcfg v s.time) else s
  | 0x30 => if fw then s.writePctl part v else s
  | 0x38 => if fw then s.modPart part (fun p => { p with psave := BitVec.ofNat 64 (bits v 16 40 * 2 ^ 16) }) else s
  | 0x40 => if fw then s.writeBshare part v else s
  | 0x48 => if fw then s.modPart part (fun p => { p with lrbase := BitVec.ofNat 64 (bits v 20 36 * 2 ^ 20 + bits v 0 1) }) else s
  | 0x50 => s.modPart part (fun p => { p with racectl := if bits v 0 2 = 3 then 0 else BitVec.ofNat 2 (bits v 0 2) })
  | 0x58 => s.modPart part (fun p => { p with pintstat := p.pintstat &&& ~~~(v.setWidth 5) })
  | 0x60 => s.enablePart part v
  | 0x80 => if fw then s.modPart part (fun p => { p with trcctl := trcValue v }) else s
  | 0x88 => if fw then s.modPart part (fun p => { p with tbuf := BitVec.ofNat 64 (bits v 16 40 * 2 ^ 16 + bits v 0 5), twptr := 0 }) else s
  | 0x98 => s.modPart part (fun p => { p with trptr := v.toNat })
  | 0xA8 =>
    if v = 1 then
      (match execDbghalt part s with
       | .next t => t
       | _ => s)
    else s
  | off => if fw ∧ 0x1000 ≤ off ∧ off < 0x1000 + 32 * 640 ∧ off % 8 = 0 then s.writeBp part ((off - 0x1000) / 32) (off / 8 % 4) v else s

/-! ## The management page (R343, R370, R371) -/

/-- The operation of an OP code. -/
def mbOpOf : Nat → Option MbOp
  | 1 => some .nonce
  | 2 => some .unlock
  | 3 => some .quote
  | 4 => some .extend
  | 5 => some .ident
  | 6 => some .psetup
  | _ => none

/-- A write at an offset of the management page. -/
def State.writeMgmt (s : State) (who : Party) (off : Nat) (v : Word) : State :=
  match off with
  | 0x08 => s.startMailbox who (bits v 48 8) (mbOpOf (bits v 48 8))
  | 0x10 => if s.mgmt.busy then s else { s with mgmt := { s.mgmt with hwarg := BitVec.ofNat 64 (bits v 6 50 * 64) } }
  | 0x38 => { s with mgmt := { s.mgmt with mintstat := s.mgmt.mintstat &&& ~~~(v.setWidth 4) } }
  | 0x40 =>
    let en : BitVec 4 := v.setWidth 4
    let t := { s with mgmt := { s.mgmt with mintEn := en } }
    (List.range 4).foldl (fun u i => if bitAt en i && !bitAt s.mgmt.mintEn i && bitAt s.mgmt.mintstat i then u.message 0 else u) t
  | _ => s

/-- A write of a register at its BAR0 offset; at an offset not listed it is ignored. Sapwood writes nothing while the management cores
are in reset (R342). -/
def State.writeReg (s : State) (who : Party) (off : Nat) (v : Word) : State :=
  if who == .sapwood && s.mgmt.swHeld then s
  else if off < 0x100000 then s.writeMgmt who off v
  else if off < 0x500000 then s.writePart who ((off - 0x100000) / 0x10000) (off % 0x10000) v else s

/-- R370: a write of a register. -/
def execRegWrite (who : Party) (off : Nat) (val : BitVec 64) (s : State) : Host.Outcome State Fault Refusal :=
  .next (s.writeReg who off val)

/-- R370: a write of SQCFG by Sapwood. -/
def execSqcfgWrite (part : Nat) (val : BitVec 64) (s : State) : Host.Outcome State Fault Refusal :=
  .next (if s.mgmt.swHeld then s else s.writeSqcfg part val)

/-! ## Reads of registers (R9, R370) -/

/-- Bits at their places in a register. -/
def fields (l : List (Nat × Nat)) : Word := BitVec.ofNat 64 (l.foldl (fun n f => n + f.1 * 2 ^ f.2) 0)

/-- A flag as a number. -/
def flagBit (b : Bool) : Nat := if b then 1 else 0

/-- The two doublewords of a link status entry: of router ports, then of peer ports (R370). -/
def State.linkStatus (s : State) (off : Nat) : List Byte :=
  if off < 0x2C000 then
    let k := (off - 0x20000) / 16
    if k % 16 < 13 ∧ k / 16 < 162 then (s.link (k / 16) (k % 16)).status else []
  else if off < 0x2C180 then (s.peerLink ((off - 0x2C000) / 16)).status else []

/-- A doubleword of the management page (R342, R343, R350, R354, R355, R370, R371, R373, R378). -/
def State.readMgmt (s : State) (off : Nat) : Word :=
  let m := s.mgmt
  match off with
  | 0x00 => fields [(flagBit m.debugOpen, 63), (flagBit m.swok, 62), (Config.life.toNat, 0)]
  | 0x08 => fields [(flagBit m.busy, 63), (m.status.toNat, 56), (m.op.toNat, 48)]
  | 0x10 => m.hwarg
  | 0x18 => fields [(m.memcfgCmin.toNat, 32), (m.memcfgSact.toNat, 16), (m.memcfgRetired.toNat, 0)]
  | 0x20 => fields [(flagBit m.trip, 63), (m.tripCode.toNat, 16), (m.tripSensor.toNat, 0)]
  | 0x28 => m.mcbase
  | 0x30 => BitVec.ofNat 64 m.mcwptr
  | 0x38 => m.mintstat.setWidth 64
  | 0x40 => m.mintEn.setWidth 64
  | off =>
    if 0x1000 ≤ off ∧ off < 0x1500 then BitVec.ofNat 64 (State.tbstat (s.cluster ((off - 0x1000) / 8)))
    else if 0x10000 ≤ off ∧ off < 0x1A200 then
      BitVec.ofNat 64 (leNat ((upto (off % 256) 8).map (fun d => if d < 162 then s.route ((off - 0x10000) / 256) d else 0)))
    else if 0x1C000 ≤ off ∧ off < 0x1D000 then
      fields [(s.peerMask ((off - 0x1C000) / 4), 0), (s.peerMask ((off - 0x1C000) / 4 + 1), 32)]
    else if 0x20000 ≤ off ∧ off < 0x2C180 then BitVec.ofNat 64 (leNat (((s.linkStatus off).drop (off % 16)).take 8))
    else 0

/-- A doubleword of a partition page (R270, R288, R317, R328, R334, R370, R371, R382): XLROOT and XLCFG read as zero in the host's view of
a confidential partition; DBGHALT is WO. -/
def Part.readReg (p : Part) (who : Party) (off : Nat) : Word :=
  let hidden := who == .host && p.confidential
  match off with
  | 0x00 => fields [(flagBit p.sqerr, 16), (p.head.toNat, 0)]
  | 0x08 => p.tail.setWidth 64
  | 0x10 => p.sqcfg
  | 0x18 => BitVec.ofNat 64 p.pcap
  | 0x20 => if hidden then 0 else p.xlroot
  | 0x28 => if hidden then 0 else p.xlcfg
  | 0x30 => fields [(flagBit p.pctlBusy, 63), (p.pctlRegid.toNat, 0)]
  | 0x38 => p.psave
  | 0x40 => fields [(flagBit p.placing.isSome, 63), (p.slice, 32), (bits p.bshare 0 16, 0)]
  | 0x48 => p.lrbase
  | 0x50 => p.racectl.setWidth 64
  | 0x58 => p.pintstat.setWidth 64
  | 0x60 => fields [(p.pintVec.toNat, 8), (p.pintEn.toNat, 0)]
  | 0x80 => p.trcctl
  | 0x88 => p.tbuf
  | 0x90 => BitVec.ofNat 64 p.twptr
  | 0x98 => BitVec.ofNat 64 p.trptr
  | 0xA0 => BitVec.ofNat 64 p.tlost
  | off => if 0x1000 ≤ off ∧ off < 0x1000 + 32 * 640 then p.bps.get ((off - 0x1000) / 8) 0 else 0

/-- The register at a BAR0 offset, of 8 bytes; one that is not listed reads as zero (R370). -/
def State.readReg (s : State) (who : Party) (off : Nat) : Word :=
  if off < 0x100000 then s.readMgmt off
  else if off < 0x500000 then (s.part ((off - 0x100000) / 0x10000)).readReg who (off % 0x10000) else 0

/-- What a read of a register changes: the RC fields are cleared (R9, R295, R328, R354). -/
def State.readClears (s : State) (off : Nat) : State :=
  if 0x1000 ≤ off ∧ off < 0x1500 then s.modCluster ((off - 0x1000) / 8) (fun c => { c with marks := 0 })
  else if 0x20000 ≤ off ∧ off < 0x2C000 ∧ off % 16 = 0 then
    s.modLink false ((off - 0x20000) / 256) ((off - 0x20000) / 16 % 16) (fun l => { l with replays := 0 })
  else if 0x2C000 ≤ off ∧ off < 0x2C180 ∧ off % 16 = 0 then s.modLink true 0 ((off - 0x2C000) / 16) (fun l => { l with replays := 0 })
  else if 0x100000 ≤ off ∧ off < 0x500000 ∧ off % 0x10000 = 0xA0 then
    s.modPart ((off - 0x100000) / 0x10000) (fun p => { p with tlost := 0 })
  else s

/-- A reader reads bytes of one register. -/
def State.readBar (s : State) (who : Party) (off n : Nat) : State :=
  let a := off / 8 * 8
  (s.emit (((leBytes 8 (s.readReg who a).toNat).drop (off % 8)).take n)).readClears a

/-! ## The counter window (R326) -/

/-- A doubleword of a counter bank: of a confidential partition only CYC and ENERGY. -/
def Ctx.windowWord (x : Ctx) (confidential : Bool) (k : Nat) : Nat :=
  if confidential && k != 0 && k != 74 then 0 else x.counterList.getD k 0

/-- The cores of a partition, ascending. -/
def Part.coreList (p : Part) : List Nat := ((List.range 160).filter (fun c => p.clusters.contains c)).flatMap coresOf

/-- A doubleword of a partition's counter window: 2 KiB for each core, the active bank, then the resident one. -/
def State.counterWindow (s : State) (part off : Nat) : Nat :=
  let p := s.part part
  match p.coreList[off / 0x800]? with
  | some n =>
    let c := s.core n
    (if off % 0x800 < 0x400 then c.ctx else c.alt).windowWord p.confidential (off % 0x400 / 8)
  | none => 0

/-! ## The MSI-X table (R371; PRESUMED, log 76: its layout in PCI Express) -/

/-- A doubleword of the table, 16 bytes to a vector (its address, then its data and its mask bit), or from 0x400 the pending bits. -/
def State.readMsix (s : State) (off : Nat) : Nat :=
  if off = 0x400 then (List.range 64).foldl (fun n v => if s.fabric.msixPend.contains v then n + 2 ^ v else n) 0
  else if off < 0x400 then
    let e := s.fabric.msixTab.get (off / 16) (0, 0)
    if off % 16 < 8 then e.1.toNat else e.2.toNat + (if s.fabric.msixOn.contains (off / 16) then 0 else 2 ^ 32)
  else 0

/-- A write of a doubleword of the table; clearing a mask bit sends what is pending. -/
def State.writeMsix (s : State) (off : Nat) (v : Word) : State :=
  if 0x400 ≤ off then s
  else
    let n := off / 16
    let e := s.fabric.msixTab.get n (0, 0)
    if off % 16 < 8 then { s with fabric := { s.fabric with msixTab := s.fabric.msixTab.put n (v, e.2) } }
    else State.sendPending { s with fabric := { s.fabric with
      msixTab := s.fabric.msixTab.put n (e.1, v.setWidth 32)
      msixOn := if bitAt v 32 then s.fabric.msixOn.erase n else addOnce s.fabric.msixOn n } }

/-! ## Accesses from outside to device memory (R360, R362) -/

/-- Whether a range lies in the save area of a launch core of a pre-empted region of a partition, where its areas lie in the partition's
memory (R317, R319). -/
def State.inSave (s : State) (p : Part) (a n : Nat) : Bool :=
  (p.regions.filter (fun r => r.st == .preempted && s.areasOk p r.cores.length)).any (fun r =>
    (p.savedOf r).any (fun k => p.areaAt k.1.lcore ≤ a && a + n ≤ p.areaAt (k.1.lcore + 1)))

/-- What the host reads at a device offset of a partition: of a confidential one the ciphertext, its save areas included (R321, R340). -/
def State.hostBytes (s : State) (p : Part) (a n : Nat) : List Byte :=
  let v := s.devRead true a n
  if p.confidential then (v.zip (upto a n)).map (fun b => Config.encrypt p.key b.2 b.1) else v

/-- An outer reader reads device memory as it is, or as `v` gives it: nothing where no route leads, or, with a machine-check record of
`unit`, where a sector does not match its check or the slice does not answer (R360, R362). -/
def State.outerRead (s : State) (unit part a n : Nat) (v : List Byte) : State :=
  if !s.outerReach unit a then s.emit []
  else
    let t := (s.outerCarry unit a n false).fetched a n
    if !s.physSound a n then (t.machineCheck unit (s.devSite a n).kind 0 part a 0).emit [] else t.emit v

/-- The aperture that Sapwood has mapped over a range of BAR2 (R369): its partition, and the device offset. -/
def State.apertureAt (s : State) (a n : Nat) : Option (Nat × Nat) :=
  (s.fabric.apertures.find? (fun e => e.1 ≤ a && a + n ≤ e.1 + e.2.1)).map (fun e =>
    (e.2.2.1, (s.part e.2.2.1).memBase + e.2.2.2 + (a - e.1)))

/-- Sapwood maps an aperture (R369): one that overlaps it goes. -/
def State.mapAperture (s : State) (bar bytes part off : Nat) : State :=
  let rest := s.fabric.apertures.filter (fun e => apart bar bytes e.1 e.2.1)
  { s with fabric := { s.fabric with apertures := if bytes = 0 then rest.filter (fun e => e.1 != bar) else (bar, bytes, part, off) :: rest } }

/-- A host request for memory through an aperture of BAR2 (R360, R369). A read of a sector that does not match its check, or
of a slice that is not reached or does not answer, ends as an Unsuccessful Completion (R362): no bytes. -/
def State.aperture (s : State) (wr : Bool) (bar : Nat) (data : List Byte) (len : Nat) : State :=
  let n := if wr then data.length else len
  match s.apertureAt bar n with
  | none => s
  | some (part, a) =>
  let p := s.part part
  if p.memBase + p.memLen < a + n ∨ s.outerMoves 4 a n wr = false then s
  else if wr then
    s.ingress 4 part a (if p.confidential then (data.zip (upto a n)).map (fun b => Config.decrypt p.key b.2 b.1) else data)
  else s.outerRead 4 part a n (s.hostBytes p a n)

/-- The save areas of every partition, which the host reads while an unlock has opened SCOPE[1] (R346): those of a confidential one as
ciphertext (R340). -/
def State.saveWindow (s : State) (part a n : Nat) : State :=
  let p := s.part part
  if !bitAt s.mgmt.scopes 1 || !s.inSave p a n then s.emit []
  else if !s.outerMoves 4 a n false then s
  else s.outerRead 4 part a n (s.hostBytes p a n)

/-- The debug port (R346): while an unlock has opened SCOPE[0], it reads the scratchpad of a core, whose banks must be awake; zeros from a
core of a confidential partition (R340). The sectors are verified as they leave (R360): a mismatch is an Unsuccessful Completion, with its
record (R362). -/
def State.debugPort (s : State) (core off n : Nat) : State :=
  if s.parts.any (fun p => p.2.confidential && p.2.clusters.contains (clusterOf core)) then s.emit (List.replicate n 0)
  else if bitAt s.mgmt.scopes 0 && off + n ≤ 0x200000 && (s.asleep core (spadBanks core off n)).isNone then
    if (s.core core).spadSound off n then (s.spadFetched core off n).emit ((s.core core).spad.readN off n)
    else ((s.spadFetched core off n).checkAt (s.rangeSite (.spad core off n)) 0xFFFFFFFF).emit []
  else s.emit []

/-- R9, R326, R346, R369 to R371: a host request, over the host link that is up. Where its address lies is the model's (DESIGN CHOICE,
log 80): below 2^36 BAR2 with the apertures that Sapwood has mapped; from 2^42 the partition's counter window, which is read only; from 2^43 BAR0; from 2^44
the MSI-X table; from 2^45 the debug port, 2 MiB to a core; from 2^46 a device offset in a save area of the partition. -/
def execHostAccess (part : Nat) (wr : Bool) (pa : Nat) (data : List (BitVec 8)) (len : Nat) (s : State) :
    Host.Outcome State Fault Refusal :=
  let v := BitVec.ofNat 64 (leNat (data.take 8))
  .next (if s.hostLink.isNone then s
    else if pa < 2 ^ 42 then (if pa < 2 ^ 36 then s.aperture wr pa data len else s)
    else if pa < 2 ^ 43 then
      (if wr then s else s.emit (((leBytes 8 (s.counterWindow part ((pa - 2 ^ 42) / 8 * 8))).drop (pa % 8)).take len))
    else if pa < 2 ^ 44 then (if wr then s.writeReg .host (pa - 2 ^ 43) v else s.readBar .host (pa - 2 ^ 43) len)
    else if pa < 2 ^ 45 then
      (if wr then s.writeMsix (pa - 2 ^ 44) v else s.emit (((leBytes 8 (s.readMsix ((pa - 2 ^ 44) / 8 * 8))).drop (pa % 8)).take len))
    else if wr then s
    else if pa < 2 ^ 46 then s.debugPort ((pa - 2 ^ 45) / 2 ^ 21) ((pa - 2 ^ 45) % 2 ^ 21) len
    else s.saveWindow part (pa - 2 ^ 46) len)

/-- R373, R360: an access from a peer device, by a peer port; its bytes are checked anew at ingress. Without a port it does not arrive, and
while its port or its answer cannot move it is held (R352, R353). -/
def execPeerAccess (wr : Bool) (pa : Nat) (data : List (BitVec 8)) (len : Nat) (s : State) : Host.Outcome State Fault Refusal :=
  let n := if wr then data.length else len
  .next (match s.peerEntry pa with
    | none => s
    | some q =>
      if s.slices.capacity < pa + n || !(s.peerLink q).free (flitCount (if wr then 0 else n)) then s
      else
        let t := s.peerCarry q (if wr then n else 0) (if wr then 0 else n)
        if wr then t.ingress 5 (s.ownerOf pa) pa data else t.outerRead 5 (s.ownerOf pa) pa n (s.devRead true pa n))

/-- What Sapwood reads of device memory: of a confidential partition the ciphertext (R340), and above the installed capacity the
machine-check ring alone (R339, R362). -/
def State.sapwoodRead (s : State) (a n : Nat) : State :=
  let ring := bits s.mgmt.mcbase 0 42
  if s.slices.capacity < a + n then
    (if s.slices.carve ≠ 0 ∧ ring ≤ a ∧ a + n ≤ ring + 65536 then s.outerRead 0 0xFFFFFFFF a n (s.devRead true a n) else s.emit [])
  else
    let v := s.devRead true a n
    s.outerRead 0 (s.ownerOf a) a n (match s.parts.find? (fun p => p.2.confidential && !apart a n p.2.memBase p.2.memLen) with
      | some p => (v.zip (upto a n)).map (fun b => Config.encrypt p.2.key b.2 b.1)
      | none => v)

/-- What Sapwood does (R264, R299, R338, R362, R369, R370), none of it while the management cores are in reset: an aligned 64-bit store to
device memory. The numbers above are the model's (DESIGN CHOICE, log 80): from 2^51 on an 8-byte read of device memory; from 2^52 on a read
of the register at that BAR0 offset; from 2^53 on the address of a replay log for the launch core, 1,024 to a partition, 0 for none; from
2^54 on the mapping of an aperture, in units of 2 MiB: BAR2 offset [14:0], size [29:15], partition [35:30], offset in its memory [56:36];
from 2^55 on the installation of the handler image at a device offset. -/
def execManagementCoreAccess (pa : Nat) (val : BitVec 64) (s : State) : Host.Outcome State Fault Refusal :=
  .next (if s.mgmt.swHeld then s
    else if 2 ^ 55 ≤ pa then s.installImage (pa - 2 ^ 55)
    else if 2 ^ 54 ≤ pa then
      s.mapAperture (bits val 0 15 * 2 ^ 21) (bits val 15 15 * 2 ^ 21) (bits val 30 6) (bits val 36 21 * 2 ^ 21)
    else if 2 ^ 53 ≤ pa then
      s.modPart ((pa - 2 ^ 53) / 1024) (fun p => { p with
        replays := if val = 0 then p.replays.del (pa % 1024) else p.replays.put (pa % 1024) val.toNat })
    else if 2 ^ 52 ≤ pa then s.readBar .sapwood (pa - 2 ^ 52) 8
    else if 2 ^ 51 ≤ pa then s.sapwoodRead (pa - 2 ^ 51) 8
    else if pa % 8 ≠ 0 ∨ s.slices.capacity < pa + 8 then s
    else s.ingress 0 (s.ownerOf pa) pa (leBytes 8 val.toNat))

end Sys2Proof.Machine
end

