-- ==== Sys2Proof/Machine/Vector.lean ====
section
/-! DEFINITION. The V instructions (R146 to R167): the element operations, and one meaning per instruction over the
shared operation `State.vec`. -/

namespace Sys2Proof.Machine

/-! ## Elements of a lane (R51, R150) -/

/-- The low and the high 16-bit element of a lane. -/
def half (v : Lane) (e : Nat) : Nat := bits v (16 * e) 16

/-- A lane of two 16-bit elements. -/
def pack2 (a b : Nat) : Lane := BitVec.ofNat 32 (a % 2 ^ 16 + b % 2 ^ 16 * 2 ^ 16)

/-- A lane of four bytes. -/
def pack4 (a b c d : Nat) : Lane :=
  BitVec.ofNat 32 (a % 256 + b % 256 * 2 ^ 8 + c % 256 * 2 ^ 16 + d % 256 * 2 ^ 24)

/-- A floating-point lane, element by element: `g` gets the format, the element's index for its random bits (R150), and
the reading of the element from a source lane. -/
def floatLane (ty : FTy) (j : Nat) (g : Fmt → Nat → (Lane → Nat) → Nat) : Lane :=
  match ty with
  | .f32 => BitVec.ofNat 32 (g fp32 j (fun v => v.toNat))
  | .bf16x2 => pack2 (g bf16 (2 * j) (fun v => half v 0)) (g bf16 (2 * j + 1) (fun v => half v 1))
  | .f16x2 => pack2 (g fp16 (2 * j) (fun v => half v 0)) (g fp16 (2 * j + 1) (fun v => half v 1))

/-- An integer lane, element by element (R156): `g` gets the element width and the elements of A and B. -/
def intLane (ty : WTy) (a b : Lane) (g : Nat → Nat → Nat → Nat) : Lane :=
  match ty with
  | .i32 => BitVec.ofNat 32 (g 32 a.toNat b.toNat)
  | .ui32 => BitVec.ofNat 32 (g 32 a.toNat b.toNat)
  | .i16x2 => pack2 (g 16 (half a 0) (half b 0)) (g 16 (half a 1) (half b 1))
  | .ui8x4 => pack4 (g 8 (bits a 0 8) (bits b 0 8)) (g 8 (bits a 8 8) (bits b 8 8)) (g 8 (bits a 16 8) (bits b 16 8))
      (g 8 (bits a 24 8) (bits b 24 8))

/-- A number modulo 2^w, from an integer. -/
def wrap (w : Nat) (v : Int) : Nat := (v % (2 ^ w : Nat)).toNat

/-! ## Shapes of meaning -/

/-- A rounding arithmetic instruction of two sources (R152): 128 units, latency 4. -/
def State.arith2 (s : State) (h : Hdr) (d : Dst) (a b : Src) (ty : FTy) (z : BitVec 3) (rnd : Rnd)
    (op : FV → FV → FV) : State :=
  s.vec h d [a, b] (s.mask z) rnd 4 128 false noZ (fun x =>
    let A := x.src a
    let B := x.src b
    lanes (fun j => floatLane ty j (fun f i e =>
      f.ofVal rnd (x.rand rnd i) (op (f.val (e (laneAt A j))) (f.val (e (laneAt B j)))))))

/-- A rounding arithmetic instruction of three sources (R152): 128 units, latency 6. -/
def State.arith3 (s : State) (h : Hdr) (d : Dst) (a b c : Src) (ty : FTy) (z : BitVec 3) (rnd : Rnd)
    (op : FV → FV → FV → FV) : State :=
  s.vec h d [a, b, c] (s.mask z) rnd 6 128 false noZ (fun x =>
    let A := x.src a
    let B := x.src b
    let C := x.src c
    lanes (fun j => floatLane ty j (fun f i e =>
      f.ofVal rnd (x.rand rnd i)
        (op (f.val (e (laneAt A j))) (f.val (e (laneAt B j))) (f.val (e (laneAt C j)))))))

/-- A non-rounding floating-point instruction (R153) on patterns: 128 units, latency 2. -/
def State.pick2 (s : State) (h : Hdr) (d : Dst) (srcs : List Src) (a b : Src) (ty : FTy) (z : BitVec 3)
    (op : Fmt → Nat → Nat → Nat) : State :=
  s.vec h d srcs (s.mask z) .rne 2 128 false noZ (fun x =>
    let A := x.src a
    let B := x.src b
    lanes (fun j => floatLane ty j (fun f _ e => op f (e (laneAt A j)) (e (laneAt B j)))))

/-- A transcendental instruction (R155): 224 units. -/
def State.trans (s : State) (h : Hdr) (d : Dst) (a : Src) (z : BitVec 3) (rnd : Rnd) (lat : Nat)
    (op : Rnd → Nat → FV → Nat) : State :=
  s.vec h d [a] (s.mask z) rnd lat 224 false noZ (fun x =>
    let A := x.src a
    lanes (fun j => BitVec.ofNat 32 (op rnd (x.rand rnd j) (fp32.val (laneAt A j).toNat))))

/-- A lane-wise instruction on one source without rounding. -/
def State.map1 (s : State) (h : Hdr) (d : Dst) (a : Src) (z : BitVec 3) (lat units : Nat) (op : Lane → Lane) : State :=
  s.vec h d [a] (s.mask z) .rne lat units false noZ (fun x =>
    let A := x.src a
    lanes (fun j => op (laneAt A j)))

/-- A lane-wise instruction on two sources without rounding. -/
def State.map2 (s : State) (h : Hdr) (d : Dst) (a b : Src) (z : BitVec 3) (lat units : Nat) (op : Lane → Lane → Lane) :
    State :=
  s.vec h d [a, b] (s.mask z) .rne lat units false noZ (fun x =>
    let A := x.src a
    let B := x.src b
    lanes (fun j => op (laneAt A j) (laneAt B j)))

/-- The 64 bits of a condition on each lane. -/
def lanesBits (p : Nat → Bool) : Word := BitVec.ofNat 64 ((upto 0 64).foldr (fun j n => (if p j then 1 else 0) + 2 * n) 0)

/-- A comparison (R154, R157): the mask lanes to D and the bits of the enabled lanes to Z[ZT], latency 2. -/
def State.compare (s : State) (h : Hdr) (d : Dst) (a b : Src) (zt z : BitVec 3) (units : Nat) (p : Lane → Lane → Bool) :
    State :=
  s.vec h d [a, b] (s.mask z) .rne 2 units false
    (fun x =>
      let A := x.src a
      let B := x.src b
      [.zreg zt (s.mask z) (lanesBits (fun j => p (laneAt A j) (laneAt B j)))])
    (fun x =>
      let A := x.src a
      let B := x.src b
      lanes (fun j => if p (laneAt A j) (laneAt B j) then 0xFFFFFFFF else 0))

/-- A cross-lane instruction (R147): all 64 lanes of its sources are read. -/
def State.cross (s : State) (h : Hdr) (d : Dst) (srcs : List Src) (mask : Word) (rnd : Rnd) (lat units : Nat)
    (f : Ctx → List Lane) : State :=
  s.vec h d srcs mask rnd lat units true noZ f

/-- A predicate instruction (R166): the bits that Z enables of Zd, latency 1; it touches no lane group (R148). -/
def State.zop (s : State) (h : Hdr) (zd za zb z : BitVec 3) (op : Word → Word → Word) : State :=
  s.vec h .void [] 0 .rne 1 64 false
    (fun x => [.zreg zd (x.regs.zget z) (op (x.regs.zget za) (x.regs.zget zb))]) (fun _ => [])

/-! ## Floating point -/

/-- R43: no operation; it obeys IDLE and its token bits. -/
def execVNop (h : Hdr) (s : State) : Host.Outcome State Fault Refusal :=
  .next (s.issue .v h .go (s.done .v h 1 8 id))

/-- R152: A + B. -/
def execVFadd (h : Hdr) (d : Dst) (a b : Src) (ty : FTy) (z : BitVec 3) (rnd : Rnd) (s : State) : Host.Outcome State Fault Refusal :=
  .next (s.arith2 h d a b ty z rnd (fun A B => FV.add rnd A B))

/-- R152: A − B. -/
def execVFsub (h : Hdr) (d : Dst) (a b : Src) (ty : FTy) (z : BitVec 3) (rnd : Rnd) (s : State) : Host.Outcome State Fault Refusal :=
  .next (s.arith2 h d a b ty z rnd (fun A B => FV.add rnd A B.negate))

/-- R152: A × B. -/
def execVFmul (h : Hdr) (d : Dst) (a b : Src) (ty : FTy) (z : BitVec 3) (rnd : Rnd) (s : State) : Host.Outcome State Fault Refusal :=
  .next (s.arith2 h d a b ty z rnd FV.mul)

/-- R152: A × B + C. -/
def execVFma (h : Hdr) (d : Dst) (a b c : Src) (ty : FTy) (z : BitVec 3) (rnd : Rnd) (s : State) : Host.Outcome State Fault Refusal :=
  .next (s.arith3 h d a b c ty z rnd (fun A B C => FV.add rnd (FV.mul A B) C))

/-- R152: A × B − C. -/
def execVFms (h : Hdr) (d : Dst) (a b c : Src) (ty : FTy) (z : BitVec 3) (rnd : Rnd) (s : State) : Host.Outcome State Fault Refusal :=
  .next (s.arith3 h d a b c ty z rnd (fun A B C => FV.add rnd (FV.mul A B) C.negate))

/-- R152: −(A × B) + C. -/
def execVFnma (h : Hdr) (d : Dst) (a b c : Src) (ty : FTy) (z : BitVec 3) (rnd : Rnd) (s : State) : Host.Outcome State Fault Refusal :=
  .next (s.arith3 h d a b c ty z rnd (fun A B C => FV.add rnd (FV.mul A B).negate C))

/-- R153. -/
def execVFmin (h : Hdr) (d : Dst) (a b : Src) (ty : FTy) (z : BitVec 3) (s : State) : Host.Outcome State Fault Refusal :=
  .next (s.pick2 h d [a, b] a b ty z Fmt.fmin)

/-- R153. -/
def execVFmax (h : Hdr) (d : Dst) (a b : Src) (ty : FTy) (z : BitVec 3) (s : State) : Host.Outcome State Fault Refusal :=
  .next (s.pick2 h d [a, b] a b ty z Fmt.fmax)

/-- R154. -/
def execVFcmp (h : Hdr) (d : Dst) (a b : Src) (zt : BitVec 3) (cnd : FCnd) (z : BitVec 3) (s : State) : Host.Outcome State Fault Refusal :=
  .next (s.compare h d a b zt z 128 (fun A B => fcndHolds cnd A.toNat B.toNat))

/-- R153. -/
def execVFabs (h : Hdr) (d : Dst) (a : Src) (ty : FTy) (z : BitVec 3) (s : State) : Host.Outcome State Fault Refusal :=
  .next (s.pick2 h d [a] a a ty z (fun f A _ => f.fabs A))

/-- R153. -/
def execVFneg (h : Hdr) (d : Dst) (a : Src) (ty : FTy) (z : BitVec 3) (s : State) : Host.Outcome State Fault Refusal :=
  .next (s.pick2 h d [a] a a ty z (fun f A _ => f.fneg A))

/-- R155: latency 10. -/
def execVExp2 (h : Hdr) (d : Dst) (a : Src) (z : BitVec 3) (rnd : Rnd) (s : State) : Host.Outcome State Fault Refusal :=
  .next (s.trans h d a z rnd 10 exp2Bits)

/-- R155: latency 10. -/
def execVLog2 (h : Hdr) (d : Dst) (a : Src) (z : BitVec 3) (rnd : Rnd) (s : State) : Host.Outcome State Fault Refusal :=
  .next (s.trans h d a z rnd 10 log2Bits)

/-- R155: latency 8. -/
def execVRcp (h : Hdr) (d : Dst) (a : Src) (z : BitVec 3) (rnd : Rnd) (s : State) : Host.Outcome State Fault Refusal :=
  .next (s.trans h d a z rnd 8 rcpBits)

/-- R155: latency 8. -/
def execVRsq (h : Hdr) (d : Dst) (a : Src) (z : BitVec 3) (rnd : Rnd) (s : State) : Host.Outcome State Fault Refusal :=
  .next (s.trans h d a z rnd 8 rsqBits)

/-! ## Integers and bits -/

/-- R156: A + B, per element of width w. -/
def elIadd (_ A B : Nat) : Nat := A + B

/-- R156. -/
def execVIadd (h : Hdr) (d : Dst) (a b : Src) (ty : WTy) (z : BitVec 3) (s : State) : Host.Outcome State Fault Refusal :=
  .next (s.map2 h d a b z 2 64 (fun A B => intLane ty A B elIadd))

/-- R156: A − B, per element of width w. -/
def elIsub (w A B : Nat) : Nat := wrap w ((A : Int) - B)

/-- R156. -/
def execVIsub (h : Hdr) (d : Dst) (a b : Src) (ty : WTy) (z : BitVec 3) (s : State) : Host.Outcome State Fault Refusal :=
  .next (s.map2 h d a b z 2 64 (fun A B => intLane ty A B elIsub))

/-- R156: low half of A × B, per element of width w. -/
def elImul (_ A B : Nat) : Nat := A * B

/-- R156. -/
def execVImul (h : Hdr) (d : Dst) (a b : Src) (ty : WTy) (z : BitVec 3) (s : State) : Host.Outcome State Fault Refusal :=
  .next (s.map2 h d a b z 4 64 (fun A B => intLane ty A B elImul))

/-- R156: high half of signed A × signed B, per element of width w. -/
def elImulh (w A B : Nat) : Nat := wrap w (signed w A * signed w B / (2 ^ w : Nat))

/-- R156. -/
def execVImulh (h : Hdr) (d : Dst) (a b : Src) (ty : WTy) (z : BitVec 3) (s : State) : Host.Outcome State Fault Refusal :=
  .next (s.map2 h d a b z 4 64 (fun A B => intLane ty A B elImulh))

/-- R156: high half of unsigned A × unsigned B, per element of width w. -/
def elImulhu (w A B : Nat) : Nat := A * B / 2 ^ w

/-- R156. -/
def execVImulhu (h : Hdr) (d : Dst) (a b : Src) (ty : WTy) (z : BitVec 3) (s : State) : Host.Outcome State Fault Refusal :=
  .next (s.map2 h d a b z 4 64 (fun A B => intLane ty A B elImulhu))

/-- R156: A << s, per element of width w. -/
def elIshl (w A B : Nat) : Nat := A * 2 ^ (B % w)

/-- R156. -/
def execVIshl (h : Hdr) (d : Dst) (a b : Src) (ty : WTy) (z : BitVec 3) (s : State) : Host.Outcome State Fault Refusal :=
  .next (s.map2 h d a b z 2 64 (fun A B => intLane ty A B elIshl))

/-- R156: A >> s, zero fill, per element of width w. -/
def elIshr (w A B : Nat) : Nat := A / 2 ^ (B % w)

/-- R156. -/
def execVIshr (h : Hdr) (d : Dst) (a b : Src) (ty : WTy) (z : BitVec 3) (s : State) : Host.Outcome State Fault Refusal :=
  .next (s.map2 h d a b z 2 64 (fun A B => intLane ty A B elIshr))

/-- R156: A >> s, sign fill, per element of width w. -/
def elIsra (w A B : Nat) : Nat := wrap w (signed w A / (2 ^ (B % w) : Nat))

/-- R156. -/
def execVIsra (h : Hdr) (d : Dst) (a b : Src) (ty : WTy) (z : BitVec 3) (s : State) : Host.Outcome State Fault Refusal :=
  .next (s.map2 h d a b z 2 64 (fun A B => intLane ty A B elIsra))

/-- R156: signed minimum, per element of width w. -/
def elImin (w A B : Nat) : Nat := if signed w B < signed w A then B else A

/-- R156. -/
def execVImin (h : Hdr) (d : Dst) (a b : Src) (ty : WTy) (z : BitVec 3) (s : State) : Host.Outcome State Fault Refusal :=
  .next (s.map2 h d a b z 2 64 (fun A B => intLane ty A B elImin))

/-- R156: signed maximum, per element of width w. -/
def elImax (w A B : Nat) : Nat := if signed w A < signed w B then B else A

/-- R156. -/
def execVImax (h : Hdr) (d : Dst) (a b : Src) (ty : WTy) (z : BitVec 3) (s : State) : Host.Outcome State Fault Refusal :=
  .next (s.map2 h d a b z 2 64 (fun A B => intLane ty A B elImax))

/-- R156: unsigned minimum, per element of width w. -/
def elIminu (_ A B : Nat) : Nat := min A B

/-- R156. -/
def execVIminu (h : Hdr) (d : Dst) (a b : Src) (ty : WTy) (z : BitVec 3) (s : State) : Host.Outcome State Fault Refusal :=
  .next (s.map2 h d a b z 2 64 (fun A B => intLane ty A B elIminu))

/-- R156: unsigned maximum, per element of width w. -/
def elImaxu (_ A B : Nat) : Nat := max A B

/-- R156. -/
def execVImaxu (h : Hdr) (d : Dst) (a b : Src) (ty : WTy) (z : BitVec 3) (s : State) : Host.Outcome State Fault Refusal :=
  .next (s.map2 h d a b z 2 64 (fun A B => intLane ty A B elImaxu))

/-- R156. -/
def execVIand (h : Hdr) (d : Dst) (a b : Src) (z : BitVec 3) (s : State) : Host.Outcome State Fault Refusal :=
  .next (s.map2 h d a b z 2 64 (fun A B => A &&& B))

/-- R156. -/
def execVIor (h : Hdr) (d : Dst) (a b : Src) (z : BitVec 3) (s : State) : Host.Outcome State Fault Refusal :=
  .next (s.map2 h d a b z 2 64 (fun A B => A ||| B))

/-- R156. -/
def execVIxor (h : Hdr) (d : Dst) (a b : Src) (z : BitVec 3) (s : State) : Host.Outcome State Fault Refusal :=
  .next (s.map2 h d a b z 2 64 (fun A B => A ^^^ B))

/-- R156. -/
def execVIandn (h : Hdr) (d : Dst) (a b : Src) (z : BitVec 3) (s : State) : Host.Outcome State Fault Refusal :=
  .next (s.map2 h d a b z 2 64 (fun A B => A &&& ~~~B))

/-- R156. -/
def execVIpopc (h : Hdr) (d : Dst) (a : Src) (z : BitVec 3) (s : State) : Host.Outcome State Fault Refusal :=
  .next (s.map1 h d a z 2 64 (fun A => BitVec.ofNat 32 (popCount 32 A.toNat)))

/-- R156. -/
def execVIclz (h : Hdr) (d : Dst) (a : Src) (z : BitVec 3) (s : State) : Host.Outcome State Fault Refusal :=
  .next (s.map1 h d a z 2 64 (fun A => BitVec.ofNat 32 (leadZeros 32 A.toNat)))

/-- R157. -/
def execVIcmp (h : Hdr) (d : Dst) (a b : Src) (zt : BitVec 3) (cnd : ICnd) (z : BitVec 3) (s : State) : Host.Outcome State Fault Refusal :=
  .next (s.compare h d a b zt z 64 (icndHolds cnd))

/-- R156: the most negative value stays unchanged. -/
def execVIabs (h : Hdr) (d : Dst) (a : Src) (ty : WTy) (z : BitVec 3) (s : State) : Host.Outcome State Fault Refusal :=
  .next (s.map1 h d a z 2 64 (fun A => intLane ty A A (fun w A _ => wrap w (signed w A).natAbs)))

/-- The low 32 bits of the carry-less product (R156). -/
def clmul32 : Nat → Nat → Nat → Nat
  | 0, _, _ => 0
  | n + 1, a, b => (if b % 2 = 1 then a else 0) ^^^ clmul32 n (2 * a) (b / 2)

/-- R156, R158. -/
def execVClmul (h : Hdr) (d : Dst) (a b : Src) (z : BitVec 3) (s : State) : Host.Outcome State Fault Refusal :=
  .next (s.map2 h d a b z 4 224 (fun A B => BitVec.ofNat 32 (clmul32 32 A.toNat B.toNat)))

/-- `bcmp8` of a lane (R158): bit e says that byte e equals c. -/
def byteMask (c : BitVec 8) (A : Lane) : Lane :=
  BitVec.ofNat 32 ((upto 0 4).foldl (fun n e => if bits A (8 * e) 8 = c.toNat then n + 2 ^ e else n) 0)

/-- R158. -/
def execVBcmp8 (h : Hdr) (d : Dst) (a : Src) (byte : BitVec 8) (z : BitVec 3) (s : State) : Host.Outcome State Fault Refusal :=
  .next (s.map1 h d a z 2 64 (byteMask byte))

/-- `bpack` (R158): lane k below 8 gathers the four low bits of eight lanes. -/
def bpackLane (A : List Lane) (k : Nat) : Lane :=
  if k < 8 then
    BitVec.ofNat 32 ((upto 0 8).foldl (fun n m => n + (laneAt A (8 * k + m)).toNat % 16 * 2 ^ (4 * m)) 0)
  else 0

/-- R158. -/
def execVBpack (h : Hdr) (d : Dst) (a : Src) (z : BitVec 3) (s : State) : Host.Outcome State Fault Refusal :=
  .next (s.cross h d [a] (s.mask z) .rne 3 224 (fun x => let A := x.src a; lanes (bpackLane A)))

/-! ## Conversion -/

/-- Saturation to a signed range, as a pattern of w bits. -/
def sat (w : Nat) (lo hi v : Int) : Nat := wrap w (clamp lo hi v)

/-- A float of 32 bits from an integer, rounded (R159). -/
def intToF32 (rnd : Rnd) (r : Nat) (v : Int) : Lane := BitVec.ofNat 32 (fp32.round rnd r (v < 0) v.natAbs 0 false)

/-- One lane of `cvt` (R159); `r` gives the random bits of an element index. The pairs that R159 does not list are
illegal and never reach this function; their value here is A. -/
def cvtLane (rnd : Rnd) (r : Nat → Nat) (el : Nat) (j : Nat) (A B : Lane) : LaneTy → LaneTy → Lane
  | .f32, .i32 => intToF32 rnd (r j) (signed 32 A.toNat)
  | .f32, .ui32 => intToF32 rnd (r j) A.toNat
  | .i32, .f32 => BitVec.ofInt 32 (toIntRange rnd (-2147483648) 2147483647 (fp32.val A.toNat))
  | .ui32, .f32 => BitVec.ofInt 32 (toIntRange rnd 0 4294967295 (fp32.val A.toNat))
  | .i32, .ui32 => BitVec.ofNat 32 (min A.toNat 2147483647)
  | .ui32, .i32 => if bitAt A 31 then 0 else A
  | .f32, .bf16x2 => BitVec.ofNat 32 (bf16.convert fp32 .rne 0 (half A el))
  | .f32, .f16x2 => BitVec.ofNat 32 (fp16.convert fp32 .rne 0 (half A el))
  | .f32, .cb16 => BitVec.ofNat 32 (bf16.convert fp32 .rne 0 (half A el))
  | .i32, .i16x2 => BitVec.ofInt 32 (signed 16 (half A el))
  | .i16x2, .ui8x4 => pack2 (bits A (16 * el) 8) (bits A (16 * el + 8) 8)
  | .bf16x2, .f32 => pack2 (fp32.convert bf16 rnd (r (2 * j)) A.toNat) (fp32.convert bf16 rnd (r (2 * j + 1)) B.toNat)
  | .f16x2, .f32 => pack2 (fp32.convert fp16 rnd (r (2 * j)) A.toNat) (fp32.convert fp16 rnd (r (2 * j + 1)) B.toNat)
  | .cb16, .f32 => pack2 (fp32.convert bf16 rnd (r (2 * j)) A.toNat) (fp32.convert bf16 rnd (r (2 * j + 1)) B.toNat)
  | .bf16x2, .f16x2 => pack2 (fp16.convert bf16 rnd (r (2 * j)) (half A 0)) (fp16.convert bf16 rnd (r (2 * j + 1)) (half A 1))
  | .f16x2, .bf16x2 => pack2 (bf16.convert fp16 rnd (r (2 * j)) (half A 0)) (bf16.convert fp16 rnd (r (2 * j + 1)) (half A 1))
  | .i16x2, .i32 => pack2 (sat 16 (-32768) 32767 (signed 32 A.toNat)) (sat 16 (-32768) 32767 (signed 32 B.toNat))
  | .ui8x4, .i16x2 =>
    pack4 (sat 8 0 255 (signed 16 (half A 0))) (sat 8 0 255 (signed 16 (half A 1)))
      (sat 8 0 255 (signed 16 (half B 0))) (sat 8 0 255 (signed 16 (half B 1)))
  | _, _ => A

/-- The sources that a `cvt` reads: B only by the narrowing pairs (R159). -/
def cvtSrcs (a b : Src) (src ty : LaneTy) : List Src :=
  match cvtKind ty src with
  | some k => if k.narrows then [a, b] else [a]
  | none => [a]

/-- R159. -/
def execVCvt (h : Hdr) (d : Dst) (a b : Src) (el : Bool) (src ty : LaneTy) (z : BitVec 3) (rnd : Rnd) (s : State) : Host.Outcome State Fault Refusal :=
  .next (s.vec h d (cvtSrcs a b src ty) (s.mask z) rnd 3 96 false noZ (fun x =>
    let A := x.src a
    let B := x.src b
    lanes (fun j => cvtLane rnd (x.rand rnd) (if el then 1 else 0) j (laneAt A j) (laneAt B j) ty src)))

/-- The result of `qblk` (R160): 64 elements in lanes 0 to 15, the two scales in lanes 16 and 17. -/
def qblkLanes (two : Bool) (rnd : Rnd) (r : Nat → Nat) (A : List Lane) : List Lane :=
  let v := A.map (fun a => fp32.val a.toNat)
  let s0 := blockScale two (v.take 32)
  let s1 := blockScale two (v.drop 32)
  let q := fun j => (quantise two rnd (r j) (if j < 32 then s0 else s1) (v.getD j .nan)).1
  lanes (fun k =>
    if k < 16 then pack4 (q (4 * k)) (q (4 * k + 1)) (q (4 * k + 2)) (q (4 * k + 3))
    else if k = 16 then BitVec.ofNat 32 s0
    else if k = 17 then BitVec.ofNat 32 s1
    else 0)

/-- R160. -/
def execVQblk (h : Hdr) (d : Dst) (a : Src) (e5m2 : Bool) (z : BitVec 3) (rnd : Rnd) (s : State) : Host.Outcome State Fault Refusal :=
  .next (s.cross h d [a] (s.mask z) rnd 8 96 (fun x => qblkLanes e5m2 rnd (x.rand rnd) (x.src a)))

/-- The result of `dqblk` (R161). -/
def dqblkLanes (two : Bool) (rnd : Rnd) (r : Nat → Nat) (A : List Lane) : List Lane :=
  lanes (fun j =>
    let sc := (laneAt A (16 + j / 32)).toNat % 256
    BitVec.ofNat 32 (fp32.ofVal rnd (r j) (fp8Val two (bits (laneAt A (j / 4)) (8 * (j % 4)) 8) sc)))

/-- R161. -/
def execVDqblk (h : Hdr) (d : Dst) (a : Src) (e5m2 : Bool) (z : BitVec 3) (rnd : Rnd) (s : State) : Host.Outcome State Fault Refusal :=
  .next (s.cross h d [a] (s.mask z) rnd 4 96 (fun x => dqblkLanes e5m2 rnd (x.rand rnd) (x.src a)))

/-! ## Lane operations -/

/-- The operation of OPN on two lanes (R162). -/
def laneOp (op : LaneOp) (ty : RTy) (rnd : Rnd) (r : Nat) (p a : Lane) : Lane :=
  match op, ty with
  | .add, .f32 => BitVec.ofNat 32 (fp32.ofVal rnd r (FV.add rnd (fp32.val p.toNat) (fp32.val a.toNat)))
  | .add, _ => p + a
  | .min, .i32 => if a.slt p then a else p
  | .min, .ui32 => if a.ult p then a else p
  | .min, .f32 => BitVec.ofNat 32 (fp32.fmin p.toNat a.toNat)
  | .max, .i32 => if p.slt a then a else p
  | .max, .ui32 => if p.ult a then a else p
  | .max, .f32 => BitVec.ofNat 32 (fp32.fmax p.toNat a.toNat)
  | .xor, _ => p ^^^ a
  | .or, _ => p ||| a
  | .and, _ => p &&& a

/-- The identity of OPN (R162). -/
def laneId (op : LaneOp) (ty : RTy) : Lane :=
  match op, ty with
  | .add, .f32 => 0x80000000
  | .add, _ => 0
  | .min, .i32 => 0x7FFFFFFF
  | .min, .ui32 => 0xFFFFFFFF
  | .min, .f32 => 0x7F800000
  | .max, .i32 => 0x80000000
  | .max, .ui32 => 0
  | .max, .f32 => 0xFF800000
  | .xor, _ => 0
  | .or, _ => 0
  | .and, _ => 0xFFFFFFFF

/-- The loop of `scan` (R162) from lane j on, with the value p so far. -/
def scanGo (ex : Bool) (mask : Word) (f : Nat → Lane → Lane → Lane) : Nat → Lane → List Lane → List Lane
  | _, _, [] => []
  | j, p, a :: t =>
    if bitAt mask j then (if ex then p else f j p a) :: scanGo ex mask f (j + 1) (f j p a) t
    else 0 :: scanGo ex mask f (j + 1) p t

/-- R162: the sum formed at lane j draws with index j, also in an exclusive scan, where it is the result of the next enabled
lane (DESIGN CHOICE, log 71). -/
def execVScan (h : Hdr) (d : Dst) (a : Src) (ex : Bool) (op : LaneOp) (ty : RTy) (z : BitVec 3) (rnd : Rnd) (s : State) : Host.Outcome State Fault Refusal :=
  .next (s.cross h d [a] (s.mask z) rnd 6 224 (fun x =>
    scanGo ex (s.mask z) (fun j => laneOp op ty rnd (x.rand rnd j)) 0 (laneId op ty) (x.src a)))

/-- One level of the tree of `red` (R162). -/
def pairUp (f : Lane → Lane → Lane) : List Lane → List Lane
  | a :: b :: t => f a b :: pairUp f t
  | t => t

/-- The tree of `red` (R162). -/
def redTree (f : Lane → Lane → Lane) : Nat → List Lane → Lane
  | 0, v => v.headD 0
  | n + 1, v => redTree f n (pairUp f v)

/-- R162. -/
def execVRed (h : Hdr) (d : Dst) (a : Src) (op : LaneOp) (ty : RTy) (z : BitVec 3) (rnd : Rnd) (s : State) : Host.Outcome State Fault Refusal :=
  .next (s.cross h d [a] (s.mask z) rnd 8 224 (fun x =>
    let A := x.src a
    let r := redTree (laneOp op ty rnd 0) 6 (lanes (fun j => if bitAt (s.mask z) j then laneAt A j else laneId op ty))
    lanes (fun _ => r)))

/-- R163. -/
def execVPerm (h : Hdr) (d : Dst) (a b : Src) (z : BitVec 3) (s : State) : Host.Outcome State Fault Refusal :=
  .next (s.cross h d [a, b] (s.mask z) .rne 4 224 (fun x =>
    let A := x.src a
    let B := x.src b
    lanes (fun j => laneAt A ((laneAt B j).toNat % 64))))

/-- R163: no predicate; all four lane groups (R148). -/
def execVRot (h : Hdr) (d : Dst) (a : Src) (n : BitVec 6) (s : State) : Host.Outcome State Fault Refusal :=
  .next (s.cross h d [a] (BitVec.allOnes 64) .rne 3 224 (fun x =>
    let A := x.src a
    lanes (fun j => laneAt A ((j + n.toNat) % 64))))

/-- R163. -/
def execVBcast (h : Hdr) (d : Dst) (a : Src) (src : BitVec 6) (z : BitVec 3) (s : State) : Host.Outcome State Fault Refusal :=
  .next (s.cross h d [a] (s.mask z) .rne 3 224 (fun x =>
    let v := laneAt (x.src a) src.toNat
    lanes (fun _ => v)))

/-! ## Complex -/

/-- The real and the imaginary part of a CB16 lane (R51). -/
def cbVal (v : Lane) : FV × FV := (bf16.val (half v 0), bf16.val (half v 1))

/-- A complex product, with the terms of its parts (R164): `conj` takes the conjugate of B. -/
def cbTerms (conj : Bool) (A B : Lane) : List FV × List FV :=
  let a := cbVal A
  let b := cbVal B
  let bi := if conj then b.2.negate else b.2
  ([FV.mul a.1 b.1, (FV.mul a.2 bi).negate], [FV.mul a.1 bi, FV.mul a.2 b.1])

/-- A complex lane from the terms of its parts, each rounded once to BF16 (R164, R150). -/
def cbLane (rnd : Rnd) (r : Nat → Nat) (j : Nat) (re im : List FV) : Lane :=
  pack2 (bf16.ofVal rnd (r (2 * j)) (FV.sum rnd re)) (bf16.ofVal rnd (r (2 * j + 1)) (FV.sum rnd im))

/-- A complex product instruction (R164): 224 units, latency 6. -/
def State.cmulOp (s : State) (h : Hdr) (d : Dst) (a b : Src) (z : BitVec 3) (rnd : Rnd) (conj : Bool) : State :=
  s.vec h d [a, b] (s.mask z) rnd 6 224 false noZ (fun x =>
    let A := x.src a
    let B := x.src b
    lanes (fun j =>
      let t := cbTerms conj (laneAt A j) (laneAt B j)
      cbLane rnd (x.rand rnd) j t.1 t.2))

/-- A complex multiply-add (R164): 224 units, latency 6. -/
def State.cmaOp (s : State) (h : Hdr) (d : Dst) (a b c : Src) (z : BitVec 3) (rnd : Rnd) (conj : Bool) : State :=
  s.vec h d [a, b, c] (s.mask z) rnd 6 224 false noZ (fun x =>
    let A := x.src a
    let B := x.src b
    let C := x.src c
    lanes (fun j =>
      let t := cbTerms conj (laneAt A j) (laneAt B j)
      let v := cbVal (laneAt C j)
      cbLane rnd (x.rand rnd) j (t.1 ++ [v.1]) (t.2 ++ [v.2])))

/-- R164. -/
def execVCmul (h : Hdr) (d : Dst) (a b : Src) (z : BitVec 3) (rnd : Rnd) (s : State) : Host.Outcome State Fault Refusal :=
  .next (s.cmulOp h d a b z rnd false)

/-- R164. -/
def execVCmulc (h : Hdr) (d : Dst) (a b : Src) (z : BitVec 3) (rnd : Rnd) (s : State) : Host.Outcome State Fault Refusal :=
  .next (s.cmulOp h d a b z rnd true)

/-- R164. -/
def execVCma (h : Hdr) (d : Dst) (a b c : Src) (z : BitVec 3) (rnd : Rnd) (s : State) : Host.Outcome State Fault Refusal :=
  .next (s.cmaOp h d a b c z rnd false)

/-- R164. -/
def execVCmac (h : Hdr) (d : Dst) (a b c : Src) (z : BitVec 3) (rnd : Rnd) (s : State) : Host.Outcome State Fault Refusal :=
  .next (s.cmaOp h d a b c z rnd true)

/-- R164: the result is one FP32 lane, which draws with index j (R150). -/
def execVCabs2 (h : Hdr) (d : Dst) (a : Src) (z : BitVec 3) (rnd : Rnd) (s : State) : Host.Outcome State Fault Refusal :=
  .next (s.vec h d [a] (s.mask z) rnd 4 224 false noZ (fun x =>
    let A := x.src a
    lanes (fun j =>
      let v := cbVal (laneAt A j)
      BitVec.ofNat 32 (fp32.ofVal rnd (x.rand rnd j) (FV.sum rnd [FV.mul v.1 v.1, FV.mul v.2 v.2])))))

/-! ## Moves, predicates and the send queue -/

/-- R165. -/
def execVMov (h : Hdr) (d : Dst) (a : Src) (z : BitVec 3) (s : State) : Host.Outcome State Fault Refusal :=
  .next (s.map1 h d a z 1 64 id)

/-- R165. -/
def execVSel (h : Hdr) (d : Dst) (a b c : Src) (z : BitVec 3) (s : State) : Host.Outcome State Fault Refusal :=
  .next (s.vec h d [a, b, c] (s.mask z) .rne 2 64 false noZ (fun x =>
    let A := x.src a
    let B := x.src b
    let C := x.src c
    lanes (fun j => if laneAt C j = 0 then laneAt B j else laneAt A j)))

/-- R47, R165: K := IMM24 × 256, visible at issue + 1 (R19). -/
def execVSetk (h : Hdr) (k : BitVec 4) (imm : BitVec 24) (s : State) : Host.Outcome State Fault Refusal :=
  .next (s.vec h .void [] 0 .rne 1 64 false (fun _ => [.kreg k (BitVec.ofNat 32 (imm.toNat * 256))]) (fun _ => []))

/-- R166. -/
def execVZand (h : Hdr) (zd za zb z : BitVec 3) (s : State) : Host.Outcome State Fault Refusal :=
  .next (s.zop h zd za zb z (fun A B => A &&& B))

/-- R166. -/
def execVZor (h : Hdr) (zd za zb z : BitVec 3) (s : State) : Host.Outcome State Fault Refusal :=
  .next (s.zop h zd za zb z (fun A B => A ||| B))

/-- R166. -/
def execVZxor (h : Hdr) (zd za zb z : BitVec 3) (s : State) : Host.Outcome State Fault Refusal :=
  .next (s.zop h zd za zb z (fun A B => A ^^^ B))

/-- R166. -/
def execVZcnt (h : Hdr) (d : Dst) (za z : BitVec 3) (s : State) : Host.Outcome State Fault Refusal :=
  .next (s.vec h d [] (s.mask z) .rne 2 64 false noZ (fun x =>
    let n := BitVec.ofNat 32 (popCount 64 (x.regs.zget za).toNat)
    lanes (fun _ => n)))

/-- The verdict of `send` (R149, R167): its LQ ready and a free entry, VLG0 and the banks of lanes 0 and 1 awake, no
marked entry. -/
def State.sendVerdict (s : State) (a : Src) : Verdict :=
  let x := s.ctx s.me
  if !x.lqReady [a] || 8 ≤ x.send.length then .hold .busy
  else (s.touch s.me ((s.me, .vlg, 0) :: ((srcLine a).toList.flatMap (fun l => lineBanks s.me l 3))) 0).andThen
    (match x.lqBad [a] with
     | some t => .trap t
     | none => .go)

/-- The value that `send` sends (R167). -/
def sendValue (A : List Lane) : Word := BitVec.ofNat 64 ((laneAt A 1).toNat * 2 ^ 32 + (laneAt A 0).toNat)

/-- R167: the entry is claimed at issue and written at issue + 2. -/
def execVSend (h : Hdr) (a : Src) (s : State) : Host.Outcome State Fault Refusal :=
  .next (s.issue .v h (s.sendVerdict a) (s.done .v h 1 64 (fun x =>
    ({ x.popLqs [a] with send := x.send ++ [QLine.claim x.nextId 0], nextId := x.nextId + 1 }).inFlight .v 1 (s.cyc s.me) 2
      (.send x.nextId (sendValue (x.src a))))))

end Sys2Proof.Machine
end

