-- ==== Sys2Proof/Machine/Dispatch.lean ====
section
/-! DEFINITION. The dispatch: every instruction word and every step of the device to its meaning. -/

namespace Sys2Proof.Machine

/-- One instruction, or one step of the device, in a state. -/
def exec (i : Instr) (s : State) : Host.Outcome State Fault Refusal :=
  match i with
  | .cNop h => Sys2Proof.Machine.execCNop h s
  | .cAdd h d a b => Sys2Proof.Machine.execCAdd h d a b s
  | .cSub h d a b => Sys2Proof.Machine.execCSub h d a b s
  | .cAnd h d a b => Sys2Proof.Machine.execCAnd h d a b s
  | .cOr h d a b => Sys2Proof.Machine.execCOr h d a b s
  | .cXor h d a b => Sys2Proof.Machine.execCXor h d a b s
  | .cAndn h d a b => Sys2Proof.Machine.execCAndn h d a b s
  | .cShl h d a b => Sys2Proof.Machine.execCShl h d a b s
  | .cShr h d a b => Sys2Proof.Machine.execCShr h d a b s
  | .cSra h d a b => Sys2Proof.Machine.execCSra h d a b s
  | .cRol h d a b => Sys2Proof.Machine.execCRol h d a b s
  | .cMul h d a b => Sys2Proof.Machine.execCMul h d a b s
  | .cMulh h d a b => Sys2Proof.Machine.execCMulh h d a b s
  | .cMulhu h d a b => Sys2Proof.Machine.execCMulhu h d a b s
  | .cDiv h d a b => Sys2Proof.Machine.execCDiv h d a b s
  | .cDivu h d a b => Sys2Proof.Machine.execCDivu h d a b s
  | .cRem h d a b => Sys2Proof.Machine.execCRem h d a b s
  | .cRemu h d a b => Sys2Proof.Machine.execCRemu h d a b s
  | .cMin h d a b => Sys2Proof.Machine.execCMin h d a b s
  | .cMax h d a b => Sys2Proof.Machine.execCMax h d a b s
  | .cMinu h d a b => Sys2Proof.Machine.execCMinu h d a b s
  | .cMaxu h d a b => Sys2Proof.Machine.execCMaxu h d a b s
  | .cSlt h d a b => Sys2Proof.Machine.execCSlt h d a b s
  | .cSltu h d a b => Sys2Proof.Machine.execCSltu h d a b s
  | .cSeq h d a b => Sys2Proof.Machine.execCSeq h d a b s
  | .cSne h d a b => Sys2Proof.Machine.execCSne h d a b s
  | .cClz h d a => Sys2Proof.Machine.execCClz h d a s
  | .cCtz h d a => Sys2Proof.Machine.execCCtz h d a s
  | .cPopc h d a => Sys2Proof.Machine.execCPopc h d a s
  | .cBswap h d a => Sys2Proof.Machine.execCBswap h d a s
  | .cAddi h d a imm => Sys2Proof.Machine.execCAddi h d a imm s
  | .cAndi h d a imm => Sys2Proof.Machine.execCAndi h d a imm s
  | .cOri h d a imm => Sys2Proof.Machine.execCOri h d a imm s
  | .cXori h d a imm => Sys2Proof.Machine.execCXori h d a imm s
  | .cShli h d a amt => Sys2Proof.Machine.execCShli h d a amt s
  | .cShri h d a amt => Sys2Proof.Machine.execCShri h d a amt s
  | .cSrai h d a amt => Sys2Proof.Machine.execCSrai h d a amt s
  | .cSlti h d a imm => Sys2Proof.Machine.execCSlti h d a imm s
  | .cSltui h d a imm => Sys2Proof.Machine.execCSltui h d a imm s
  | .cLi h d imm => Sys2Proof.Machine.execCLi h d imm s
  | .cLih h d a imm => Sys2Proof.Machine.execCLih h d a imm s
  | .cAddpc h d imm => Sys2Proof.Machine.execCAddpc h d imm s
  | .cMtk h a k => Sys2Proof.Machine.execCMtk h a k s
  | .cMtp h a inS p => Sys2Proof.Machine.execCMtp h a inS p s
  | .cLd h d a cls scp sz sx ofs => Sys2Proof.Machine.execCLd h d a cls scp sz sx ofs s
  | .cSt h d a cls scp sz ofs => Sys2Proof.Machine.execCSt h d a cls scp sz ofs s
  | .cLdx h d a b cls scp sx sz => Sys2Proof.Machine.execCLdx h d a b cls scp sx sz s
  | .cStx h d a b cls scp sz => Sys2Proof.Machine.execCStx h d a b cls scp sz s
  | .cAmo h d a b cls scp w32 opn => Sys2Proof.Machine.execCAmo h d a b cls scp w32 opn s
  | .cCas h d a b e cls scp w32 => Sys2Proof.Machine.execCCas h d a b e cls scp w32 s
  | .cWaita h d a b slot cnd => Sys2Proof.Machine.execCWaita h d a b slot cnd s
  | .cFence h scp mask => Sys2Proof.Machine.execCFence h scp mask s
  | .cB h a b cnd ofs => Sys2Proof.Machine.execCB h a b cnd ofs s
  | .cJ h ofs => Sys2Proof.Machine.execCJ h ofs s
  | .cJal h d ofs => Sys2Proof.Machine.execCJal h d ofs s
  | .cJr h d a => Sys2Proof.Machine.execCJr h d a s
  | .cRclaim h d idx scp => Sys2Proof.Machine.execCRclaim h d idx scp s
  | .cRpub h a idx scp mask => Sys2Proof.Machine.execCRpub h a idx scp mask s
  | .cRwaitf h d idx scp => Sys2Proof.Machine.execCRwaitf h d idx scp s
  | .cRrel h a idx scp mask => Sys2Proof.Machine.execCRrel h a idx scp mask s
  | .cRwaite h idx scp => Sys2Proof.Machine.execCRwaite h idx scp s
  | .cBar h d idx scp mask => Sys2Proof.Machine.execCBar h d idx scp mask s
  | .cLease h d n1 => Sys2Proof.Machine.execCLease h d n1 s
  | .cUlease h => Sys2Proof.Machine.execCUlease h s
  | .cCbatch h d eng => Sys2Proof.Machine.execCCbatch h d eng s
  | .cWaitb h a eng => Sys2Proof.Machine.execCWaitb h a eng s
  | .cLpf h a b => Sys2Proof.Machine.execCLpf h a b s
  | .cTcfg h a b idx => Sys2Proof.Machine.execCTcfg h a b idx s
  | .cTrel h idx => Sys2Proof.Machine.execCTrel h idx s
  | .cFtset h a idx => Sys2Proof.Machine.execCFtset h a idx s
  | .cWake h dt mask => Sys2Proof.Machine.execCWake h dt mask s
  | .cSleep h dt ret mask => Sys2Proof.Machine.execCSleep h dt ret mask s
  | .cWstat h dt mask => Sys2Proof.Machine.execCWstat h dt mask s
  | .cTrap h code => Sys2Proof.Machine.execCTrap h code s
  | .cEret h => Sys2Proof.Machine.execCEret h s
  | .cMfsr h d n => Sys2Proof.Machine.execCMfsr h d n s
  | .cMtsr h a n => Sys2Proof.Machine.execCMtsr h a n s
  | .cRdtb h d => Sys2Proof.Machine.execCRdtb h d s
  | .cMark h code => Sys2Proof.Machine.execCMark h code s
  | .cRecv h d => Sys2Proof.Machine.execCRecv h d s
  | .cIter h => Sys2Proof.Machine.execCIter h s
  | .lNop h => Sys2Proof.Machine.execLNop h s
  | .lPset h p imm => Sys2Proof.Machine.execLPset h p imm s
  | .lPadd h p imm => Sys2Proof.Machine.execLPadd h p imm s
  | .lLdq h p x ty cv md inc => Sys2Proof.Machine.execLLdq h p x ty cv md inc s
  | .lLdg h p x ty cv md inc => Sys2Proof.Machine.execLLdg h p x ty cv md inc s
  | .lLdb h p x ty cv md inc => Sys2Proof.Machine.execLLdb h p x ty cv md inc s
  | .lLda h p x ty pk md inc => Sys2Proof.Machine.execLLda h p x ty pk md inc s
  | .lLrs h p ring => Sys2Proof.Machine.execLLrs h p ring s
  | .lLdm h p x cls scp stride => Sys2Proof.Machine.execLLdm h p x cls scp stride s
  | .lLdgx h p x cls scp row => Sys2Proof.Machine.execLLdgx h p x cls scp row s
  | .lWake h dt mask => Sys2Proof.Machine.execLWake h dt mask s
  | .lSleep h dt ret mask => Sys2Proof.Machine.execLSleep h dt ret mask s
  | .lWstat h dt mask => Sys2Proof.Machine.execLWstat h dt mask s
  | .sNop h => Sys2Proof.Machine.execSNop h s
  | .sPset h p imm => Sys2Proof.Machine.execSPset h p imm s
  | .sPadd h p imm => Sys2Proof.Machine.execSPadd h p imm s
  | .sStq h p x ty cv md inc => Sys2Proof.Machine.execSStq h p x ty cv md inc s
  | .sStg h p x ty cv md inc => Sys2Proof.Machine.execSStg h p x ty cv md inc s
  | .sSta h p x ty md inc => Sys2Proof.Machine.execSSta h p x ty md inc s
  | .sSrs h p ring => Sys2Proof.Machine.execSSrs h p ring s
  | .sStm h p x cls scp stride => Sys2Proof.Machine.execSStm h p x cls scp stride s
  | .sStsx h p x cls scp row => Sys2Proof.Machine.execSStsx h p x cls scp row s
  | .sVamo h p x cls scp ty stride => Sys2Proof.Machine.execSVamo h p x cls scp ty stride s
  | .sWake h dt mask => Sys2Proof.Machine.execSWake h dt mask s
  | .sSleep h dt ret mask => Sys2Proof.Machine.execSSleep h dt ret mask s
  | .sWstat h dt mask => Sys2Proof.Machine.execSWstat h dt mask s
  | .vNop h => Sys2Proof.Machine.execVNop h s
  | .vFadd h d a b ty z rnd => Sys2Proof.Machine.execVFadd h d a b ty z rnd s
  | .vFsub h d a b ty z rnd => Sys2Proof.Machine.execVFsub h d a b ty z rnd s
  | .vFmul h d a b ty z rnd => Sys2Proof.Machine.execVFmul h d a b ty z rnd s
  | .vFma h d a b c ty z rnd => Sys2Proof.Machine.execVFma h d a b c ty z rnd s
  | .vFms h d a b c ty z rnd => Sys2Proof.Machine.execVFms h d a b c ty z rnd s
  | .vFnma h d a b c ty z rnd => Sys2Proof.Machine.execVFnma h d a b c ty z rnd s
  | .vFmin h d a b ty z => Sys2Proof.Machine.execVFmin h d a b ty z s
  | .vFmax h d a b ty z => Sys2Proof.Machine.execVFmax h d a b ty z s
  | .vFcmp h d a b zt cnd z => Sys2Proof.Machine.execVFcmp h d a b zt cnd z s
  | .vFabs h d a ty z => Sys2Proof.Machine.execVFabs h d a ty z s
  | .vFneg h d a ty z => Sys2Proof.Machine.execVFneg h d a ty z s
  | .vExp2 h d a z rnd => Sys2Proof.Machine.execVExp2 h d a z rnd s
  | .vLog2 h d a z rnd => Sys2Proof.Machine.execVLog2 h d a z rnd s
  | .vRcp h d a z rnd => Sys2Proof.Machine.execVRcp h d a z rnd s
  | .vRsq h d a z rnd => Sys2Proof.Machine.execVRsq h d a z rnd s
  | .vIadd h d a b ty z => Sys2Proof.Machine.execVIadd h d a b ty z s
  | .vIsub h d a b ty z => Sys2Proof.Machine.execVIsub h d a b ty z s
  | .vImul h d a b ty z => Sys2Proof.Machine.execVImul h d a b ty z s
  | .vImulh h d a b ty z => Sys2Proof.Machine.execVImulh h d a b ty z s
  | .vImulhu h d a b ty z => Sys2Proof.Machine.execVImulhu h d a b ty z s
  | .vIand h d a b z => Sys2Proof.Machine.execVIand h d a b z s
  | .vIor h d a b z => Sys2Proof.Machine.execVIor h d a b z s
  | .vIxor h d a b z => Sys2Proof.Machine.execVIxor h d a b z s
  | .vIandn h d a b z => Sys2Proof.Machine.execVIandn h d a b z s
  | .vIshl h d a b ty z => Sys2Proof.Machine.execVIshl h d a b ty z s
  | .vIshr h d a b ty z => Sys2Proof.Machine.execVIshr h d a b ty z s
  | .vIsra h d a b ty z => Sys2Proof.Machine.execVIsra h d a b ty z s
  | .vImin h d a b ty z => Sys2Proof.Machine.execVImin h d a b ty z s
  | .vImax h d a b ty z => Sys2Proof.Machine.execVImax h d a b ty z s
  | .vIminu h d a b ty z => Sys2Proof.Machine.execVIminu h d a b ty z s
  | .vImaxu h d a b ty z => Sys2Proof.Machine.execVImaxu h d a b ty z s
  | .vIpopc h d a z => Sys2Proof.Machine.execVIpopc h d a z s
  | .vIclz h d a z => Sys2Proof.Machine.execVIclz h d a z s
  | .vIcmp h d a b zt cnd z => Sys2Proof.Machine.execVIcmp h d a b zt cnd z s
  | .vIabs h d a ty z => Sys2Proof.Machine.execVIabs h d a ty z s
  | .vClmul h d a b z => Sys2Proof.Machine.execVClmul h d a b z s
  | .vBcmp8 h d a byte z => Sys2Proof.Machine.execVBcmp8 h d a byte z s
  | .vBpack h d a z => Sys2Proof.Machine.execVBpack h d a z s
  | .vCvt h d a b el src ty z rnd => Sys2Proof.Machine.execVCvt h d a b el src ty z rnd s
  | .vQblk h d a e5m2 z rnd => Sys2Proof.Machine.execVQblk h d a e5m2 z rnd s
  | .vDqblk h d a e5m2 z rnd => Sys2Proof.Machine.execVDqblk h d a e5m2 z rnd s
  | .vScan h d a ex op ty z rnd => Sys2Proof.Machine.execVScan h d a ex op ty z rnd s
  | .vRed h d a op ty z rnd => Sys2Proof.Machine.execVRed h d a op ty z rnd s
  | .vPerm h d a b z => Sys2Proof.Machine.execVPerm h d a b z s
  | .vRot h d a n => Sys2Proof.Machine.execVRot h d a n s
  | .vBcast h d a src z => Sys2Proof.Machine.execVBcast h d a src z s
  | .vCmul h d a b z rnd => Sys2Proof.Machine.execVCmul h d a b z rnd s
  | .vCmulc h d a b z rnd => Sys2Proof.Machine.execVCmulc h d a b z rnd s
  | .vCma h d a b c z rnd => Sys2Proof.Machine.execVCma h d a b c z rnd s
  | .vCmac h d a b c z rnd => Sys2Proof.Machine.execVCmac h d a b c z rnd s
  | .vCabs2 h d a z rnd => Sys2Proof.Machine.execVCabs2 h d a z rnd s
  | .vMov h d a z => Sys2Proof.Machine.execVMov h d a z s
  | .vSel h d a b c z => Sys2Proof.Machine.execVSel h d a b c z s
  | .vSetk h k imm => Sys2Proof.Machine.execVSetk h k imm s
  | .vZand h zd za zb z => Sys2Proof.Machine.execVZand h zd za zb z s
  | .vZor h zd za zb z => Sys2Proof.Machine.execVZor h zd za zb z s
  | .vZxor h zd za zb z => Sys2Proof.Machine.execVZxor h zd za zb z s
  | .vZcnt h d za z => Sys2Proof.Machine.execVZcnt h d za z s
  | .vSend h a => Sys2Proof.Machine.execVSend h a s
  | .vWake h dt mask => Sys2Proof.Machine.execVWake h dt mask s
  | .vSleep h dt ret mask => Sys2Proof.Machine.execVSleep h dt ret mask s
  | .vWstat h dt mask => Sys2Proof.Machine.execVWstat h dt mask s
  | .allNop idle => Sys2Proof.Machine.execAllNop idle s
  | .allStart idle => Sys2Proof.Machine.execAllStart idle s
  | .allEnd idle => Sys2Proof.Machine.execAllEnd idle s
  | .allLoop idle lp src count end20 => Sys2Proof.Machine.execAllLoop idle lp src count end20 s
  | .allBr idle a b cnd ofs => Sys2Proof.Machine.execAllBr idle a b cnd ofs s
  | .allRealign idle => Sys2Proof.Machine.execAllRealign idle s
  | .allBrk idle => Sys2Proof.Machine.execAllBrk idle s
  | .illegalWord detail => Sys2Proof.Machine.execIllegalWord detail s
  | .arrayMma cl => Sys2Proof.Machine.execArrayMma cl s
  | .arrayMmas cl => Sys2Proof.Machine.execArrayMmas cl s
  | .arrayMzero cl => Sys2Proof.Machine.execArrayMzero cl s
  | .arrayDrain cl => Sys2Proof.Machine.execArrayDrain cl s
  | .ceCopy core => Sys2Proof.Machine.execCeCopy core s
  | .ceGath core => Sys2Proof.Machine.execCeGath core s
  | .ceScat core => Sys2Proof.Machine.execCeScat core s
  | .ceWfill core => Sys2Proof.Machine.execCeWfill core s
  | .ceFlagw core => Sys2Proof.Machine.execCeFlagw core s
  | .cePref core => Sys2Proof.Machine.execCePref core s
  | .xeFwd core => Sys2Proof.Machine.execXeFwd core s
  | .xeInv core => Sys2Proof.Machine.execXeInv core s
  | .xeTagset core => Sys2Proof.Machine.execXeTagset core s
  | .goPush core => Sys2Proof.Machine.execGoPush core s
  | .commandStart core eng => Sys2Proof.Machine.execCommandStart core eng s
  | .copyEngineSlot cl => Sys2Proof.Machine.execCopyEngineSlot cl s
  | .commandComplete core eng => Sys2Proof.Machine.execCommandComplete core eng s
  | .resultLoad core => Sys2Proof.Machine.execResultLoad core s
  | .cLoadReply core => Sys2Proof.Machine.execCLoadReply core s
  | .fenceRelease core => Sys2Proof.Machine.execFenceRelease core s
  | .waitaRelease core => Sys2Proof.Machine.execWaitaRelease core s
  | .homeApply part bar n => Sys2Proof.Machine.execHomeApply part bar n s
  | .syncRelease core => Sys2Proof.Machine.execSyncRelease core s
  | .leaseGrant cl => Sys2Proof.Machine.execLeaseGrant cl s
  | .leaseTimeout cl => Sys2Proof.Machine.execLeaseTimeout cl s
  | .waitbRelease core => Sys2Proof.Machine.execWaitbRelease core s
  | .recvRelease core => Sys2Proof.Machine.execRecvRelease core s
  | .iterAnswer core => Sys2Proof.Machine.execIterAnswer core s
  | .wstatRelease core st => Sys2Proof.Machine.execWstatRelease core st s
  | .vResultWrite core => Sys2Proof.Machine.execVResultWrite core s
  | .lqFill core => Sys2Proof.Machine.execLqFill core s
  | .gridLoadLand core => Sys2Proof.Machine.execGridLoadLand core s
  | .directAccessPerform core => Sys2Proof.Machine.execDirectAccessPerform core s
  | .couplingTransfer core sq => Sys2Proof.Machine.execCouplingTransfer core sq s
  | .perform core cls => Sys2Proof.Machine.execPerform core cls s
  | .sliceEntryApply slice => Sys2Proof.Machine.execSliceEntryApply slice s
  | .leaseExpiry core cls => Sys2Proof.Machine.execLeaseExpiry core cls s
  | .walkReturn cl => Sys2Proof.Machine.execWalkReturn cl s
  | .atomicResend core cls => Sys2Proof.Machine.execAtomicResend core cls s
  | .domainWakeStart lease n => Sys2Proof.Machine.execDomainWakeStart lease n s
  | .domainAwake dom => Sys2Proof.Machine.execDomainAwake dom s
  | .domainPowerOff dom => Sys2Proof.Machine.execDomainPowerOff dom s
  | .launchEnd core => Sys2Proof.Machine.execLaunchEnd core s
  | .ballastFadeStart cl => Sys2Proof.Machine.execBallastFadeStart cl s
  | .ballastFadeEnd cl => Sys2Proof.Machine.execBallastFadeEnd cl s
  | .faultStop core => Sys2Proof.Machine.execFaultStop core s
  | .snapshotDeliver core => Sys2Proof.Machine.execSnapshotDeliver core s
  | .fwd core => Sys2Proof.Machine.execFwd core s
  | .timeBeacon cl drift => Sys2Proof.Machine.execTimeBeacon cl drift s
  | .railWindow cl watts => Sys2Proof.Machine.execRailWindow cl watts s
  | .rcbAccept part => Sys2Proof.Machine.execRcbAccept part s
  | .regionDispatch part => Sys2Proof.Machine.execRegionDispatch part s
  | .launchStart part order => Sys2Proof.Machine.execLaunchStart part order s
  | .regionEnd part order => Sys2Proof.Machine.execRegionEnd part order s
  | .preemptDone part => Sys2Proof.Machine.execPreemptDone part s
  | .resumeRestart part => Sys2Proof.Machine.execResumeRestart part s
  | .placementDone part => Sys2Proof.Machine.execPlacementDone part s
  | .sliceExpiry core => Sys2Proof.Machine.execSliceExpiry core s
  | .bankRestart core => Sys2Proof.Machine.execBankRestart core s
  | .sample core => Sys2Proof.Machine.execSample core s
  | .replayRelease core st => Sys2Proof.Machine.execReplayRelease core st s
  | .mailboxComplete => Sys2Proof.Machine.execMailboxComplete s
  | .invalidationCompletion tag => Sys2Proof.Machine.execInvalidationCompletion tag s
  | .instructionFetch core st => Sys2Proof.Machine.execInstructionFetch core st s
  | .railSwitchEnd cl => Sys2Proof.Machine.execRailSwitchEnd cl s
  | .xeSiblingPull core => Sys2Proof.Machine.execXeSiblingPull core s
  | .regWrite who off val => Sys2Proof.Machine.execRegWrite who off val s
  | .beaconTimeout cl => Sys2Proof.Machine.execBeaconTimeout cl s
  | .thermalTrip code sensor => Sys2Proof.Machine.execThermalTrip code sensor s
  | .coldReset hwOk swOk => Sys2Proof.Machine.execColdReset hwOk swOk s
  | .doorbell part tail => Sys2Proof.Machine.execDoorbell part tail s
  | .pctlPreempt part regid => Sys2Proof.Machine.execPctlPreempt part regid s
  | .pctlResume part regid => Sys2Proof.Machine.execPctlResume part regid s
  | .pctlEnd part regid => Sys2Proof.Machine.execPctlEnd part regid s
  | .pctlOneResume part regid lcore => Sys2Proof.Machine.execPctlOneResume part regid lcore s
  | .pctlOneEnd part regid lcore => Sys2Proof.Machine.execPctlOneEnd part regid lcore s
  | .bsharePlace part slice regid => Sys2Proof.Machine.execBsharePlace part slice regid s
  | .bshareStop part slice => Sys2Proof.Machine.execBshareStop part slice s
  | .dbghalt part => Sys2Proof.Machine.execDbghalt part s
  | .sqcfgWrite part val => Sys2Proof.Machine.execSqcfgWrite part val s
  | .tlostRead part => Sys2Proof.Machine.execTlostRead part s
  | .tbstatRead cl => Sys2Proof.Machine.execTbstatRead cl s
  | .linkStatusRead peer router port => Sys2Proof.Machine.execLinkStatusRead peer router port s
  | .mbNonce who => Sys2Proof.Machine.execMbNonce who s
  | .mbUnlock who => Sys2Proof.Machine.execMbUnlock who s
  | .mbQuote who => Sys2Proof.Machine.execMbQuote who s
  | .mbExtend who => Sys2Proof.Machine.execMbExtend who s
  | .mbIdent who => Sys2Proof.Machine.execMbIdent who s
  | .mbPsetup who => Sys2Proof.Machine.execMbPsetup who s
  | .flitReceive peer router port seq crcOk => Sys2Proof.Machine.execFlitReceive peer router port seq crcOk s
  | .linkRetrain peer router port => Sys2Proof.Machine.execLinkRetrain peer router port s
  | .retrainEnd peer router port bad => Sys2Proof.Machine.execRetrainEnd peer router port bad s
  | .linkLoss peer router port => Sys2Proof.Machine.execLinkLoss peer router port s
  | .routeTableApply router dest => Sys2Proof.Machine.execRouteTableApply router dest s
  | .atsCompletion cl page log2 pa r w => Sys2Proof.Machine.execAtsCompletion cl page log2 pa r w s
  | .atsInvalidationRequest part tag => Sys2Proof.Machine.execAtsInvalidationRequest part tag s
  | .ptmExchange ahead => Sys2Proof.Machine.execPtmExchange ahead s
  | .sliceStopsAnswering slice => Sys2Proof.Machine.execSliceStopsAnswering slice s
  | .hostLinkDown => Sys2Proof.Machine.execHostLinkDown s
  | .hostLinkUp link width => Sys2Proof.Machine.execHostLinkUp link width s
  | .hostAccess part wr pa data len => Sys2Proof.Machine.execHostAccess part wr pa data len s
  | .peerAccess wr pa data len => Sys2Proof.Machine.execPeerAccess wr pa data len s
  | .managementCoreAccess pa val => Sys2Proof.Machine.execManagementCoreAccess pa val s

end Sys2Proof.Machine
end

