-- ==== Sys2Proof/Machine/Schedule.lean ====
section
/-! DEFINITION. The schedule that the model follows when its agenda is empty: which cluster's clock edge comes next, the
steps of one of its cycles, the choice among faults of one cycle (R73, R305), and the end of a cycle: charges (R379, R381),
counters (R325), mark and replay records (R333, R337). The spec leaves the order of most steps open: an agenda may hold any
other order (log 1). -/

namespace Sys2Proof.Machine

/-! ## Heads -/

/-- A stream of a core tries its head, or takes the fault that its request has met (R73); an empty queue is classed ISSUE while
the last word still occupies the stream (R324). -/
def State.tryHead (s : State) (n : Nat) (st : Strm) : Host.Outcome State Fault Refusal :=
  let x := s.ctx n
  match (if x.tries st then (x.strm st).due else none), (x.strm st).queue with
  | some f, _ => .next (s.raise n st f)
  | none, e :: _ => exec (headInstr x e) { s with cur := { core := n, st := st } }
  | none, [] =>
    .next (if x.tries st && s.cyc n ≤ (x.strm st).last then s.modCtx n (fun x => x.modStrm st (fun t => { t with cls := .issue }))
      else s)

/-- The step that may release a waiting instruction. -/
def Wait.releaser (w : Wait) (n : Nat) (st : Strm) : Option Instr :=
  match w with
  | .reply _ _ _ _ => some (.cLoadReply n)
  | .fence _ _ _ _ => some (.fenceRelease n)
  | .waita _ _ _ _ _ _ _ => some (.waitaRelease n)
  | .sync _ _ _ _ _ _ _ _ _ _ => some (.syncRelease n)
  | .waitb _ _ => some (.waitbRelease n)
  | .go _ _ _ => some (.goPush n)
  | .result _ _ => some (.resultLoad n)
  | .recv _ => some (.recvRelease n)
  | .iter _ => some (.iterAnswer n)
  | .wstat _ _ => some (.wstatRelease n st)
  | .lanes _ => some (.wstatRelease n st)
  | .gridLoad _ _ => some (.gridLoadLand n)
  | .lease _ _ _ => none
  | .walk _ _ _ => none

/-- The schedule gives every stream of a launch 32 cycles of fetch at the `all.start` of text address 0 (R225: fetch begins
when the launch starts, before cycle 0; how long before is DESIGN CHOICE, log 1). -/
def State.prefetching (s : State) (n : Nat) (st : Strm) : Bool :=
  let t := (s.ctx n).strm st
  (s.ctx n).launch.zero == 0 && s.cyc n ≤ t.last + 32 &&
    (match t.queue with
      | e :: _ => e.addr == 0 && (match decode e.word with
        | .ok (.allStart _) => true
        | _ => false)
      | [] => false)

/-- What a stream does in a cycle: its head, or the release that it waits for. -/
def State.turnOf (s : State) (n : Nat) (st : Strm) : Option Act :=
  match ((s.ctx n).strm st).wait with
  | some w => (w.releaser n st).map Act.event
  | none => if s.prefetching n st then none else some (.stream n st)

/-- The state after what a stream does. -/
def State.tryTurn (s : State) (n : Nat) (st : Strm) : State :=
  match s.turnOf n st with
  | some (.event i) => after (exec i s) s
  | some _ => after (s.tryHead n st) s
  | none => s

/-- Whether a core that ran in `s` stops in `t`. -/
def State.stops (s t : State) (n : Nat) : Bool :=
  (t.ctx n).mode != .run || ((t.ctx n).frame.handler && !(s.ctx n).frame.handler)

/-- The four streams. -/
def streams : List Strm := [.c, .l, .v, .s]

/-- Of streams whose faults are due in one cycle, the one whose word has the lowest text address, and of one word the first
of C, L, V, S (R73). -/
def Ctx.firstFault (x : Ctx) : List Strm → Option Strm
  | [] => none
  | a :: t =>
    match x.firstFault t with
    | none => some a
    | some b => if (x.strm b).head < (x.strm a).head then some b else some a

/-- A core as it stood before the stop of this cycle: its heads may be tried. -/
def Ctx.unstopped (x : Ctx) (cyc : Nat) : Ctx :=
  if x.frame.handler && x.frame.f == cyc then { x with mode := .run, c := x.frame.cstream, frame := { x.frame with handler := false, pending := none } }
  else { x with mode := .run, frame := { x.frame with pending := none } }

/-- The class of a head in a cycle in which its core stops, or a stop waits (R324): that of its first unmet condition, or ISSUE. -/
def State.classOf (s : State) (n : Nat) (st : Strm) : HeadClass :=
  let u := s.modCtx n (fun x => x.unstopped (s.cyc n))
  let t := after (u.tryHead n st) u
  if u.stops t n then .issue else ((t.ctx n).strm st).cls

/-- The heads of a core that a step of the device stops in this cycle, or whose stop waits, are classed. -/
def State.classStop (s : State) (n : Nat) : State :=
  streams.foldl (fun t st =>
    if ((s.ctx n).strm st).cls == .empty then t.modCtx n (fun x => x.modStrm st (fun k => { k with cls := s.classOf n st })) else t) s

/-- Whether a stream's turn brings a fault in this cycle: its own, or the BREAK of a replay that has diverged (R338). -/
def State.faultsIn (s : State) (n : Nat) (st : Strm) : Bool :=
  let t := s.tryTurn n st
  s.stops t n || t.diverges n st

/-- The act that takes the fault of a stream. -/
def State.faultAct (s : State) (n : Nat) (st : Strm) : List Act :=
  if s.stops (s.tryTurn n st) n then (s.turnOf n st).toList else [.event (.replayRelease n st)]

/-- Whether what one stream does would bring another a fault in this cycle, as a `sleep` does to an access of its domain. -/
def State.spoils (s : State) (n : Nat) (a b : Strm) : Bool :=
  let t := s.tryTurn n a
  t.stops (t.tryTurn n b) n

/-- The order in which the streams of a core act in a cycle without a fault: C, L, V, S, but one whose act would bring another a fault
comes after it (DESIGN CHOICE, log 58). -/
def State.turnOrder (s : State) (n : Nat) : Nat → List Strm → List Strm
  | 0, l => l
  | k + 1, l =>
    match l.find? (fun a => l.all (fun b => a == b || !s.spoils n a b)) with
    | some a => a :: s.turnOrder n k (l.filter (fun b => b != a))
    | none => l

/-- The turns of a core in a cycle (R305): when a fault is due no stream issues, and one fault is taken; the class of the
other heads is that of the condition they fail, or ISSUE. Which faults are due is seen before any stream of the core acts (DESIGN CHOICE,
log 58). -/
def State.coreTurns (s : State) (n : Nat) : State × List Act :=
  let x := s.ctx n
  if s.classed n && (x.mode != .run || (x.frame.handler && x.frame.f == s.cyc n)) then (s.classStop n, [])
  else if x.mode ≠ .run ∨ x.frame.pending.isSome then (s, [])
  else if x.frame.handler then
    (if s.stops (s.tryTurn n .c) n then s.modCtx n (fun x => { x with c := { x.c with cls := .issue } }) else s,
      if s.faultsIn n .c then s.faultAct n .c else (s.turnOf n .c).toList)
  else
    match x.firstFault (streams.filter (s.faultsIn n)) with
    | none => (s, (s.turnOrder n 4 streams).filterMap (fun st => s.turnOf n st))
    | some f =>
      let cls := fun (st : Strm) =>
        let t := s.tryTurn n st
        if s.stops t n then HeadClass.issue else ((t.ctx n).strm st).cls
      (streams.foldl (fun t st => t.modCtx n (fun x => x.modStrm st (fun k => { k with cls := cls st }))) s, s.faultAct n f)

/-! ## The steps of a cycle -/

/-- The beacons of the host links' routers (R294). -/
def State.hostBeacons (s : State) : List Act :=
  ((s.fabric.hostClocks.zip [161, 160]).filter (fun c => c.1.beacon + 1000 ≤ s.time)).map (fun c => Act.event (.timeBeacon c.2 0))

/-- Steps of the device that belong to no cluster: submission, dispatch, region and bank operations of the partitions, the
mailbox, and invalidations. -/
def State.deviceSteps (s : State) : List Act :=
  (s.parts.flatMap (fun q =>
    let p := q.2
    (if p.head = p.tail then [] else [Act.event (.rcbAccept q.1)]) ++
      (if p.regions.any (fun r => r.st == .waiting) then [Act.event (.regionDispatch q.1)] else []) ++
      (p.regions.flatMap (fun r =>
        match r.st with
        | .loading => [Act.event (.launchStart q.1 r.order)]
        | .running => [Act.event (.regionEnd q.1 r.order)]
        | .preempted => [Act.event (.regionEnd q.1 r.order)]
        | _ => [])) ++
      (if p.pctlOp.isSome then [Act.event (.preemptDone q.1), Act.event (.resumeRestart q.1)] else []) ++
      (if p.placing.isSome then [Act.event (.placementDone q.1)] else []) ++
      p.posted.map (fun k => Act.event (.fwd k.2)) ++
      (p.rings.filter (fun r => !r.2.arrivals.isEmpty || !r.2.aside.isEmpty)).map (fun r => Act.event (.homeApply q.1 false r.1)) ++
      (p.bars.filter (fun b => !b.2.arrivals.isEmpty)).map (fun b => Act.event (.homeApply q.1 true b.1)))) ++
    (if s.mgmt.busy then [Act.event .mailboxComplete] else []) ++
    s.fabric.inval.map (fun i => Act.event (.invalidationCompletion i.tag)) ++
    s.slices.queues.map (fun q => Act.event (.sliceEntryApply q.1)) ++ s.hostBeacons

/-- The ring or barrier operations that C waits with at no home yet (R241). -/
def State.homeCalls (s : State) (n : Nat) : List Act :=
  let x := s.ctx n
  match x.c.wait with
  | some (.sync op m _ _ _ false _ none _ _) => [Act.event (.homeApply x.launch.part (op == .bar) m)]
  | _ => []

/-- The work of a started command whose time has come. -/
def State.workOf (s : State) (k : Cmd) : List Act :=
  if k.started.isNone ∨ k.worked = true then []
  else
    let due := k.doneAt.any (fun d => d ≤ s.cyc k.core)
    match k.op with
    | some .mma => if due then [Act.event (.arrayMma (clusterOf k.core))] else []
    | some .mmas => if due then [Act.event (.arrayMmas (clusterOf k.core))] else []
    | some .mzero => if due then [Act.event (.arrayMzero (clusterOf k.core))] else []
    | some .drain => if due then [Act.event (.arrayDrain (clusterOf k.core))] else []
    | some .fwd => if due then [Act.event (.xeFwd k.runner)] else []
    | some .inv => if due then [Act.event (.xeInv k.runner)] else []
    | some .tagset => if due then [Act.event (.xeTagset k.runner)] else []
    | some .flagw => [Act.event (.ceFlagw k.core)]
    | some .pref => [Act.event (.cePref k.core)]
    | _ => []

/-- The three engines. -/
def engines : List Eng := [.array, .copy, .xe]

/-- The commands of a core, of both banks. -/
def Core.commands (c : Core) : List Cmd := c.ctx.eng.live ++ c.alt.eng.live

/-- The starts of a core's commands. -/
def State.starts (s : State) (n : Nat) : List Act :=
  (engines.filter (fun e => (s.core n).commands.any (fun k => k.eng == e && k.started.isNone))).map
    (fun e => Act.event (.commandStart n e))

/-- The work and the completions of a core's commands. -/
def State.engineSteps (s : State) (n : Nat) : List Act :=
  (s.core n).commands.flatMap s.workOf ++
    (engines.filter (fun e => (s.core n).commands.any (fun k => k.eng == e && k.started.isSome))).map
      (fun e => Act.event (.commandComplete n e))

/-- The power-offs of sleeps in progress, and the wakes that have become ready, in a domain table (R143, R144). -/
def domSteps (doms : Store Dom) (cyc owner : Nat) (slot : Nat → DomTy × Nat) : List Act :=
  doms.flatMap (fun d =>
    let r : DomRef := { owner := owner, ty := (slot d.1).1, ix := (slot d.1).2 }
    (if d.2.st == .waking && !d.2.queued && d.2.ready ≤ cyc then [Act.event (.domainAwake r)] else []) ++
      (if d.2.sleptAt.isSome then [Act.event (.domainPowerOff r)] else []))

/-- The steps of a cluster's domains and wake queues. -/
def State.powerSteps (s : State) (cl : Nat) : List Act :=
  let c := s.cluster cl
  (coresOf cl).flatMap (fun n => domSteps (s.core n).doms c.cyc n coreSlot) ++ domSteps c.doms c.cyc cl clusterSlot ++
    (coresOf cl).flatMap (fun n => (s.core n).wakeQ.map (fun _ => Act.event (.domainWakeStart false n))) ++
    c.wakeQ.map (fun _ => Act.event (.domainWakeStart true cl))

/-- The class FIFOs of a core that hold entries, of either bank. -/
def Core.classes (c : Core) : List (BitVec 4) :=
  ((c.ctx.fifo ++ c.alt.fifo).map (fun q => BitVec.ofNat 4 q.1)).dedup

/-- The accesses of a core. -/
def State.accessSteps (s : State) (n : Nat) : List Act :=
  (s.core n).classes.flatMap (fun k => [Act.event (.leaseExpiry n k), .event (.perform n k), .event (.atomicResend n k)]) ++
    (if (s.core n).direct.any (fun a => a.due ≤ s.cyc n) then [Act.event (.directAccessPerform n)] else [])

/-- The results of a core that are due. -/
def State.landings (s : State) (n : Nat) : List Act :=
  let x := s.ctx n
  let cyc := s.cyc n
  ((x.pend.filter (fun p => p.due ≤ cyc && !p.captured)).map (fun p =>
    if p.issued ≤ x.frame.f && x.frame.f != 0 then Act.event (.snapshotDeliver n) else .event (.vResultWrite n))) ++
    (if x.fills.any (fun f => f.due ≤ cyc) then [Act.event (.lqFill n)] else [])

/-- The stops of DBGHALT on a cluster's cores (R336): the cores in handler mode come last, since a fault there forwards and stops the
others of its region (R309, R313), and none of them stops unmarked. -/
def State.haltSteps (s : State) (cl : Nat) : List Act :=
  let due := (coresOf cl).filter s.haltDue
  (due.filter (fun n => !(s.ctx n).frame.handler) ++ due.filter (fun n => (s.ctx n).frame.handler)).map (fun n => .event (.faultStop n))

/-- The end of a launch, the end of a slice, and a fault kept pending. -/
def State.stopSteps (s : State) (n : Nat) : List Act :=
  let x := s.ctx n
  (if x.frame.pending.isSome then [Act.event (.faultStop n)] else []) ++
    (if x.allEnded || (s.core n).alt.allEnded then [Act.event (.launchEnd n)] else []) ++
    (if (s.core n).alt.mode != .off then [Act.event (.sliceExpiry n)] else [])

/-- The time base's beacon, every 1 µs (R294), and the boundary of a rail window (R374): with the average power that was
measured last (log 1). -/
def State.clockSteps (s : State) (cl : Nat) : List Act :=
  let c := s.cluster cl
  (if c.clock.beacon + 1000 ≤ s.time then [Act.event (.timeBeacon cl 0)] else []) ++
    (if s.newWindow cl then [Act.event (.railWindow cl c.watts)] else [])

/-- The steps of a cycle of a cluster before its streams. -/
def State.firstSteps (s : State) (cl : Nat) : List Act :=
  let c := s.cluster cl
  s.clockSteps cl ++ s.deviceSteps ++ (coresOf cl).flatMap s.landings ++ s.haltSteps cl ++ (coresOf cl).flatMap s.stopSteps ++ s.powerSteps cl ++
    (if c.holder.isSome then [Act.event (.leaseTimeout cl)] else []) ++ [Act.event (.leaseGrant cl)] ++
    (coresOf cl).flatMap s.starts ++ (if c.fadeDue.isSome then [Act.event (.ballastFadeStart cl), .event (.ballastFadeEnd cl)] else []) ++
    [Act.event (.copyEngineSlot cl)] ++ (coresOf cl).flatMap s.engineSteps ++
    (if c.walks.any (fun k => !k.ats) then [Act.event (.walkReturn cl)] else []) ++
    (coresOf cl).flatMap s.accessSteps ++ (coresOf cl).flatMap s.homeCalls ++
    (coresOf cl).flatMap (fun n => ((s.ctx n).launch.cplOut).map (fun k => Act.event (.couplingTransfer n k.1)))

/-- The releases that are possible in the cycle in which the instruction issued. -/
def State.releases (s : State) (n : Nat) : List Act :=
  streams.filterMap (fun st =>
    match ((s.ctx n).strm st).wait with
    | some w => (w.releaser n st).map Act.event
    | none => none)

/-- What the issues of a cycle make possible in it: releases, starts, wakes, sleeps, a stop that waited, the end of an
exchange, and the fetch (R225). A stop for the end of a slice is due in the next cycle (R383). -/
def State.lastSteps (s : State) (cl : Nat) : List Act :=
  (coresOf cl).flatMap s.releases ++ s.powerSteps cl ++ (coresOf cl).flatMap (fun n => engines.map (fun e => Act.event (.commandStart n e))) ++
    (coresOf cl).flatMap (fun n => [Act.event (.faultStop n)] ++ (if (s.ctx n).mode = .run then [] else [.event (.sliceExpiry n)]) ++
      [.event (.bankRestart n), .event (.launchEnd n)]) ++
    (coresOf cl).flatMap (fun n => if (s.ctx n).mode = .off then [] else
      (if bitAt (s.ctx n).launch.trc 63 then [Act.event (.sample n)] else []) ++
        (if (s.ctx n).launch.replay.isSome then streams.map (fun st => Act.event (.replayRelease n st)) else []) ++
        streams.map (fun st => Act.event (.instructionFetch n st)))

/-! ## The end of a cycle -/

/-- The class of a head that has issued and waits (R81, R324). -/
def Ctx.waitClass (x : Ctx) : Wait → HeadClass
  | .sync .bar n _ _ _ _ _ _ _ _ => .flag (32 + (n - bits x.sys.syncwin 24 8))
  | .sync _ n _ _ _ _ _ _ _ _ => .flag (8 + (n - bits x.sys.syncwin 8 8))
  | .waita _ _ slot _ _ _ _ => .flag (24 + slot.toNat)
  | .waitb e _ => .flag (48 + engNo e)
  | .lease _ _ _ => .flag 51
  | _ => .busy

/-- A stream whose head has issued or been released keeps the class of this cycle; one whose head has not keeps the FLAG or BUSY that the
head has not left (R337). -/
def Stream.settle (t : Stream) : Stream := { t with prev := if t.moved then t.cls else t.lastClass, moved := false }

/-- A stream at the end of a cycle, and the class that it has in the next cycle unless it acts. -/
def Ctx.turnStream (x : Ctx) (st : Strm) : Stream :=
  let t := x.strm st
  { t.settle with
    cls := match t.wait with
      | some w => x.waitClass w
      | none => .empty
    seen := t.head, seenIters := t.headIters }

/-- Adds one to an entry of a list. -/
def bump (l : List Nat) (i : Nat) : List Nat := l.set i (l.getD i 0 + 1)

/-- The classes of one cycle are counted (R325). -/
def Counters.count (c : Counters) (handler : Bool) (cls : List (Strm × HeadClass)) : Counters :=
  cls.foldl (fun c p =>
    { c with
      head := bump c.head (4 * strmCode p.1 + p.2.code.1)
      flagw := match p.2 with
        | .flag f => bump c.flagw f
        | _ => c.flagw })
    { c with cyc := c.cyc + 1, hcyc := if handler then c.hcyc + 1 else c.hcyc }

/-- The class of each head in this cycle (R324): in handler mode L, V and S are EMPTY. -/
def State.classes (s : State) (n : Nat) : List (Strm × HeadClass) :=
  streams.map (fun st => (st, if s.inHandler n && st != .c then .empty else ((s.ctx n).strm st).cls))

/-- A cycle's charges are added to ENERGY (R379). -/
def Sys.meter (y : Sys) (units : Nat) : Sys :=
  let e := y.energy.toNat + y.charge + units
  if 2 ^ 48 ≤ e then { y with energy := BitVec.allOnes 48, energySat := true, charge := 0 }
  else { y with energy := BitVec.ofNat 48 e, charge := 0 }

/-- What the awake domains of a bank charge in a cycle (R381). -/
def Core.staticOf (c : Core) (bank : Bool) : Nat :=
  (c.doms.filter (fun d => d.2.st == .awake && d.2.owner == bank)).foldl (fun u d => u + staticUnits (coreSlot d.1).1) 0

/-- The core base (R381): the running context is charged 6 in every cycle from its cycle 0 (R384), handler mode included; it runs in the
cycles that are classed: not in an exchange, nor before its restart (R310), but in the cycle in which it forwards. -/
def Ctx.baseUnits (x : Ctx) (classed : Bool) : Nat := if classed && x.launch.zero != 0 then 6 else 0

/-- The active context at the end of a cycle. A WINDOW that the cycle wrote counts from the next one on: R13 says so of a
reduction, and the model takes an increase alike (DESIGN CHOICE, log 72). -/
def Ctx.tick (x : Ctx) (classed handler : Bool) (cls : List (Strm × HeadClass)) (cyc units : Nat) : Ctx :=
  { x with
    c := x.turnStream .c, l := x.turnStream .l, v := x.turnStream .v, s := x.turnStream .s
    frame := if x.frame.f == cyc then { x.frame with cstream := x.frame.cstream.settle } else x.frame
    tok0 := x.tok
    sys := { x.sys.meter units with window0 := x.sys.window }
    counters := if classed then x.counters.count handler cls else x.counters
    eng := { x.eng with checker := x.eng.checker.filter (fun e => !(e.free.any (fun f => f ≤ cyc))) }
    mark := none }

/-- Whether a head left FLAG or BUSY in this cycle (R337): it issued or was released. -/
def Stream.leftWait (t : Stream) : Bool := t.moved && t.leaves

/-- A stream whose head of this cycle a replay record names: in the cycle of a stop C's is the program's. -/
def Ctx.acted (x : Ctx) (st : Strm) (cyc : Nat) : Stream :=
  if st == .c && x.frame.f == cyc && x.stopped then x.frame.cstream else x.strm st

/-- The replay records of a context's cycle, with REC set (R337). -/
def State.replayRecords (s : State) (n : Nat) : State :=
  let x := s.ctx n
  if bitAt x.launch.trc 61 then
    (streams.filter (fun st => (x.acted st (s.cyc n)).leftWait)).foldl
      (fun t st => t.record x.launch.part (s.replayRecord n st) false (bitAt x.launch.trc 60)) s
  else s

/-- The records of a core's cycle: a mark (R333), and the replay records. -/
def State.cycleRecords (s : State) (n : Nat) : State :=
  let x := s.ctx n
  let s1 := match x.mark with
    | some code => s.record x.launch.part (s.markRecord n code.toNat) true (bitAt x.launch.trc 60)
    | none => s
  s1.replayRecords n

/-- Whether the cycle is the stop cycle of a context that stands: heads that its stop has released have left FLAG or BUSY in it (R337),
also where it is exchanged out with that cycle (R383). -/
def Ctx.stopsNow (x : Ctx) (cyc : Nat) : Bool := x.mode == .stopped && !x.frame.handler && x.frame.f == cyc

/-- The records of the contexts of a core in a cycle. -/
def State.coreRecords (s : State) (n : Nat) : State :=
  let t := if s.classed n then s.cycleRecords n else if (s.ctx n).stopsNow (s.cyc n) then s.replayRecords n else s
  if (s.core n).alt.stopsNow (s.cyc n) then ((t.flip n).replayRecords n).flip n else t

/-- The resident context at the end of a cycle: it is charged for its domains, and a head that its stop released in this cycle is
past. -/
def Ctx.tickAlt (x : Ctx) (cyc units : Nat) : Ctx :=
  let y := { x with sys := x.sys.meter units }
  if x.stopsNow cyc then
    { y with c := x.c.settle, l := x.l.settle, v := x.v.settle, s := x.s.settle, frame := { x.frame with cstream := x.frame.cstream.settle } }
  else y

/-- The end of a cycle for one core. -/
def State.tickCore (s : State) (n : Nat) : State :=
  let cyc := s.cyc n
  let s1 := (s.coreRecords n).integrityRecord n
  s1.modCore n (fun c => { c with
    ctx := c.ctx.tick (s.classed n) (s.inHandler n) (s.classes n) cyc (c.staticOf c.bank + c.ctx.baseUnits (s.classed n))
    alt := c.alt.tickAlt cyc (c.staticOf (!c.bank))
    exchange := if c.exchange.any (fun e => e ≤ cyc) then none else c.exchange })

/-- The end of a cluster's cycle: 0.5 ns to the next edge on the high rail, 0.8 ns on the low one (R7). -/
def State.tick (s : State) (cl : Nat) : State :=
  let t := (coresOf cl).foldl State.tickCore s
  t.modCluster cl (fun c => { c with cyc := c.cyc + 1, edge := t.now + (if c.low then 8 else 5) })

/-! ## The next cycle -/

/-- The time of a cluster's next edge: a switch of rails takes 20 ns (R374). -/
def Cluster.nextEdge (c : Cluster) : Nat := if c.switching.isSome then c.edge + 200 else c.edge

/-- The cluster whose edge comes next: cluster 0 while no cluster has been used. -/
def nextCluster : Store Cluster → Nat × Cluster
  | [] => (0, Cluster.init)
  | [c] => c
  | c :: t => let d := nextCluster t; if d.2.nextEdge < c.2.nextEdge then d else c

/-- The agenda of the next cycle, at the time of its edge; what was on the links has arrived. -/
def State.plan (s : State) : State :=
  let s := s.linkCycle
  let c := nextCluster s.clusters
  let t := { s with now := max s.now c.2.nextEdge }
  { t with agenda :=
      if c.2.switching.isSome then [.event (.railSwitchEnd c.1)]
      else t.firstSteps c.1 ++ (coresOf c.1).map .turns ++ [.settle c.1, .tick c.1] }

/-! ## Acts -/

/-- A core's streams take their turns. -/
def State.runTurns (s : State) (n : Nat) : State :=
  let p := s.coreTurns n
  { p.1 with agenda := p.2 ++ s.agenda }

/-- What the issues of a cluster's cycle made possible is put on the agenda. -/
def State.runSettle (s : State) (cl : Nat) : State := { s with agenda := s.lastSteps cl ++ s.agenda }

/-- A device whose power is cut, or that has left no core out of reset, does nothing but a cold reset (R342, R378): what an agenda
holds for it passes. With power on it answers a host's read of SECSTAT, which reports the failure. -/
def State.stand (s : State) : Host.Outcome State Fault Refusal :=
  match s.agenda with
  | .event (.coldReset a b) :: rest => exec (.coldReset a b) { s with agenda := rest }
  | .event (.hostAccess p false pa d n) :: rest =>
    if !s.mgmt.trip && pa / 8 == 2 ^ 40 then exec (.hostAccess p false pa d n) { s with agenda := rest } else .next { s with agenda := rest }
  | a => .next { s with agenda := a.drop 1 }

/-! ## A first word -/

/-- The stream whose queue takes a word (R71). -/
def strmOfWord (w : Nat) : Strm :=
  match w / 2 ^ 61 % 8 with
  | 1 => .l
  | 2 => .v
  | 3 => .s
  | _ => .c

/-- The context with a word at the head of a stream, about to try it: the word stands in the queue, nothing waits. -/
def Ctx.withHead (x : Ctx) (st : Strm) (a : Nat) (w : Word) : Ctx :=
  { x.modStrm st (fun t => { t with
      queue := { addr := a, word := w, pre := t.loops, loops := t.loops } :: t.queue.tail
      wait := none, stand := none, lanes := none, due := none, posted := [] }) with
    mode := .run, frame := { x.frame with pending := none } }

/-- Puts an instruction's bits where the next step finds its instruction: in the text of the core that executes, at the head
address of its stream, in that stream's queue, with power on and the cluster's clock past the word's idle count; the stream's turn
comes next. -/
def State.placeWord (s : State) (w : Nat) : State :=
  let n := s.cur.core
  let st := strmOfWord w
  let t := (s.ctx n).strm st
  let a := t.head
  let v := BitVec.ofNat 64 w
  let s1 := s.modCore n (fun c =>
    let x := c.ctx.withHead st a v
    if a < 0x7000 then { c with ctx := { x with text := x.text.put a v } } else { c with ctx := x, image := c.image.put a v })
  let s2 := s1.modCluster (clusterOf n) (fun c => { c with cyc := max c.cyc (max t.notBefore (t.last + 1 + w / 2 ^ 51 % 1024)) })
  { s2 with agenda := [.stream n st], mgmt := { s2.mgmt with off := false } }

end Sys2Proof.Machine
end

