-- ==== Sys2Proof/Machine/Step.lean ====
section
/-! DEFINITION. The step: the next act of the agenda. A stream's act decodes and executes the word at its head. -/

namespace Sys2Proof.Machine

/-- One step of a device that has power: the next act of the agenda, or, when it is empty, the plan of the next cycle. -/
def State.act (s : State) : Host.Outcome State Fault Refusal :=
  match s.agenda with
  | [] => .next s.plan
  | .stream n st :: rest => State.tryHead { s with agenda := rest } n st
  | .event i :: rest => exec i { s with agenda := rest }
  | .turns n :: rest => .next (State.runTurns { s with agenda := rest } n)
  | .settle cl :: rest => .next (State.runSettle { s with agenda := rest } cl)
  | .tick cl :: rest => .next (State.tick { s with agenda := rest } cl)

/-- One step of the device. -/
def step (s : State) : Host.Outcome State Fault Refusal := if s.mgmt.off then s.stand else s.act

/-- The state with an instruction of `nbits` bits, `w`, where the next step finds its instruction. -/
def State.withFetchWord (s : State) (nbits w : Nat) : State := s.placeWord (w % 2 ^ nbits)

end Sys2Proof.Machine
end

