-- ==== Sys2Proof/Safety.lean ====
section
/-! DEFINITION. What claims call a safe run, the well-formed states that every step keeps, and the terms in which claims say
what an instruction changes and what it leaves alone. -/

namespace Sys2Proof.Machine

/-- The memories of the device are in canonical form: device memory, scratchpads, accumulator stores, weight buffers. -/
def State.MemOk (s : State) : Prop :=
  s.mem.wf = true ∧ (∀ c ∈ s.cores, c.2.spad.wf = true ∧ c.2.acc.wf = true) ∧ ∀ c ∈ s.clusters, c.2.wb.wf = true

/-- A state from which `k` steps complete. -/
def State.SafeFor : Nat → State → Prop
  | 0, _ => True
  | k + 1, s => ∃ t, step s = .next t ∧ State.SafeFor k t

/-- A state from which every number of steps completes. -/
def State.Safe (s : State) : Prop := ∀ k, State.SafeFor k s

/-! ## What is unchanged -/

/-- Every byte of every memory reads as before: device memory, scratchpads, accumulator stores, weight buffers. -/
def State.sameBytes (s t : State) : Prop :=
  (∀ a, t.mem.read a = s.mem.read a) ∧
    (∀ n a, (t.core n).spad.read a = (s.core n).spad.read a ∧ (t.core n).acc.read a = (s.core n).acc.read a) ∧
    ∀ cl a, (t.cluster cl).wb.read a = (s.cluster cl).wb.read a

/-- Nothing but the active context of core `n` has changed. -/
def State.onlyCtx (s t : State) (n : Nat) : Prop := t = s.modCtx n (fun _ => t.ctx n)

/-- Parts of a context that the issue of a register instruction leaves alone: mode, text, the fault frame, the engines, the
accesses and fills in flight, the launch, and every system register (ENERGY's charge of this cycle apart). -/
def Ctx.keeps (x y : Ctx) : Prop :=
  y.mode = x.mode ∧ y.text = x.text ∧ y.frame = x.frame ∧ y.eng = x.eng ∧ y.fills = x.fills ∧ y.fifo = x.fifo ∧
    y.fails = x.fails ∧ y.launch = x.launch ∧ y.tok0 = x.tok0 ∧
    y.sys = { x.sys with charge := y.sys.charge }

/-- The scalar registers but one, and every other register file, are unchanged. -/
def Regs.sameBut (r q : Regs) (d : Reg) : Prop :=
  (∀ e, e ≠ d → q.get e = r.get e) ∧ q.pl = r.pl ∧ q.ps = r.ps ∧ q.k = r.k ∧ q.z = r.z ∧ q.grid = r.grid

/-- The three streams that did not issue, and the queues. -/
def Ctx.sameQueues (x y : Ctx) : Prop := y.lq = x.lq ∧ y.sq = x.sq ∧ y.bq = x.bq ∧ y.send = x.send

/-! ## The issue of an instruction -/

/-- The state after a C instruction that writes `v` to D (R82). -/
def State.cAfter (s : State) (h : Hdr) (occ : Nat) (d : BitVec 5) (v : Word) : State := s.done .c h occ 8 (fun x => x.setReg d v)

/-- The value in the register that a C field names. -/
def State.reg (s : State) (i : BitVec 5) : Word := (s.ctx s.me).reg i

/-- The conditions of a V instruction's own rule hold (R148, R149): its LQs have data, its SQ has room, the domains it touches
are awake, no entry it reads is marked. -/
def State.vGo (s : State) (d : Dst) (srcs : List Src) (mask : Word) (cross : Bool) : Prop :=
  (s.ctx s.me).lqReady srcs = true ∧ (s.ctx s.me).dstRoom d = true ∧
    s.asleep s.me (vTouches s.me d srcs mask cross) = none ∧ (s.ctx s.me).lqBad srcs = none

/-- The state after a V instruction (R19, R20, R147): the LQs it names popped, its result `v` on the way to D for `lat`
cycles, SRSEQ stepped when it rounds stochastically, and the predicate writes `zs` on their way. -/
def State.vAfter (s : State) (h : Hdr) (d : Dst) (srcs : List Src) (mask : Word) (rnd : Rnd) (lat units : Nat)
    (zs : List PendDst) (v : List Lane) : State :=
  s.done .v h 1 units (fun x =>
    zs.foldl (fun y z => y.inFlight .v mask (s.cyc s.me) lat z) (((x.popLqs srcs).sendTo d mask v (s.cyc s.me) lat).stepSr rnd))

/-- The 64 lanes of a V source. -/
def State.lanesOf (s : State) (a : Src) : List Lane := (s.ctx s.me).src a

/-- The 16 random bits of an element (R150). -/
def State.rnd16 (s : State) (rnd : Rnd) (i : Nat) : Nat := (s.ctx s.me).rand rnd i

/-- The state as an engine of a cluster works on it: each core with its banks changed where the resident one holds the older
command (R306, R383); the state itself where none does. -/
def State.faced (s : State) (cl : Nat) (eng : Eng) : State :=
  ((coresOf cl).filter (fun n => s.residentFirst n eng)).foldl State.flip s

/-- The state as a step of a class FIFO works on it: the core with its banks changed where the resident one holds the older
access of the class (R306, R383). -/
def State.facing (s : State) (core : Nat) (cls : BitVec 4) : State :=
  match (s.core core).alt.fifoOf cls.toNat, (s.core core).ctx.fifoOf cls.toNat with
  | a :: _, b :: _ => if a.issued < b.issued then s.flip core else s
  | _ :: _, [] => s.flip core
  | [], _ => s

end Sys2Proof.Machine

namespace Sys2Proof

/-- The C instructions whose only effect is to write D, with their header and D. -/
def Instr.aluDest : Instr → Option (Hdr × BitVec 5)
  | .cAdd h d _ _ => some (h, d)
  | .cSub h d _ _ => some (h, d)
  | .cAnd h d _ _ => some (h, d)
  | .cOr h d _ _ => some (h, d)
  | .cXor h d _ _ => some (h, d)
  | .cAndn h d _ _ => some (h, d)
  | .cShl h d _ _ => some (h, d)
  | .cShr h d _ _ => some (h, d)
  | .cSra h d _ _ => some (h, d)
  | .cRol h d _ _ => some (h, d)
  | .cMul h d _ _ => some (h, d)
  | .cMulh h d _ _ => some (h, d)
  | .cMulhu h d _ _ => some (h, d)
  | .cDiv h d _ _ => some (h, d)
  | .cDivu h d _ _ => some (h, d)
  | .cRem h d _ _ => some (h, d)
  | .cRemu h d _ _ => some (h, d)
  | .cMin h d _ _ => some (h, d)
  | .cMax h d _ _ => some (h, d)
  | .cMinu h d _ _ => some (h, d)
  | .cMaxu h d _ _ => some (h, d)
  | .cSlt h d _ _ => some (h, d)
  | .cSltu h d _ _ => some (h, d)
  | .cSeq h d _ _ => some (h, d)
  | .cSne h d _ _ => some (h, d)
  | .cClz h d _ => some (h, d)
  | .cCtz h d _ => some (h, d)
  | .cPopc h d _ => some (h, d)
  | .cBswap h d _ => some (h, d)
  | .cAddi h d _ _ => some (h, d)
  | .cAndi h d _ _ => some (h, d)
  | .cOri h d _ _ => some (h, d)
  | .cXori h d _ _ => some (h, d)
  | .cShli h d _ _ => some (h, d)
  | .cShri h d _ _ => some (h, d)
  | .cSrai h d _ _ => some (h, d)
  | .cSlti h d _ _ => some (h, d)
  | .cSltui h d _ _ => some (h, d)
  | .cLi h d _ => some (h, d)
  | .cLih h d _ _ => some (h, d)
  | .cAddpc h d _ => some (h, d)
  | .cRdtb h d => some (h, d)
  | _ => none

/-- The V instructions but `nop`, `send` and the power instructions, with their header, D (void where they have none) and the
rounding that they apply. -/
def Instr.vecDest : Instr → Option (Hdr × Dst × Rnd)
  | .vFadd h d _ _ _ _ rnd => some (h, d, rnd)
  | .vFsub h d _ _ _ _ rnd => some (h, d, rnd)
  | .vFmul h d _ _ _ _ rnd => some (h, d, rnd)
  | .vFma h d _ _ _ _ _ rnd => some (h, d, rnd)
  | .vFms h d _ _ _ _ _ rnd => some (h, d, rnd)
  | .vFnma h d _ _ _ _ _ rnd => some (h, d, rnd)
  | .vFmin h d _ _ _ _ => some (h, d, .rne)
  | .vFmax h d _ _ _ _ => some (h, d, .rne)
  | .vFcmp h d _ _ _ _ _ => some (h, d, .rne)
  | .vFabs h d _ _ _ => some (h, d, .rne)
  | .vFneg h d _ _ _ => some (h, d, .rne)
  | .vExp2 h d _ _ rnd => some (h, d, rnd)
  | .vLog2 h d _ _ rnd => some (h, d, rnd)
  | .vRcp h d _ _ rnd => some (h, d, rnd)
  | .vRsq h d _ _ rnd => some (h, d, rnd)
  | .vIadd h d _ _ _ _ => some (h, d, .rne)
  | .vIsub h d _ _ _ _ => some (h, d, .rne)
  | .vImul h d _ _ _ _ => some (h, d, .rne)
  | .vImulh h d _ _ _ _ => some (h, d, .rne)
  | .vImulhu h d _ _ _ _ => some (h, d, .rne)
  | .vIand h d _ _ _ => some (h, d, .rne)
  | .vIor h d _ _ _ => some (h, d, .rne)
  | .vIxor h d _ _ _ => some (h, d, .rne)
  | .vIandn h d _ _ _ => some (h, d, .rne)
  | .vIshl h d _ _ _ _ => some (h, d, .rne)
  | .vIshr h d _ _ _ _ => some (h, d, .rne)
  | .vIsra h d _ _ _ _ => some (h, d, .rne)
  | .vImin h d _ _ _ _ => some (h, d, .rne)
  | .vImax h d _ _ _ _ => some (h, d, .rne)
  | .vIminu h d _ _ _ _ => some (h, d, .rne)
  | .vImaxu h d _ _ _ _ => some (h, d, .rne)
  | .vIpopc h d _ _ => some (h, d, .rne)
  | .vIclz h d _ _ => some (h, d, .rne)
  | .vIcmp h d _ _ _ _ _ => some (h, d, .rne)
  | .vIabs h d _ _ _ => some (h, d, .rne)
  | .vClmul h d _ _ _ => some (h, d, .rne)
  | .vBcmp8 h d _ _ _ => some (h, d, .rne)
  | .vBpack h d _ _ => some (h, d, .rne)
  | .vCvt h d _ _ _ _ _ _ rnd => some (h, d, rnd)
  | .vQblk h d _ _ _ rnd => some (h, d, rnd)
  | .vDqblk h d _ _ _ rnd => some (h, d, rnd)
  | .vScan h d _ _ _ _ _ rnd => some (h, d, rnd)
  | .vRed h d _ _ _ _ rnd => some (h, d, rnd)
  | .vPerm h d _ _ _ => some (h, d, .rne)
  | .vRot h d _ _ => some (h, d, .rne)
  | .vBcast h d _ _ _ => some (h, d, .rne)
  | .vCmul h d _ _ _ rnd => some (h, d, rnd)
  | .vCmulc h d _ _ _ rnd => some (h, d, rnd)
  | .vCma h d _ _ _ _ rnd => some (h, d, rnd)
  | .vCmac h d _ _ _ _ rnd => some (h, d, rnd)
  | .vCabs2 h d _ _ rnd => some (h, d, rnd)
  | .vMov h d _ _ => some (h, d, .rne)
  | .vSel h d _ _ _ _ => some (h, d, .rne)
  | .vSetk h _ _ => some (h, .void, .rne)
  | .vZand h _ _ _ _ => some (h, .void, .rne)
  | .vZor h _ _ _ _ => some (h, .void, .rne)
  | .vZxor h _ _ _ _ => some (h, .void, .rne)
  | .vZcnt h d _ _ => some (h, d, .rne)
  | _ => none

end Sys2Proof
end

