-- ==== Sys2Proof/Certificates/Slice0/Obligations.lean ====
section
/-! DEFINITION. The statements for the provers. -/

open Sys2Proof Sys2Proof.Machine

/-- Reset: every core's contexts and domains are off, no stream waits, WINDOW is 256, SRSEED, SRSEQ, FTBASE, FSTAT and the token
counters are 0, SQCFG.LOG2N is 4, XLCFG.KEYS 0x0001 and PINTCFG.VEC 1, the array lease is free with `last` 3, and the time base
is 0 (R14, R15, R38, R174, R195, R205, R288, R294, R308, R370, R371). Device memory lists nothing. That memory lists nothing is
the model's form (log 3). -/
def Obligations.ResetState : Prop :=
  (∀ n, let x := State.reset.ctx n
      x.mode = .off ∧ x.sys.window = 256 ∧ x.sys.srseed = 0 ∧ x.sys.srseq = 0 ∧ x.sys.ftbase = 0 ∧ x.frame.fstat = 0 ∧
        x.frame.handler = false ∧ x.tok = List.replicate 8 0 ∧ ∀ st, (x.strm st).wait = none) ∧
    (∀ p, (State.reset.part p).sqcfg = 4 ∧ (State.reset.part p).xlcfg = 0x10000 ∧ (State.reset.part p).pintVec = 1) ∧
    (∀ n dt i, (State.reset.dom n dt i).st = .off) ∧
    (∀ cl, (State.reset.cluster cl).holder = none ∧ (State.reset.cluster cl).leaseLast = 3) ∧
    State.reset.time = 0 ∧ State.reset.mem = []

/-- The memories are in canonical form after reset. The form is the model's own (log 3). -/
def Obligations.ResetMemoryCanonical : Prop := State.reset.MemOk

/-- Worked words of the spec, bit by bit, decode to the instructions they stand for: C `nop` and `bar`, L `ldq`, V `fadd` in two
roundings, S `stsx`, `all.nop`, `all.loop` (R43, R65 to R68 and the worked decodes); an untagged word, an unassigned opcode, a
reserved field, a reserved bit of an ALL word and a bad destination are refused with details 1, 2, 3, 3 and 5 (R70). -/
def Obligations.DecodeWords : Prop :=
  let h : Hdr := { idle := 0, wp := false, wn := false, pp := false, pn := false }
  decode 0x0000000000000000 = .ok (.cNop h) ∧
    decode 0x000055A800010000 = .ok (.cBar h 21 0 .cluster 0) ∧
    decode 0x2000031C04000000 = .ok (.lLdq h 1 0 .f32 .none .none 0) ∧
    decode 0x40A80101C0D00040 = .ok (.vFadd { h with idle := 21 } (.row 1) (.lq 0) (.k 0) .f32 0 .rne) ∧
    decode 0x40A80101C0D00041 = .ok (.vFadd { h with idle := 21 } (.row 1) (.lq 0) (.k 0) .f32 0 .rtz) ∧
    decode 0x6000122C00000009 = .ok (.sStsx h 2 0 0 .core 9) ∧
    decode 0xE000000000000000 = .ok (.allNop 0) ∧
    decode 0xE00003000040000D = .ok (.allLoop 0 0 false 4 13) ∧
    decode 0x80A80101C0D00040 = .error 1 ∧
    decode 0x40A83701C0D00040 = .error 2 ∧
    decode 0x40A80101C0D00140 = .error 3 ∧
    decode 0xE001020000000000 = .error 3 ∧
    decode 0x40A801C8C0D00040 = .error 5

/-- When the device has power and the queue of the stream whose turn it is holds a word that decodes to a well-formed
instruction at an address where an instruction may stand and names no bound queue that a coupling forbids it (R133), the step is
that instruction's execution by that stream; when a request of the head has met a fault, the step takes the fault (R73, R298).
The agenda is the model's choice (log 1). -/
def Obligations.StepRunsHead : Prop :=
  ∀ (s : State) (n : Nat) (st : Strm) (rest : List Act), s.mgmt.off = false → s.agenda = .stream n st :: rest →
    (∀ (e : QEntry) (q : List QEntry) (i : Instr),
      ((s.ctx n).strm st).due = none → ((s.ctx n).strm st).queue = e :: q → decode e.word = .ok i →
      coupledFate (s.ctx n) i = none → placeFate (s.ctx n) e.addr = none →
      step s = exec i { s with agenda := rest, cur := { core := n, st := st } }) ∧
    ∀ f : Trap, (s.ctx n).tries st = true → ((s.ctx n).strm st).due = some f →
      step s = .next (State.raise { s with agenda := rest } n st f)

/-- A word that is no instruction, that names a bound queue which a coupling forbids it, or that stands at 0x7000 and above
outside handler mode, runs as an illegal word with the lowest detail that applies (R70, R72, R133). A device step on the agenda
is that step's execution; with nothing on the agenda the next cycle is planned. A device whose power is cut executes a cold
reset and passes over everything else on its agenda (R342, R378), but for a host's read of SECSTAT while no thermal trip stands:
a failure of step 1 of the boot leaves it readable (R342). The agenda and the plan are the model's choice (log 1). -/
def Obligations.StepRunsOtherSteps : Prop :=
  (∀ (s : State) (n : Nat) (st : Strm) (rest : List Act) (e : QEntry) (q : List QEntry),
     s.mgmt.off = false → s.agenda = .stream n st :: rest → ((s.ctx n).strm st).queue = e :: q →
     ((s.ctx n).strm st).due = none →
     (∀ d, decode e.word = .error d →
       step s = exec (.illegalWord d) { s with agenda := rest, cur := { core := n, st := st } }) ∧
     (∀ i, decode e.word = .ok i →
       (∃ k, namedQueue i = some (true, k) ∧ k ∈ (s.ctx n).launch.cplIn) ∨
         (∃ k, namedQueue i = some (false, k) ∧ ∃ c ∈ (s.ctx n).launch.cplOut, c.1 = k) →
       step s = exec (.illegalWord 5) { s with agenda := rest, cur := { core := n, st := st } }) ∧
     (∀ i, decode e.word = .ok i → (s.ctx n).frame.handler = false → coupledFate (s.ctx n) i = none → 0x7000 ≤ e.addr →
       step s = exec (.illegalWord 6) { s with agenda := rest, cur := { core := n, st := st } })) ∧
  (∀ (s : State) (i : Instr) (rest : List Act),
     (s.mgmt.off = false →
       (s.agenda = .event i :: rest → step s = exec i { s with agenda := rest }) ∧ (s.agenda = [] → step s = .next s.plan)) ∧
     (s.mgmt.off = true →
       (∀ hard work, s.agenda = .event (.coldReset hard work) :: rest →
         step s = exec (.coldReset hard work) { s with agenda := rest }) ∧
       (∀ part pa data n, s.mgmt.trip = false → pa / 8 = 2 ^ 40 → s.agenda = .event (.hostAccess part false pa data n) :: rest →
         step s = exec (.hostAccess part false pa data n) { s with agenda := rest }) ∧
       ((∀ hard work more, s.agenda ≠ .event (.coldReset hard work) :: more) →
         (∀ part pa data n more, s.agenda = .event (.hostAccess part false pa data n) :: more → s.mgmt.trip = true ∨ pa / 8 ≠ 2 ^ 40) →
         step s = .next { s with agenda := s.agenda.drop 1 })))

/-- When an instruction may issue (R17, R41, R16): not before the previous last cycle + 1 + IDLE; a pop needs a token in its
counter at the start of the cycle, and a push a count below 63. Otherwise the head is held, and nothing but its class changes.
What an issue does beyond the instruction's own effect (R16, R17, R78, R325): the head leaves its queue, its last cycle is issue
+ occupancy − 1, its tokens move and its energy is charged, both only when the head is not executed anew (R79; a head whose
fault has given its charge back charges that: R121), ISSUED of the stream steps by one unless the head has been counted before
its walk returned (R298, R325), and nothing outside the core's active context changes. That ISSUED steps again for a head that
is executed anew after a stop, and the cycle of the charge, are the model's readings (log 14). -/
def Obligations.Issue : Prop :=
  (∀ (s : State) (st : Strm) (h : Hdr) (v : Verdict) (go : State),
     (s.ctx s.me).tries st = true → ((s.ctx s.me).strm st).anew = false →
     (s.cyc s.me < ((s.ctx s.me).strm st).last + 1 + h.idle.toNat → s.issue st h v go = s.hold st .issue) ∧
     (((s.ctx s.me).strm st).last + 1 + h.idle.toNat ≤ s.cyc s.me → ((s.ctx s.me).strm st).notBefore ≤ s.cyc s.me →
       (∀ n ∈ pops st h, (s.ctx s.me).tok0.getD n 0 = 0 → ∃ k, s.issue st h v go = s.hold st (.flag k)) ∧
       ((∀ n ∈ pops st h, (s.ctx s.me).tok0.getD n 0 ≠ 0 ∧ (s.ctx s.me).tok.getD n 0 ≠ 0) →
         ∀ n ∈ pushes st h, 63 ≤ (s.ctx s.me).tok0.getD n 0 → s.issue st h v go = s.hold st .busy))) ∧
  (∀ (s : State) (st : Strm) (h : Hdr) (occ units : Nat),
     let x := s.ctx s.me
     let t := s.done st h occ units id
     let y := t.ctx s.me
     s.onlyCtx t s.me ∧ (y.strm st).queue = (x.strm st).queue.tail ∧ (y.strm st).last = s.cyc s.me + occ - 1 ∧
       (∀ k, k ≠ st → y.strm k = x.strm k) ∧
       y.tok = (if (x.strm st).anew then x.tok else tokenMove x.tok st h) ∧
       y.sys.charge = x.sys.charge + (if (x.strm st).anew then (x.strm st).owed else units) ∧
       y.counters.issued = (if (x.strm st).counted = true then x.counters.issued
         else x.counters.issued.set (strmCode st) (x.counters.issued.getD (strmCode st) 0 + 1)) ∧
       x.keeps y ∧ y.regs = x.regs ∧ x.sameQueues y ∧ y.pend = x.pend)

/-- From every state every number of steps completes: a fault of a program is a next state (R305), and nothing that a program or
a device does stops the machine. Runs go on by the agenda and the schedule, the model's choice (log 1). -/
def Obligations.NeverStuck : Prop := ∀ s : State, s.Safe

/-- Decode and encode agree: the word that the encoding tables give a well-formed instruction decodes to it, every field at
every value. -/
def Obligations.DecodeOfEncode : Prop :=
  ∀ (i : Instr) (w : Word), i.wf = true → encode i = some w → decode w = .ok i

/-- Every word that decodes is the word of the instruction it decodes to, which is well formed: no bit of a word is ignored
(R43, R70). -/
def Obligations.EncodeOfDecode : Prop :=
  ∀ (w : Word) (i : Instr), decode w = .ok i → i.wf = true ∧ encode i = some w

/-- Every step keeps the memories of the device in canonical form. The form is the model's own (log 3). -/
def Obligations.StepKeepsMemory : Prop := ∀ s t : State, s.MemOk → step s = .next t → t.MemOk

/-- S0 reads as zero and ignores writes, Z0 reads as all ones and ignores writes, and every other register, of S, H, P, K and Z,
holds what was last written to it, a write of one leaving the others (R21); the registers H0 to H7 are S24 to S31 of a C
instruction in handler mode (R114). -/
def Obligations.RegisterFile : Prop :=
  ∀ (r : Regs) (v m : Word),
    (∀ inS p, (r.pset inS p v).pget inS p = v ∧
      ∀ inT q, (inT, q) ≠ (inS, p) → (r.pset inS p v).pget inT q = r.pget inT q) ∧
    (∀ z, z ≠ 0 → (r.zset z (BitVec.allOnes 64) v).zget z = v ∧ (r.zset z m v).zget z = (r.zget z &&& ~~~m) ||| (v &&& m) ∧
      ∀ y, y ≠ z → (r.zset z m v).zget y = r.zget y) ∧
    (∀ (x : Ctx) (cyc : Nat) (k : BitVec 4) (w : Lane),
      (x.land cyc (.kreg k w)).src (.k k) = lanes (fun _ => w) ∧
        ∀ o, o ≠ k → (x.land cyc (.kreg k w)).src (.k o) = x.src (.k o)) ∧
    (r.get (.s 0) = 0 ∧ r.set (.s 0) v = r) ∧ (r.zget 0 = BitVec.allOnes 64 ∧ r.zset 0 m v = r) ∧
      (∀ d, d ≠ .s 0 → (r.set d v).get d = v) ∧ (∀ d e, e ≠ d → (r.set d v).get e = r.get e) ∧
      ∀ (x : Ctx) (i : BitVec 5), x.regOf i =
        if x.frame.handler = true ∧ 24 ≤ i.toNat then .h (BitVec.ofNat 3 (i.toNat - 24)) else .s i

/-- The results of R83: a C arithmetic instruction that may issue writes D with the function of A and B that the table gives,
with the table's occupancy, and changes nothing else but what every issue changes. -/
def Obligations.CArithmetic : Prop :=
  ∀ (s : State) (h : Hdr) (d a b : BitVec 5), s.ready .c h →
    let A := s.reg a
    let B := s.reg b
    let k := B.toNat % 64
    let one := fun (p : Bool) => (if p then 1 else 0 : Word)
    exec (.cAdd h d a b) s = .next (s.cAfter h 1 d (A + B)) ∧
      exec (.cSub h d a b) s = .next (s.cAfter h 1 d (A - B)) ∧
      exec (.cAnd h d a b) s = .next (s.cAfter h 1 d (A &&& B)) ∧
      exec (.cOr h d a b) s = .next (s.cAfter h 1 d (A ||| B)) ∧
      exec (.cXor h d a b) s = .next (s.cAfter h 1 d (A ^^^ B)) ∧
      exec (.cAndn h d a b) s = .next (s.cAfter h 1 d (A &&& ~~~B)) ∧
      exec (.cShl h d a b) s = .next (s.cAfter h 1 d (A <<< k)) ∧
      exec (.cShr h d a b) s = .next (s.cAfter h 1 d (A >>> k)) ∧
      exec (.cSra h d a b) s = .next (s.cAfter h 1 d (A.sshiftRight k)) ∧
      exec (.cRol h d a b) s = .next (s.cAfter h 1 d (A.rotateLeft k)) ∧
      exec (.cMul h d a b) s = .next (s.cAfter h 3 d (A * B)) ∧
      exec (.cMulh h d a b) s = .next (s.cAfter h 3 d (BitVec.ofInt 64 (A.toInt * B.toInt / 2 ^ 64))) ∧
      exec (.cMulhu h d a b) s = .next (s.cAfter h 3 d (BitVec.ofNat 64 (A.toNat * B.toNat / 2 ^ 64))) ∧
      exec (.cMin h d a b) s = .next (s.cAfter h 1 d (if A.toInt < B.toInt then A else B)) ∧
      exec (.cMax h d a b) s = .next (s.cAfter h 1 d (if A.toInt < B.toInt then B else A)) ∧
      exec (.cMinu h d a b) s = .next (s.cAfter h 1 d (if A.toNat < B.toNat then A else B)) ∧
      exec (.cMaxu h d a b) s = .next (s.cAfter h 1 d (if A.toNat < B.toNat then B else A)) ∧
      exec (.cSlt h d a b) s = .next (s.cAfter h 1 d (one (decide (A.toInt < B.toInt)))) ∧
      exec (.cSltu h d a b) s = .next (s.cAfter h 1 d (one (decide (A.toNat < B.toNat)))) ∧
      exec (.cSeq h d a b) s = .next (s.cAfter h 1 d (one (decide (A = B)))) ∧
      exec (.cSne h d a b) s = .next (s.cAfter h 1 d (one (decide (A ≠ B)))) ∧
      exec (.cClz h d a) s = .next (s.cAfter h 1 d (BitVec.ofNat 64 (leadZeros 64 A.toNat))) ∧
      exec (.cCtz h d a) s = .next (s.cAfter h 1 d (BitVec.ofNat 64 (trailZeros 64 A.toNat))) ∧
      exec (.cPopc h d a) s = .next (s.cAfter h 1 d (BitVec.ofNat 64 (popCount 64 A.toNat))) ∧
      exec (.cBswap h d a) s = .next (s.cAfter h 1 d (BitVec.ofNat 64 (byteSwap 8 A.toNat 0)))

/-- R84: division never traps, its occupancy of 24 does not depend on the operands, B = 0 gives all ones or A, and −2^63 ÷ −1
gives −2^63 with remainder 0; every other quotient is truncated toward zero and the remainder has the sign of A (R83). -/
def Obligations.CDivision : Prop :=
  ∀ (s : State) (h : Hdr) (d a b : BitVec 5), s.ready .c h →
    ∃ q qu r ru : Word,
      exec (.cDiv h d a b) s = .next (s.cAfter h 24 d q) ∧ exec (.cDivu h d a b) s = .next (s.cAfter h 24 d qu) ∧
        exec (.cRem h d a b) s = .next (s.cAfter h 24 d r) ∧ exec (.cRemu h d a b) s = .next (s.cAfter h 24 d ru) ∧
        (s.reg b = 0 → q = BitVec.allOnes 64 ∧ qu = BitVec.allOnes 64 ∧ r = s.reg a ∧ ru = s.reg a) ∧
        (s.reg b ≠ 0 → qu.toNat = (s.reg a).toNat / (s.reg b).toNat ∧ ru.toNat = (s.reg a).toNat % (s.reg b).toNat) ∧
        ((s.reg a).toInt = -2 ^ 63 → (s.reg b).toInt = -1 → q = s.reg a ∧ r = 0) ∧
        (s.reg b ≠ 0 → ¬ ((s.reg a).toInt = -2 ^ 63 ∧ (s.reg b).toInt = -1) →
          q.toInt = (s.reg a).toInt.tdiv (s.reg b).toInt ∧ r.toInt = (s.reg a).toInt.tmod (s.reg b).toInt)

/-- The results of R85: with B the sign-extended IMM30, or a shift amount IMM30[5:0]; `li`, `lih` and `addpc`. -/
def Obligations.CImmediate : Prop :=
  ∀ (s : State) (h : Hdr) (d a : BitVec 5) (imm : BitVec 30) (k : BitVec 6), s.ready .c h →
    let A := s.reg a
    let B : Word := imm.signExtend 64
    exec (.cAddi h d a imm) s = .next (s.cAfter h 1 d (A + B)) ∧
      exec (.cAndi h d a imm) s = .next (s.cAfter h 1 d (A &&& B)) ∧
      exec (.cOri h d a imm) s = .next (s.cAfter h 1 d (A ||| B)) ∧
      exec (.cXori h d a imm) s = .next (s.cAfter h 1 d (A ^^^ B)) ∧
      exec (.cShli h d a k) s = .next (s.cAfter h 1 d (A <<< k.toNat)) ∧
      exec (.cShri h d a k) s = .next (s.cAfter h 1 d (A >>> k.toNat)) ∧
      exec (.cSrai h d a k) s = .next (s.cAfter h 1 d (A.sshiftRight k.toNat)) ∧
      exec (.cSlti h d a imm) s = .next (s.cAfter h 1 d (if A.toInt < B.toInt then 1 else 0)) ∧
      exec (.cSltui h d a imm) s = .next (s.cAfter h 1 d (if A.toNat < B.toNat then 1 else 0)) ∧
      exec (.cLi h d imm) s = .next (s.cAfter h 1 d B) ∧
      exec (.cLih h d a imm) s = .next (s.cAfter h 1 d ((B <<< 30) ||| (A &&& 0x3FFFFFFF))) ∧
      exec (.cAddpc h d imm) s = .next (s.cAfter h 1 d (BitVec.ofNat 64 (s.ctx s.me).c.head + B))

/-- The frame of the C register instructions (R83, R85, `rdtb`): when one issues, every scalar register but D, every other
register file, the other streams, the queues, the results in flight, the fault frame, the engines and the system registers are
unchanged (D is S0: every register), the tokens are those the header moves, and every byte of memory reads as before. -/
def Obligations.CRegisterFrame : Prop :=
  ∀ (s t : State) (i : Instr) (h : Hdr) (d : BitVec 5), i.aluDest = some (h, d) → s.ready .c h → exec i s = .next t →
    s.onlyCtx t s.me ∧ s.sameBytes t ∧
      (s.ctx s.me).regs.sameBut (t.ctx s.me).regs ((s.ctx s.me).regOf d) ∧
      ((s.ctx s.me).regOf d = .s 0 → (t.ctx s.me).regs = (s.ctx s.me).regs) ∧
      (s.ctx s.me).keeps (t.ctx s.me) ∧ (s.ctx s.me).sameQueues (t.ctx s.me) ∧
      (t.ctx s.me).l = (s.ctx s.me).l ∧ (t.ctx s.me).v = (s.ctx s.me).v ∧ (t.ctx s.me).s = (s.ctx s.me).s ∧
      (t.ctx s.me).pend = (s.ctx s.me).pend ∧ (t.ctx s.me).mark = (s.ctx s.me).mark ∧
      (t.ctx s.me).tok = if (s.ctx s.me).c.anew then (s.ctx s.me).tok else tokenMove (s.ctx s.me).tok .c h

/-- The no-operations (R43, R139): they issue and do nothing but move their tokens. -/
def Obligations.NoOperations : Prop :=
  ∀ (s : State) (h : Hdr) (idle : BitVec 10),
    (s.ready .c h → exec (.cNop h) s = .next (s.done .c h 1 8 id)) ∧
      (s.ready .l h → exec (.lNop h) s = .next (s.done .l h 1 8 id)) ∧
      (s.ready .v h → exec (.vNop h) s = .next (s.done .v h 1 8 id)) ∧
      (s.ready .s h → exec (.sNop h) s = .next (s.done .s h 1 8 id)) ∧
      ((s.ctx s.me).frame.handler = false → s.ready s.cur.st (allHdr idle) →
        exec (.allNop idle) s = .next (s.done s.cur.st (allHdr idle) 1 8 id))

/-- The branches of R95: a branch whose condition holds, `j`, `jal` and `jr` go to their target with occupancy 3, the words
fetched beyond them discarded; a branch not taken has occupancy 1; `jal` and `jr` write D with the address of the next word. -/
def Obligations.CBranches : Prop :=
  ∀ (s : State) (h : Hdr) (d a b : BitVec 5) (cnd : Cnd) (o27 : BitVec 27) (o35 : BitVec 35) (t : Nat), s.ready .c h →
    ((s.ctx s.me).target .c o27.toInt = some t →
      (cndHolds cnd (s.reg a) (s.reg b) = true →
        exec (.cB h a b cnd o27) s = .next (s.done .c h 3 8 (fun x => { x with c := x.c.goto t }))) ∧
      (cndHolds cnd (s.reg a) (s.reg b) = false → exec (.cB h a b cnd o27) s = .next (s.done .c h 1 8 id))) ∧
    ((s.ctx s.me).target .c o35.toInt = some t →
      exec (.cJ h o35) s = .next (s.done .c h 3 8 (fun x => { x with c := x.c.goto t })) ∧
      exec (.cJal h d o35) s = .next (s.done .c h 3 8 (fun x =>
        { x.setReg d (BitVec.ofNat 64 (x.c.head + 1)) with c := x.c.goto t }))) ∧
    ((s.reg a).toNat < (s.ctx s.me).targetEnd →
      exec (.cJr h d a) s = .next (s.done .c h 3 8 (fun x =>
        { x.setReg d (BitVec.ofNat 64 (x.c.head + 1)) with c := x.c.goto (s.reg a).toNat })))

/-- A branch or jump whose target lies outside the legal text addresses is ILLEGAL with detail 6 and transfers nothing (R70,
R95, R114): below 0 or at 28,672 and above outside handler mode, at 0x8000 and above in it; `jr` takes it at its issue. An
illegal word (R70, R72): its stream takes ILLEGAL with the detail in the first cycle that is at least its previous last cycle +
1, whatever its IDLE and token bits say; ALL words at C's head in handler mode take it with detail 7 (R309). -/
def Obligations.IllegalTargetsAndWords : Prop :=
  (∀ (s : State) (h : Hdr) (a b d : BitVec 5) (cnd : Cnd) (ofs : BitVec 27) (o35 : BitVec 35),
     let tops : Int := if (s.ctx s.me).frame.handler then 0x8000 else 28672
     let bad := fun (z : Int) => z < 0 ∨ tops ≤ z
     s.cur.st = .c →
     (bad ((s.ctx s.me).c.head + ofs.toInt) → exec (.cB h a b cnd ofs) s = exec (.illegalWord 6) s) ∧
       (bad ((s.ctx s.me).c.head + o35.toInt) →
         exec (.cJ h o35) s = exec (.illegalWord 6) s ∧ exec (.cJal h d o35) s = exec (.illegalWord 6) s) ∧
       (tops ≤ (s.reg a).toNat → (s.ctx s.me).tries .c = true → s.front .c h = none →
         exec (.cJr h d a) s = .next (s.raise s.me .c { cause := .illegal, code := 6 }))) ∧
  (∀ (s : State) (detail : Nat) (idle : BitVec 10) (lp : BitVec 2) (src : Bool) (count : BitVec 17) (end20 : BitVec 20)
     (a b : BitVec 5) (cnd : Cnd) (ofs : BitVec 27),
     let st := s.cur.st
     let x := s.ctx s.me
     (x.tries st = true →
       ((x.strm st).last < s.cyc s.me → (x.strm st).notBefore ≤ s.cyc s.me → exec (.illegalWord detail) s =
         .next (s.raise s.me st { cause := .illegal, code := BitVec.ofNat 16 detail })) ∧
         (s.cyc s.me ≤ (x.strm st).last → exec (.illegalWord detail) s = .next (s.hold st .issue))) ∧
       (x.frame.handler = true → ∀ i ∈ [Instr.allNop idle, .allStart idle, .allEnd idle, .allLoop idle lp src count end20,
           .allBr idle a b cnd ofs, .allRealign idle, .allBrk idle], exec i s = exec (.illegalWord 7) s))

/-- The loads of C (R86, R87, R89, R97): from the core's own scratchpad at issue + 3 with occupancy 4; from a sibling's
scratchpad, from device memory or a peer, an entry of the class FIFO whose reply C awaits; a tile image, a ring word, an
engine's status, or zero from a write-only word, at once; a page without a translation is walked first. A load of an engine's
RESULT (R97): the oldest record is popped into D; with no record and no command it is 0; with a command it waits for the record.
That the own scratchpad is checked at the issue is the model's reading (log 21). -/
def Obligations.CLoads : Prop :=
  (∀ (s : State) (h : Hdr) (d a b : BitVec 5) (cls : BitVec 4) (scp : Scp) (sz : Sz) (sx : Bool) (ofs : BitVec 20) (va : Nat)
     (i : Instr),
     s.ready .c h →
     (i = .cLd h d a cls scp sz sx ofs ∧ va = (s.reg a + ofs.signExtend 64).toNat ∨
       i = .cLdx h d a b cls scp sx sz ∧ va = (s.reg a + s.reg b).toNat) →
     let n := szBytes sz
     let r := (s.ctx s.me).regOf d
     let wait := fun (p : Place) (from_ : Nat) (e : Option Lease) =>
       ((s.modCtx s.me (fun x => x.post (s.newAcc s.me .c va p (.load sz sx r) cls scp from_ e none))).waits .c h 24
         (.reply (s.ctx s.me).nextId none none (some r))).useLeases s.me (if e.isSome then [va] else [])
     (∀ off, s.cTarget va n true false = .spad s.me off → (s.core s.me).spadSound off n = true →
       exec i s = .next ((s.done .c h 4 24 id).direct s.me
         (s.newAcc s.me .c va (.spad s.me off) (.load sz sx r) cls scp 3 none none))) ∧
       (∀ core off, s.cTarget va n true false = .spad core off → core ≠ s.me → exec i s = .next (wait (.spad core off) 9 none)) ∧
       (∀ e p, s.cTarget va n true false = .ext e p → exec i s = .next (wait p 1 (some e))) ∧
       (∀ off, s.cTarget va n true false = .tiles off →
         exec i s = .next (s.done .c h 4 24 (fun x => x.putReg r (extend sz sx (x.eng.imageBytes off n))))) ∧
       (∀ off, s.cTarget va n true false = .rings off →
         exec i s = .next (s.done .c h 4 24 (fun x => x.putReg r (s.ringLoad s.me off)))) ∧
       (∀ eng off, s.cTarget va n true false = .cmd eng off → off / 8 = 6 →
         exec i s = .next (s.done .c h 4 24 (fun x => x.putReg r (s.status s.me eng)))) ∧
       (∀ eng off, s.cTarget va n true false = .cmd eng off → off / 8 ≠ 5 → off / 8 ≠ 6 →
         exec i s = .next (s.done .c h 4 24 (fun x => x.putReg r 0))) ∧
       (s.cTarget va n true false = .walk →
         exec i s = .next (((s.waits .c h 24 (.walk va true false)).dropLease s.me va).askWalk s.me va
           { core := s.me, why := .head .c, va := va, lane := none, r := true, w := false }))) ∧
  (∀ (s : State) (h : Hdr) (d a : BitVec 5) (cls : BitVec 4) (scp : Scp) (ofs : BitVec 20) (eng : Eng) (off : Nat),
     s.ready .c h → s.cTarget (s.reg a + ofs.signExtend 64).toNat 8 true false = .cmd eng off → off / 8 = 5 →
     let i := Instr.cLd h d a cls scp .d false ofs
     let r := (s.ctx s.me).regOf d
     (∀ w ws, (s.ctx s.me).recs eng = w :: ws →
       exec i s = .next (s.resultPop s.me eng w (s.done .c h 4 24 (fun x => (x.popRec eng).putReg r w)))) ∧
       ((s.ctx s.me).recs eng = [] → (s.ctx s.me).liveOf eng = [] → exec i s = .next (s.done .c h 4 24 (fun x => x.putReg r 0))) ∧
       ((s.ctx s.me).recs eng = [] → (s.ctx s.me).liveOf eng ≠ [] → exec i s = .next (s.waits .c h 24 (.result eng r))))

/-- The stores of C (R33, R86, R87, R89, R96, R104, R106): into the core's own scratchpad at issue + 2, into a sibling's or to
device memory through the class FIFO, into an engine's command word or the ring table, with occupancy 1; a store to RESULT,
STATUS or +0x38 is ignored, one to a tile image takes PERM, a page without a translation is walked first, and C waits for the
reply of a store to a page marked D in trap mode (log 63). The bytes are the low bytes of D, lowest first (R5). No byte of
memory changes before the access performs. A store to the ring table (R104, R106): BASE, and SLOTS with SLOTSIZE, whose store
empties the ring, are written while CLAIM = HEAD; with another CLAIM, with SLOTS above 64 or with a SLOTSIZE that is no multiple
of 32 the store takes RINGERR; one to a ring that the program does not have takes SYNCLIMIT; the other doublewords, and what
lies above the rings, ignore it. A GO store (R76, R77, R96): with every check passed the command is pushed as its words stand,
at once when the accesses it must follow have performed and there is room, otherwise when they have; a check that fails is taken
as its fault. That C waits for the reply of a store to a page marked D in trap mode is the model's reading (log 63). -/
def Obligations.CStores : Prop :=
  (∀ (s : State) (h : Hdr) (d a b : BitVec 5) (cls : BitVec 4) (scp : Scp) (sz : Sz) (ofs : BitVec 20) (va : Nat) (i : Instr),
     s.ready .c h →
     (i = .cSt h d a cls scp sz ofs ∧ va = (s.reg a + ofs.signExtend 64).toNat ∨
       i = .cStx h d a b cls scp sz ∧ va = (s.reg a + s.reg b).toNat) →
     let n := szBytes sz
     let k : AccKind := .store (leBytes n (s.reg d).toNat)
     (∀ off, s.cTarget va n false true = .spad s.me off →
       exec i s = .next ((s.done .c h 1 24 id).direct s.me (s.newAcc s.me .c va (.spad s.me off) k cls scp 2 none none))) ∧
       (∀ core off, s.cTarget va n false true = .spad core off → core ≠ s.me →
         exec i s = .next ((s.done .c h 1 24 id).modCtx s.me
           (fun x => x.post (s.newAcc s.me .c va (.spad core off) k cls scp 8 none none)))) ∧
       (∀ e p, s.cTarget va n false true = .ext e p → ¬ (e.d = true ∧ (s.ctx s.me).launch.raceMode = 2) →
         exec i s = .next (((s.done .c h 1 24 id).modCtx s.me
           (fun x => x.post (s.newAcc s.me .c va p k cls scp 1 (some e) none))).useLeases s.me [va])) ∧
       (∀ eng off, s.cTarget va n false true = .cmd eng off → off / 8 < 4 →
         exec i s = .next (s.done .c h 1 16 (fun x =>
           { x with eng := { x.eng with cmdw := x.eng.cmdw.set (4 * engNo eng + off / 8) (s.reg d) } }))) ∧
       (∀ eng off, s.cTarget va n false true = .cmd eng off → 5 ≤ off / 8 → exec i s = .next (s.done .c h 1 16 id)) ∧
       (∀ off, s.cTarget va n false true = .rings off →
         (∀ t, s.ringStore s.me off (s.reg d) = .inr t → exec i s = .next (t.done .c h 1 24 id)) ∧
           (∀ t, s.ringStore s.me off (s.reg d) = .inl t → exec i s = .next (s.raise s.me .c { t with va := BitVec.ofNat 64 va }))) ∧
       (∀ off, va % n = 0 → resolve s.me va n = .win (.tiles off) →
         exec i s = .next (s.raise s.me .c { cause := .perm, va := BitVec.ofNat 64 va })) ∧
       (s.cTarget va n false true = .walk →
         exec i s = .next (((s.waits .c h 24 (.walk va false true)).dropLease s.me va).askWalk s.me va
           { core := s.me, why := .head .c, va := va, lane := none, r := false, w := true })) ∧
       (∀ e p, s.cTarget va n false true = .ext e p → e.d = true → (s.ctx s.me).launch.raceMode = 2 →
         exec i s = .next (((s.modCtx s.me (fun x => x.post (s.newAcc s.me .c va p k cls scp 1 (some e) none))).waits .c h 24
           (.reply (s.ctx s.me).nextId none none none)).useLeases s.me [va])) ∧
       (∀ t, exec i s = .next t → (∀ off, s.cTarget va n false true ≠ .rings off) →
         (∀ eng off, s.cTarget va n false true ≠ .cmd eng off) → s.sameBytes t)) ∧
  (∀ (s : State) (core off n : Nat) (v : Word),
     let p := (s.ctx core).launch.part
     let r := (s.part p).ring n
     let put := fun (r' : Ring) => s.modPart p (fun p => { p with rings := p.rings.put n r' })
     (0x400 ≤ off → s.ringStore core off v = .inr s) ∧
       (off < 0x400 → (s.ctx core).ringNo (off / 64) = none → s.ringStore core off v = .inl { cause := .synclimit }) ∧
       (off < 0x400 → (s.ctx core).ringNo (off / 64) = some n →
         (off / 8 % 8 = 0 → r.claim = r.head → s.ringStore core off v = .inr (put { r with base := v.setWidth 56 })) ∧
           (off / 8 % 8 = 0 → r.claim ≠ r.head → s.ringStore core off v = .inl { cause := .ringerr }) ∧
           (off / 8 % 8 = 1 → r.claim = r.head → bits v 20 7 ≤ 64 → bits v 0 20 % 32 = 0 → s.ringStore core off v = .inr (put
             { r with slots := BitVec.ofNat 7 (bits v 20 7), slotsize := BitVec.ofNat 20 (bits v 0 20), claim := 0, tail := 0, take := 0,
                      head := 0, pub := 0, rel := 0, pubPairs := [], relPairs := [] })) ∧
           (off / 8 % 8 = 1 → r.claim ≠ r.head ∨ 64 < bits v 20 7 ∨ bits v 0 20 % 32 ≠ 0 →
             s.ringStore core off v = .inl { cause := .ringerr }) ∧
           (2 ≤ off / 8 % 8 → s.ringStore core off v = .inr s))) ∧
  (∀ (s : State) (h : Hdr) (d a b : BitVec 5) (cls : BitVec 4) (scp : Scp) (ofs : BitVec 20) (eng : Eng) (off va : Nat) (i : Instr),
     s.ready .c h →
     (i = .cSt h d a cls scp .d ofs ∧ va = (s.reg a + ofs.signExtend 64).toNat ∨
       i = .cStx h d a b cls scp .d ∧ va = (s.reg a + s.reg b).toNat) →
     s.cTarget va 8 false true = .cmd eng off → off / 8 = 4 →
     let k := s.goCmd s.me eng
     let ids := (s.core s.me).maskIds k.rmask
     (s.goFault k va = none → s.mayPush s.me eng ids = true → exec i s = .next ((s.done .c h 1 16 id).push k)) ∧
       (s.goFault k va = none → s.mayPush s.me eng ids = false → exec i s = .next (s.waits .c h 16 (.go k k.rmask ids))) ∧
       (∀ t, s.goFault k va = some t → exec i s = .next (s.raise s.me .c t)))

/-- The atomics of C (R90 to R92, R316): on the own scratchpad at issue + 5 with occupancy 6; on a sibling's or on device memory
through the class FIFO, with at most 64 outstanding; at a command window, the ring table, a tile image, and a window offset that
holds nothing, PERM is taken. The new value of an atomic (R90): `old` and `b` of the access's width, 64 or the low 32 bits;
`add`, `and`, `or`, `xor`, `swap`, and the signed and unsigned minimum and maximum. What an access writes and answers (R90,
R91): an `amo` writes that value and answers the old one; a `cas` writes E when the old value is B, and nothing when it is not,
and answers the old value. That the own scratchpad is checked at the issue is the model's reading (log 21), and PERM at a window
offset that holds nothing is its choice (log 82). -/
def Obligations.CAtomics : Prop :=
  (∀ (s : State) (h : Hdr) (d a b e : BitVec 5) (cls : BitVec 4) (scp : Scp) (w32 : Bool) (op : AmoOp) (i : Instr) (k : AccKind),
     s.ready .c h →
     (i = .cAmo h d a b cls scp w32 op ∧ k = .amo w32 op (s.reg b) ((s.ctx s.me).regOf d) ∨
       i = .cCas h d a b e cls scp w32 ∧ k = .cas w32 (s.reg b) (s.reg e) ((s.ctx s.me).regOf d)) →
     let n := if w32 then 4 else 8
     let va := (s.reg a).toNat
     let wait := fun (p : Place) (from_ : Nat) (l : Option Lease) =>
       ((s.modCtx s.me (fun x => x.post (s.newAcc s.me .c va p k cls scp from_ l none))).waits .c h 24
         (.reply (s.ctx s.me).nextId none none (some ((s.ctx s.me).regOf d)))).useLeases s.me (if l.isSome then [va] else [])
     (∀ off, s.cTarget va n true true = .spad s.me off → (s.core s.me).spadSound off n = true →
       exec i s = .next ((s.done .c h 6 24 id).direct s.me (s.newAcc s.me .c va (.spad s.me off) k cls scp 5 none none))) ∧
       (∀ core off, s.cTarget va n true true = .spad core off → core ≠ s.me → exec i s = .next (wait (.spad core off) 11 none)) ∧
       (∀ l p, s.cTarget va n true true = .ext l p → (s.core s.me).atomsOut < 64 → exec i s = .next (wait p 1 (some l))) ∧
       (∀ l p, s.cTarget va n true true = .ext l p → 64 ≤ (s.core s.me).atomsOut → exec i s = .next (s.hold .c .busy)) ∧
       (va % n = 0 → (resolve s.me va n = .bad ∨ (∃ off, resolve s.me va n = .win (.tiles off)) ∨
           n = 8 ∧ ((∃ eng off, resolve s.me va n = .win (.cmd eng off)) ∨ ∃ off, resolve s.me va n = .win (.rings off))) →
         exec i s = .next (s.raise s.me .c { cause := .perm, va := BitVec.ofNat 64 va }))) ∧
  (∀ (old b : Word),
     (let o : Lane := old.setWidth 32
      let c : Lane := b.setWidth 32
      let lo := fun (op : AmoOp) => ((amoNew true op old b).setWidth 32 : Lane)
      lo .add = o + c ∧ lo .and = o &&& c ∧ lo .or = o ||| c ∧ lo .xor = o ^^^ c ∧ lo .swap = c ∧
        lo .min = (if c.toInt < o.toInt then c else o) ∧ lo .max = (if o.toInt < c.toInt then c else o) ∧
        lo .minu = (if c.toNat < o.toNat then c else o) ∧ lo .maxu = (if o.toNat < c.toNat then c else o)) ∧
     amoNew false .add old b = old + b ∧ amoNew false .and old b = old &&& b ∧ amoNew false .or old b = old ||| b ∧
       amoNew false .xor old b = old ^^^ b ∧ amoNew false .swap old b = b ∧
       amoNew false .min old b = (if b.toInt < old.toInt then b else old) ∧
       amoNew false .max old b = (if old.toInt < b.toInt then b else old) ∧
       amoNew false .minu old b = (if b.toNat < old.toNat then b else old) ∧
       amoNew false .maxu old b = (if old.toNat < b.toNat then b else old) ∧
       ∀ (op : AmoOp) (d : Reg) (e : Word),
         let o : Word := (old.setWidth 32).setWidth 64
         (AccKind.amo false op b d).update (leBytes 8 old.toNat) = some (some (leBytes 8 (amoNew false op old b).toNat), old) ∧
           (AccKind.amo true op b d).update (leBytes 4 old.toNat) = some (some (leBytes 4 (amoNew true op o b).toNat), o) ∧
           (old = b → (AccKind.cas false b e d).update (leBytes 8 old.toNat) = some (some (leBytes 8 e.toNat), old)) ∧
           (old ≠ b → (AccKind.cas false b e d).update (leBytes 8 old.toNat) = some (none, old)) ∧
           ((old.setWidth 32 : Lane) = b.setWidth 32 →
             (AccKind.cas true b e d).update (leBytes 4 old.toNat) = some (some (leBytes 4 e.toNat), o)) ∧
           ((old.setWidth 32 : Lane) ≠ b.setWidth 32 → (AccKind.cas true b e d).update (leBytes 4 old.toNat) = some (none, o)))

/-- Alignment (R89): a C access whose address is not a multiple of its size takes ALIGN, whatever else is wrong with it, and
accesses nothing. Privilege (R113, R308, R116): outside handler mode a read or write of a fault-frame register, a write of
SYNCWIN, SLOTSHARE, PWRSET, ENERGY or COREID, and `eret`, take PERM and change nothing else; SLOTSHARE and COREID take PERM in
handler mode too. The lease rule of the power instructions (R34, R35, R141): a `wake` or `sleep` of MAQ or WBB domains by a core
that does not hold its cluster's array lease takes NOLEASE, in each stream, and changes no domain. That ALIGN and PERM come
before the other checks is the model's reading (log 19). -/
def Obligations.CTurnedAway : Prop :=
  (∀ (s : State) (h : Hdr) (d a b e : BitVec 5) (cls : BitVec 4) (scp : Scp) (sz : Sz) (sx w32 : Bool) (ofs : BitVec 20)
     (op : AmoOp),
     (s.ctx s.me).tries .c = true → s.front .c h = none →
     let fault := fun (va : Nat) => Host.Outcome.next (s.raise s.me .c { cause := .align, va := BitVec.ofNat 64 va })
     let va := (s.reg a + ofs.signExtend 64).toNat
     let vx := (s.reg a + s.reg b).toNat
     let vr := (s.reg a).toNat
     (va % szBytes sz ≠ 0 → exec (.cLd h d a cls scp sz sx ofs) s = fault va ∧ exec (.cSt h d a cls scp sz ofs) s = fault va) ∧
       (vx % szBytes sz ≠ 0 → exec (.cLdx h d a b cls scp sx sz) s = fault vx ∧ exec (.cStx h d a b cls scp sz) s = fault vx) ∧
       (vr % (if w32 then 4 else 8) ≠ 0 →
         exec (.cAmo h d a b cls scp w32 op) s = fault vr ∧ exec (.cCas h d a b e cls scp w32) s = fault vr)) ∧
  (∀ (s : State) (h : Hdr) (d a : BitVec 5) (n : BitVec 16),
     (s.ctx s.me).tries .c = true → s.front .c h = none →
     let perm := Host.Outcome.next (s.raise s.me .c { cause := .perm })
     ((s.ctx s.me).frame.handler = false →
       (9 ≤ n.toNat → exec (.cMfsr h d n) s = perm) ∧ (4 ≤ n.toNat → exec (.cMtsr h a n) s = perm) ∧ exec (.cEret h) s = perm) ∧
       (n.toNat = 5 ∨ n.toNat = 8 → exec (.cMtsr h a n) s = perm)) ∧
  (∀ (s : State) (h : Hdr) (dt : DomTy) (ret : Bool) (mask : BitVec 32),
     (dt = .maq ∨ dt = .wbb) → mask ≠ 0 → (s.cluster (clusterOf s.me)).holder ≠ some s.me →
     let at_ := fun (st : Strm) => (s.ctx s.me).tries st = true ∧ s.front st h = none
     let none_ := fun (st : Strm) => Host.Outcome.next (σ := State) (φ := Fault) (ρ := Refusal)
       (s.raise s.me st { cause := .nolease })
     (at_ .c → exec (.cWake h dt mask) s = none_ .c ∧ exec (.cSleep h dt ret mask) s = none_ .c) ∧
       (at_ .l → exec (.lWake h dt mask) s = none_ .l ∧ exec (.lSleep h dt ret mask) s = none_ .l) ∧
       (at_ .v → exec (.vWake h dt mask) s = none_ .v ∧ exec (.vSleep h dt ret mask) s = none_ .v) ∧
       (at_ .s → exec (.sWake h dt mask) s = none_ .s ∧ exec (.sSleep h dt ret mask) s = none_ .s))

/-- `waita` (R94): when the watched scratchpad word meets the condition at issue, D is the word, zero-extended, and C goes on;
otherwise C waits. An address that is no multiple of 4 takes ALIGN, and one below 2^56 that is no scratchpad takes PERM (at an
offset that holds nothing the model's choice: log 82); a sibling that is fenced takes WINLOST and a bank that sleeps SLEEPING.
`fence` (R93, R238, R243): with no access of the masked classes in its scope it is over at once, a recorded failure that it
covers being taken; otherwise C waits for those accesses. What `waita` takes at a window offset that holds nothing is the
model's choice (log 82). -/
def Obligations.CWaitaAndFence : Prop :=
  (∀ (s : State) (h : Hdr) (d a b : BitVec 5) (slot : BitVec 3) (cnd : ICnd), s.ready .c h →
     let va := (s.reg a).toNat
     let i := Instr.cWaita h d a b slot cnd
     let fault := fun (c : Cause) => Host.Outcome.next (σ := State) (φ := Fault) (ρ := Refusal)
       (s.raise s.me .c { cause := c, va := BitVec.ofNat 64 va })
     (va % 4 ≠ 0 → exec i s = fault .align) ∧
       (va % 4 = 0 → va < 2 ^ 56 → (∀ core off, resolve s.me va 4 ≠ .win (.spad core off)) → exec i s = fault .perm) ∧
       ∀ core off, va % 4 = 0 → resolve s.me va 4 = .win (.spad core off) →
         (∀ t, s.spadTarget s.me core off 4 va = .bad t →
           (t.cause = .winlost ∨ t.cause = .sleeping) ∧ exec i s = .next (s.raise s.me .c t)) ∧
         (s.spadTarget s.me core off 4 va = .spad core off →
           let w := (s.core core).spad.lane off
           (icndHolds cnd w ((s.reg b).setWidth 32) = true →
             exec i s = .next ((s.acquire s.me (s.flagPair core off)).done .c h 1 24 (fun x => x.putReg (x.regOf d) (w.setWidth 64)))) ∧
             (icndHolds cnd w ((s.reg b).setWidth 32) = false →
               exec i s = .next (s.waits .c h 24 (.waita core off slot cnd ((s.reg b).setWidth 32) ((s.ctx s.me).regOf d) none))))) ∧
  (∀ (s : State) (h : Hdr) (scp : Scp) (mask : BitVec 16), s.ready .c h →
     let ids := s.fenceIds s.me scp mask
     (ids = [] → (s.ctx s.me).failOf scp mask = none → exec (.cFence h scp mask) s = .next (s.done .c h 1 8 id)) ∧
       (∀ f, ids = [] → (s.ctx s.me).failOf scp mask = some f → (s.ctx s.me).mode = .run →
         exec (.cFence h scp mask) s = .next
           ((s.modCtx s.me (fun x => { x.modStrm .c Stream.cut with fails := x.fails.erase f })).raise s.me .c f.2.2)) ∧
       (ids ≠ [] → exec (.cFence h scp mask) s = .next (s.waits .c h 8 (.fence scp mask ids (s.ctx s.me).nextId))) ∧
       (mask = 0 → exec (.cFence h scp mask) s = .next (s.done .c h 1 8 id)))

/-- The ring operations (R105, R106): each goes to its ring's home, at once when it releases nothing, and C waits for the
answer; a ring that the program does not have takes SYNCLIMIT, and an operation that the ring refuses takes RINGERR. `bar`
(R107, R80): the arrival goes to the barrier's home and C waits; an arrival that a stop kept joins its generation again, or is
over when that generation has completed. That RINGERR is checked at the issue too is the model's reading (log 16). -/
def Obligations.RingsAndBarriers : Prop :=
  (∀ (s : State) (h : Hdr) (d a : BitVec 5) (idx : BitVec 6) (scp : Scp) (mask : BitVec 16) (i : Instr) (op : SyncOp)
     (m : BitVec 16) (slot : Nat) (r : Option Reg),
     (i = .cRclaim h d idx scp ∧ op = .claim ∧ m = 0 ∧ slot = 0 ∧ r = some ((s.ctx s.me).regOf d) ∨
       i = .cRwaitf h d idx scp ∧ op = .waitf ∧ m = 0 ∧ slot = 0 ∧ r = some ((s.ctx s.me).regOf d) ∨
       i = .cRwaite h idx scp ∧ op = .waite ∧ m = 0 ∧ slot = 0 ∧ r = none ∨
       i = .cRpub h a idx scp mask ∧ op = .pub ∧ m = mask ∧ slot = (s.reg a).toNat ∧ r = none ∨
       i = .cRrel h a idx scp mask ∧ op = .rel ∧ m = mask ∧ slot = (s.reg a).toNat ∧ r = none) →
     let p := (s.ctx s.me).launch.part
     let ids := s.fenceIds s.me scp m
     (∀ n, (s.ctx s.me).ringNo idx.toNat = some n → ((s.part p).ring n).refuses op slot = false → s.ready .c h →
       (ids = [] → exec i s = .next
         ((s.waits .c h 8 (.sync op n scp m ids true slot none r noGen)).arriveHome p n { core := s.me, op := op, slot := slot })) ∧
       (ids ≠ [] → exec i s = .next (s.waits .c h 8 (.sync op n scp m ids false slot none r noGen)))) ∧
       (∀ n, (s.ctx s.me).ringNo idx.toNat = some n → ((s.part p).ring n).refuses op slot = true →
         (s.ctx s.me).tries .c = true → s.front .c h = none → exec i s = .next (s.raise s.me .c { cause := .ringerr })) ∧
       ((s.ctx s.me).ringNo idx.toNat = none → (s.ctx s.me).tries .c = true → s.front .c h = none →
         exec i s = .next (s.raise s.me .c { cause := .synclimit }))) ∧
  (∀ (s : State) (h : Hdr) (d : BitVec 5) (idx : BitVec 6) (scp : Scp) (mask : BitVec 16) (n : Nat), s.ready .c h →
     (s.ctx s.me).barNo idx.toNat = some n →
     let r := (s.ctx s.me).regOf d
     let p := (s.ctx s.me).launch.part
     let ids := s.fenceIds s.me scp mask
     ((s.ctx s.me).c.kept = none → ids = [] → exec (.cBar h d idx scp mask) s = .next
       ((s.waits .c h 8 (.sync .bar n scp mask ids true 0 none (some r) noGen)).arriveHome p n
         { core := s.me, op := .bar, slot := 0 })) ∧
       (∀ m g, (s.ctx s.me).c.kept = some (m, g) → ((s.part p).barrier n).gen.toNat = g →
         exec (.cBar h d idx scp mask) s = .next (s.waits .c h 8 (.sync .bar n scp mask [] true 0 none (some r) g))) ∧
       (∀ m g, (s.ctx s.me).c.kept = some (m, g) → ((s.part p).barrier n).gen.toNat ≠ g →
         exec (.cBar h d idx scp mask) s = .next (s.done .c h 1 8 (fun x => x.putReg r (BitVec.ofNat 64 g)))))

/-- The array lease (R98, R99, R195): `lease` by the holder sets its count left and D is the time of its grant; by another core
it waits; `ulease` ends the core's lease at once, commands already pushed still run, and without a lease it has no effect. The
words of `ulease` are those with OP 0x61 and a body of zeros, and another body is ILLEGAL with detail 3. -/
def Obligations.ArrayLease : Prop :=
  (∀ (s : State) (h : Hdr) (d : BitVec 5) (n1 : BitVec 6), s.ready .c h →
     let cl := clusterOf s.me
     let c := s.cluster cl
     (c.holder = some s.me → exec (.cLease h d n1) s = .next ((s.cAfter h 1 d (BitVec.ofNat 64 c.granted)).modCluster cl
       (fun c => { c with left := n1.toNat + 1 }))) ∧
       (c.holder ≠ some s.me → exec (.cLease h d n1) s = .next (s.waits .c h 8 (.lease (s.cyc s.me) (n1.toNat + 1)
         ((s.ctx s.me).regOf d)))) ∧
       ∃ t, exec (.cUlease h) s = .next t ∧
         (c.holder = some s.me → t = (s.done .c h 1 8 id).modCluster cl
           (fun c => { c with holder := none, left := 0, freeFrom := c.cyc + 1 })) ∧
         (c.holder ≠ some s.me → t = s.done .c h 1 8 id)) ∧
  (∀ w : Word, bits w 61 3 = 0 → bits w 40 7 = 0x61 →
     (bits w 0 40 = 0 → ∃ h, decode w = .ok (.cUlease h)) ∧ (bits w 0 40 ≠ 0 → decode w = .error 3))

/-- Tiles and formats (R29, R30, R108 to R110): `tcfg` writes a tile-table entry with VALID set, when the value passes its
checks and no command uses the tile; `trel` of a tile in no use clears VALID and TAG, and does nothing to an entry whose VALID
is 0; `ftset` writes a format entry; a tile in use takes TILEBUSY, a bad value ILLEGAL with detail 4. What `trel` leaves of a
tile image (R30, R109): VALID (bit 125) and TAG (bit 123) are 0 and the other bits stay; an image whose VALID is 0 stays as it
is. Batches (R100, R101, R172): `cbatch` closes the open batch of an engine and D is its number; `waitb` of a batch in which no
command is left removes its records and goes on, of the open batch closes it first, and of a batch with commands left waits; a
number 32,768 or more behind names no batch. Which records `waitb` removes is the model's reading (log 17). -/
def Obligations.TilesFormatsBatches : Prop :=
  (∀ (s : State) (h : Hdr) (a b f : BitVec 5) (idx : BitVec 6), s.ready .c h →
     let x := s.ctx s.me
     let v := tileValue (s.reg a) (s.reg b)
     ((tileOf v).ok = true → x.eng.inUse idx.toNat = false → exec (.cTcfg h a b idx) s = .next (s.done .c h 1 8 (fun y =>
         { y with eng := { y.eng with tiles := y.eng.tiles.set idx.toNat v } }))) ∧
       ((tileOf v).ok = false →
         exec (.cTcfg h a b idx) s = .next (s.raise s.me .c { cause := .illegal, code := 4 })) ∧
       ((tileOf v).ok = true → x.eng.inUse idx.toNat = true →
         exec (.cTcfg h a b idx) s = .next (s.raise s.me .c { cause := .tilebusy })) ∧
       (x.eng.inUse idx.toNat = false → exec (.cTrel h idx) s = .next (s.done .c h 1 8 (fun y =>
         { y with eng := { y.eng with tiles := y.eng.tiles.set idx.toNat (releasedImage (y.eng.tiles.getD idx.toNat 0)) } }))) ∧
       (x.eng.inUse idx.toNat = true → exec (.cTrel h idx) s = .next (s.raise s.me .c { cause := .tilebusy })) ∧
       exec (.cFtset h a f) s = .next (s.done .c h 1 8 (fun y =>
         { y with eng := { y.eng with fmts := y.eng.fmts.set f.toNat (s.reg a) } }))) ∧
  (∀ v : TileImage,
     (bitAt v 125 = false → releasedImage v = v) ∧
       (bitAt v 125 = true → releasedImage v = v &&& ~~~(BitVec.ofNat 128 (2 ^ 125 + 2 ^ 123)))) ∧
  (∀ (s : State) (h : Hdr) (d a : BitVec 5) (eng : Eng), s.ready .c h →
     let x := s.ctx s.me
     let n := bits (s.reg a) 0 16
     let behind := (x.eng.openBatch.getD (engNo eng) 0 + 65536 - n) % 65536
     let close := fun (y : Ctx) => if behind = 0 then y.closeBatch eng else y
     exec (.cCbatch h d eng) s = .next (s.done .c h 1 8 (fun y =>
       (y.closeBatch eng).setReg d (BitVec.ofNat 64 (y.eng.openBatch.getD (engNo eng) 0)))) ∧
       (32768 ≤ behind → exec (.cWaitb h a eng) s = .next (s.done .c h 1 8 id)) ∧
       (behind < 32768 → x.batchDone eng n = true → x.batchError eng n = none →
         exec (.cWaitb h a eng) s = .next (s.done .c h 1 8 (fun y => (close y).dropBatch eng n))) ∧
       (behind < 32768 → x.batchDone eng n = false →
         exec (.cWaitb h a eng) s = .next ((s.waits .c h 8 (.waitb eng n)).modCtx s.me close)))

/-- Values for other streams (R111, R112): `mtk` and `mtp` send A to K or P in two cycles; `recv` pops the oldest value of the
send queue into D, and waits while there is none. `iter` (R118, R232): the request joins its region's walker, and is answered no
earlier than issue + 12 and 4 cycles for each request of the partition ahead of it. `lpf` (R102): a hint: it issues, and writes
no register and no byte of memory. While a walker is free it starts the walks of the pages of its range that are not held, from
its first page on: of the first page, and of the one after it. A range of no byte starts none. -/
def Obligations.ValuesIterationsPrefetch : Prop :=
  (∀ (s : State) (h : Hdr) (d a : BitVec 5) (k : BitVec 4) (inS : Bool) (p : BitVec 4), s.ready .c h →
     exec (.cMtk h a k) s = .next (s.done .c h 1 8 (fun x => x.inFlight .c 0 (s.cyc s.me) 2 (.kreg k ((s.reg a).setWidth 32)))) ∧
       exec (.cMtp h a inS p) s = .next (s.done .c h 1 8 (fun x => x.inFlight .c 0 (s.cyc s.me) 2 (.ptr inS p (s.reg a)))) ∧
       (∀ v, (s.ctx s.me).sendHead = some v → exec (.cRecv h d) s = .next (s.done .c h 1 8 (fun x =>
         { x with send := x.send.tail, regs := x.regs.set (x.regOf d) v }))) ∧
       ((s.ctx s.me).sendHead = none → exec (.cRecv h d) s = .next (s.waits .c h 8 (.recv ((s.ctx s.me).regOf d))))) ∧
  (∀ (s : State) (h : Hdr), s.ready .c h →
     let l := (s.ctx s.me).launch
     exec (.cIter h) s = .next ((s.waits .c h 8 (.iter (s.cyc s.me + 12 + 4 * s.itersOf l.part))).modRegion l.part l.region
       (fun r => { r with iterQ := r.iterQ ++ [s.me] }))) ∧
  (∀ (s : State) (h : Hdr) (a b : BitVec 5), s.ready .c h →
     let cl := clusterOf s.me
     let part := (s.ctx s.me).launch.part
     let va := (s.reg a).toNat
     let stop := va + (s.reg b).toNat
     let next := (va / 2 ^ walkPage va + 1) * 2 ^ walkPage va
     let open_ := fun (z : Nat) => z < stop ∧ z < windowBase ∧ s.xlateCheck s.me part z = none ∧
       leaseFind (s.core s.me).leases z (s.timeAt cl) = none
     ∃ t, exec (.cLpf h a b) s = .next t ∧ t.ctx s.me = (s.done .c h 1 8 id).ctx s.me ∧ s.sameBytes t ∧
       (s.reg b = 0 → t = s.done .c h 1 8 id) ∧
       let walks := fun (z : Nat) => ∃ k ∈ (t.cluster cl).walks, k.part = part ∧ k.va / 2 ^ walkPage z = z / 2 ^ walkPage z
       (open_ va → (s.cluster cl).walks.length < 16 → walks va) ∧
         (open_ va → open_ next → (s.cluster cl).walks.length < 15 → walks next))

/-- The system registers (R14, R113, R308, R375, R379): the nine registers read as they stand, in every mode, a write of WINDOW
below 16 stores 16, and SRSEED, SRSEQ and FTBASE take their low bits; in handler mode the frame registers read as they stand and
are written but for their reserved bits, FSNAP takes PERM, FWD reads as 0, and SYNCWIN, PWRSET (from `eret` on) and ENERGY are
written; `rdtb` gives D the time base of the core's router copy, and `mark` leaves a record to be made when MEN is set, and
otherwise nothing (R117). FWD (R308, R313): in handler mode a write of 1 forwards the core's frame to Sapwood, and a write of
another value does nothing. That PWRSET reads as it stands in handler mode, and that a write there waits for `eret`, is the
model's reading (log 25). -/
def Obligations.SystemRegisters : Prop :=
  (∀ (s : State) (h : Hdr) (d a : BitVec 5) (n code : BitVec 16), s.ready .c h →
     let x := s.ctx s.me
     let A := s.reg a
     let get := fun (k : BitVec 16) (v : Word) => exec (.cMfsr h d k) s = .next (s.cAfter h 1 d v)
     let put := fun (k : BitVec 16) (f : Ctx → Ctx) => exec (.cMtsr h a k) s = .next (s.done .c h 1 8 f)
     (get 0 (x.sys.window.setWidth 64) ∧ get 1 (x.sys.srseed.setWidth 64) ∧ get 2 (x.sys.srseq.setWidth 64) ∧
         get 3 (x.sys.ftbase.setWidth 64) ∧ get 4 (x.sys.syncwin.setWidth 64) ∧ get 5 (x.sys.slotshare.setWidth 64) ∧
         get 6 (x.sys.pwrset.setWidth 64) ∧ get 7 x.sys.energyWord ∧ get 8 (BitVec.ofNat 64 s.me)) ∧
       (put 0 (fun y => { y with sys := { y.sys with
           window := if bits A 0 12 < 16 then 16 else BitVec.ofNat 12 (bits A 0 12) } }) ∧
         put 1 (fun y => { y with sys := { y.sys with srseed := A.setWidth 32 } }) ∧
         put 2 (fun y => { y with sys := { y.sys with srseq := A.setWidth 32 } }) ∧
         put 3 (fun y => { y with sys := { y.sys with ftbase := A.setWidth 5 } })) ∧
       (∀ v, x.sysReg s.me n.toNat = some v → get n v) ∧
       (∀ y, x.setSysReg n.toNat (s.reg a) = some y → n.toNat ≠ 0x10F →
         exec (.cMtsr h a n) s = .next (s.done .c h 1 8 (fun _ => y))) ∧
       (x.frame.handler = true →
         let frame := fun (k : BitVec 16) (f : Frame → Frame) => put k (fun y => { y with frame := f y.frame })
         (put 4 (fun y => { y with sys := { y.sys with syncwin := A.setWidth 32 } }) ∧
           put 6 (fun y => { y with sys := { y.sys with
             pwrNew := some (BitVec.ofNat 16 (bits A 4 12 * 16 + bits A 2 1 * 4 + (if bits A 0 2 = 1 then 1 else 0))) } }) ∧
           put 7 (fun y => { y with sys := { y.sys with energySat := bitAt A 63, energy := A.setWidth 48 } })) ∧
           (frame 0x100 (fun f => { f with fstat := A &&& 0xFFFFFF000000037F }) ∧
             (∀ i : Nat, i < 4 → frame (BitVec.ofNat 16 (0x101 + i)) (fun f => { f with heads := f.heads.set i (A.setWidth 15) })) ∧
             frame 0x105 (fun f => { f with fva := A }) ∧ frame 0x106 (fun f => { f with finfo := A &&& 0x000003FF00FF0FBF }) ∧
             frame 0x107 (fun f => { f with frec := A }) ∧ frame 0x108 (fun f => { f with ftime := A }) ∧
             exec (.cMtsr h a 0x109) s = .next (s.raise s.me .c { cause := .perm })) ∧
           (get 0x100 x.frame.fstat ∧
             (∀ i : Nat, i < 4 → get (BitVec.ofNat 16 (0x101 + i)) ((x.frame.heads.getD i 0).setWidth 64)) ∧
             get 0x105 x.frame.fva ∧ get 0x106 x.frame.finfo ∧ get 0x107 x.frame.frec ∧ get 0x108 x.frame.ftime ∧
             get 0x109 (BitVec.ofNat 64 (x.pend.filter (·.captured)).length) ∧ get 0x10F 0)) ∧
       exec (.cRdtb h d) s = .next (s.cAfter h 1 d (BitVec.ofNat 64 (s.timeAt (clusterOf s.me)))) ∧
       (bitAt x.launch.trc 62 = true → exec (.cMark h code) s = .next (s.done .c h 1 8 (fun y => { y with mark := some code }))) ∧
       (bitAt x.launch.trc 62 = false → exec (.cMark h code) s = .next (s.done .c h 1 8 id))) ∧
  (∀ (s : State) (h : Hdr) (a : BitVec 5), s.ready .c h → (s.ctx s.me).frame.handler = true →
     (s.reg a = 1 → exec (.cMtsr h a 0x10F) s = .next ((s.done .c h 1 8 id).forward s.me)) ∧
       (s.reg a ≠ 1 → exec (.cMtsr h a 0x10F) s = .next (s.done .c h 1 8 id)))

/-- `trap` (R115): it issues, and SWTRAP is taken with its code and C's head at the next word: a core outside handler mode with
nothing accepted to wait for is in handler mode, at the entry of cause 0x11, and FHEAD0 is the next word. Which word is the next
one is the model's reading (log 10). -/
def Obligations.TrapInstruction : Prop :=
  ∀ (s : State) (h : Hdr) (code : BitVec 16) (e : QEntry) (q : List QEntry), s.ready .c h →
    (s.ctx s.me).frame.handler = false → (s.ctx s.me).stopWaits = false → (s.ctx s.me).c.wait = none →
    (s.ctx s.me).c.queue = e :: q → e.loops = [Loop.init, Loop.init, Loop.init, Loop.init] →
    ∃ t, exec (.cTrap h code) s = .next t ∧ (t.ctx s.me).frame.handler = true ∧ (t.ctx s.me).c.fetch = 0x7000 + 8 * 0x11 ∧
      (t.ctx s.me).frame.fstat = BitVec.ofNat 64 (code.toNat * 2 ^ 48 + 0x11) ∧
      (t.ctx s.me).frame.heads.getD 0 0 = BitVec.ofNat 15 (e.addr + 1)

/-- `eret` (R116, R310): it leaves handler mode and every stream resumes at its head of the stop cut, at its FHEAD register, and
refills its queue from there; the registers stay, and so does every byte of memory unless the word is written to a replay log
(R337); outside handler mode it takes PERM. The words of `eret` are those with OP 0x79 and a body of zeros, and another body is
ILLEGAL with detail 3. -/
def Obligations.EretInstruction : Prop :=
  (∀ (s : State) (h : Hdr), s.ready .c h →
     ((s.ctx s.me).frame.handler = true →
       ∃ u : State, exec (.cEret h) s = .next (u.refill s.me) ∧ (u.ctx s.me).frame.handler = false ∧ (u.ctx s.me).mode = .run ∧
         (u.ctx s.me).c.head = ((s.ctx s.me).frame.heads.getD 0 0).toNat ∧
         (u.ctx s.me).l.head = ((s.ctx s.me).frame.heads.getD 1 0).toNat ∧
         (u.ctx s.me).v.head = ((s.ctx s.me).frame.heads.getD 2 0).toNat ∧
         (u.ctx s.me).s.head = ((s.ctx s.me).frame.heads.getD 3 0).toNat ∧
         ((s.ctx s.me).c.leaves = false ∨ bitAt (s.ctx s.me).launch.trc 61 = false →
           ((u.refill s.me).ctx s.me).frame.handler = false ∧ ((u.refill s.me).ctx s.me).mode = .run ∧
             ((u.refill s.me).ctx s.me).regs = (s.ctx s.me).regs ∧ s.sameBytes (u.refill s.me))) ∧
       ((s.ctx s.me).frame.handler = false → exec (.cEret h) s = .next (s.raise s.me .c { cause := .perm }))) ∧
  (∀ w : Word, bits w 61 3 = 0 → bits w 40 7 = 0x79 →
     (bits w 0 40 = 0 → ∃ h, decode w = .ok (.cEret h)) ∧ (bits w 0 40 ≠ 0 → decode w = .error 3))

/-- Taking a fault (R305, R306, R308, R309): in the fault's cycle f a running core outside handler mode with no accepted request
records the cause, code and stream, the address, the heads, FINFO, FREC and FTIME; every stream stands at its head, waiting
instructions withdrawn (C's own will be executed anew after the return); results due after f are captured; C fetches at 0x7000 +
8 × cause, and its first handler word issues no earlier than f + 2. The general registers and every byte of memory are as they
were. A second fault in handler mode (R309): DBL is set, DCAUSE is the cause of the second fault, the rest of the frame stays,
the core stops, and its frame is forwarded to Sapwood. -/
def Obligations.FaultEntry : Prop :=
  (∀ (s : State) (n : Nat) (st : Strm) (t : Trap),
     (s.ctx n).mode = .run → (s.ctx n).frame.handler = false → (s.ctx n).stopWaits = false →
     (∀ op m scp mk ids z sl v d g, (s.ctx n).c.wait ≠ some (.sync op m scp mk ids z sl (some v) d g)) →
     let u := s.raise n st t
     let x := s.ctx n
     let y := u.ctx n
     y.frame.handler = true ∧ y.mode = .run ∧
       y.frame.fstat = BitVec.ofNat 64 (t.code.toNat * 2 ^ 48 + strmCode st * 2 ^ 8 + t.cause.code) ∧
       y.frame.fva = t.va ∧ y.frame.finfo = t.finfo ∧ y.frame.frec = t.record ∧
       y.frame.ftime = BitVec.ofNat 64 (s.timeAt (clusterOf n)) ∧ y.frame.f = s.cyc n ∧
       y.frame.heads = [BitVec.ofNat 15 x.c.head, BitVec.ofNat 15 x.l.head, BitVec.ofNat 15 x.v.head, BitVec.ofNat 15 x.s.head] ∧
       y.c.fetch = 0x7000 + 8 * t.cause.code ∧ y.c.queue = [] ∧ y.c.notBefore = s.cyc n + 2 ∧
       y.c.wait = none ∧ y.l.wait = none ∧ y.v.wait = none ∧ y.s.wait = none ∧
       (x.c.wait ≠ none → y.frame.cstream.wait = none ∧ y.frame.cstream.anew = true) ∧ y.frame.cstream.head = x.c.head ∧
       y.pend = x.pend.map (fun p => if s.cyc n < p.due then { p with captured := true } else p) ∧
       y.regs = x.regs ∧ y.tok = x.tok ∧ s.sameBytes u ∧ (∀ k, k ≠ n → u.core k = s.core k)) ∧
  (∀ (s : State) (n : Nat) (t : Trap), (s.ctx n).mode = .run → (s.ctx n).frame.handler = true → (s.ctx n).stopWaits = false →
     (∀ op m scp mk ids z sl v d g, (s.ctx n).c.wait ≠ some (.sync op m scp mk ids z sl (some v) d g)) →
     (∀ r, s.regionOf n = some r → r.fdom = true) →
     let u := s.raise n .c t
     (u.ctx n).mode = .stopped ∧ (u.ctx n).frame.fstat = setField (setField (s.ctx n).frame.fstat 47 1 1) 40 7 t.cause.code ∧
       (u.ctx n).frame.heads = (s.ctx n).frame.heads ∧ (u.ctx n).frame.fva = (s.ctx n).frame.fva ∧
       (u.ctx n).frame.finfo = (s.ctx n).frame.finfo ∧ (u.ctx n).frame.frec = (s.ctx n).frame.frec ∧
       (u.ctx n).frame.ftime = (s.ctx n).frame.ftime ∧
       ((s.ctx n).launch.region, n) ∈ (u.part (s.ctx n).launch.part).posted)

/-- `wake`, `sleep` and `wstat` do the same in every stream (R119, R141, R143 to R145): wakes and sleeps go to each named domain
in ascending index order; `wstat` is over at once when all are awake, waits while some still wake, and takes SLEEPING for one
that is off or retained, its domain and state in FINFO. Types 5 and 6 need the array lease, and a wake of a domain that the
other bank holds takes SLEEPING with DSTATE 4 (R314). That a waiting `wstat` has issued is the model's reading (log 13). -/
def Obligations.PowerInstructions : Prop :=
  ∀ (s : State) (h : Hdr) (dt : DomTy) (ret : Bool) (mask : BitVec 32),
    let wake := fun (st : Strm) => (maskIxs dt mask).foldl (fun t i => t.wakeOne s.me dt i) (s.done st h 1 8 id)
    let sleep := fun (st : Strm) => (maskIxs dt mask).foldl (fun t i => t.sleepOne s.me dt ret i) (s.done st h 1 8 id)
    let first := fun (p : Dom → Prop) (i : Nat) =>
      i ∈ maskIxs dt mask ∧ p (s.dom s.me dt i) ∧ ∀ j ∈ maskIxs dt mask, j < i → ¬ p (s.dom s.me dt j)
    let asleep := fun (st : Strm) (i k : Nat) => Host.Outcome.next (σ := State) (φ := Fault) (ρ := Refusal)
      (s.raise s.me st { cause := .sleeping, core := s.me, dstate := k, didx := i, dtype := domCode dt })
    (∀ i, s.leaseCheck s.me dt mask = .go → recordsBank dt = true →
      first (fun d => d.st ≠ .off ∧ d.owner ≠ (s.core s.me).bank) i →
      (s.ready .c h → exec (.cWake h dt mask) s = asleep .c i 4) ∧ (s.ready .l h → exec (.lWake h dt mask) s = asleep .l i 4) ∧
        (s.ready .v h → exec (.vWake h dt mask) s = asleep .v i 4) ∧ (s.ready .s h → exec (.sWake h dt mask) s = asleep .s i 4)) ∧
    (∀ i, first (fun d => d.st = .off ∨ d.st = .retained) i →
      let k := if (s.dom s.me dt i).st = .off then 0 else 1
      (s.ready .c h → exec (.cWstat h dt mask) s = asleep .c i k) ∧ (s.ready .l h → exec (.lWstat h dt mask) s = asleep .l i k) ∧
        (s.ready .v h → exec (.vWstat h dt mask) s = asleep .v i k) ∧
        (s.ready .s h → exec (.sWstat h dt mask) s = asleep .s i k)) ∧
    (s.leaseCheck s.me dt mask = .go →
      (s.otherBank s.me dt mask = .go →
        (s.ready .c h → exec (.cWake h dt mask) s = .next (wake .c)) ∧ (s.ready .l h → exec (.lWake h dt mask) s = .next (wake .l)) ∧
          (s.ready .v h → exec (.vWake h dt mask) s = .next (wake .v)) ∧ (s.ready .s h → exec (.sWake h dt mask) s = .next (wake .s))) ∧
      (s.ready .c h → exec (.cSleep h dt ret mask) s = .next (sleep .c)) ∧
      (s.ready .l h → exec (.lSleep h dt ret mask) s = .next (sleep .l)) ∧
      (s.ready .v h → exec (.vSleep h dt ret mask) s = .next (sleep .v)) ∧
      (s.ready .s h → exec (.sSleep h dt ret mask) s = .next (sleep .s))) ∧
      (s.wstatFault s.me dt mask = none →
        let res := fun (st : Strm) => if s.allAwake s.me dt mask then s.done st h 1 8 id else s.waits st h 8 (.wstat dt mask)
        (s.ready .c h → exec (.cWstat h dt mask) s = .next (res .c)) ∧
          (s.ready .l h → exec (.lWstat h dt mask) s = .next (res .l)) ∧
          (s.ready .v h → exec (.vWstat h dt mask) s = .next (res .v)) ∧
          (s.ready .s h → exec (.sWstat h dt mask) s = .next (res .s)))

/-- The pointers (R42, R48, R49, R122): `pset` writes the sign-extended IMM36 with bits [63:56] zero, `padd` adds the
sign-extended IMM36, and `lrs` and `srs` give BASE + (P mod SLOTS) × SLOTSIZE; L and S have pointer sets of their own; nothing
else of the registers changes. -/
def Obligations.Pointers : Prop :=
  ∀ (s : State) (h : Hdr) (p ring : BitVec 4) (imm : BitVec 36),
    let P := fun (inS : Bool) => (s.ctx s.me).regs.pget inS p
    let put := fun (st : Strm) (inS : Bool) (v : Word) => s.done st h 1 8 (fun x => x.setP inS p v (s.cyc s.me))
    let k : Word := (imm.signExtend 56).setWidth 64
    (s.ready .l h → exec (.lPset h p imm) s = .next (put .l false k) ∧
      exec (.lPadd h p imm) s = .next (put .l false (P false + imm.signExtend 64))) ∧
      (s.ready .s h → exec (.sPset h p imm) s = .next (put .s true k) ∧
        exec (.sPadd h p imm) s = .next (put .s true (P true + imm.signExtend 64))) ∧
      (∀ n, (s.ctx s.me).ringNo ring.toNat = some n →
        let r := (s.part (s.ctx s.me).launch.part).ring n
        let slot := fun (v : Word) => BitVec.ofNat 64 (r.base.toNat + v.toNat % r.slots.toNat * r.slotsize.toNat)
        r.slots ≠ 0 →
        (s.ready .l h → exec (.lLrs h p ring) s = .next (put .l false (slot (P false)))) ∧
          (s.ready .s h → exec (.sSrs h p ring) s = .next (put .s true (slot (P true))))) ∧
      ∀ (x : Ctx) (inS : Bool) (v : Word) (cyc : Nat), (x.setP inS p v cyc).regs = x.regs.pset inS p v

/-- The line loads, and `lda` (R121, R123, R126 to R128). From the own scratchpad and the accumulator store: a queue load claims
an LQ entry and has occupancy 1, a grid load occupancy 4; the access performs at issue + 3, until when a grid load keeps what
its fault would put back. From a sibling's scratchpad the access goes through the FIFO of class 0, and a grid load holds L until
its line has come. A tile image is read at the issue. P moves as MD says (R49). The line stores, and `sta` (R121, R123, R126 to
R128): the lanes are read and an SQ is popped at issue; the own scratchpad changes at issue + 6, the accumulator store at issue
+ 8, a sibling's scratchpad through the FIFO of class 0 from issue + 8 on, and no byte of memory before. The order of the checks
is the model's reading (log 19), and the cycle in which an own access is checked, until which a grid load keeps what its fault
would put back, is its choice (log 21). -/
def Obligations.LineAccesses : Prop :=
  (∀ (s : State) (h : Hdr) (p : BitVec 4) (x : Lane2) (ty : LaneTy) (cv : Cv) (pk : Bool) (md : Md) (inc : BitVec 20) (i : Instr)
     (one : Bool),
     let c := s.ctx s.me
     let va := (mdAddr md (c.regs.pget false p) inc).1
     let old := c.regs.pget false p
     let move := fun (y : Ctx) => if md = .none then y else y.setP false p (mdAddr md old inc).2 (s.cyc s.me)
     let undo := aqMove md p old (mdAddr md old inc).2
     let k : AccKind := .lineLoad (x.dst c.nextId) one cv
     let occ : Nat := match x with
       | .q _ => 1
       | .g _ => 4
     let acc := fun (pl : Place) (k : AccKind) => s.newAcc s.me .l va pl k 0 .core 3 none none
     let far := fun (core off : Nat) => s.newAcc s.me .l va (.spad core off) k 0 .core 20 none none
     s.ready .l h → c.bound true x = false → c.lineReady true x = true →
     ((∃ n, i = .lLdq h p n ty cv md inc ∧ x = .q n ∧ one = false) ∨ (∃ g, i = .lLdg h p g ty cv md inc ∧ x = .g g ∧ one = false) ∨
       (∃ l, i = .lLdb h p l ty cv md inc ∧ x = lqLine l ∧ one = true) →
       (∀ off, s.lineTarget va k.width one true cv = .spad s.me off →
         let e := rdEntry (c.nextId + 1) s.me off k.width (some (s.cyc s.me + 3))
         c.chkClear e (s.cyc s.me) = true → s.touch s.me (spadBanks s.me off k.width ++ x.touches s.me) va = .go →
         exec i s = .next (((s.done .l h occ 160 (fun y =>
           { move ((y.lineClaim x).chkAdd e) with nextId := c.nextId + 2 })).direct s.me (acc (.spad s.me off) k)).gridIssued s c.nextId x
             undo)) ∧
       (∀ core off, core ≠ s.me → s.lineTarget va k.width one true cv = .spad core off →
         let e := rdEntry (c.nextId + 1) core off k.width none
         c.chkClear e (s.cyc s.me) = true → s.touch s.me (spadBanks core off k.width ++ x.touches s.me) va = .go →
         (∀ q, x = .q q → exec i s = .next (s.done .l h 1 160 (fun y =>
           ({ move ((y.lineClaim x).chkAdd e) with nextId := c.nextId + 1 } : Ctx).post (far core off)))) ∧
           (∀ g, x = .g g → exec i s = .next ((s.modCtx s.me (fun y =>
             ({ y.chkAdd e with nextId := c.nextId + 1 } : Ctx).post (far core off))).waits .l h 160
               (.gridLoad (c.nextId + 1) (if md = .none then none else some (p, (mdAddr md old inc).2)))))) ∧
       (∀ off, s.lineTarget va k.width one true cv = .tiles off → s.touch s.me (x.touches s.me) va = .go →
         exec i s = .next (s.done .l h occ 160 (fun y =>
           ({ move (y.lineClaim x) with nextId := c.nextId + 1 } : Ctx).lineDue (x.dst c.nextId) (s.cyc s.me) (s.cyc s.me + 12)
             (cvLanes one cv (c.eng.imageBytes off k.width)) none false)))) ∧
     (∀ l, i = .lLda h p l ty pk md inc → x = lqLine l → s.accVerdict va pk x = .go →
       exec i s = .next (((s.done .l h occ 160 (fun y => { move (y.lineClaim x) with nextId := c.nextId + 1 })).direct s.me
         (acc (.acc va) (.lineLoad (x.dst c.nextId) false .none))).gridIssued s c.nextId x undo))) ∧
  (∀ (s : State) (h : Hdr) (p : BitVec 4) (x : Lane2) (ty : LaneTy) (cv : Cv) (md : Md) (inc : BitVec 20) (i : Instr),
     let c := s.ctx s.me
     let va := (mdAddr md (c.regs.pget true p) inc).1
     let move := fun (y : Ctx) => if md = .none then y else y.setP true p (mdAddr md (c.regs.pget true p) inc).2 (s.cyc s.me)
     let n := (AccKind.lineLoad (.lq 0 0) false cv).width
     let acc := fun (pl : Place) (v : List Byte) (due : Nat) => s.newAcc s.me .s va pl (.store v) 0 .core due none none
     s.ready .s h → c.bound false x = false → c.lineReady false x = true →
     ((∃ q, i = .sStq h p q ty cv md inc ∧ x = .q q) ∨ (∃ g, i = .sStg h p g ty cv md inc ∧ x = .g g) →
       (∀ off, s.lineTarget va n false false cv = .spad s.me off →
         let e := wrEntry c.nextId s.me off n (some (s.cyc s.me + 6))
         c.chkClear e (s.cyc s.me) = true → s.touch s.me (spadBanks s.me off n ++ x.touches s.me) va = .go →
         exec i s = .next ((s.done .s h 1 160 (fun y => move ((y.storePop x).chkAdd e))).direct s.me
           (acc (.spad s.me off) (cvStore cv (c.storeLanes x)) 6)) ∧ ∀ t, exec i s = .next t → s.sameBytes t) ∧
       (∀ core off, core ≠ s.me → s.lineTarget va n false false cv = .spad core off →
         let e := wrEntry c.nextId core off n none
         c.chkClear e (s.cyc s.me) = true → s.touch s.me (spadBanks core off n ++ x.touches s.me) va = .go →
         exec i s = .next (s.done .s h 1 160 (fun y => (move ((y.storePop x).chkAdd e)).post
           (acc (.spad core off) (cvStore cv (c.storeLanes x)) 8))) ∧ ∀ t, exec i s = .next t → s.sameBytes t)) ∧
     (∀ l, i = .sSta h p l ty md inc → x = sqLine l → s.accVerdict va false x = .go →
       exec i s = .next ((s.done .s h 1 160 (fun y => move (y.storePop x))).direct s.me
         (acc (.acc va) (bytesOfLanes (c.storeLanes x)) 8)) ∧ ∀ t, exec i s = .next t → s.sameBytes t))

/-- The vector accesses to device memory (R129 to R132), with every lane translated: one access of four bytes for each lane that
its row does not skip, in increasing order, in the FIFO of the class; a load claims an LQ entry for them, a store or an atomic
add pops its SQ; in trap mode a load or a store of a page marked D holds its stream until its lanes have performed (R247; the
model's reading, log 63); no byte of memory changes before an access performs. Lane addresses (R129): lane j of a strided access
is at P + j × stride, a stride of 0 meaning 4; lane j of a gather or scatter is at P plus the sign-extended element j of the
row, and 0x8000_0000 skips the lane. The order in which lanes are posted is the model's reading (log 22). -/
def Obligations.VectorMemory : Prop :=
  (∀ (s : State) (h : Hdr) (p : BitVec 4) (x : BitVec 3) (cls : BitVec 4) (scp : Scp) (stride : BitVec 18) (row : BitVec 6)
     (ty : LaneTy) (i : Instr) (g : Option (BitVec 6)) (addrs : List (Option Nat)) (add : Option LaneTy) (q : List LaneGo),
     let c := s.ctx s.me
     let P := fun (inS : Bool) => c.regs.pget inS p
     let acc := fun (st : Strm) (g : LaneGo) (k : AccKind) =>
       s.newAcc s.me st g.va g.p k cls scp 1 (some g.e) (some (BitVec.ofNat 6 g.lane))
     let gs := laneOrder q
     (s.ready .l h → c.bound true (.q x) = false → c.l.lanes = none → s.amVerdict true x g addrs = .go →
       s.resolvePages .l true false 64 (numbered addrs) = (q, .none) →
       (i = .lLdm h p x cls scp stride ∧ g = none ∧ addrs = strided (P false) stride ∨
         i = .lLdgx h p x cls scp row ∧ g = some row ∧ addrs = gathered c (P false) row) →
       let go := fun (y : Ctx) =>
         gs.foldl (fun y l => y.postLane .l (acc .l l (.laneLoad x c.nextId l.lane)) l.lane)
           ((y.claimLq x gs.length).mapLq x.toNat c.nextId (fun e => { e with lanes := lanes (fun _ => 0), filled := gs.isEmpty }))
       exec i s = .next ((if c.raceHolds gs = true then (s.modCtx s.me go).waits .l h 400 (.lanes none) else s.done .l h 1 400 go).useLeases
         s.me (gs.map (·.va)))) ∧
     (s.ready .s h → c.bound false (.q x) = false → c.s.posted = [] → c.s.lanes = none → s.amVerdict false x g addrs = .go →
       s.resolvePages .s add.isSome true 64 (numbered addrs) = (q, .none) →
       (add.isSome = true → (s.core s.me).atomsOut + gs.length ≤ 64) →
       (i = .sStm h p x cls scp stride ∧ g = none ∧ addrs = strided (P true) stride ∧ add = none ∨
         i = .sStsx h p x cls scp row ∧ g = some row ∧ addrs = gathered c (P true) row ∧ add = none ∨
         i = .sVamo h p x cls scp ty stride ∧ g = none ∧ addrs = strided (P true) stride ∧ add = some ty) →
       let v := c.storeLanes (.q x)
       let k := fun (l : LaneGo) =>
         match add with
         | some ty => AccKind.laneAdd ty (laneAt v l.lane)
         | none => AccKind.store (leBytes 4 (laneAt v l.lane).toNat)
       let post := fun (y : Ctx) => gs.foldl (fun y l => y.postLane .s (acc .s l (k l)) l.lane) y
       exec i s = .next ((if add = none ∧ c.raceHolds gs = true then (s.modCtx s.me post).waits .s h 400 (.lanes (some x))
           else s.done .s h 1 400 (fun y => (post y).storePop (.q x))).useLeases s.me (gs.map (·.va))) ∧
         ∀ t, exec i s = .next t → s.sameBytes t)) ∧
  (∀ (x : Ctx) (P : Word) (stride : BitVec 18) (row : BitVec 6) (j : Nat), j < 64 →
     (stride = 0 → (strided P stride)[j]? = some (some (P + BitVec.ofNat 64 (4 * j)).toNat)) ∧
       (stride ≠ 0 → (strided P stride)[j]? = some (some (P + BitVec.ofNat 64 j * stride.signExtend 64).toNat)) ∧
       (let e := x.regs.cell (64 * row.toNat + j)
        (gathered x P row)[j]? = some (if e = 0x80000000 then none else some (P + e.signExtend 64).toNat)))

/-- Floating-point arithmetic (R147, R150 to R153): each element is computed exactly and rounded once with RND; latency 4 for
two sources and 6 for three; minimum, maximum, absolute value and negation act on the patterns, with latency 2. The
transcendental and complex instructions (R155, R164): latencies 10, 10, 8, 8 and 6, 6, 6, 6, 4; the parts of a complex product
are sums of exact products rounded once. The index of the random bits of `cabs2` is the model's reading (log 52). -/
def Obligations.VectorFloat : Prop :=
  (∀ (s : State) (h : Hdr) (d : Dst) (a b c : Src) (ty : FTy) (z : BitVec 3) (rnd : Rnd), s.ready .v h →
     let A := s.lanesOf a
     let B := s.lanesOf b
     let C := s.lanesOf c
     let m := s.mask z
     let two := fun (op : FV → FV → FV) => lanes (fun j => floatLane ty j (fun f i e =>
       f.ofVal rnd (s.rnd16 rnd i) (op (f.val (e (laneAt A j))) (f.val (e (laneAt B j))))))
     let three := fun (op : FV → FV → FV → FV) => lanes (fun j => floatLane ty j (fun f i e =>
       f.ofVal rnd (s.rnd16 rnd i) (op (f.val (e (laneAt A j))) (f.val (e (laneAt B j))) (f.val (e (laneAt C j))))))
     let pick := fun (B : List Lane) (op : Fmt → Nat → Nat → Nat) => lanes (fun j => floatLane ty j (fun f _ e =>
       op f (e (laneAt A j)) (e (laneAt B j))))
     (s.vGo d [a, b] m false →
       exec (.vFadd h d a b ty z rnd) s = .next (s.vAfter h d [a, b] m rnd 4 128 [] (two (fun A B => FV.add rnd A B))) ∧
         exec (.vFsub h d a b ty z rnd) s = .next (s.vAfter h d [a, b] m rnd 4 128 [] (two (fun A B => FV.add rnd A B.negate))) ∧
         exec (.vFmul h d a b ty z rnd) s = .next (s.vAfter h d [a, b] m rnd 4 128 [] (two FV.mul)) ∧
         exec (.vFmin h d a b ty z) s = .next (s.vAfter h d [a, b] m .rne 2 128 [] (pick B Fmt.fmin)) ∧
         exec (.vFmax h d a b ty z) s = .next (s.vAfter h d [a, b] m .rne 2 128 [] (pick B Fmt.fmax))) ∧
       (s.vGo d [a, b, c] m false →
         exec (.vFma h d a b c ty z rnd) s = .next (s.vAfter h d [a, b, c] m rnd 6 128 []
           (three (fun A B C => FV.add rnd (FV.mul A B) C))) ∧
           exec (.vFms h d a b c ty z rnd) s = .next (s.vAfter h d [a, b, c] m rnd 6 128 []
             (three (fun A B C => FV.add rnd (FV.mul A B) C.negate))) ∧
           exec (.vFnma h d a b c ty z rnd) s = .next (s.vAfter h d [a, b, c] m rnd 6 128 []
             (three (fun A B C => FV.add rnd (FV.mul A B).negate C)))) ∧
       (s.vGo d [a] m false →
         exec (.vFabs h d a ty z) s = .next (s.vAfter h d [a] m .rne 2 128 [] (pick A (fun f A _ => f.fabs A))) ∧
           exec (.vFneg h d a ty z) s = .next (s.vAfter h d [a] m .rne 2 128 [] (pick A (fun f A _ => f.fneg A))))) ∧
  (∀ (s : State) (h : Hdr) (d : Dst) (a b c : Src) (z : BitVec 3) (rnd : Rnd), s.ready .v h →
     let A := s.lanesOf a
     let B := s.lanesOf b
     let C := s.lanesOf c
     let m := s.mask z
     let fn := fun (op : Rnd → Nat → FV → Nat) =>
       lanes (fun j => BitVec.ofNat 32 (op rnd (s.rnd16 rnd j) (fp32.val (laneAt A j).toNat)))
     let terms := fun (conj : Bool) (j : Nat) => cbTerms conj (laneAt A j) (laneAt B j)
     let prod := fun (conj : Bool) => lanes (fun j =>
       cbLane rnd (s.rnd16 rnd) j (terms conj j).1 (terms conj j).2)
     let acc := fun (conj : Bool) => lanes (fun j => cbLane rnd (s.rnd16 rnd) j
       ((terms conj j).1 ++ [(cbVal (laneAt C j)).1]) ((terms conj j).2 ++ [(cbVal (laneAt C j)).2]))
     (s.vGo d [a] m false →
       exec (.vExp2 h d a z rnd) s = .next (s.vAfter h d [a] m rnd 10 224 [] (fn exp2Bits)) ∧
         exec (.vLog2 h d a z rnd) s = .next (s.vAfter h d [a] m rnd 10 224 [] (fn log2Bits)) ∧
         exec (.vRcp h d a z rnd) s = .next (s.vAfter h d [a] m rnd 8 224 [] (fn rcpBits)) ∧
         exec (.vRsq h d a z rnd) s = .next (s.vAfter h d [a] m rnd 8 224 [] (fn rsqBits)) ∧
         exec (.vCabs2 h d a z rnd) s = .next (s.vAfter h d [a] m rnd 4 224 [] (lanes (fun j =>
           let v := cbVal (laneAt A j)
           BitVec.ofNat 32 (fp32.ofVal rnd (s.rnd16 rnd j) (FV.sum rnd [FV.mul v.1 v.1, FV.mul v.2 v.2])))))) ∧
       (s.vGo d [a, b] m false →
         exec (.vCmul h d a b z rnd) s = .next (s.vAfter h d [a, b] m rnd 6 224 [] (prod false)) ∧
           exec (.vCmulc h d a b z rnd) s = .next (s.vAfter h d [a, b] m rnd 6 224 [] (prod true))) ∧
       (s.vGo d [a, b, c] m false →
         exec (.vCma h d a b c z rnd) s = .next (s.vAfter h d [a, b, c] m rnd 6 224 [] (acc false)) ∧
           exec (.vCmac h d a b c z rnd) s = .next (s.vAfter h d [a, b, c] m rnd 6 224 [] (acc true))))

/-- Integers and bits (R156, R158): element by element, wrapping; latency 2, and 4 for products. The carry-less product, the
byte compare and the bit pack (R156, R158): the low 32 bits of the XOR of the shifted A for each bit of B; bit e of the result
says that byte e equals the byte; lane k below 8 holds the low four bits of lanes 8k to 8k + 7, and the other lanes are 0. -/
def Obligations.VectorInteger : Prop :=
  (∀ (s : State) (h : Hdr) (d : Dst) (a b : Src) (ty : WTy) (byte : BitVec 8) (z : BitVec 3), s.ready .v h →
     let A := s.lanesOf a
     let B := s.lanesOf b
     let m := s.mask z
     let r2 := fun (lat units : Nat) (op : Lane → Lane → Lane) => Host.Outcome.next (σ := State) (φ := Fault) (ρ := Refusal)
       (s.vAfter h d [a, b] m .rne lat units [] (lanes (fun j => op (laneAt A j) (laneAt B j))))
     let r1 := fun (op : Lane → Lane) => Host.Outcome.next (σ := State) (φ := Fault) (ρ := Refusal)
       (s.vAfter h d [a] m .rne 2 64 [] (lanes (fun j => op (laneAt A j))))
     let el := fun (g : Nat → Nat → Nat → Nat) (A B : Lane) => intLane ty A B g
     (s.vGo d [a, b] m false →
       exec (.vIadd h d a b ty z) s = r2 2 64 (el (fun _ x y => x + y)) ∧
         exec (.vIsub h d a b ty z) s = r2 2 64 (el (fun w x y => wrap w ((x : Int) - y))) ∧
         exec (.vImul h d a b ty z) s = r2 4 64 (el (fun _ x y => x * y)) ∧
         exec (.vImulh h d a b ty z) s = r2 4 64 (el (fun w x y => wrap w (signed w x * signed w y / (2 ^ w : Nat)))) ∧
         exec (.vImulhu h d a b ty z) s = r2 4 64 (el (fun w x y => x * y / 2 ^ w)) ∧
         exec (.vIshl h d a b ty z) s = r2 2 64 (el (fun w x y => x * 2 ^ (y % w))) ∧
         exec (.vIshr h d a b ty z) s = r2 2 64 (el (fun w x y => x / 2 ^ (y % w))) ∧
         exec (.vIsra h d a b ty z) s = r2 2 64 (el (fun w x y => wrap w (signed w x / (2 ^ (y % w) : Nat)))) ∧
         exec (.vImin h d a b ty z) s = r2 2 64 (el (fun w x y => if signed w y < signed w x then y else x)) ∧
         exec (.vImax h d a b ty z) s = r2 2 64 (el (fun w x y => if signed w x < signed w y then y else x)) ∧
         exec (.vIminu h d a b ty z) s = r2 2 64 (el (fun _ x y => min x y)) ∧
         exec (.vImaxu h d a b ty z) s = r2 2 64 (el (fun _ x y => max x y)) ∧
         exec (.vIand h d a b z) s = r2 2 64 (fun x y => x &&& y) ∧ exec (.vIor h d a b z) s = r2 2 64 (fun x y => x ||| y) ∧
         exec (.vIxor h d a b z) s = r2 2 64 (fun x y => x ^^^ y) ∧ exec (.vIandn h d a b z) s = r2 2 64 (fun x y => x &&& ~~~y) ∧
         exec (.vClmul h d a b z) s = r2 4 224 (fun x y => BitVec.ofNat 32 (clmul32 32 x.toNat y.toNat))) ∧
       (s.vGo d [a] m false →
         exec (.vIpopc h d a z) s = r1 (fun x => BitVec.ofNat 32 (popCount 32 x.toNat)) ∧
           exec (.vIclz h d a z) s = r1 (fun x => BitVec.ofNat 32 (leadZeros 32 x.toNat)) ∧
           exec (.vIabs h d a ty z) s = r1 (fun x => intLane ty x x (fun w v _ => wrap w (signed w v).natAbs)) ∧
           exec (.vBcmp8 h d a byte z) s = r1 (byteMask byte)) ∧
       (s.vGo d [a] m true → exec (.vBpack h d a z) s = .next (s.vAfter h d [a] m .rne 3 224 [] (lanes (bpackLane A))))) ∧
  (∀ (a b c : Nat) (byte : BitVec 8) (A : Lane) (L : List Lane) (k m e : Nat),
     clmul32 32 a 0 = 0 ∧ clmul32 32 a 1 = a ∧ clmul32 32 a (b ^^^ c) = clmul32 32 a b ^^^ clmul32 32 a c ∧
       (e < 31 → clmul32 32 a (2 ^ (e + 1)) = a * 2 ^ (e + 1)) ∧
       (e < 4 → bitAt (byteMask byte A) e = decide (bits A (8 * e) 8 = byte.toNat)) ∧
       (e < 4 → m < 8 → k < 8 → bitAt (bpackLane L k) (4 * m + e) = bitAt (laneAt L (8 * k + m)) e) ∧
       (8 ≤ k → bpackLane L k = 0))

/-- Conversion, block quantisation and the cross-lane instructions (R147, R159 to R163). What the conversions, the block scales
and the operations of `scan` and `red` compute (R159 to R162): saturating, sign-extending and zero-extending pairs; the
canonical NaNs and infinities of a quantised block, the scale of a block without a finite element and the lanes that hold zero;
a scale of 0xFF; the operations and identities of OPN, the prefixes of a scan, and the tree of a reduction. How a value rounds
to a narrower float, and the scale of a block with a finite element, are the model's functions of R152 and R211. The random bits
of `scan`, drawn with the lane at which a sum is formed, are the model's choice (log 71). -/
def Obligations.VectorConvertAndCross : Prop :=
  (∀ (s : State) (h : Hdr) (d : Dst) (a b : Src) (el ex two : Bool) (src ty : LaneTy) (op : LaneOp) (rt : RTy) (n : BitVec 6)
     (z : BitVec 3) (rnd : Rnd), s.ready .v h →
     let A := s.lanesOf a
     let B := s.lanesOf b
     let m := s.mask z
     let srcs := cvtSrcs a b src ty
     (s.vGo d srcs m false → exec (.vCvt h d a b el src ty z rnd) s = .next (s.vAfter h d srcs m rnd 3 96 []
       (lanes (fun j => cvtLane rnd (s.rnd16 rnd) (if el then 1 else 0) j (laneAt A j) (laneAt B j) ty src)))) ∧
       (s.vGo d [a] m true →
         exec (.vQblk h d a two z rnd) s = .next (s.vAfter h d [a] m rnd 8 96 [] (qblkLanes two rnd (s.rnd16 rnd) A)) ∧
           exec (.vDqblk h d a two z rnd) s = .next (s.vAfter h d [a] m rnd 4 96 [] (dqblkLanes two rnd (s.rnd16 rnd) A)) ∧
           exec (.vScan h d a ex op rt z rnd) s = .next (s.vAfter h d [a] m rnd 6 224 []
             (scanGo ex m (fun j => laneOp op rt rnd (s.rnd16 rnd j)) 0 (laneId op rt) A)) ∧
           exec (.vRed h d a op rt z rnd) s = .next (s.vAfter h d [a] m rnd 8 224 [] (lanes (fun _ =>
             redTree (laneOp op rt rnd 0) 6 (lanes (fun j => if bitAt m j then laneAt A j else laneId op rt))))) ∧
           exec (.vBcast h d a n z) s = .next (s.vAfter h d [a] m .rne 3 224 [] (lanes (fun _ => laneAt A n.toNat)))) ∧
       (s.vGo d [a, b] m true → exec (.vPerm h d a b z) s = .next (s.vAfter h d [a, b] m .rne 4 224 []
         (lanes (fun j => laneAt A ((laneAt B j).toNat % 64))))) ∧
       (s.vGo d [a] (BitVec.allOnes 64) true → exec (.vRot h d a n) s = .next
         (s.vAfter h d [a] (BitVec.allOnes 64) .rne 3 224 [] (lanes (fun j => laneAt A ((j + n.toNat) % 64)))))) ∧
  (∀ (rnd : Rnd) (r : Nat → Nat) (el j k : Nat) (A B : Lane) (L : List Lane) (two ex : Bool) (mask : Word) (p : Lane)
     (f : Nat → Lane → Lane → Lane) (g : Lane → Lane → Lane) (S : Nat → Nat → Lane),
     let cvt := cvtLane rnd r el j A B
     let q := qblkLanes two rnd r L
     let elem := fun (M : List Lane) (j : Nat) => bits (laneAt M (j / 4)) (8 * (j % 4)) 8
     (cvt .i32 .ui32 = (if A.toNat ≤ 0x7FFFFFFF then A else 0x7FFFFFFF) ∧ cvt .ui32 .i32 = (if A.toInt < 0 then 0 else A)) ∧
       (el < 2 → cvt .i32 .i16x2 = (A.extractLsb' (16 * el) 16).signExtend 32 ∧
         bits (cvt .i16x2 .ui8x4) 0 16 = bits A (16 * el) 8 ∧ bits (cvt .i16x2 .ui8x4) 16 16 = bits A (16 * el + 8) 8) ∧
       (((cvt .i16x2 .i32).extractLsb' 0 16).toInt = max (-32768) (min A.toInt 32767) ∧
         ((cvt .i16x2 .i32).extractLsb' 16 16).toInt = max (-32768) (min B.toInt 32767)) ∧
       (k < 4 → bits (cvt .ui8x4 .i16x2) (8 * k) 8 =
         (max 0 (min (((if k < 2 then A else B).extractLsb' (16 * (k % 2)) 16).toInt) 255)).toNat) ∧
       (L.length = 64 →
         (18 ≤ k → k < 64 → laneAt q k = 0) ∧ (laneAt q 16).toNat < 256 ∧ (laneAt q 17).toNat < 256 ∧
           (k < 2 → (∀ i, i < 32 → bits (laneAt L (32 * k + i)) 23 8 = 255) → laneAt q (16 + k) = 127) ∧
           (j < 64 → bits (laneAt L j) 23 8 = 255 → bits (laneAt L j) 0 23 ≠ 0 → elem q j = if two then 0x7E else 0x7F) ∧
           (j < 64 → bits (laneAt L j) 23 8 = 255 → bits (laneAt L j) 0 23 = 0 →
             elem q j = if two then (if bitAt (laneAt L j) 31 then 0xFC else 0x7C) else 0x7F)) ∧
       (j < 64 → bits (laneAt L (16 + j / 32)) 0 8 = 255 → laneAt (dqblkLanes two rnd r L) j = 0x7FC00000) ∧
       (∀ n, laneOp .add .i32 rnd n A B = A + B ∧ laneOp .add .ui32 rnd n A B = A + B ∧
         laneOp .min .i32 rnd n A B = (if B.toInt < A.toInt then B else A) ∧
         laneOp .max .i32 rnd n A B = (if A.toInt < B.toInt then B else A) ∧
         laneOp .min .ui32 rnd n A B = (if B.toNat < A.toNat then B else A) ∧
         laneOp .max .ui32 rnd n A B = (if A.toNat < B.toNat then B else A) ∧
         ∀ ty, laneOp .xor ty rnd n A B = A ^^^ B ∧ laneOp .or ty rnd n A B = A ||| B ∧ laneOp .and ty rnd n A B = A &&& B) ∧
       (∀ op ty n, ty ≠ .f32 → laneOp op ty rnd n (laneId op ty) A = A) ∧
       laneId .add .f32 = 0x80000000 ∧ laneId .min .f32 = 0x7F800000 ∧ laneId .max .f32 = 0xFF800000 ∧
       (L.length = 64 → j < 64 → bitAt mask j = true → laneAt (scanGo ex mask f 0 p L) j =
         (upto 0 (if ex then j else j + 1)).foldl (fun p i => if bitAt mask i = true then f i p (laneAt L i) else p) p) ∧
       (L.length = 64 → (∀ i, S 0 i = laneAt L i) → (∀ l i, S (l + 1) i = g (S l (2 * i)) (S l (2 * i + 1))) → redTree g 6 L = S 6 0))

/-- Compares, moves, predicates, `setk` and `send` (R47, R154, R157, R165 to R167): a compare writes its mask lanes and the bits
of the enabled lanes of Z[ZT]; a predicate instruction writes the bits that Z enables of Zd; `setk` writes K with IMM24 × 256;
`send` claims a send queue entry that is filled two cycles later with lanes 0 and 1. -/
def Obligations.VectorMoves : Prop :=
  ∀ (s : State) (h : Hdr) (d : Dst) (a b c : Src) (z zt zd za zb : BitVec 3) (fc : FCnd) (ic : ICnd) (k : BitVec 4)
    (imm : BitVec 24), s.ready .v h →
    let x := s.ctx s.me
    let A := s.lanesOf a
    let B := s.lanesOf b
    let C := s.lanesOf c
    let m := s.mask z
    let cmp := fun (units : Nat) (p : Lane → Lane → Bool) => Host.Outcome.next (σ := State) (φ := Fault) (ρ := Refusal)
      (s.vAfter h d [a, b] m .rne 2 units [.zreg zt m (lanesBits (fun j => p (laneAt A j) (laneAt B j)))]
        (lanes (fun j => if p (laneAt A j) (laneAt B j) then 0xFFFFFFFF else 0)))
    let zop := fun (v : Word) => Host.Outcome.next (σ := State) (φ := Fault) (ρ := Refusal)
      (s.vAfter h .void [] 0 .rne 1 64 [.zreg zd m v] [])
    (s.vGo d [a, b] m false →
      exec (.vFcmp h d a b zt fc z) s = cmp 128 (fun x y => fcndHolds fc x.toNat y.toNat) ∧
        exec (.vIcmp h d a b zt ic z) s = cmp 64 (icndHolds ic)) ∧
      (s.vGo d [a] m false → exec (.vMov h d a z) s = .next (s.vAfter h d [a] m .rne 1 64 [] (lanes (fun j => laneAt A j)))) ∧
      (s.vGo d [a, b, c] m false → exec (.vSel h d a b c z) s = .next (s.vAfter h d [a, b, c] m .rne 2 64 []
        (lanes (fun j => if laneAt C j = 0 then laneAt B j else laneAt A j)))) ∧
      exec (.vSetk h k imm) s = .next (s.vAfter h .void [] 0 .rne 1 64 [.kreg k (BitVec.ofNat 32 (imm.toNat * 256))] []) ∧
      exec (.vZand h zd za zb z) s = zop (x.regs.zget za &&& x.regs.zget zb) ∧
      exec (.vZor h zd za zb z) s = zop (x.regs.zget za ||| x.regs.zget zb) ∧
      exec (.vZxor h zd za zb z) s = zop (x.regs.zget za ^^^ x.regs.zget zb) ∧
      (s.vGo d [] m false → exec (.vZcnt h d za z) s = .next (s.vAfter h d [] m .rne 2 64 []
        (lanes (fun _ => BitVec.ofNat 32 (popCount 64 (x.regs.zget za).toNat))))) ∧
      (s.sendVerdict a = .go → exec (.vSend h a) s = .next (s.done .v h 1 64 (fun y =>
        ({ y.popLqs [a] with send := y.send ++ [QLine.claim y.nextId 0], nextId := y.nextId + 1 }).inFlight .v 1 (s.cyc s.me) 2
          (.send y.nextId (BitVec.ofNat 64 ((laneAt A 1).toNat * 2 ^ 32 + (laneAt A 0).toNat))))))

/-- The frame of the V instructions (R19, R147): at the issue (V's head has left its queue) no register of any file changes (the
result is in flight), SRSEQ steps only under stochastic rounding, no other stream, store queue entry or byte of memory changes,
and nothing outside the core's active context. -/
def Obligations.VectorFrame : Prop :=
  ∀ (s t : State) (i : Instr) (h : Hdr) (d : Dst) (rnd : Rnd), i.vecDest = some (h, d, rnd) → s.ready .v h → exec i s = .next t →
    (s.ctx s.me).v.queue ≠ [] → (t.ctx s.me).v.queue = (s.ctx s.me).v.queue.tail →
    s.onlyCtx t s.me ∧ s.sameBytes t ∧ (t.ctx s.me).regs = (s.ctx s.me).regs ∧
      (t.ctx s.me).c = (s.ctx s.me).c ∧ (t.ctx s.me).l = (s.ctx s.me).l ∧ (t.ctx s.me).s = (s.ctx s.me).s ∧
      (t.ctx s.me).bq = (s.ctx s.me).bq ∧ (t.ctx s.me).send = (s.ctx s.me).send ∧ (t.ctx s.me).frame = (s.ctx s.me).frame ∧
      (t.ctx s.me).eng = (s.ctx s.me).eng ∧ (t.ctx s.me).fifo = (s.ctx s.me).fifo ∧
      (∀ q : BitVec 3, d ≠ .sq q → (t.ctx s.me).squeue q = (s.ctx s.me).squeue q) ∧
      ((t.ctx s.me).sys.srseq = (s.ctx s.me).sys.srseq + if rnd = .sr then 1 else 0) ∧
      (t.ctx s.me).tok = if (s.ctx s.me).v.anew then (s.ctx s.me).tok else tokenMove (s.ctx s.me).tok .v h

/-- Landings (R19, R20, R111, R126, R311): the oldest due result that is not captured lands in its place and leaves; every due
fill reaches its queue entry, and no other entry changes; a result held in the snapshot of a stop stays until it is due again.
What a landing does to the registers (R19, R24, R126): a line takes the lanes that its mask enables and keeps the others, K, P
and Z take their values, and no other register file changes; a queue entry is filled with its lanes. -/
def Obligations.ResultsLand : Prop :=
  (∀ (s : State) (core : Nat),
     (∀ p, nextPend (s.ctx core).pend (s.cyc core) = some p →
       let u := s.modCtx core (fun x => ({ x with pend := x.pend.erase p }).land (s.cyc core) p.dst)
       exec (.vResultWrite core) s = .next u ∧ exec (.snapshotDeliver core) s = .next u ∧ p.due ≤ s.cyc core ∧ p.captured = false ∧
         p ∈ (s.ctx core).pend) ∧
       (nextPend (s.ctx core).pend (s.cyc core) = none → exec (.vResultWrite core) s = .next s ∧ exec (.snapshotDeliver core) s = .next s) ∧
       ∃ t, exec (.lqFill core) s = .next t ∧ s.onlyCtx t core ∧ s.sameBytes t ∧ (t.ctx core).regs = (s.ctx core).regs ∧
         (t.ctx core).fills = (s.ctx core).fills.filter (fun f => s.cyc core < f.due) ∧
         (∀ (f : Fill) (e : QLine), f ∈ (s.ctx core).fills → f.due ≤ s.cyc core →
           (∀ g ∈ (s.ctx core).fills, g.due ≤ s.cyc core → g.q = f.q → g.id = f.id → g = f) →
           e ∈ (s.ctx core).lqueue f.q → e.id = f.id →
           ∃ g ∈ (t.ctx core).lqueue f.q, g.id = f.id ∧ g.filled = true ∧ g.lanes = f.lanes ∧ g.bad = e.bad.or f.bad) ∧
         (∀ (q : BitVec 3) (e : QLine), (∀ f ∈ (s.ctx core).fills, f.due ≤ s.cyc core → ¬ (f.q = q ∧ f.id = e.id)) →
           e ∈ (s.ctx core).lqueue q → e ∈ (t.ctx core).lqueue q)) ∧
  (∀ (x : Ctx) (l : Line) (m v : Word) (L : List Lane) (k : BitVec 4) (w : Lane) (inS : Bool) (z : BitVec 3) (cyc j : Nat),
     let r := x.regs
     let q := (x.land cyc (.line l m L)).regs
     (j < 64 → laneAt (q.line l) j = if bitAt m j then laneAt L j else laneAt (r.line l) j) ∧
       q.s = r.s ∧ q.h = r.h ∧ q.pl = r.pl ∧ q.ps = r.ps ∧ q.k = r.k ∧ q.z = r.z ∧
       (x.land cyc (.kreg k w)).regs = { r with k := r.k.set k.toFin w } ∧
       (x.land cyc (.ptr inS k v)).regs = r.pset inS k v ∧ (x.land cyc (.zreg z m v)).regs = r.zset z m v ∧
       ∀ (q : BitVec 3) (id : Nat) (e : QLine), e ∈ x.squeue q → e.id = id →
         ∃ f ∈ (x.land cyc (.sq q id L)).squeue q, f.id = id ∧ f.filled = true ∧ f.lanes = L)

/-- `all.loop` and `all.br` (R137, R138): with SRC = 0 a loop word only issues, the fetch having set the counter up; with SRC =
1 C pushes the register into the broadcast queue and L, V and S pop it, and the count is min(value, 131,071); `all.br` pushes
and pops the outcome in the same way, and moves each stream when it is "taken". A full queue holds C, an empty one the others.
The hardware loops (R137, R225, R226): what the fetch of one word does to a stream's counters and its next address. A word that
is no `all.loop` and at which no active loop ends leaves them; at the END of active loops the one that was set up most recently
counts, and takes its back edge while its COUNT stays above zero (or is not known yet), else it is over and the next one counts;
an `all.loop` sets its counter up and, with a count of 0, goes on behind END. With SRC = 1 the count is learned at issue, the
passes made taken off, and with a count of 0 the words beyond are discarded. A transfer goes on at its target, with the counters
that its own word left. That a loop word with SRC = 0 only issues, the fetch having set its counter up, is the model's reading
(log 9); what `all.br` and `all.loop` do with a value of the other kind (log 83), and a fetch that runs past the last iteration
(log 9), are its choices. -/
def Obligations.LoopsAndBranches : Prop :=
  (∀ (s : State) (idle : BitVec 10) (lp : BitVec 2) (count : BitVec 17) (end20 : BitVec 20) (a b : BitVec 5)
     (cnd : Cnd) (ofs : BitVec 27) (st : Strm) (tgt : Nat) (v : Word),
     let h := allHdr idle
     let x := s.ctx s.me
     let last := (x.strm st).head + end20.toNat
     let taken := cndHolds cnd (s.reg a) (s.reg b)
     s.cur.st = st → x.frame.handler = false → s.ready st h →
     exec (.allLoop idle lp false count end20) s = .next (s.done st h 1 8 id) ∧
       (st = .c → x.bq.length < 8 →
         let v := s.reg (count.setWidth 5)
         exec (.allLoop idle lp true count end20) s = .next (s.done .c h 1 8 (fun y =>
           { y with bq := bqPush y.bq v (s.cyc s.me), c := y.c.learn lp.toNat last (min v.toNat 131071) }))) ∧
       (st = .c → 8 ≤ x.bq.length → exec (.allLoop idle lp true count end20) s = .next (s.hold .c .busy)) ∧
       (st ≠ .c → bqHead x.bq st (s.cyc s.me) = some v →
         exec (.allLoop idle lp true count end20) s = .next (s.done st h 1 8 (fun y =>
           ({ y with bq := bqPop y.bq st }).modStrm st (fun t => t.learn lp.toNat last (min v.toNat 131071))))) ∧
       (st ≠ .c → bqHead x.bq st (s.cyc s.me) = none →
         exec (.allLoop idle lp true count end20) s = .next (s.hold st .busy)) ∧
       (x.target st ofs.toInt = some tgt →
         (st = .c → x.bq.length < 8 → exec (.allBr idle a b cnd ofs) s =
           .next (s.done .c h (if taken then 3 else 1) 8 (fun y =>
             { y with bq := bqPush y.bq (if taken then 1 else 0) (s.cyc s.me), c := if taken then y.c.goto tgt else y.c }))) ∧
           (st ≠ .c → bqHead x.bq st (s.cyc s.me) = some v → exec (.allBr idle a b cnd ofs) s =
             .next (s.done st h 1 8 (fun y =>
               ({ y with bq := bqPop y.bq st }).modStrm st (fun t => if v = 0 then t else t.goto tgt)))) ∧
           (st = .c → 8 ≤ x.bq.length → exec (.allBr idle a b cnd ofs) s = .next (s.hold .c .busy)) ∧
           (st ≠ .c → bqHead x.bq st (s.cyc s.me) = none → exec (.allBr idle a b cnd ofs) s = .next (s.hold st .busy))) ∧
       (x.target st ofs.toInt = none → exec (.allBr idle a b cnd ofs) s = exec (.illegalWord 6) s)) ∧
  (∀ (text : Nat → Word) (st : Strm) (t : Stream) (limit n m lp last : Nat),
     let a := t.fetch
     let w := text a
     let L := fun (n : Nat) => t.loops.getD n Loop.init
     let ends := fun (n : Nat) => n < 4 ∧ (L n).active = true ∧ (L n).last = a
     let counted := fun (l : Loop) => { l with count := l.count - 1, iter := l.iter + 1 }
     let done := fun (l : Loop) => { l with count := 0, iter := l.iter + 1, active := false }
     let scans := fun (ls : List Loop) (next : Nat) (stop : Bool) => ∃ u, t.scanWord text st false limit = some (u, stop) ∧
       u.loops = ls ∧ u.fetch = next ∧
       u.queue = if takes st w = true then t.queue ++ [{ addr := a, word := w, pre := t.loops, loops := ls }] else t.queue
     (t.ended = false → a < 0x8000 → t.queue.length < 32 → a ≤ limit →
       ((∀ idle lp src count end20, decode w ≠ .ok (.allLoop idle lp src count end20)) →
         ((∀ k, ¬ ends k) → a + 1 ≤ limit → scans t.loops (a + 1) false) ∧
           (ends n → (∀ k, ends k → k ≠ n → (L k).order < (L n).order) →
             ((L n).unknown = true → (L n).back + 1 ≤ limit →
               scans (t.loops.set n { L n with iter := (L n).iter + 1 }) ((L n).back + 1) true) ∧
               ((L n).unknown = false → 1 < (L n).count → (L n).back + 1 ≤ limit →
                 scans (t.loops.set n (counted (L n))) ((L n).back + 1) true) ∧
               ((L n).unknown = false → (L n).count ≤ 1 → (∀ k, ends k → k = n) → a + 1 ≤ limit →
                 scans (t.loops.set n (done (L n))) (a + 1) false) ∧
               ((L n).unknown = false → (L n).count ≤ 1 → ends m → m ≠ n →
                 (∀ k, ends k → k ≠ n → k ≠ m → (L k).order < (L m).order) → (L m).unknown = false →
                 (1 < (L m).count → (L m).back + 1 ≤ limit →
                   scans ((t.loops.set n (done (L n))).set m (counted (L m))) ((L m).back + 1) true) ∧
                   ((L m).count ≤ 1 → (∀ k, ends k → k = n ∨ k = m) → a + 1 ≤ limit →
                     scans ((t.loops.set n (done (L n))).set m (done (L m))) (a + 1) false)))) ∧
         (∀ idle lp src count end20, decode w = .ok (.allLoop idle lp src count end20) → takes st w = true → end20 ≠ 0 →
           (∀ k, k ≠ lp.toNat → ¬ ends k) →
           let skip := src = false ∧ count = 0
           let next := if skip then a + end20.toNat + 1 else a + 1
           next ≤ limit → ∃ order, (∀ l ∈ t.loops, l.order < order) ∧ scans (t.loops.set lp.toNat
             { count := if src = true then 0 else count.toNat, last := a + end20.toNat, iter := 0, active := decide (¬ skip), back := a,
               order := order, unknown := src }) next false)) ∧
       (limit < a → t.scanWord text st false limit = none) ∧
       (∀ count, (L lp).unknown = true → (L lp).back = t.head → (L lp).iter < count →
         let u := t.learn lp last count
         u.loops.getD lp Loop.init = { L lp with count := count - (L lp).iter, unknown := false } ∧ u.fetch = t.fetch ∧
           u.queue.map (fun e => (e.addr, e.word)) = t.queue.map (fun e => (e.addr, e.word))) ∧
       (let u := t.learn lp last 0
        u.fetch = last + 1 ∧ u.ended = false ∧ u.queue.map (fun e => (e.addr, e.word)) = (t.queue.take 1).map (fun e => (e.addr, e.word)) ∧
          ∀ e q, t.queue = e :: q → lp < e.loops.length → (u.loops.getD lp Loop.init).active = false ∧
            (u.loops.getD lp Loop.init).count = 0 ∧ (u.loops.getD lp Loop.init).iter = 0) ∧
       (∀ e q, t.queue = e :: q → (t.goto n).fetch = n ∧ (t.goto n).queue = [] ∧ (t.goto n).loops = e.loops))

/-- The barrier words (R135, R139): a stream that reaches one stands at it, charging 8 units, and goes on when all four stand at
barrier words; `all.end` stands until the launch ends, and gives up the array lease when C reaches it (R136, R195). The meeting
of the four streams (R135, R139, R140): with one of them missing nothing changes; otherwise all four pass in that cycle, and the
word at which C stands decides: `all.start` makes the cycle cycle 0, `all.realign` empties the broadcast queue and makes L, V
and S fetch after C's word, `all.brk` takes BREAK with code 2 when breakpoints are enabled. The cycle of the charge is the
model's reading (log 14). -/
def Obligations.StreamBarriers : Prop :=
  (∀ (s : State) (idle : BitVec 10),
     let h := allHdr idle
     let st := s.cur.st
     let at_ := fun (k : StandAt) => Host.Outcome.next (σ := State) (φ := Fault) (ρ := Refusal)
       (s.modCtx s.me (fun x => (x.arrive st h k (s.cyc s.me)).meet (s.cyc s.me)))
     (s.ctx s.me).frame.handler = false → s.ready st h →
     exec (.allStart idle) s = at_ .start ∧ exec (.allRealign idle) s = at_ .realign ∧ exec (.allBrk idle) s = at_ .brk ∧
       (let t := s.modCtx s.me (fun x => x.arrive st h .fin (s.cyc s.me))
        exec (.allEnd idle) s = .next (if st = .c then t.endLease s.me else t)) ∧
       (∀ (x : Ctx) (k : StandAt) (cyc : Nat),
         ((x.arrive st h k cyc).strm st).stand = some (cyc, k) ∧
           (x.arrive st h k cyc).sys.charge = x.sys.charge + if (x.strm st).anew then (x.strm st).owed else 8)) ∧
  (∀ (x : Ctx) (cyc : Nat),
     let y := x.meet cyc
     ((∃ st, (x.strm st).barrierAt = none) → y = x) ∧
       ((∀ st, (x.strm st).barrierAt ≠ none) →
         (∀ st, (y.strm st).stand = none ∧ (y.strm st).last = cyc) ∧ y.regs = x.regs ∧ y.tok = x.tok ∧ y.lq = x.lq ∧ y.sq = x.sq ∧
           (x.c.barrierAt = some .start → y.launch.zero = cyc ∧ y.bq = x.bq) ∧
           (x.c.barrierAt = some .realign → y.bq = [] ∧ ∀ st, st ≠ .c →
             (y.strm st).queue = [] ∧ (y.strm st).fetch = x.c.head + 1 ∧ (y.strm st).ended = false) ∧
           (x.c.barrierAt = some .brk → bitAt x.launch.trc 59 = true →
             y.frame.pending = some ({ cause := .brk, code := 2 }, .c)) ∧
           (x.c.barrierAt ≠ some .brk ∨ bitAt x.launch.trc 59 = false → y.frame = x.frame)))

/-- The array commands (R172, R177 to R181): the work of the running command of a cluster is done once, in the bank that holds
it, for the rows before the first whose operands fail their checks; with such a row the command ends with INTEGRITY. A row whose
operands all match their checks does not fail, and where no sector is flawed nothing is recorded and every row is done. The copy
and transform commands (R182 to R191, R215 to R218): a slot of the running command moves its rows on; `flagw` writes its word
from its eighth cycle on; `pref` asks for the walk of its next page; `fwd`, `inv` and `tagset` do their work once, `inv` drawing
free values for a last block that TS holds only in part (the model's choice, log 68); of a transform the rows before the first
that fails its checks are written, and with such a row it ends with INTEGRITY. The time of the work and what a mismatch leaves
are the model's choices (logs 27, 28, 66, 69). -/
def Obligations.EngineWork : Prop :=
  (∀ (s : State) (cl : Nat) (k : Cmd),
     let u := s.faced cl .array
     let n := u.soundRows k
     let v := u.opRecords k
     let rows := k.opRows
     let fin := fun (w : State) => Host.Outcome.next (σ := State) (φ := Fault) (ρ := Refusal) (s.turned cl .array (fun _ =>
       w.modCtx k.core (fun x => x.mapCmd k.eng k.seq (fun o =>
         { o with worked := true, err := if n < rows then some .integrity else o.err }))))
     (u.arrayRuns cl .mma = some k → exec (.arrayMma cl) s = fin (v.mma k n)) ∧
       (u.arrayRuns cl .mmas = some k → exec (.arrayMmas cl) s = fin (v.mmas k n)) ∧
       (u.arrayRuns cl .mzero = some k → exec (.arrayMzero cl) s = fin (v.mzero k)) ∧
       (u.arrayRuns cl .drain = some k → exec (.arrayDrain cl) s = fin (v.drain k n)) ∧
       ((∀ i, i < rows → u.rowSound k i = true) → n = rows) ∧
       (∀ i, i < rows → u.rowSound k i = false → n ≤ i) ∧
       ((∀ c, (u.core c).badSpad = [] ∧ (u.core c).badAcc = []) → (∀ c, (u.cluster c).wbBad = []) → n = rows ∧ v = u)) ∧
  (∀ (s : State) (core c off : Nat) (k : Cmd),
     let cl := clusterOf core
     let u := s.faced cl .copy
     let w := s.faced cl .xe
     let slot := Host.Outcome.next (σ := State) (φ := Fault) (ρ := Refusal) (s.turned cl .copy (fun _ => u.copySlot core k))
     let n := w.soundRows k
     let o := w.opRecords k
     let fin := fun (v : State) => Host.Outcome.next (σ := State) (φ := Fault) (ρ := Refusal) (s.turned cl .xe (fun _ =>
       v.modCtx k.core (fun x => x.mapCmd k.eng k.seq (fun p =>
         { p with worked := true, err := if n < k.opRows then some .integrity else p.err }))))
     (u.copyRuns core .copy = some k → exec (.ceCopy core) s = slot) ∧
       (u.copyRuns core .gath = some k → exec (.ceGath core) s = slot) ∧
       (u.copyRuns core .scat = some k → exec (.ceScat core) s = slot) ∧
       (u.copyRuns core .wfill = some k → exec (.ceWfill core) s = slot) ∧
       (u.copyRuns core .flagw = some k → k.doneAt = some off → off ≤ u.cyc core → ∀ b, spadAt k.core k.dst = some (c, b) →
         exec (.ceFlagw core) s = .next (s.turned cl .copy (fun _ =>
           (u.flagWrite k c b).modCopy k (fun o => { o with worked := true })))) ∧
       (u.copyRuns core .pref = some k → k.row < k.len → k.src + k.row < windowBase →
         u.xlateCheck core (u.ctx core).launch.part (k.src + k.row) = none → k.sect < 16 →
         exec (.cePref core) s = .next (s.turned cl .copy (fun _ =>
           (u.modCopy k (fun o => { o with
             row := ((k.src + k.row) / 2 ^ walkPage (k.src + k.row) + 1) * 2 ^ walkPage (k.src + k.row) - k.src,
             slot := some (u.cyc core), sect := o.sect + 1 })).askWalk core (k.src + k.row)
               { core := core, why := .pref k.seq k.alsoAcc, va := k.src + k.row, lane := none, r := false, w := false }))) ∧
       (w.xeRuns core .fwd = some k → exec (.xeFwd core) s = fin (o.writeRows k ((o.fwdRows k).take n))) ∧
       (w.xeRuns core .inv = some k → exec (.xeInv core) s =
         fin { o.writeRows k ((o.invRows k).take n) with fresh := o.fresh + k.invDraws }) ∧
       (w.xeRuns core .tagset = some k → exec (.xeTagset core) s = fin o))

/-- `mzero` (R180): every byte of the accumulator tile's rows reads zero afterwards, where no check of the store mismatches;
every other byte of the accumulator store, and every byte of the other memories, reads as before. `mma` (R177, R178, R207 to
R209, R199), on operands that are not packed: each cell of the rows done takes the sums of its products over the K columns of A
and rows of B. BF16 and FP16: the exact sum of each group of 8, rounded to FP32, is added with one more rounding. FP8: blocks of
32 under their two scales, 127 where a format has none, and 0xFF for an A scale that was not fed. INT8: each residue channel
takes the exact sum. Every other byte of the accumulator store reads as before, and the other memories are as they were. `mmas`
(R179, R219), on operands that are not packed: each element of the rows done takes the products of its summed index, in groups
of 8 whose exact sums are rounded to FP32, and added with one more rounding, part by part. Element 0 of a block is two real
products, and its conjugate is itself; another element is a complex product. Every other byte reads as before. `drain` (R181,
R206, R210, R213) to FP32, BF16, FP16, CB16 or INT32, unpacked: each part of the rows done, a residue cell recombined to the
integer of its channels, is multiplied by 2^OEXP and rounded once by ORND, with the random bits of its index, into its place in
TD; with CLR its row of the accumulator tile reads zero, and without it as before. Every byte of the scratchpads outside TD's
rows reads as before. The time of the work and what a mismatch leaves are the model's choices (logs 27, 28, 66). -/
def Obligations.ArrayResults : Prop :=
  (∀ (s : State) (k : Cmd) (a : Nat),
     let t := k.tile k.t2
     let u := s.mzero k
     (s.core k.core).badAcc = [] →
     let inside := ∃ r, r < t.rows ∧ t.base + r * t.pitch ≤ a ∧ a < t.base + r * t.pitch + t.rowBytes
     (inside → (u.core k.core).acc.read a = 0) ∧ (¬ inside → (u.core k.core).acc.read a = (s.core k.core).acc.read a) ∧
       (∀ n, n ≠ k.core → u.core n = s.core n) ∧ (u.core k.core).spad = (s.core k.core).spad ∧ u.mem = s.mem ∧
       u.clusters = s.clusters) ∧
  (∀ (s : State) (k : Cmd) (done m n : Nat),
     let a := k.tile k.t1
     let t := k.tile k.t2
     let c := s.core k.core
     let q := s.cluster (clusterOf k.core)
     let w := fmtBytes a.fmt
     let v := fmtBytes k.bfmt
     let u := s.mma k done
     let A := fun (j : Nat) => leNat (c.spad.readN (a.at_ m k.acol + j * w) w)
     let B := fun (j : Nat) => leNat (q.wb.readN (k.wbofs + j * k.bpitch + n * v) v)
     let cell := fun (x : State) => leNat ((x.core k.core).acc.readN (t.base + m * t.pitch + 4 * n) 4)
     let prods := (upto 0 k.kk).map (fun j => FV.mul ((elemFmt k.afmt).val (A j)) ((elemFmt k.bfmt).val (B j)))
     let sum := fun (g size : Nat) => FV.sum .rne ((prods.drop (size * g)).take size)
     let add := fun (x : Nat) (v : FV) => fp32.ofVal .rne 0 (FV.add .rne (fp32.val x) (fp32.val (fp32.ofVal .rne 0 v)))
     let total := ((upto 0 k.kk).map (fun j => signed 8 (A j) * signed 8 (B j))).foldl (· + ·) 0
     c.packed = [] → q.wbPacked = [] → c.badAcc = [] → a.fmt < 12 → k.bfmt < 12 → done ≤ a.rows → 4 * k.nn ≤ t.pitch →
     (m < done → n < k.nn →
       (k.afmt = 1 ∨ k.afmt = 2 →
         cell u = (upto 0 (ceilDiv k.kk 8)).foldl (fun x g => add x (sum g 8)) (cell s) % 2 ^ 32) ∧
         (3 ≤ k.afmt → k.afmt ≤ 6 → cell u = (upto 0 (ceilDiv k.kk 32)).foldl (fun x g =>
           add x (scaleSum (sum g 32) (s.aScale k m g) (s.bScale k n g))) (cell s) % 2 ^ 32) ∧
         (k.afmt = 7 → cell u = ((((cell s / 65536 % 512 : Nat) : Int) + total) % 257).toNat * 65536 +
           ((((cell s / 256 % 256 : Nat) : Int) + total) % 256).toNat * 256 + ((((cell s % 256 : Nat) : Int) + total) % 255).toNat)) ∧
       (∀ g, (k.afmt = 3 ∨ k.afmt = 4 → s.aScale k m g = 127) ∧ (k.bfmt = 3 ∨ k.bfmt = 4 → s.bScale k n g = 127) ∧
         (k.bfmt = 5 ∨ k.bfmt = 6 → s.bScale k n g = (q.wb.read (k.bsc + n * (k.kk / 32) + g)).toNat) ∧
         (k.afmt = 5 ∨ k.afmt = 6 → (k.scn ≤ m * (k.kk / 32) + g → s.aScale k m g = 0xFF) ∧
           ∀ d off, m * (k.kk / 32) + g < k.scn → spadAt k.core (windowBase + k.asc) = some (d, off) →
             s.aScale k m g = ((s.core d).spad.read (off + (m * (k.kk / 32) + g))).toNat)) ∧
       (∀ b, (∀ r, r < done → b < t.base + r * t.pitch ∨ t.base + r * t.pitch + 4 * k.nn ≤ b) →
         (u.core k.core).acc.read b = c.acc.read b) ∧
       (∀ x, x ≠ k.core → u.core x = s.core x) ∧ (u.core k.core).spad = c.spad ∧ u.mem = s.mem ∧ u.clusters = s.clusters) ∧
  (∀ (s : State) (k : Cmd) (done r col : Nat),
     let a := k.tile k.t1
     let g := k.tile k.t3
     let t := k.tile k.t2
     let c := s.core k.core
     let h := k.wbsz / 2
     let blk := col / h
     let j := col % h
     let u := s.mmas k done
     let cb := fun (v : Nat) => (bf16.val (v % 65536), bf16.val (v / 65536))
     let X := fun (x : Tile) (row col : Nat) => cb (leNat (c.spad.readN (x.at_ row col) 4))
     let W := fun (p q : Nat) => cb (leNat ((s.cluster (clusterOf k.core)).wb.readN (k.wbofs + (p * k.qq + q) * 2 * k.wbsz + 4 * j) 4))
     let conj := fun (v : FV × FV) => if j = 0 then v else (v.1, v.2.negate)
     let pairs := match k.mode with
       | 0 => (upto 0 k.qq).map (fun q => (W blk q, X a r (q * h + j)))
       | 1 => (upto 0 k.pp).map (fun p => (conj (W p blk), X a r (p * h + j)))
       | _ => (upto 0 a.rows).map (fun i => (X g i (r * h + j), conj (X a i (blk * h + j))))
     let re := fun (p : (FV × FV) × (FV × FV)) =>
       if j = 0 then [FV.mul p.1.1 p.2.1] else [FV.mul p.1.1 p.2.1, (FV.mul p.1.2 p.2.2).negate]
     let im := fun (p : (FV × FV) × (FV × FV)) =>
       if j = 0 then [FV.mul p.1.2 p.2.2] else [FV.mul p.1.1 p.2.2, FV.mul p.1.2 p.2.1]
     let add := fun (x : Nat) (v : FV) => fp32.ofVal .rne 0 (FV.add .rne (fp32.val x) (fp32.val (fp32.ofVal .rne 0 v)))
     let part := fun (x : State) (i : Nat) => leNat ((x.core k.core).acc.readN (t.base + r * t.pitch + 8 * col + 4 * i) 4)
     let go := fun (terms : (FV × FV) × (FV × FV) → List FV) (i : Nat) =>
       (upto 0 (ceilDiv pairs.length 8)).foldl (fun x n => add x (FV.sum .rne (((pairs.drop (8 * n)).take 8).flatMap terms))) (part s i) %
         2 ^ 32
     c.packed = [] → (s.cluster (clusterOf k.core)).wbPacked = [] → c.badAcc = [] → t.fmt = 10 → 8 * t.cols ≤ t.pitch →
     (r < done → col < t.cols → part u 0 = go re 0 ∧ part u 1 = go im 1) ∧
       (∀ b, (∀ i, i < done → b < t.base + i * t.pitch ∨ t.base + i * t.pitch + 8 * t.cols ≤ b) →
         (u.core k.core).acc.read b = c.acc.read b) ∧
       (∀ x, x ≠ k.core → u.core x = s.core x) ∧ (u.core k.core).spad = c.spad ∧ u.mem = s.mem ∧ u.clusters = s.clusters) ∧
  (∀ (s : State) (k : Cmd) (done i e : Nat),
     let o := k.tile k.t1
     let t := k.tile k.t2
     let c := s.core k.core
     let u := s.drain k done
     let parts := t.rowBytes / 4
     let size := if k.ofmt = 9 then 2 else fmtBytes k.ofmt
     let cell := leNat (c.acc.readN (t.base + i * t.pitch + 4 * e) 4)
     let v := (if t.fmt = 11 then FV.num (recombine cell < 0) (recombine cell).natAbs 0 else fp32.val cell).scale k.oexp
     let rnd := if k.ornd = .sr then random16 k.seed k.srseq (i * parts + e) else 0
     let out := leNat ((u.core k.core).spad.readN (o.base + i * o.pitch + e * size) size)
     c.badAcc = [] → c.badSpad = [] → k.cmp = false → t.rowBytes % 4 = 0 → t.rowBytes ≤ t.pitch → parts * size ≤ o.pitch →
     (k.ofmt = 0 ∨ k.ofmt = 1 ∨ k.ofmt = 2 ∨ k.ofmt = 8 ∨ k.ofmt = 9) →
     (i < done → e < parts →
       (k.ofmt ≠ 8 → out = (elemFmt k.ofmt).ofVal k.ornd rnd v % 256 ^ size) ∧
         (k.ofmt = 8 → ∀ neg m x, v = .num neg m x →
           out = (max (-2 ^ 31) (min (2 ^ 31 - 1) (roundInt k.ornd rnd neg m x)) % 2 ^ 32).toNat)) ∧
       (∀ b, i < done → t.base + i * t.pitch ≤ b → b < t.base + i * t.pitch + t.rowBytes →
         (u.core k.core).acc.read b = if bitAt k.w0 34 then 0 else c.acc.read b) ∧
       (∀ b, (∀ r, r < done → b < o.base + r * o.pitch ∨ o.base + r * o.pitch + parts * size ≤ b) →
         (u.core k.core).spad.read b = c.spad.read b) ∧
       (∀ n, n ≠ k.core → (u.core n).spad = (s.core n).spad ∧ (u.core n).acc = (s.core n).acc) ∧ u.mem = s.mem ∧
       u.clusters = s.clusters ∧
       (∀ x : Int, -8388480 ≤ x → x < 8388480 → recombine (residueAdd 0 x) = x))

/-- `fwd` and `inv` (R215 to R217), on blocks that TS holds whole: the transform of 2^(lg+1) values is a stage of butterflies
over the transforms of the values of even and of odd number, each butterfly e ± t·o with t the twiddle, every product one exact
sum rounded once and every sum rounded once; `fwd` packs the first half of the spectrum of a row's blocks, rounded to BF16, into
TD, and `inv` the real parts of the transform of the unfolded spectrum, scaled by 1/b. Every byte of the scratchpad outside the
rows written reads as before. What the copy engine moves (R182 to R185, R242, R365, R367, R368): a sector of the source row, or
a packed slot whole, joins the row read so far; `gath` and `scat` take the row that their index names, and one that is skipped
writes zeros, or nothing; a row that is read whole goes to its place: to the scratchpad byte by byte and no other byte of it,
for `wfill` to the weight buffer, and for device memory at the end of the write queues of its slices; with RED each element is
added at its slice. The sign of a zero part of a twiddle (log 86) and the time at which a row moves (log 27) are the model's
choices. -/
def Obligations.TransformAndCopyResults : Prop :=
  (∀ (s : State) (k : Cmd) (done r blk i lg : Nat) (inverse : Bool) (z : List (FV × FV)),
     let t := k.tile k.t1
     let d := k.tile k.t2
     let c := s.core k.core
     let w := fmtBytes t.fmt
     let zero := FV.num false 0 0
     let at_ := fun (z : List (FV × FV)) (n : Nat) => z.getD n (zero, zero)
     let rne := fun (v : FV) => fp32.val (fp32.ofVal .rne 0 v)
     let half := fun (odd : Nat) => transform inverse lg ((upto 0 (2 ^ lg)).map (fun n => at_ z (2 * n + odd)))
     let cx := fun (v : FV × FV) => bf16.ofVal .rne 0 v.1 + 65536 * bf16.ofVal .rne 0 v.2
     let x := fun (n : Nat) => leNat (c.spad.readN (t.base + r * t.pitch + n * w) w)
     let f := s.writeRows k ((s.fwdRows k).take done)
     let g := s.writeRows k ((s.invRows k).take done)
     (transform inverse 0 z = [at_ z 0]) ∧
       (z.length = 2 ^ (lg + 1) → i < 2 ^ lg →
         let e := at_ (half 0) i
         let o := at_ (half 1) i
         let tw := twiddle inverse (2 ^ (lg + 1)) i
         let p : FV × FV := (rne (FV.sum .rne [FV.mul tw.1 o.1, (FV.mul tw.2 o.2).negate]),
           rne (FV.sum .rne [FV.mul tw.1 o.2, FV.mul tw.2 o.1]))
         at_ (transform inverse (lg + 1) z) i = (rne (FV.add .rne e.1 p.1), rne (FV.add .rne e.2 p.2)) ∧
           at_ (transform inverse (lg + 1) z) (i + 2 ^ lg) =
             (rne (FV.add .rne e.1 p.1.negate), rne (FV.add .rne e.2 p.2.negate))) ∧
       (c.badSpad = [] → done ≤ t.rows → r < done → 1 ≤ lg → t.bsz = 2 ^ lg → t.fmt < 10 → t.cols % t.bsz = 0 → 2 * t.cols ≤ d.pitch →
         (blk + 1) * t.bsz ≤ t.cols → i < t.bsz / 2 →
         let y := transform false lg ((upto 0 t.bsz).map (fun n => ((elemFmt t.fmt).val (x (blk * t.bsz + n)), zero)))
         leNat ((f.core k.core).spad.readN (d.base + r * d.pitch + 4 * (blk * (t.bsz / 2) + i)) 4) =
           cx (if i = 0 then ((at_ y 0).1, (at_ y (t.bsz / 2)).1) else at_ y i)) ∧
       (c.badSpad = [] → done ≤ t.rows → r < done → 1 ≤ lg → t.bsz = 2 ^ lg → t.fmt = 9 → t.cols % (t.bsz / 2) = 0 → 4 * t.cols ≤ d.pitch →
         (blk + 1) * (t.bsz / 2) ≤ t.cols → i < t.bsz →
         let el := fun (n : Nat) => (bf16.val (x (blk * (t.bsz / 2) + n) % 65536), bf16.val (x (blk * (t.bsz / 2) + n) / 65536))
         let y := transform true lg ((upto 0 t.bsz).map (fun n =>
           if n = 0 then ((el 0).1, zero) else if n = t.bsz / 2 then ((el 0).2, zero)
           else if n < t.bsz / 2 then el n else ((el (t.bsz - n)).1, (el (t.bsz - n)).2.negate)))
         leNat ((g.core k.core).spad.readN (d.base + r * d.pitch + 2 * (blk * t.bsz + i)) 2) =
           bf16.ofVal .rne 0 ((at_ y i).1.scale (-(lg : Int)))) ∧
       (c.badSpad = [] → ∀ rows : List (List Byte), let v := s.writeRows k rows
         (∀ b, (∀ n, n < rows.length → b < d.base + n * d.pitch ∨ d.base + n * d.pitch + (rows.getD n []).length ≤ b) →
           (v.core k.core).spad.read b = c.spad.read b) ∧
           (∀ n, n ≠ k.core → (v.core n).spad = (s.core n).spad) ∧ (∀ n, (v.core n).acc = (s.core n).acc) ∧ v.mem = s.mem ∧
           v.clusters = s.clusters)) ∧
  (∀ (s : State) (k : Cmd) (c off idx budget : Nat) (es : List (Bool × List Byte)),
     let n := k.rowb / 32
     let index := ((s.core k.core).spad.lane (k.indexAt k.row)).toNat
     let idx' := if k.op = some .gath ∨ k.op = some .scat then index else 0
     let src := (if k.op = some .gath then wrapAddr k.src (idx' * k.rowb) else k.srcRow k.row) + 32 * k.sect
     let whole := !(k.red && k.op == some .scat) && (k.rowTo k.row idx' + 32 * k.sect) % 256 == 0 && src % 256 == 0 && 8 ≤ n - k.sect &&
       (s.core c).packed.contains (off / 256)
     let read := fun (t : State) => t.spadFetched k.core (k.indexAt k.row) 4
     let took := fun (t : State) (pk : Bool) (bs : List Byte) => (if k.indexed && k.sect == 0 then read t else t).modCopy k (fun o => { o with
       idx := idx', sect := o.sect + (if pk then 8 else bs.length / 32), buf := o.buf ++ [(pk, bs)] })
     let flat := fun (u : State) (sl : Nat) =>
       (u.slices.queues.get sl []).flatMap (fun e => (upto e.pa e.bytes.length).zip e.bytes)
     (s.currentIndex k = .inr idx' → k.sect < n → spadAt k.core src = some (c, off) →
       (k.op = some .gath ∨ k.op = some .scat → index ≠ 0xFFFFFFFF) →
       (whole = false → 1 ≤ budget → (s.core c).spadSound off 32 = true →
         (s.moveOn k budget).1 = took (s.spadFetched c off 32) false ((s.core c).spad.readN off 32)) ∧
         (whole = true →
           let m := packSectors ((s.core c).spad.readN off 8) + 1
           m ≤ budget → (s.core c).spadSound off (32 * m) = true →
           (s.moveOn k budget).1 = took (s.spadFetched c off (32 * m)) true ((s.core c).spad.readN off (32 * m)))) ∧
       (k.sect = 0 → (k.op = some .gath ∨ k.op = some .scat) → (s.core k.core).spadSound (k.indexAt k.row) 4 = true →
         (s.indexFault k index = none ∨ index = 0xFFFFFFFF → s.currentIndex k = .inr index) ∧
           (index = 0xFFFFFFFF → k.op = some .gath →
             let w := s.writeRow k (List.replicate n (false, List.replicate 32 0)) index
             (s.moveOn k budget).1 = if w.2 then read w.1 else w.1) ∧
           (index = 0xFFFFFFFF → k.op = some .scat → s.moveOn k budget = ((read s).nextRow k none none, budget)) ∧
           (∀ f, index ≠ 0xFFFFFFFF → s.indexFault k index = some f → s.moveOn k budget = (s.failCopy k f, 0))) ∧
       ((∀ e ∈ es, e.1 = false ∧ e.2.length = 32) →
         (k.op ≠ some .wfill → (∀ i, i < es.length → spadAt k.core (k.rowTo k.row idx + 32 * i) = some (c, off + 32 * i)) →
           (s.core c).badSpad = [] →
           let u := (s.writeRow k es idx).1
           (s.writeRow k es idx).2 = true ∧ (u.core c).spad.readN off (32 * es.length) = es.flatMap (·.2) ∧
             (∀ b, b < off ∨ off + 32 * es.length ≤ b → (u.core c).spad.read b = (s.core c).spad.read b) ∧
             (∀ x, x ≠ c → (u.core x).spad = (s.core x).spad) ∧ (∀ x, (u.core x).acc = (s.core x).acc) ∧ u.mem = s.mem ∧
             u.clusters = s.clusters) ∧
           (k.op = some .wfill →
             let q := clusterOf k.core
             let o := bits k.w2 0 23 + k.row * k.rowb
             let u := (s.writeRow k es idx).1
             (u.cluster q).wb.readN o (32 * es.length) = es.flatMap (·.2) ∧
               (∀ b, b < o ∨ o + 32 * es.length ≤ b → (u.cluster q).wb.read b = (s.cluster q).wb.read b) ∧
               (∀ x, x ≠ q → u.cluster x = s.cluster x) ∧ (∀ x, (u.core x).spad = (s.core x).spad ∧ (u.core x).acc = (s.core x).acc) ∧
               u.mem = s.mem)) ∧
       (∀ va pa l pk bs, let u := s.queueWrite k va pa l pk bs
         flat u (s.sliceOf pa) = flat s (s.sliceOf pa) ++ (upto pa bs.length).zip bs ∧ (∀ sl, sl ≠ s.sliceOf pa → flat u sl = flat s sl) ∧
           u.mem = s.mem ∧ u.cores = s.cores ∧ u.clusters = s.clusters) ∧
       (∀ pa ty bs j, s.slices.bad = [] → bs.length % 4 = 0 → j < bs.length / 4 →
         let u := s.reduceAt k.core ty false pa bs
         u.mem.lane (pa + 4 * j) = laneSum ty (s.mem.lane (pa + 4 * j)) (BitVec.ofNat 32 (leNat ((bs.drop (4 * j)).take 4))) ∧
           (∀ b, b < pa ∨ pa + bs.length ≤ b → u.mem.read b = s.mem.read b)))

/-- The engines' queues (R76, R170, R176, R182, R191 to R193): a waiting GO store pushes its command when the accesses it must
follow have performed and there is room; an engine starts the oldest command that its order and the range checker let start; a
sibling pulls a transform command with R = 1; a command whose work and writes are done leaves, with its flag, its record and the
charge of an array command (R381); a waiting RESULT load takes the oldest record. -/
def Obligations.EngineQueues : Prop :=
  ∀ (s : State) (core n : Nat) (eng : Eng) (k : Cmd),
    let cl := clusterOf core
    let u := s.faced cl eng
    (∀ rm ids, (s.ctx core).c.wait = some (.go k rm ids) → s.barred core .c = false → s.mayPush core k.eng ids = true →
      exec (.goPush core) s = .next ((s.push k).release core .c id)) ∧
      (u.nextCmd core eng = some k → u.engineLets k = true → u.chkLets k = true →
        exec (.commandStart core eng) s = .next (s.turned cl eng (fun _ => u.startCmd k core 0))) ∧
      (eng = .xe → u.nextCmd core .xe = some k → bitAt k.w0 55 = true → u.chkLets k = true → (u.xeRunning core).isSome = true →
        (coresOf cl).find? (fun n => n != core && u.mayPull n) = some n →
        exec (.xeSiblingPull core) s = .next (s.turned cl .xe (fun _ =>
          u.startCmd k n (BitVec.ofNat 16 (2 ^ 15 + n % 4 * 2 ^ 13))))) ∧
      (u.finished core eng = some k →
        exec (.commandComplete core eng) s = .next (s.turned cl eng (fun _ =>
          (((u.completionFlag k).engineFree k).chargeFor k.core k.arrayUnits).modCtx core (fun x => { x with eng := { x.eng with
            live := x.eng.live.filter (fun o => !(o.eng == k.eng && o.seq == k.seq))
            records := x.eng.records.set (engNo eng) (x.recs eng ++ [k.record])
            checker := x.eng.checker.map (fun e => if e.id = k.chk then { e with free := some (u.cyc core) } else e) } })))) ∧
      (eng = .copy → core = 4 * cl + (s.cluster cl).cyc % 4 → u.copyRunning core = some k → k.worked = false → k.paused = false →
        k.slot ≠ some (u.cyc core) → k.op ≠ some .flagw → k.op ≠ some .pref →
        exec (.copyEngineSlot cl) s = .next (s.turned cl .copy (fun _ => u.copySlot core k))) ∧
      (∀ d w ws, (s.ctx core).c.wait = some (.result eng d) → s.barred core .c = false → (s.ctx core).recs eng = w :: ws →
        recErr w = 0 →
        exec (.resultLoad core) s = .next (s.release core .c (fun x => (x.popRec eng).putReg d w)))

/-- The releases of a waiting C (R78, R87, R93, R94, R97, R101, R112, R388): when its answer is there, or its condition holds,
its head leaves, and the answer is written to the register that the instruction named. A wait that ends in a fault (R79, R145,
R172, R243, R284): the fault of the access, of the fence's accesses, of the batch, of a fenced sibling, or of a domain that
sleeps; the instruction stays at its head. -/
def Obligations.WaitsOfC : Prop :=
  (∀ (s : State) (core : Nat) (r : Reg) (v : Word), s.barred core .c = false →
     let x := s.ctx core
     let w := x.c.wait
     (∀ id f, w = some (.reply id (some v) f (some r)) →
       exec (.cLoadReply core) s = .next (s.release core .c (fun y => y.putReg r v))) ∧
       (∀ scp mask ids a, w = some (.fence scp mask ids a) → s.settled core scp ids = true → x.failOf scp mask = none →
         exec (.fenceRelease core) s = .next (s.release core .c id)) ∧
       (∀ c off slot cnd b, w = some (.waita c off slot cnd b r none) → s.isFenced core c = false →
         icndHolds cnd ((s.core c).spad.lane off) b = true →
         exec (.waitaRelease core) s = .next ((s.acquire core (s.flagPair c off)).release core .c (fun y =>
           y.putReg r (((s.core c).spad.lane off).setWidth 64)))) ∧
       (∀ c off slot cnd b u pair, w = some (.waita c off slot cnd b r (some (u, pair))) → s.isFenced core c = false →
         exec (.waitaRelease core) s = .next ((s.acquire core pair.toList).release core .c (fun y => y.putReg r (u.setWidth 64)))) ∧
       (∀ (y : Ctx) word c off n pair o cnd b d, y.c.wait = some (.waita c o 0 cnd b d none) → o < off + n → off < o + 4 →
         icndHolds cnd (word o) b = true →
         (y.noteWrite word c off n pair).c.wait = some (.waita c o 0 cnd b d (some (word o, pair)))) ∧
       (∀ op n scp mask ids h slot g, w = some (.sync op n scp mask ids h slot (some v) (some r) g) →
         exec (.syncRelease core) s = .next (s.release core .c (fun y => y.putReg r v))) ∧
       (∀ eng b, w = some (.waitb eng b) → x.batchDone eng b = true → x.batchError eng b = none →
         exec (.waitbRelease core) s = .next (s.release core .c (fun y => y.dropBatch eng b))) ∧
       (w = some (.recv r) → x.sendHead = some v →
         exec (.recvRelease core) s = .next (s.release core .c (fun y => { y with send := y.send.tail }.putReg r v)))) ∧
  (∀ (s : State) (core : Nat), s.barred core .c = false → (s.ctx core).mode = .run →
     let x := s.ctx core
     let w := x.c.wait
     let cut := fun (f : Ctx → Ctx) => s.modCtx core (fun y => f (y.modStrm .c Stream.cut))
     (∀ k t r, w = some (.reply k none (some t) r) → exec (.cLoadReply core) s = .next ((cut id).raise core .c t)) ∧
       (∀ scp mask ids a cls sc t, w = some (.fence scp mask ids a) → s.settled core scp ids = true →
         x.failOf scp mask = some (cls, sc, t) →
         exec (.fenceRelease core) s =
           .next ((cut (fun y => { y with fails := x.fails.erase (cls, sc, t) })).raise core .c t)) ∧
       (∀ eng b e, w = some (.waitb eng b) → x.batchDone eng b = true → x.batchError eng b = some e →
         exec (.waitbRelease core) s = .next ((cut (fun y => y.dropRec eng e)).raise core .c { cause := errCause (recErr e), record := e })) ∧
       (∀ c off slot cnd b r, w = some (.waita c off slot cnd b r none) → s.isFenced core c = true →
         ∃ va, exec (.waitaRelease core) s = .next ((cut id).raise core .c { cause := .winlost, va := va, core := c })) ∧
       (∀ st dt mask i, s.barred core st = false → (x.strm st).wait = some (.wstat dt mask) → s.wstatFault core dt mask = some i →
         ∃ t : Trap, t.cause = .sleeping ∧ exec (.wstatRelease core st) s =
           .next ((s.modCtx core (fun y => y.modStrm st Stream.cut)).raise core st t)))

/-- The other releases (R98, R118, R126, R145, R195, R232, R278): a wait for domains ends when all are awake; a sibling's grid
line lets L go on; the walker answers the oldest request of a region, with S1 to S6; the array lease goes to the first asking
core after the last holder, no earlier than issue + 4, and ends 16 µs after its grant. The homes (R103 to R107): a step gathers
the operations whose releases have completed, and applies the oldest operation of a ring that may proceed, answering its core; a
barrier counts an arrival, and the last one completes the generation, raises it, and answers every core that waits with its
number. That the update of P comes at the release is the model's reading (log 29). -/
def Obligations.GrantsAndHomes : Prop :=
  (∀ (s : State) (core : Nat) (st : Strm),
     let x := s.ctx core
     (∀ dt mask, s.barred core st = false → (x.strm st).wait = some (.wstat dt mask) → s.wstatFault core dt mask = none →
       s.allAwake core dt mask = true → exec (.wstatRelease core st) s = .next (s.release core st id)) ∧
       (∀ id mv, s.barred core .l = false → x.l.wait = some (.gridLoad id mv) → x.posted.any (fun a => a.id == id) = false →
         exec (.gridLoadLand core) s = .next (s.release core .l (fun y =>
           match mv with
           | some (p, v) => y.setP false p v (s.cyc core)
           | none => y))) ∧
       (∀ due r, s.barred core .c = false → x.c.wait = some (.iter due) → due ≤ s.cyc core → s.regionOf core = some r →
         r.iterQ.head? = some core →
         exec (.iterAnswer core) s =
           .next ((s.modRegion x.launch.part x.launch.region (fun q => { q.answer.2 with iterQ := q.iterQ.tail })).release core .c
             (fun y => y.setIter r.answer.1))) ∧
       (∀ cl n d, (s.cluster cl).holder = none → (s.cluster cl).freeFrom ≤ (s.cluster cl).cyc →
         ((upto 1 4).map (fun k => 4 * cl + ((s.cluster cl).leaseLast + k) % 4)).find? (fun k => (s.leaseAsks k).isSome) = some core →
         s.leaseAsks core = some (n, d) →
         exec (.leaseGrant cl) s = .next ((s.modCluster cl (fun c =>
           { c with holder := some core, left := n, granted := s.timeAt cl, leaseLast := core % 4 })).release core .c
             (fun y => y.putReg d (BitVec.ofNat 64 (s.timeAt cl))))) ∧
       (∀ cl, cl = clusterOf core → (s.cluster cl).holder = some core → (s.cluster cl).granted + 16000 ≤ s.timeAt cl →
         exec (.leaseTimeout cl) s = .next (s.modCluster cl (fun c =>
           { c with holder := none, left := 0, freeFrom := c.cyc + 1 })))) ∧
  (∀ (s : State) (p n : Nat) (o : HomeOp) (t : List HomeOp),
     let ug := s.gather p false n
     let ub := s.gather p true n
     let i := fun (u : State) => (u.core o.core).race.intv.toNat
     (∀ r : Ring, ((ug.part p).ring n).pick = some (o, r) → r.refuses o.op o.slot = false →
       let u := ((ug.modPart p (fun q => { q with rings := q.rings.put n (r.apply o (i ug)) })).acquire o.core
         (r.acquires o.op)).modCtx o.core (fun x => x.answered (r.value o.op))
       exec (.homeApply p false n) s = .next (if o.op.releases then u.closeInterval o.core else u)) ∧
       (((ub.part p).barrier n).arrivals = o :: t →
         let b := (ub.part p).barrier n
         let u := (ub.closeInterval o.core).modCtx o.core (fun x =>
           { x with c := { x.c with wait := x.c.wait.map (Wait.joined b.gen.toNat) } })
         let ws := b.waiting ++ [(o.core, i ub)]
         let put := fun (b' : Barrier) => u.modPart p (fun q => { q with bars := q.bars.put n b' })
         exec (.homeApply p true n) s = .next (if b.count + 1 < b.need then
             put { b with arrivals := t, count := b.count + 1, waiting := ws }
           else ws.foldl (fun v w => v.openBar n b.gen ws w.1)
             (put { b with arrivals := t, count := 0, gen := b.gen + 1, waiting := [] }))))

/-- The direct accesses (R90, R91, R121, R123, R124, R126 to R128, R235), one due at a time. A load gives its register the
bytes, extended; a store writes the bytes it names; an atomic writes the new value, its register takes the old one, and a
compare that fails writes nothing. A line load of `ldq`, `ldg`, `ldb` or `lda` sends its lanes, converted by CV, to its LQ entry
or its grid line, 12 cycles after its issue, 14 with a packed slot expanded into an entry, and 16 from the accumulator store;
with data that do not match their check an entry is marked with INTEGRITY, and a grid load is put back. `sta` writes the
accumulator store. Every byte of every scratchpad, accumulator store and weight buffer that is not stored to reads as before,
and so does device memory but for the ring of the machine-check records (R360, R362). The conversions of line loads and stores
(R124): without one, four bytes a lane, lowest first; BF16 and FP16 elements are converted to FP32, signed bytes are extended;
`ldb` gives every lane the one element; a store rounds to nearest even, or saturates to a signed byte. -/
def Obligations.DirectAccesses : Prop :=
  (∀ (s : State) (core : Nat) (a : Acc),
     (s.core core).direct.filter (fun b => b.due ≤ s.cyc core) = [a] →
     let u := s.modCore core (fun k => { k with direct := k.direct.filter (fun b => !(b.due ≤ s.cyc core)) })
     let put := fun (t : State) (d : Reg) (v : Word) => t.modCtx core (fun x => x.putReg d v)
     let ring := bits s.mgmt.mcbase 0 42
     (∀ c off, a.place = .spad c off →
       let rd := fun (n : Nat) => (s.core c).spad.readN off n
       (∀ sz sx d, a.kind = .load sz sx d → exec (.directAccessPerform core) s =
         .next (put (u.spadFetched c off (szBytes sz)) d (extend sz sx (rd (szBytes sz))))) ∧
         (∀ v, a.kind = .store v → exec (.directAccessPerform core) s = .next (u.spadWrite c off v)) ∧
         (∀ n d old, ((∃ w op b, a.kind = .amo w op b d ∧ n = if w then 4 else 8) ∨
             ∃ w b e, a.kind = .cas w b e d ∧ n = if w then 4 else 8) →
           (∀ v, a.kind.update (rd n) = some (some v, old) →
             exec (.directAccessPerform core) s = .next (put (u.spadWrite c off v) d old)) ∧
             (a.kind.update (rd n) = some (none, old) → exec (.directAccessPerform core) s = .next (put (u.spadFetched c off n) d old))) ∧
         (∀ dst one cv, a.kind = .lineLoad dst one cv →
           let n := if cv = .pk then (s.core c).slotFetch off else a.kind.width
           let v := if cv = .pk then lanesOfBytes 64 ((s.core c).slotBytes off) else cvLanes one cv (rd a.kind.width)
           let sound := if cv = .pk then (s.core c).slotSound off else (s.core c).spadSound off a.kind.width
           let t := u.spadFetched c off n
           let due := a.issued + (if cv = .pk then 14 else 12)
           ∃ bad : Trap, bad.cause = .integrity ∧ bad.va = BitVec.ofNat 64 a.addr ∧
             (∀ q id, dst = .lq q id → exec (.directAccessPerform core) s = .next (t.modCtx core (fun x =>
               { x with fills := x.fills ++ [{ due := due, q := q, id := id, lanes := v, bad := if sound then none else some bad }] }))) ∧
             (∀ l, dst = .line l →
               (sound = true → exec (.directAccessPerform core) s = .next (t.modCtx core (fun x =>
                 { x with pend := x.pend ++ [{ due := a.issued + 12, issued := a.issued, st := .l, mask := 0,
                                               dst := .line l (BitVec.allOnes 64) v, captured := x.captures }] }))) ∧
                 (sound = false → exec (.directAccessPerform core) s = .next (t.modCtx core (fun x => x.gridFail a.id bad))))) ∧
         (∀ v t, (a.kind = .store v ∨ ∃ old, a.kind.isAtom = true ∧ a.kind.update (rd a.kind.width) = some (some v, old)) →
           exec (.directAccessPerform core) s = .next t →
           (∀ b, b < off ∨ off + v.length ≤ b → (t.core c).spad.read b = (s.core c).spad.read b) ∧
             (∀ n, n ≠ c → (t.core n).spad = (s.core n).spad) ∧ (∀ n, (t.core n).acc = (s.core n).acc) ∧ t.clusters = s.clusters ∧
             (s.mgmt.mcwptr % 32 = 0 → ∀ b, b < ring ∨ ring + 65536 ≤ b → t.mem.read b = s.mem.read b))) ∧
       (∀ off, a.place = .acc off →
         let v := (s.core core).acc.readN off 256
         let t := u.accFetched core off 256
         (∀ q id, a.kind = .lineLoad (.lq q id) false .none → (s.core core).accSound off 256 = true →
           exec (.directAccessPerform core) s = .next (t.modCtx core (fun x =>
             { x with fills := x.fills ++ [{ due := a.issued + 16, q := q, id := id, lanes := lanesOfBytes 64 v, bad := none }] }))) ∧
           (∀ l, a.kind = .lineLoad (.line l) false .none → (s.core core).accSound off 256 = true →
             exec (.directAccessPerform core) s = .next (t.modCtx core (fun x =>
               { x with pend := x.pend ++ [{ due := a.issued + 16, issued := a.issued, st := .l, mask := 0,
                                             dst := .line l (BitVec.allOnes 64) (lanesOfBytes 64 v), captured := x.captures }] }))) ∧
           (∀ w t, a.kind = .store w → exec (.directAccessPerform core) s = .next t →
             t = u.accWrite core off w ∧
               (∀ b, b < off ∨ off + w.length ≤ b → (t.core core).acc.read b = (s.core core).acc.read b) ∧
               (∀ n, n ≠ core → (t.core n).acc = (s.core n).acc) ∧ (∀ n, (t.core n).spad = (s.core n).spad) ∧
               t.clusters = s.clusters ∧
               (s.mgmt.mcwptr % 32 = 0 → ∀ b, b < ring ∨ ring + 65536 ≤ b → t.mem.read b = s.mem.read b)))) ∧
  (∀ (bs : List Byte) (v : List Lane) (j : Nat), j < 64 →
     let el := fun (n : Nat) => leNat ((bs.drop (n * j)).take n)
     ((cvLoad .none bs).getD j 0 = BitVec.ofNat 32 (el 4) ∧
       (cvLoad .bf16 bs).getD j 0 = BitVec.ofNat 32 (bf16.convert fp32 .rne 0 (el 2)) ∧
       (cvLoad .f16 bs).getD j 0 = BitVec.ofNat 32 (fp16.convert fp32 .rne 0 (el 2)) ∧
       (cvLoad .i8 bs).getD j 0 = (bs.getD j 0).signExtend 32) ∧
       ((cvLoadOne .none bs).getD j 0 = BitVec.ofNat 32 (leNat bs) ∧
         (cvLoadOne .bf16 bs).getD j 0 = BitVec.ofNat 32 (bf16.convert fp32 .rne 0 (leNat bs)) ∧
         (cvLoadOne .f16 bs).getD j 0 = BitVec.ofNat 32 (fp16.convert fp32 .rne 0 (leNat bs))) ∧
       (v.length = 64 →
         ((cvStore .none v).drop (4 * j)).take 4 = leBytes 4 (v.getD j 0).toNat ∧
         ((cvStore .bf16 v).drop (2 * j)).take 2 = leBytes 2 (fp32.convert bf16 .rne 0 (v.getD j 0).toNat) ∧
         ((cvStore .f16 v).drop (2 * j)).take 2 = leBytes 2 (fp32.convert fp16 .rne 0 (v.getD j 0).toNat) ∧
         (cvStore .i8 v).getD j 0 = BitVec.ofInt 8 (max (-128) (min 127 (v.getD j 0).toInt))))

/-- Writes (R5, R237, R360, R361, R365, R366): a write to a scratchpad, to an accumulator store, to a weight buffer or to device
memory that meets no sector in part which does not read as it was stored leaves its bytes, lowest address first, and no other
byte of any memory changes, but for the ring of the machine-check records; one that meets one is not applied. A packed block
leaves zero in word 0 of its slot and the packed bit. In a page with C = 1 a reader sees what was written, also the marker,
which is never stored raw but in word 0 of a packed slot; a write of it is refused only with the list of exceptions full. With
no sector flawed, a write changes nothing of the state but memory (and its list of exceptions). The codes under the check of a
sector are the model's choice (log 75), and so are the entries of the list of exceptions (log 51). -/
def Obligations.MemoryWrites : Prop :=
  ∀ (s : State) (core a : Nat) (v : List Byte),
    let spadBad := !(partSectors a v.length).all (sramSound (s.core core).spad (s.core core).badSpad)
    let accBad := !(partSectors a v.length).all (sramSound (s.core core).acc (s.core core).badAcc)
    let devBad := !(partSectors a v.length).all s.sectorSound
    let out := fun (b : Nat) => b < a ∨ a + v.length ≤ b
    let ring := bits s.mgmt.mcbase 0 42
    let kept := fun (t : State) => t.clusters = s.clusters ∧
      (s.mgmt.mcwptr % 32 = 0 → ∀ b, b < ring ∨ ring + 65536 ≤ b → t.mem.read b = s.mem.read b)
    (spadBad = false →
      let t := s.spadWrite core a v
      (t.core core).spad.readN a v.length = v ∧ (∀ b, out b → (t.core core).spad.read b = (s.core core).spad.read b) ∧
        (∀ n, n ≠ core → (t.core n).spad = (s.core n).spad) ∧ (∀ n, (t.core n).acc = (s.core n).acc) ∧ kept t) ∧
      (accBad = false →
        let t := s.accWrite core a v
        (t.core core).acc.readN a v.length = v ∧ (∀ b, out b → (t.core core).acc.read b = (s.core core).acc.read b) ∧
          (∀ n, n ≠ core → (t.core n).acc = (s.core n).acc) ∧ (∀ n, (t.core n).spad = (s.core n).spad) ∧ kept t) ∧
      (spadBad = true → ∀ n b, ((s.spadWrite core a v).core n).spad.read b = (s.core n).spad.read b) ∧
      (accBad = true → ∀ n b, ((s.accWrite core a v).core n).acc.read b = (s.core n).acc.read b) ∧
      (let t := s.wbWrite core a v false
       (t.cluster core).wb.readN a v.length = v ∧ (∀ b, out b → (t.cluster core).wb.read b = (s.cluster core).wb.read b) ∧
         (∀ n, n ≠ core → t.cluster n = s.cluster n) ∧ t.cores = s.cores ∧ t.mem = s.mem) ∧
      (4 ≤ v.length → a % 256 = 0 → v.length ≤ 256 →
        (let t := s.wbWrite core a v true
         (t.cluster core).wb.readN a v.length = leBytes 4 0 ++ v.drop 4 ∧ a / 256 ∈ (t.cluster core).wbPacked) ∧
          (spadBad = false →
            let t := s.spadPacked core a v
            (t.core core).spad.readN a v.length = leBytes 4 0 ++ v.drop 4 ∧ a / 256 ∈ (t.core core).packed)) ∧
      (devBad = false → ∃ t, s.devWrite false a v = some t ∧ t.mem.readN a v.length = v ∧ t.cores = s.cores ∧ t.clusters = s.clusters ∧
        (s.mgmt.mcwptr % 32 = 0 → ∀ b, out b → b < ring ∨ ring + 65536 ≤ b → t.mem.read b = s.mem.read b)) ∧
      (devBad = true → ∀ cpg, s.devWrite cpg a v = none) ∧
      (s.slices.bad = [] →
        s.devWrite false a v = some { s with mem := s.mem.writeN a v } ∧
          (a % 256 + v.length ≤ 256 → v ≠ [] →
            (∀ t, s.devWrite true a v = some t → t.devRead true a v.length = v ∧
              (∀ b, out b → t.devByte true b = s.devByte true b) ∧ t.mem.lane (a / 256 * 256) ≠ s.mgmt.marker ∧
              t = { s with mem := t.mem, slices := { s.slices with exceptions := t.slices.exceptions } }) ∧
              (s.devWrite true a v = none → exceptionRoom ≤
                (s.slices.exceptions.filter (fun k => s.sliceOf (256 * k) == s.sliceOf a)).length)) ∧
          (a % 256 = 0 → 4 ≤ v.length →
            (s.devWritePacked false a v).mem = s.mem.writeN a v ∧
              let t := s.devWritePacked true a v
              t.packedAt true a = true ∧ t.devByte true a = 0 ∧ t.mem.readN (a + 4) (v.length - 4) = v.drop 4 ∧
                (∀ b, out b → t.mem.read b = s.mem.read b) ∧ ¬ a / 256 ∈ t.slices.exceptions))

/-- The class FIFOs (R234, R236, R242, R243, R316, R352): the oldest entry of a class performs when it may, its flit going out,
and leaves its FIFO; with a lease that has expired at its place it is translated again; an atomic without a reply for 20 µs is
sent again, three times at most. Accesses at their places (R86, R90 to R92, R126, R130, R132, R237, R242, R284, R360): at device
memory that is sound and reachable, outside the race checks, and at a sibling's scratchpad that is not fenced, a load answers
with the bytes, a store leaves its bytes and answers, an atomic answers with the old value and leaves the new one, if it has
one; a lane of a vector load settles its lane of the LQ entry, and an added lane leaves the sum; a line from a sibling fills its
LQ entry, or is visible in its grid line in the next cycle. An access that is not sound fails with INTEGRITY, one out of reach
with REMOTE, and one at a fenced scratchpad with WINLOST, but the load of an LQ entry; a lane of a load marks its entry. The
errors that a fetch corrects are recorded (R358, R361). That the flit goes out in the step in which the access performs is the
model's choice (log 77), and so is what a lane of an LQ load takes at a fenced scratchpad or after a second translation (log
84). Peer devices are left out here (log 40). -/
def Obligations.ClassFifos : Prop :=
  (∀ (s : State) (core : Nat) (cls : BitVec 4) (a : Acc) (t : List Acc),
     let u := s.facing core cls
     let put := fun (l : List Acc) => u.modCtx core (fun x => x.setFifo cls.toNat l)
     (u.ctx core).fifoOf cls.toNat = a :: t →
     (u.mayPerform core a = true → exec (.perform core cls) s = .next (s.onFifo core cls (fun _ =>
         ((put t).sendTo core (a.kind.sends.getD [])
           (if a.kind.answers then u.placeBytes core a.place a.kind.width a.cpg else []) false a.place).performAt core a))) ∧
       (u.mayPerform core a = false → exec (.perform core cls) s = .next (s.onFifo core cls (fun _ => u))) ∧
       (∀ e, a.expiry = some e → e ≤ u.placeTime a.place → a.parked = false →
         exec (.leaseExpiry core cls) s = .next (s.onFifo core cls (fun _ => u.askWalk core a.addr
           { core := core, why := .acc cls a.id, va := a.addr, lane := a.lane, r := a.kind.reads || a.kind.isAtom,
             w := !a.kind.reads }))) ∧
       (a.tag.isSome = true → a.sentAt + 20000 ≤ u.time →
         (a.resent < 3 → exec (.atomicResend core cls) s = .next (s.onFifo core cls (fun _ =>
           put ({ a with resent := a.resent + 1, sentAt := u.time } :: t)))) ∧
           (3 ≤ a.resent → exec (.atomicResend core cls) s = .next (s.onFifo core cls (fun _ => (put t).accFail core a .remote))))) ∧
  (∀ (s : State) (core : Nat) (a : Acc) (p : Place),
     a.place = p → a.d = false →
     (∀ pa, p = .dev pa →
       (s.reaches core pa = false → s.performAt core a = s.accFail core a .remote) ∧
         (s.reaches core pa = true →
           (∀ sz sx d, a.kind = .load sz sx d → s.slotSound a.cpg pa (szBytes sz) = true → s.isDead pa = false →
             let t := s.fetched pa (szBytes sz)
             s.performAt core a = t.modCtx core (fun x => x.reply a.id (some (extend sz sx (t.devRead a.cpg pa (szBytes sz)))) none)) ∧
             (∀ sz sx d, a.kind = .load sz sx d → s.slotSound a.cpg pa (szBytes sz) = false → s.performAt core a =
               s.accFail core a .integrity) ∧
             (s.isDead pa = true → s.performAt core a = s.accFail core a .integrity) ∧
             (∀ v t, a.kind = .store v → s.isDead pa = false → s.devWrite a.cpg pa v = some t → s.performAt core a =
               t.modCtx core (fun x => x.reply a.id (some 0) none)) ∧
             (∀ q id j, a.kind = .laneLoad q id j → s.isDead pa = false →
               (s.slotSound a.cpg pa 4 = true →
                 let t := s.fetched pa 4
                 s.performAt core a = t.modCtx core (fun x => x.mapLq q.toNat id (fun e =>
                   e.settle j (BitVec.ofNat 32 (leNat (t.devRead a.cpg pa 4))) none))) ∧
                 (s.slotSound a.cpg pa 4 = false → (s.ctx core).awaits a.id = false →
                   ∃ t : Trap, t.cause = .integrity ∧ t.lane = a.lane ∧
                     s.performAt core a = s.modCtx core (fun x => x.mapLq q.toNat id (fun e => e.settle j 0 (some t))))) ∧
             (∀ n v old, ((∃ w op b d, a.kind = .amo w op b d ∧ n = (if w then 4 else 8)) ∨
                 (∃ w b e d, a.kind = .cas w b e d ∧ n = (if w then 4 else 8)) ∨ (n = 4 ∧ ∃ ty x, a.kind = .laneAdd ty x)) →
               s.slotSound a.cpg pa n = true → s.isDead pa = false →
               s.tagFind core (s.sliceOf pa) (a.tag.getD 0) = none → a.kind.update (s.devRead a.cpg pa n) = some (v, old) →
               (∀ bs u, v = some bs → s.devWrite a.cpg pa bs = some u → s.performAt core a =
                 (u.tagPut core (s.sliceOf pa) (a.tag.getD 0) old).modCtx core (fun x => x.reply a.id (some old) none)) ∧
               (v = none → s.performAt core a =
                 ((s.fetched pa n).tagPut core (s.sliceOf pa) (a.tag.getD 0) old).modCtx core (fun x => x.reply a.id (some old) none))))) ∧
       (∀ c off, p = .spad c off → s.isFenced core c = true → (∀ q id one cv, a.kind ≠ .lineLoad (.lq q id) one cv) →
         s.performAt core a = s.spadLost core a c) ∧
       (∀ c off, p = .spad c off → s.isFenced core c = false →
         let rd := fun (n : Nat) => (s.core c).spad.readN off n
         (∀ sz sx d, a.kind = .load sz sx d →
           ((s.core c).spadSound off (szBytes sz) = true → s.performAt core a =
             (s.spadFetched c off (szBytes sz)).modCtx core (fun x => x.reply a.id (some (extend sz sx (rd (szBytes sz)))) none)) ∧
             ((s.core c).spadSound off (szBytes sz) = false → s.performAt core a = s.accFail core a .integrity)) ∧
           (∀ v, a.kind = .store v → s.performAt core a =
             ((s.spadWrite c off v).modCtx core (fun x => x.chkFree a.id (s.cyc core))).modCtx core
               (fun x => x.reply a.id (some 0) none)) ∧
           (∀ n v old, ((∃ w op b d, a.kind = .amo w op b d ∧ n = (if w then 4 else 8)) ∨
               ∃ w b e d, a.kind = .cas w b e d ∧ n = (if w then 4 else 8)) → a.kind.update (rd n) = some (v, old) →
             ((s.core c).spadSound off n = false → s.performAt core a = s.accFail core a .integrity) ∧
               ((s.core c).spadSound off n = true →
                 (∀ bs, v = some bs → s.performAt core a =
                   (s.spadWrite c off bs).modCtx core (fun x => x.reply a.id (some old) none)) ∧
                 (v = none → s.performAt core a =
                   (s.spadFetched c off n).modCtx core (fun x => x.reply a.id (some old) none)))) ∧
           (∀ dst one cv, a.kind = .lineLoad dst one cv → cv ≠ .pk →
             let n := a.kind.width
             let v := cvLanes one cv (rd n)
             let sound := (s.core c).spadSound off n
             let t := (s.spadFetched c off n).modCtx core (fun x => x.chkFree a.id (s.cyc core))
             ∃ bad : Trap, bad.cause = .integrity ∧
               (∀ q id, dst = .lq q id → s.performAt core a = t.modCtx core (fun x => x.mapLq q.toNat id (fun e =>
                 { e with filled := true, lanes := v, left := 0, bad := e.bad.or (if sound then none else some bad) }))) ∧
               (∀ l, dst = .line l →
                 (sound = true → s.performAt core a = t.modCtx core (fun x => { x with pend := x.pend ++
                   [{ due := s.cyc core + 1, issued := a.issued, st := .l, mask := 0, dst := .line l (BitVec.allOnes 64) v,
                      captured := false }] })) ∧
                   (sound = false → s.performAt core a = t.modCtx core (fun x => x.modStrm .l (fun h => h.failed bad)))))))

/-- Slices, walks and couplings (R133, R246, R247, R289 to R292, R298, R358, R366, R368): a slice applies the oldest entry of
its write queue whole, and one that it cannot apply is the failure of a posted store; an entry of a page with D = 1 is checked
as it performs, and one with a conflict that trap mode stops stays unwritten and ends its command with RACE; at a slice that
does not answer its command ends with INTEGRITY (R172), and one whose lease has expired at its slice keeps its place and is
translated again (R243). The oldest walk of a cluster reads its next entry and goes a level down, or returns to all its
requesters at a leaf or a bad entry; it is held while its flit cannot move; where there is no memory it ends with XLATE (R287),
out of reach with REMOTE (R351), and with INTEGRITY, and a machine-check record, where the slice does not answer or the entry
does not match its check (R358, R362). A host page is asked for through ATS with the partition's PASID at the router of the host
link; a coupled queue entry moves 24 cycles after it was filled, when its LQ has room, between clusters by the route of their
routers (log 85). Which writes a slice cannot apply (logs 51, 75), the flit that holds a walk (log 77), entries of a page with C
= 1 (log 75) and the cases of a coupling that R223 does not give (log 85) are the model's choices. -/
def Obligations.SlicesWalksCouplings : Prop :=
  ∀ (s : State),
    (∀ slice e t, s.slices.queues.get slice [] = e :: t →
      let u := { s with slices := { s.slices with
        queues := if t = [] then s.slices.queues.del slice else s.slices.queues.put slice t } }
      (∀ x, e.expiry = some x → x ≤ s.sliceTime e.pa → exec (.sliceEntryApply slice) s =
        .next (s.turned (clusterOf e.core) .copy (fun s => s.askEntry e)) ∧
          ∀ k, (s.ctx e.core).liveCmd .copy e.seq = some k → k.migrates true e.va = false → s.askEntry e = s.askWalk e.core e.va
            { core := e.core, why := .copy e.seq, va := e.va, lane := none, r := k.red && k.op == some .scat, w := true }) ∧
      ((∀ x, e.expiry = some x → s.sliceTime e.pa < x) →
        (u.isDead e.pa = true → exec (.sliceEntryApply slice) s = .next (u.turned (clusterOf e.core) .copy (fun u =>
          (u.checkAt (u.devSite e.pa 32) (u.ctx e.core).launch.part).endCopy e.core e.seq .integrity))) ∧
        (u.isDead e.pa = false → exec (.sliceEntryApply slice) s = .next (u.turned (clusterOf e.core) .copy (fun u =>
          match u.entryRace e with
          | some v => v.applyEntry slice e
          | none => u.endCopy e.core e.seq .race))))) ∧
      (∀ (slice : Nat) (e : SliceEntry),
        (e.d = false → s.entryRace e = some s) ∧
        (e.d = true → e.pa % 32 = 0 → e.bytes.length = 32 →
          s.entryRace e = s.raceCheck e.core 5 true e.va (e.pa / 32) e.head e.intv .device) ∧
        (e.packed = true → s.applyEntry slice e = s.devWritePacked e.cpg e.pa e.bytes) ∧
        (∀ w, e.packed = false → s.devWrite e.cpg e.pa e.bytes = some w → s.applyEntry slice e = w) ∧
        (e.packed = false → s.devWrite e.cpg e.pa e.bytes = none → s.applyEntry slice e =
          (s.machineCheck 0 (s.refusedKind e.pa e.bytes.length) slice (s.ctx e.core).launch.part e.pa 0).postedFail e.core e.pa)) ∧
      (∀ cl k, (s.cluster cl).running.find? (fun k => !k.ats) = some k →
        s.xlateCheck (4 * cl) k.part k.va = none → s.rodataLease k.part k.va s.time = none →
        let set := fun (u : State) (k' : Walk) =>
          u.modCluster cl (fun c => { c with walks := c.walks.map (fun o => if o == k then k' else o) })
        let pa := k.table % 2 ^ 42 + 8 * pteIndex k.level k.va
        let r := clusterRouter cl
        let pte := s.pte (s.physWord pa) k.level k.va (s.sliceTime pa)
        let u := (s.sendFlit r pa [] (s.devRead true pa 8) false).fetched pa 8
        let room := decide (pa < s.slices.capacity)
        let host : AtsReq := { cl := cl, va := k.va / 4096 * 4096, pasid := bits (s.part k.part).xlcfg 32 20 }
        (k.va < 2 ^ 55 →
          (s.reachesRouter r s.outerRouter = false ∨ s.reachesRouter s.outerRouter r = false →
            exec (.walkReturn cl) s = .next (s.endWalk cl k (.fail .remote))) ∧
            (s.reachesRouter r s.outerRouter = true → s.reachesRouter s.outerRouter r = true → s.routeMoves r s.outerRouter 0 16 = false →
              exec (.walkReturn cl) s = .next s) ∧
            (s.reachesRouter r s.outerRouter = true → s.reachesRouter s.outerRouter r = true → s.routeMoves r s.outerRouter 0 16 = true →
              let t := (set s { k with ats := true }).sendOn r s.outerRouter k.va [] false
              exec (.walkReturn cl) s = .next { t with fabric := { t.fabric with ats := t.fabric.ats ++ [host] } })) ∧
          (2 ^ 55 ≤ k.va → room = false ∨ (s.isLocal k.table = false ∧ k.level = 3) →
            exec (.walkReturn cl) s = .next (s.endWalk cl k (.fail .xlate))) ∧
          (2 ^ 55 ≤ k.va → room = true → (s.isLocal k.table = true ∨ k.level ≠ 3) →
            (s.reachesFrom r pa = false → exec (.walkReturn cl) s = .next (s.endWalk cl k (.fail .remote))) ∧
            (s.reachesFrom r pa = true → s.moves r pa 0 8 = false → exec (.walkReturn cl) s = .next s) ∧
            (s.reachesFrom r pa = true → s.moves r pa 0 8 = true →
              (s.isDead pa = true ∨ s.slotSound true pa 8 = false →
                exec (.walkReturn cl) s = .next ((s.checkAt (s.devSite pa 8) k.part).endWalk cl k (.fail .integrity))) ∧
              (s.isDead pa = false → s.slotSound true pa 8 = true →
                (pte = .bad → exec (.walkReturn cl) s = .next (u.endWalk cl k (.fail .xlate))) ∧
                (∀ t, pte = .table t → exec (.walkReturn cl) s = .next (set u { k with level := k.level - 1, table := t })) ∧
                (∀ e m, pte = .leaf e m → exec (.walkReturn cl) s = .next (u.endWalk cl k (.lease e m))))))) ∧
      (∀ core sq dst lq e t, (s.ctx core).launch.cplOut.find? (fun c => c.1 == sq) = some (sq, dst, lq) →
        (s.ctx core).squeue sq = e :: t → e.filled = true → e.at_ + 24 ≤ s.cyc core → ((s.ctx dst).lqueue lq).length < 16 →
        (s.ctx core).stopped = false → (s.ctx dst).stopped = false → (s.ctx core).sibling (s.ctx dst) = true →
        let a := clusterOf core
        let b := clusterOf dst
        let go := fun (t : State) => Host.Outcome.next (σ := State) (φ := Fault) (ρ := Refusal)
          ((t.modCtx core (fun x => x.storePop (.q sq))).modCtx dst (fun y => { y with
            lq := y.lq.set lq.toNat (y.lqueue lq ++ [{ e with id := y.nextId, at_ := 0 }]), nextId := y.nextId + 1 }))
        (a = b → exec (.couplingTransfer core sq) s = go s) ∧
          (a ≠ b → s.reachesRouter (clusterRouter a) (clusterRouter b) = true → s.routeMoves (clusterRouter a) (clusterRouter b) 256 0 = true →
            exec (.couplingTransfer core sq) s = go (s.sendOn (clusterRouter a) (clusterRouter b) 0 (bytesOfLanes e.lanes) false)) ∧
          (a ≠ b → s.reachesRouter (clusterRouter a) (clusterRouter b) = false ∨
              s.routeMoves (clusterRouter a) (clusterRouter b) 256 0 = false → exec (.couplingTransfer core sq) s = .next s))

/-- The steps of the power domains (R38, R143, R144, R377): the head of a wake queue starts when its weight fits in the budget
of 32, or of 96 for the lease's, and no sleep of it is completing; it is awake from its ready cycle, zero-filled when it was
off; a domain that sleeps is off its sleep time after the last access to it; and the ballast of an idle array fades for 4,000
cycles. What a wake and a sleep do to one domain (R38, R39, R142 to R144): a domain that is off or retained waits in its wake
queue and is waking; one that wakes or is awake stays as it is; a sleep of an awake domain takes effect at once, to retention
only for a type that has it, and of a waking one when it is awake; of a retained domain to off, its contents then lost. The copy
engine keeps a reference bit for each core, here of the core's bank (R314): a wake sets it, and wakes an engine that is off; a
sleep clears it, and the engine sleeps when no bit is left. The order of streams within a cycle is the agenda's (log 58). -/
def Obligations.DomainSteps : Prop :=
  (∀ (s : State) (n i k : Nat) (dt : DomTy) (rest : List Nat) (dom : DomRef) (lease : Bool),
     let core := if lease then 4 * n else n
     let q := if lease then (s.cluster n).wakeQ else (s.core n).wakeQ
     let d := s.dom core dt i
     (q = k :: rest → (dt, i) = (if lease then clusterSlot k else coreSlot k) → d.sleptAt = none →
       s.wakingWeight lease n + domWeight dt ≤ (if lease then 96 else 32) →
       let t := (s.chargeBank core d.owner (wakeUnits dt d.cold)).setDom core dt i
         { d with queued := false, ready := s.cyc core + wakeTime dt d.cold }
       exec (.domainWakeStart lease n) s =
         .next (if lease then t.modCluster n (fun c => { c with wakeQ := rest }) else t.modCore n (fun c => { c with wakeQ := rest }))) ∧
       (let core := DomRef.core dom
        let d := s.dom core dom.ty dom.ix
        (d.st = .waking → d.queued = false → d.ready ≤ s.cyc core → d.sleepPend = none →
          exec (.domainAwake dom) s = .next ((if d.cold then s.zeroFill core dom.ty dom.ix else s).setDom core dom.ty dom.ix
            { d with st := .awake, cold := false, sleepPend := none })) ∧
          (∀ f, d.sleptAt = some f → d.offAt = none → s.domBusy core dom.ty dom.ix = false →
            exec (.domainPowerOff dom) s = .next (s.setDom core dom.ty dom.ix
              { d with offAt := some (s.cyc core + sleepTime dom.ty) })) ∧
          (∀ f e, d.sleptAt = some f → d.offAt = some e → e ≤ s.cyc core →
            exec (.domainPowerOff dom) s = .next (s.setDom core dom.ty dom.ix { d with sleptAt := none, offAt := none }))) ∧
       (let c := s.cluster n
        (∀ m, c.fadeDue = some m → c.fade = none → c.arrayFree ≤ c.cyc → s.ballasts m = true →
          exec (.ballastFadeStart n) s = .next (s.setCluster n { c with fade := some c.cyc })) ∧
          (∀ m f, c.fadeDue = some m → c.fade = some f → f + 4000 ≤ c.cyc →
            exec (.ballastFadeEnd n) s = .next (s.setCluster n { c with fade := none, fadeDue := none })))) ∧
  (∀ (s : State) (core i : Nat) (dt : DomTy) (ret : Bool) (cyc : Nat) (d : Dom),
     (dt ≠ .ce → (s.dom core dt i).st = .off ∨ (s.dom core dt i).st = .retained →
       ((s.wakeOne core dt i).dom core dt i).st = .waking ∧ ((s.wakeOne core dt i).dom core dt i).queued = true) ∧
       (dt ≠ .ce → (s.dom core dt i).st = .waking ∨ (s.dom core dt i).st = .awake → s.wakeOne core dt i = s) ∧
       (d.st = .awake → (d.sleep dt ret cyc).st = (if ret = true ∧ (dt = .spb ∨ dt = .acb ∨ dt = .wbb) then .retained else .off)) ∧
       (d.st = .waking → (d.sleep dt ret cyc).st = .waking ∧ (d.sleep dt ret cyc).sleepPend.isSome = true) ∧
       (d.st = .off → d.sleep dt ret cyc = d) ∧
       (dt ≠ .ce → ((s.dom core dt i).st = .off → ((s.wakeOne core dt i).dom core dt i).cold = true) ∧
         ((s.dom core dt i).st = .retained → (s.dom core dt i).cold = false → ((s.wakeOne core dt i).dom core dt i).cold = false)) ∧
       (d.st = .retained → (dt = .spb ∨ dt = .acb ∨ dt = .wbb) →
         d.sleep dt true cyc = d ∧ (d.sleep dt false cyc).st = .off ∧ (d.sleep dt false cyc).cold = true) ∧
       (let me := (core, (s.core core).bank)
        let refs := fun (t : State) => (t.cluster (clusterOf core)).ceRefs
        let ce := fun (t : State) => t.dom core .ce 0
        let w := s.wakeOne core .ce 0
        let z := s.sleepOne core .ce ret 0
        (∀ k, k ∈ refs w ↔ k = me ∨ k ∈ refs s) ∧ (∀ k, k ∈ refs z ↔ k ≠ me ∧ k ∈ refs s) ∧
          ((ce s).st = .off → (ce w).st = .waking ∧ (ce w).queued = true ∧ (ce w).cold = true) ∧
          ((ce s).st = .waking ∨ (ce s).st = .awake → (ce w).st = (ce s).st ∧ (ce w).ready = (ce s).ready) ∧
          ((∃ k, k ≠ me ∧ k ∈ refs s) → ce z = ce s) ∧
          ((∀ k, k ∈ refs s → k = me) → ce z = (ce s).sleep .ce false (s.cyc core)) ∧
          (∀ (ty : DomTy) (j : Nat), ty ≠ .ce → j ≤ ty.last → z.dom core ty j = s.dom core ty j ∧ w.dom core ty j = s.dom core ty j)))

/-- The life of a region (R136, R267, R270 to R276, R305, R313): a doorbell sets TAIL when the queue has room; the device
accepts the entry at HEAD; the foremost ready region that fits is loaded; its launch starts when its preloads have returned; a
launch of which every condition of R136 holds ends on a core, and its domains sleep in the next cycle, unless an error is left
to deliver; a region whose launch cores have all ended is written back and ends; a fault whose stop waited is taken when the
accepted requests are released. The load as one step and the cycle of a launch's end are the model's choices (logs 39, 54). -/
def Obligations.RegionSteps : Prop :=
  ∀ (s : State) (part core order : Nat) (tail : BitVec 16) (r : Region),
    let p := s.part part
    let x := s.ctx core
    ((tail - p.tail).toNat + (p.tail - p.head).toNat ≤ p.queueSize →
      exec (.doorbell part tail) s = .next (s.modPart part (fun p => { p with tail := tail }))) ∧
      (p.queueSize < (tail - p.tail).toNat + (p.tail - p.head).toNat →
        exec (.doorbell part tail) s = .next ((s.modPart part (fun p => { p with sqerr := true })).raisePart part 1)) ∧
      (∀ e chain, p.head ≠ p.tail →
        s.readOwn part (bits p.sqcfg 12 44 * 4096 + 8 * (p.head.toNat % p.queueSize)) 8 = some e → leNat e % 128 = 0 →
        (s.readOwn part (leNat e) 128).isSome = true → s.rcbChain part 8 (leNat e) = some chain →
        r = regionOfChain (leNat e) p.accepted chain →
        let u := (s.chainReads part 8 (leNat e)).foldl (fun t a => t.fetchOwn part a 128)
          ((s.modPart part (fun p => { p with head := p.head + 1 })).fetchOwn part
            (bits p.sqcfg 12 44 * 4096 + 8 * (p.head.toNat % p.queueSize)) 8)
        exec (.rcbAccept part) s = .next (if r.regid ≠ 0 ∧ chainOk chain p.clusters.length = true ∧ p.affords r = true then
          ((u.modPart part (fun q => q.enter { r with preds := r.preds.filterMap q.predecessor })).writeOwn part (leNat e + 0x40)
            (leBytes 2 0))
          else u.writeEnd part (leNat e) 0x0E)) ∧
      (∀ cls k bs, p.doomed = none → p.foremost = some r → p.room r = true → s.pick part p r = some cls →
        s.loadInput part r (launchCores cls r.cmask).length = .inl k → k.failure = none →
        s.readAt part r.host true (r.prog + ((sectOf? k.file 1).getD (sectOf [])).off) ((sectOf? k.file 1).getD (sectOf [])).size =
          .ok bs →
        exec (.regionDispatch part) s = .next ((s.loadFetched part r).loadRegion part r cls k (relocated k.file k.ro 1))) ∧
      (∀ cls k code, p.doomed = none → p.foremost = some r → p.room r = true → s.pick part p r = some cls →
        s.loadInput part r (launchCores cls r.cmask).length = .inl k → k.failure = some code →
        exec (.regionDispatch part) s = .next ((s.loadFetched part r).closeRegion part r code)) ∧
      (p.regions.find? (fun o => o.order == order && o.st == .loading && o.preload.isEmpty) = some r → r.err = 0 →
        ∃ t, exec (.launchStart part order) s = .next t ∧
          t = (((r.on.foldl (fun t c => t.modCluster c (fun c => { c with leaseLast := 3 })) (r.cores.foldl (fun t n =>
            (t.modCtx n (fun x => x.begin r.rcb r.cores.length (t.cyc n) (t.timeAt (clusterOf n)) p)).startPacket n true) s)).modRegion
              part order (fun r => { r with st := .running })).writeOwn part (r.rcb + 0x48) (leBytes 8 s.time)).writeOwn part
                (r.rcb + 0x40) (leBytes 1 2)) ∧
      (s.residentOver core = false → s.launchOver core = true → x.undelivered = none → x.fails = [] →
        (x.ending = none → exec (.launchEnd core) s = .next (s.modCtx core (fun x => { x with ending := some (s.cyc core) }))) ∧
          (∀ e, x.ending = some e → e < s.cyc core →
            exec (.launchEnd core) s = .next (s.endCore x.launch.part x.launch.region core))) ∧
      (∀ e w, s.residentOver core = false → s.launchOver core = true → x.undelivered = some (e, w) → x.mode = .run →
        exec (.launchEnd core) s = .next ((s.modCtx core (fun x => x.dropRec e w)).raise core .c (recTrap w))) ∧
      (∀ f t, s.residentOver core = false → s.launchOver core = true → x.undelivered = none → x.fails = f :: t → x.mode = .run →
        exec (.launchEnd core) s = .next ((s.modCtx core (fun x => { x with fails := t })).raise core .c f.2.2)) ∧
      (let y := (s.core core).alt
       s.residentOver core = true → s.launchOver core = false → y.undelivered = none → y.fails = [] →
        (y.ending = none → exec (.launchEnd core) s = .next
          (s.modCore core (fun c => { c with alt := { y with ending := some (s.cyc core) } }))) ∧
          (∀ e, y.ending = some e → e < s.cyc core → ∃ t, exec (.launchEnd core) s = .next (t.endActive core) ∧
            t = s.endCore y.launch.part y.launch.region core)) ∧
      (p.regions.find? (fun o => o.order == order && (o.st == .running || o.st == .preempted)) = some r →
        r.cores.all (fun n => r.ended.contains n) = true → s.settledRegion part r = true →
        exec (.regionEnd part order) s = .next ((s.closeRegion part r r.err).modPart part (fun q => { q with
          saved := q.saved.filter (fun c => c.region != order), posted := q.posted.filter (fun k => k.1 != order) }))) ∧
      (∀ t st, s.haltDue core = false → x.mode = .stopping (some (t, st)) → x.stopWaits = false →
        exec (.faultStop core) s = .next (s.takeFault core st t))

/-- Stops by Sapwood, and bank sharing (R283, R284, R313, R317, R318, R336, R382, R383): what each PCTL and BSHARE operation
begins or does, and how it ends; a pre-emption that has saved its cores; a resume and a placement, which wake the region's
domains and then restore it; an exchange of banks; a forward with FDOM = 0; and DBGHALT, which, while SCOPE[1] is open (log 43),
is due on every launch core of the running regions in the next nanosecond of the time base, and then stops it with BREAK, code
4, and leaves that pending where a core stands. Nothing of this is done for Sapwood in reset. What an exchange moves, ERRCODE of
an end by PCTL, DBGHALT in handler mode and what a resume and a placement may restore are the model's readings (logs 33, 42, 43,
44). -/
def Obligations.StopsAndBanks : Prop :=
  ∀ (s : State) (part regid lcore core n : Nat) (slice : BitVec 16) (r : Region),
    let p := s.part part
    let begun := fun (op : Nat) => s.modPart part (fun p =>
      { p with pctlBusy := true, pctlRegid := BitVec.ofNat 16 regid, pctlOp := some (op, r.order, false) })
    let named := fun (t : State) => t.modPart part (fun p => { p with pctlRegid := BitVec.ofNat 16 regid })
    let done := fun (t : State) => Host.Outcome.next (σ := State) (φ := Fault) (ρ := Refusal)
      ((t.modPart part (fun p => { p with pctlBusy := false, pctlOp := none })).raisePart part 2)
    let unpost := fun (t : State) => t.modPart part (fun p => { p with posted := p.posted.filter (fun k => k.1 != r.order) })
    let restored := fun (active : Bool) => unpost (((p.savedOf r).foldl (fun t k =>
      t.restoreCore part k.1 k.2 active (p.areaAt k.1.lcore)) s).modPart part (fun p =>
        { p with saved := p.saved.filter (fun k => k.region != r.order) }))
    let resumed := fun (t : State) (n : Nat) =>
      (t.modCtx n (fun x => (x.remode p (t.timeAt (clusterOf n))).recount t.mgmt)).restart n (t.cyc n)
    (s.mgmt.swHeld = false →
      (p.named regid (fun r => r.st == .running) = some r → s.areasOk p r.cores.length = true →
        exec (.pctlPreempt part regid) s = .next (r.left.foldl (fun t n =>
          if (t.ctx n).belongs part r.order then t.stopFor n else t) (begun 1))) ∧
        (p.named regid (fun r => r.st == .preempted || r.held) = some r → exec (.pctlResume part regid) s = .next (begun 2)) ∧
        (p.named regid (fun r => r.st == .running || r.st == .preempted) = some r →
          exec (.pctlEnd part regid) s = done ((named s).killRegion part r (s.endCode part r))) ∧
        (s.oneCore part regid lcore = some n →
          let order := (s.ctx n).launch.region
          exec (.pctlOneResume part regid lcore) s =
            done ((s.modPart part (fun p => { p with
              pctlRegid := BitVec.ofNat 16 regid, posted := p.posted.filter (fun k => k != (order, n)) })).restart n (s.cyc n)) ∧
            exec (.pctlOneEnd part regid lcore) s = done (((named s).modRegion part order (fun r => { r with
              err := 0x80 + bits (s.ctx n).frame.fstat 0 7, fenced := addOnce r.fenced lcore })).endCore part order n)) ∧
        (p.placing = none →
          exec (.bshareStop part slice) s = .next (s.modPart part (fun p =>
            { p with shared := none, slice := sliceValue slice.toNat })) ∧
            (p.regions.find? (fun r => r.regid == regid && r.st == .preempted) = some r → s.placeable part p r = true →
              exec (.bsharePlace part slice regid) s = .next (s.modPart part (fun p => { p with
                placing := some (r.order, false), slice := sliceValue slice.toNat, bshare := BitVec.ofNat 64 (regid % 2 ^ 16) }))))) ∧
      (s.mgmt.swHeld = true → ∀ i ∈ [Instr.pctlPreempt part regid, .pctlResume part regid, .pctlEnd part regid,
        .pctlOneResume part regid lcore, .pctlOneEnd part regid lcore, .bsharePlace part slice regid, .bshareStop part slice],
        exec i s = .next s) ∧
      (∀ z, p.pctlOp = some (1, r.order, z) → p.regions.find? (fun o => o.order == r.order && o.st == .running) = some r →
        let u := r.left.foldl (fun t n => t.seal part r.order n) s
        let may := r.left.all (fun n => u.mayShelve part r.order n && u.areaMoves n (p.areaAt (r.cores.idxOf n)) 0x18000 true)
        (may = true →
          exec (.preemptDone part) s = done ((r.left.foldl (fun t n => t.saveCtx part r.order n ((t.ctx n).belongs part r.order)
            (!r.left.any (fun k => k < n && clusterOf k == clusterOf n)) (p.areaAt (r.cores.idxOf n))) u).modRegion part r.order
              (fun r => { r with st := .preempted, held := false }))) ∧
          (may = false → exec (.preemptDone part) s = .next u)) ∧
      (p.pctlOp = some (2, r.order, false) → p.region r.order = some r →
        (r.held = true →
          r.left.all (fun n => (s.core n).exchange.isNone && ((s.ctx n).belongs part r.order || (s.ctx n).mode == .off)) = true →
          (r.left.all (fun n => (s.ctx n).belongs part r.order) = true → exec (.resumeRestart part) s =
            done (r.left.foldl (fun t n => resumed t n) (unpost (s.modRegion part r.order (fun r => { r with held := false }))))) ∧
            (r.left.all (fun n => (s.ctx n).belongs part r.order) = false → exec (.resumeRestart part) s =
              .next (r.left.foldl (fun t n => if (t.ctx n).belongs part r.order then t else t.exchangeFrom n (t.cyc n)) s))) ∧
          (r.held = false → r.st = .preempted → p.placing = none → s.coresFree part p r = true →
            exec (.resumeRestart part) s = .next ((((s.areasFetched part p r).wakeSaved (s.areas p r true)).modRegion part r.order
              (fun r => { r with st := .running })).modPart part (fun p => { p with pctlOp := some (2, r.order, true) })))) ∧
      (p.pctlOp = some (2, r.order, true) → p.region r.order = some r → s.areasAwake p r true = true →
        exec (.resumeRestart part) s = done (((p.savedOf r).foldl (fun t k =>
          resumed (t.modCtx k.2 (fun x => { x with launch := { x.launch with replay := s.replayLog p k.2 k.1.lcore } })) k.2)
          ((restored true).logsFetched p)).modPart part (fun p => { p with replays := [] }))) ∧
      (p.regions.find? (fun o => o.order == r.order && o.st == .preempted) = some r →
        (p.placing = some (r.order, false) → s.placeable part p r = true → exec (.placementDone part) s =
          .next (((s.areasFetched part p r).wakeSaved (s.areas p r false)).modPart part (fun p => { p with placing := some (r.order, true) }))) ∧
          (p.placing = some (r.order, true) → s.areasAwake p r false = true →
            let t := (p.savedOf r).foldl (fun t k =>
              t.modCore k.2 (fun c => { c with alt := (c.alt.remode p (t.timeAt (clusterOf k.2))).recount s.mgmt, paired := s.afterNow k.2 }))
              (restored false)
            let o := (p.regions.find? (fun o => o.holds && o.order != r.order && o.cores == r.cores)).map (·.order)
            exec (.placementDone part) s = .next ((((t.modRegion part r.order (fun r => { r with st := .running })).modPart part (fun p =>
              { p with shared := some (o.getD 0, r.order) })).modPart part (fun p => { p with placing := none })).raisePart part 3))) ∧
      ((s.sliceOut core = true →
        let t := (s.modCore core (fun c => { c with exchangeDue := true })).halt core
        (t.ctx core).mode = .stopped → (t.core core).exchangeDue = true → (t.core core).direct = [] → t.altReady core = true →
        exec (.sliceExpiry core) s = .next (t.exchangeFrom core (t.ctx core).frame.f))) ∧
      (∀ e, (s.core core).exchange = some e → e ≤ s.cyc core →
        (s.mayRun (s.ctx core) = true →
          exec (.bankRestart core) s = .next ((s.restart core e).modCore core (fun c => { c with exchange := some e }))) ∧
          ((s.ctx core).mode = .off → s.mayRun (s.ctx core) = false → s.altReady core = true →
            exec (.bankRestart core) s = .next (s.exchangeFrom core (s.cyc core)))) ∧
      (s.regionFor (s.ctx core) = some r →
        let q := (s.ctx core).launch.part
        (s.part q).posted.contains (r.order, core) = true → (s.ctx core).belongs q r.order = true → r.fdom = false → r.held = false →
        s.placingOn q r.cores = false →
        r.left.all (fun n => s.stoodStill q r.order n &&
          ((s.core n).alt.belongs q r.order || (s.core n).direct.isEmpty)) = true →
        exec (.fwd core) s = .next (r.left.foldl (fun t n =>
          if (t.ctx n).belongs q r.order then t.exchangeFrom n (t.cyc n) else t)
          (s.modRegion q r.order (fun r => { r with held := true })))) ∧
      (exec (.dbghalt part) s = .next (if bitAt s.mgmt.scopes 1 = true then
        s.modPart part (fun p => { p with halts := p.halts ++ (s.running part).map (fun k => (s.time + 1, k.1, k.2)) }) else s)) ∧
      (∀ order n, (order, n) ∈ s.running part ↔ ∃ r ∈ p.regions, r.st = .running ∧ r.order = order ∧ n ∈ r.left) ∧
      (s.haltDue n = false → exec (.faultStop n) s = .next (s.stopGo n)) ∧
      (∀ time, s.parts = [(part, p)] → p.halts = [(time, r.order, n)] → time ≤ s.timeAt (clusterOf n) → exec (.faultStop n) s =
        .next (((s.modPart part (fun p => { p with halts := [] })).haltOne part r.order n).stopGo n)) ∧
      (let x := s.ctx n
       let brk : Trap := { cause := .brk, code := 4 }
       x.belongs part r.order = true →
       (x.mode = .run → x.frame.handler = false → s.haltOne part r.order n = s.raise n .c brk) ∧
         (x.mode = .run → x.frame.handler = true → x.stopWaits = false → s.haltOne part r.order n = s.takeFault n .c brk) ∧
         (x.mode = .stopped → s.haltOne part r.order n = s.modCtx n (fun x =>
           { x with frame := { x.frame with pending := x.frame.pending.or (some (brk, .c)) } })) ∧
         (x.mode = .stopping none → (s.core n).exchangeDue = true → s.haltOne part r.order n =
           (s.modCtx n (fun x => { x with mode := .stopping (some (brk, .c)) })).modCore n (fun c => { c with exchangeDue := false })))

/-- Time, rails, fetch, traces and trips (R12, R294, R295, R328, R333, R338, R372, R374, R376, R378): what a beacon, its
absence, a time exchange, a rail window, the end of a rail switch, a fetch, a sample, a replayed head and a thermal trip do. The
watts of a window, the speed of a slew, the replay log, what a trip keeps and the count of a copy found ahead are the model's
choices (logs 45, 46, 48, 55, 88). -/
def Obligations.TimeRailsTraces : Prop :=
  ∀ (s : State) (cl core part watts sensor : Nat) (drift ahead : Int) (st : Strm) (code : BitVec 8),
    let c := s.cluster cl
    let x := s.ctx core
    let offset : Int := (s.timeAt cl : Int) - s.time
    let b := s.modCluster cl (fun c => { c with clock := c.clock.align s.time drift, offset := sat16 offset })
    (cl < 160 → (8 < offset ∨ offset < -8) → exec (.timeBeacon cl drift) s =
      .next (((b.markSkewed cl).modCluster cl (fun c => { c with goodBeacons := 0 })).rewalk cl)) ∧
      (cl < 160 → -8 ≤ offset → offset ≤ 8 → exec (.timeBeacon cl drift) s = .next ((b.modCluster cl (fun c =>
        let g := if -2 ≤ offset ∧ offset ≤ 2 then c.goodBeacons + 1 else 0
        { c with goodBeacons := g, skewed := c.skewed && g < 2 })).rewalk cl)) ∧
      (∀ (k : Clock) (time later : Nat), time ≤ later →
        (k.align time drift).read later = max (k.read time) ((later : Int) + drift).toNat ∧ k.read time ≤ k.read later) ∧
      (∀ l, l < 2 → exec (.timeBeacon (161 - l) drift) s = .next { s with fabric := { s.fabric with
        hostClocks := s.fabric.hostClocks.set l ((s.fabric.hostClocks.getD l Clock.init).align s.time drift) } }) ∧
      (c.clock.beacon + 3000 ≤ s.time → exec (.beaconTimeout cl) s = .next (s.markSkewed cl)) ∧
      (∀ l, s.hostLink = some l → ∃ t, exec (.ptmExchange ahead) s = .next t ∧ t.time = s.time ∧ t.mgmt.ptmLink = l ∧
        t.mgmt.ptmAt = s.time ∧ (∀ later, s.now ≤ later → t.mgmt.slewed later = s.mgmt.slewed s.now +
          max (-(((later - s.now) / 10000 : Nat) : Int)) (min (((later - s.now) / 10000 : Nat) : Int) (10 * ahead)))) ∧
      (exec (.tbstatRead cl) s = .next ((s.emit (leBytes 8 (State.tbstat c))).modCluster cl (fun c => { c with marks := 0 }))) ∧
      (exec (.tlostRead part) s = .next ((s.emit (leBytes 8 (s.part part).tlost)).modPart part (fun p => { p with tlost := 0 }))) ∧
      (exec (.railWindow cl watts) s = .next (if c.window < s.time / 1024 then s.modCluster cl (fun c => { c with
        watts := watts, window := s.time / 1024
        switching := if s.wantsLow cl watts = c.low then none else some (s.wantsLow cl watts) }) else s)) ∧
      (∀ low, c.switching = some low → exec (.railSwitchEnd cl) s = .next (s.modCluster cl (fun c =>
        { c with low := low, switching := none, edge := max c.edge s.now }))) ∧
      (x.mode = .run → x.frame.handler = false ∨ st = .c → exec (.instructionFetch core st) s = .next (s.modCtx core (fun y =>
        y.modStrm st (fun t => t.scan (s.textWord core) st y.frame.handler (y.fetchLimit st) 8)))) ∧
      (bitAt x.launch.trc 63 = true → s.classed core = true →
        nextSample x.launch.trc x.launch.sampled ≤ s.timeAt (clusterOf core) → exec (.sample core) s = .next ((s.modCtx core (fun x => { x with
          counters := { x.counters with samples := x.counters.samples + 1 }
          launch := { x.launch with sampled := s.timeAt (clusterOf core) + 1 } })).record x.launch.part
            (s.sampleRecord core) true (bitAt x.launch.trc 60))) ∧
      (s.classed core = false ∨ x.mode ≠ .run ∨ (x.frame.handler = true ∧ st ≠ .c) → exec (.replayRelease core st) s = .next s) ∧
      (∀ log r, x.launch.replay = some log → s.classed core = true → x.mode = .run → x.frame.pending = none →
        x.frame.handler = false ∨ (st = .c ∧ s.inHandler core = true) → (0x7000 ≤ r.2.2.1 ↔ x.frame.handler = true) →
        x.replayNext st = some r → r.2.1 ≤ x.launchCycle (s.cyc core) →
        let t := s.modCtx core (fun x => { x with launch := { x.launch with replay := some (log.erase r) } })
        exec (.replayRelease core st) s = .next (if (x.strm st).moved = true ∨ (x.strm st).named r.2.2.1 r.2.2.2 = false then t
          else t.raise core st { cause := .brk, code := 0x8000 })) ∧
      (∃ t, exec (.thermalTrip code sensor) s = .next t ∧ t.mgmt.trip = true ∧ t.mgmt.off = true ∧
        t.mgmt.tripCode = (if s.mgmt.trip then s.mgmt.tripCode else code) ∧
        t.mgmt.tripSensor = (if s.mgmt.trip then s.mgmt.tripSensor else BitVec.ofNat 8 sensor) ∧ t.slices.dead = s.slices.dead ∧
        t.slices.worn = s.slices.worn ∧ t.mem = [] ∧ t.cores = [] ∧ t.clusters = [] ∧ t.parts = [] ∧ t.now = 0)

/-- Heartwood (R341 to R344): a write of an operation makes the mailbox busy with it, unless it is or the management cores are
in reset and Sapwood asks; the operation ends with its result and STATUS, BUSY clear and MBDONE set, once the links carry its
flits; an operation not allowed, or whose request cannot be read (log 49), gives STATUS 1; a cold reset checks and measures the
images (Sapwood's resident image as it starts: log 78), measures the fuses and the debug state, and draws the marker. STATUS 1
of an operation that is not allowed, what a cold reset keeps and the resident image are the model's readings (logs 48, 49, 78).
-/
def Obligations.HeartwoodSteps : Prop :=
  ∀ (s : State) (who : Party) (hwOk swOk : Bool),
    let measured := fun (ds : List (BitVec 256)) =>
      ds.foldl (fun m d => Config.sha256 (leBytes 32 m.toNat ++ leBytes 32 d.toNat)) (0 : BitVec 256)
    let busy := fun (code : Nat) (op : MbOp) => Host.Outcome.next (σ := State) (φ := Fault) (ρ := Refusal) { s with
      mgmt := { s.mgmt with busy := true, op := BitVec.ofNat 8 code, running := some (who, op) } }
    (s.mgmt.busy = false → (who = .sapwood → s.mgmt.swHeld = false) →
      exec (.mbNonce who) s = busy 1 .nonce ∧ exec (.mbUnlock who) s = busy 2 .unlock ∧ exec (.mbQuote who) s = busy 3 .quote ∧
        exec (.mbExtend who) s = busy 4 .extend ∧ exec (.mbIdent who) s = busy 5 .ident ∧ exec (.mbPsetup who) s = busy 6 .psetup) ∧
      (s.mgmt.busy = true ∨ (who = .sapwood ∧ s.mgmt.swHeld = true) →
        exec (.mbNonce who) s = .next s ∧ exec (.mbUnlock who) s = .next s ∧ exec (.mbQuote who) s = .next s ∧
          exec (.mbExtend who) s = .next s ∧ exec (.mbIdent who) s = .next s ∧ exec (.mbPsetup who) s = .next s) ∧
      (∀ op, s.mgmt.busy = true → s.mgmt.running = some (who, op) → s.opMoves who op = false → exec .mailboxComplete s = .next s) ∧
      (∀ op a, s.opBuffer who op = some a → op.reads ≠ 0 → (s.ownBar true a op.reads).isSome = true →
        s.mailOp who op = (1, s.ownRead a op.reads)) ∧
      (∀ op, s.mgmt.busy = true → s.mgmt.running = some (who, op) → s.opMoves who op = true →
        exec .mailboxComplete s = .next ({ (s.mailOp who op).2 with mgmt := { (s.mailOp who op).2.mgmt with
          busy := false, running := none, status := BitVec.ofNat 7 (s.mailOp who op).1 } }.raiseMgmt 0)) ∧
      (∀ op, op.allowed who = false ∨ (s.mgmt.swHeld = true ∧ op ≠ .ident ∧ op ≠ .quote) → s.mailOp who op = (1, s)) ∧
      ∃ t, exec (.coldReset hwOk swOk) s = .next t ∧ t.mgmt.hwok = hwOk ∧ t.mgmt.swok = (hwOk && swOk) ∧ t.mgmt.off = !hwOk ∧
        t.mgmt.swHeld = (hwOk && !swOk) ∧ t.mem = [] ∧ t.now = 0 ∧ t.mgmt.trip = s.mgmt.trip ∧ t.slices.worn = s.slices.worn ∧
        t.mgmt.ms.getD 0 0 = measured [Config.imageHash 0] ∧
        (hwOk = true → t.mgmt.marker ≠ 0 ∧ t.mgmt.marker ≠ BitVec.allOnes 32 ∧
          t.mgmt.ms.getD 2 0 = measured [Config.sha256 fuseRecord] ∧ t.mgmt.ms.getD 3 0 = measured [Config.sha256 [0]]) ∧
        (hwOk = true → swOk = true → t.mgmt.ms.getD 1 0 = measured [Config.imageHash 1] ∧
          t.mgmt.ms.getD 4 0 = measured [Config.sha256 (imageBytes residentImage)])

/-- Links, routes, slices, host links and host translations (R292, R293, R351 to R354, R358, R369): what a flit, a retrain and
its end, a loss, a new route, a status read, a dead slice, an error in a stored bit (log 75), a host link (which one goes down:
log 81), a translation completion and an invalidation do. When links and host answers come, and a retrain without failed lanes,
are the model's choices (logs 34, 47, 57, 77), and so is the instant at which L_H is fixed (log 95). -/
def Obligations.FabricSteps : Prop :=
  ∀ (s : State) (peer crcOk : Bool) (router port dest slice cl page log2 pa tag part width : Nat) (seq : BitVec 8) (bad : BitVec 32)
    (link : BitVec 1) (r w : Bool),
    let now := s.hostTime (s.hostLink.getD 0)
    let l := s.linkEnd peer router port
    let f := s.arriving peer router port seq crcOk
    let recent := (s.time :: l.recent).filter (fun t => s.time < t + 1000)
    let replay := s.modLink peer router port (fun l => { l with replays := min 0xFFFF (l.replays + 1), recent := recent })
    let crosses := peer = true ∨ dieCrossing router port = true
    let lanes := s.modEnds peer router port (fun l => { l with lanebad := l.lanebad ||| BitVec.ofNat 32 (bits bad 0 (2 * halfLanes peer)) })
    let retrain := fun (t : State) =>
      (t.modEnds peer router port (fun l => { l with up := false, training := true, recent := [] })).raiseMgmt 2
    (l.up = true → l.lost = false →
      (f.sound = true → seq = l.nextSeq → exec (.flitReceive peer router port seq crcOk) s = .next
        ((s.modLink peer router port (fun l => { l with nextSeq := l.nextSeq + 1 })).acknowledge peer router port seq)) ∧
        (f.sound = true → seq ≠ l.nextSeq → (l.nextSeq - seq).toNat ≤ 128 →
          exec (.flitReceive peer router port seq crcOk) s = .next (s.acknowledge peer router port seq)) ∧
        (f.sound = false ∨ 128 < (l.nextSeq - seq).toNat → ¬(recent.length > 16 ∧ crosses) →
          exec (.flitReceive peer router port seq crcOk) s = .next replay) ∧
        (f.sound = false ∨ 128 < (l.nextSeq - seq).toNat → recent.length > 16 → crosses →
          exec (.flitReceive peer router port seq crcOk) s = .next (retrain replay)) ∧
        (crosses → exec (.linkRetrain peer router port) s = .next (retrain s))) ∧
      (l.training = true →
        let b := bits bad 0 (2 * halfLanes peer)
        (b = 0 → exec (.retrainEnd peer router port bad) s = .next ((lanes.modEnds peer router port (fun l =>
          { l with up := true, training := false })).raiseMgmt 2)) ∧
          (b ≠ 0 → b % 2 ^ halfLanes peer = 0 ∨ b / 2 ^ halfLanes peer = 0 → exec (.retrainEnd peer router port bad) s =
            .next (((lanes.modEnds peer router port (fun l => { l with up := true, training := false, half := true })).raiseMgmt 2).machineCheck
              (linkUnit peer router port).1 4 (linkUnit peer router port).2 0xFFFFFFFF 0 0)) ∧
          (b % 2 ^ halfLanes peer ≠ 0 → b / 2 ^ halfLanes peer ≠ 0 →
            exec (.retrainEnd peer router port bad) s = .next (lanes.loseLink peer router port))) ∧
      (l.lost = false → exec (.linkLoss peer router port) s = .next (s.loseLink peer router port)) ∧
      (let p := bits (s.route router dest) 0 4
       let e := routeFor s.linkLive router dest
       s.routeStands router dest = false → ((s.link router p).lost = true ∨ s.sentTowards router p dest = []) →
         (bitAt e 4 = true → (s.link router (bits e 0 4)).unacked.length + (s.sentTowards router p dest).length ≤ 128) →
         exec (.routeTableApply router dest) s = .next (({ s with fabric := { s.fabric with
           routes := s.fabric.routes.put (162 * router + dest) (routeFor s.linkLive router dest) } } : State).reroute router p dest)) ∧
      (let p := bits (s.route router dest) 0 4
       let e := routeFor s.linkLive router dest
       s.routeStands router dest = true ∨ ((s.link router p).lost = false ∧ s.sentTowards router p dest ≠ []) ∨
           (bitAt e 4 = true ∧ 128 < (s.link router (bits e 0 4)).unacked.length + (s.sentTowards router p dest).length) →
         exec (.routeTableApply router dest) s = .next s) ∧
      (exec (.linkStatusRead peer router port) s = .next ((s.emit l.status).modLink peer router port (fun l => { l with replays := 0 }))) ∧
      (slice < 96 →
        exec (.sliceStopsAnswering slice) s = .next { s with slices := { s.slices with dead := addOnce s.slices.dead slice } }) ∧
      (exec (.sliceStopsAnswering (96 + slice)) s = .next (s.softError slice)) ∧
      (exec .hostLinkDown s = .next { s with fabric := { s.fabric with
        hostUp := s.fabric.hostUp.set (if s.fabric.hostUp.getD 0 false then 0 else 1) false } }) ∧
      (width = 4 ∨ width = 8 ∨ width = 16 → exec (.hostLinkUp link width) s = .next (State.sendPending { s with fabric :=
        { s.fabric with hostUp := s.fabric.hostUp.set link.toNat true, hostWidth := s.fabric.hostWidth.set link.toNat width } })) ∧
      (∀ q k, s.routeMoves s.outerRouter (clusterRouter cl) 16 0 = true → s.hostLink ≠ none → s.fabric.ats.find? (fun q => q.cl == cl) = some q → 12 ≤ log2 → page % 2 ^ log2 = 0 → q.va / 2 ^ log2 = page / 2 ^ log2 →
        (s.cluster cl).walks.find? (fun k =>
          k.ats && k.va / 4096 * 4096 == q.va && bits (s.part k.part).xlcfg 32 20 == q.pasid) = some k →
        let t := s.sendOn s.outerRouter (clusterRouter cl) page (leBytes 8 pa) false
        exec (.atsCompletion cl page log2 pa r w) s = .next (State.endWalk { t with fabric := { t.fabric with
          ats := t.fabric.ats.erase q
          inval := t.fabric.inval.map (fun i =>
            if i.reqs.contains q then ({ i with last := max i.last now, reqs := i.reqs.erase q } : Inval) else i) } } cl k
          (if s.reachesRouter s.outerRouter (clusterRouter cl) = false then .fail .remote else if !r && !w then .fail .xlate
            else .lease (hostLease k.va page log2 pa r w (bits (s.part k.part).xlcfg 8 4) now) false))) ∧
      (s.routeMoves s.outerRouter (clusterRouter cl) 16 0 = false → exec (.atsCompletion cl page log2 pa r w) s = .next s) ∧
      (s.hostLink ≠ none → s.fabric.inval.length < 32 → s.fabric.inval.any (fun i => i.tag == tag) = false →
        exec (.atsInvalidationRequest part tag) s = .next { s with fabric := { s.fabric with
          inval := s.fabric.inval ++
            [{ tag := tag, last := now, len := (s.part part).longestHost now, reqs := s.fabric.ats }] } }) ∧
      (∀ i, s.hostLink ≠ none → s.fabric.inval.find? (fun i => i.tag == tag) = some i → i.reqs = [] → i.last + i.len + 48 ≤ now →
        exec (.invalidationCompletion tag) s = .next { s with fabric := { s.fabric with
          inval := s.fabric.inval.erase i, invalDone := (tag, now) :: s.fabric.invalDone } })

/-- Device registers, and accesses from outside (R264, R270, R299, R326, R339, R340, R342, R360, R362, R369 to R371, R373): a
write reaches the register of its offset, and one at an offset that is not listed changes nothing; writes that the host may not
make change nothing, nor do Sapwood's while the management cores are in reset; the host, through an aperture that Sapwood has
mapped and over a host link that is up, a peer, by a port of its own (log 77), and Sapwood read and write device memory within
their bounds. The reads and writes of the host, and the reads of Sapwood, meet the ciphertext of a confidential partition (R321,
R340), a save area that SCOPE[1] opens included; a peer's accesses and a write of Sapwood pass the bytes as the model stores
them (log 6). The counter window gives the counters of a partition's cores, of a confidential one only CYC and ENERGY. The
address map of the host's and Sapwood's requests is the model's choice (log 80). Which registers the host may write, the plain
bytes of a confidential partition, the list of data that leaves the device, the installed images, the port of a peer's access
and the address map are the model's choices (logs 6, 35, 50, 77, 78, 80). -/
def Obligations.OutsideAccesses : Prop :=
  ∀ (s : State) (who : Party) (part off pa a len : Nat) (v : Word) (data : List (BitVec 8)),
    let p := s.part part
    let cipher := fun (k : BitVec 256) (v : List Byte) => (v.zip (upto a len)).map (fun b => Config.encrypt k b.2 b.1)
    (part < 64 → ¬(who = .sapwood ∧ s.mgmt.swHeld = true) → exec (.regWrite who (0x100000 + 0x10000 * part + 8) v) s = exec (.doorbell part (v.setWidth 16)) s ∧
      exec (.regWrite who (0x100000 + 0x10000 * part + 0x58) v) s = .next (s.modPart part (fun p =>
        { p with pintstat := p.pintstat &&& ~~~(v.setWidth 5) })) ∧
      (who ≠ .sapwood → ∀ o ∈ [0x10, 0x20, 0x28, 0x30, 0x38, 0x40, 0x48, 0x80, 0x88],
        exec (.regWrite who (0x100000 + 0x10000 * part + o) v) s = .next s)) ∧
      (0x500000 ≤ off → exec (.regWrite who off v) s = .next s) ∧
      (s.mgmt.swHeld = true → exec (.regWrite .sapwood off v) s = .next s ∧ exec (.sqcfgWrite part v) s = .next s ∧
        exec (.managementCoreAccess pa v) s = .next s) ∧
      (s.mgmt.swHeld = false → p.head = p.tail → exec (.sqcfgWrite part v) s = .next (s.modPart part (fun p => { p with
        sqcfg := BitVec.ofNat 64 (bits v 12 44 * 4096 + (if 4 ≤ bits v 0 4 ∧ bits v 0 4 ≤ 12 then bits v 0 4 else 4)) }))) ∧
      (s.mgmt.swHeld = false → p.head ≠ p.tail → exec (.sqcfgWrite part v) s = .next (s.sqError part)) ∧
      (s.hostLink = none → exec (.hostAccess part true pa data len) s = .next s ∧ exec (.hostAccess part false pa data len) s = .next s) ∧
      (s.hostLink ≠ none → pa < 2 ^ 36 →
        (s.apertureAt pa data.length = none → exec (.hostAccess part true pa data len) s = .next s) ∧
          (s.apertureAt pa len = none → exec (.hostAccess part false pa data len) s = .next s) ∧
          (s.apertureAt pa data.length = some (part, a) → a + data.length ≤ p.memBase + p.memLen →
            s.outerMoves 4 a data.length true = true → ∀ n, exec (.hostAccess n true pa data len) s = .next (s.ingress 4 part a
              (if p.confidential then (data.zip (upto a data.length)).map (fun b => Config.decrypt p.key b.2 b.1) else data))) ∧
          (s.apertureAt pa len = some (part, a) → a + len ≤ p.memBase + p.memLen → s.outerMoves 4 a len false = true →
            let t := (s.outerCarry 4 a len false).fetched a len
            ∀ n, (s.outerReach 4 a = true → s.physSound a len = true →
                exec (.hostAccess n false pa data len) s = .next (t.emit
                  (if p.confidential then cipher p.key (s.devRead true a len) else s.devRead true a len))) ∧
              (s.outerReach 4 a = true → s.physSound a len = false → ∃ kind, exec (.hostAccess n false pa data len) s =
                .next ((t.machineCheck 4 kind 0 part a 0).emit [])) ∧
              (s.outerReach 4 a = false → exec (.hostAccess n false pa data len) s = .next (s.emit [])))) ∧
      (s.hostLink ≠ none → ∀ n k, p.coreList[k]? = some n → k < 640 → off < 128 →
        exec (.hostAccess part false (2 ^ 42 + 0x800 * k + 8 * off) data 8) s = .next (s.emit (leBytes 8
          (if p.confidential && off != 0 && off != 74 then 0 else (s.ctx n).counterList.getD off 0))) ∧
        exec (.hostAccess part false (2 ^ 42 + 0x800 * k + 0x400 + 8 * off) data 8) s = .next (s.emit (leBytes 8
          (if p.confidential && off != 0 && off != 74 then 0 else (s.core n).alt.counterList.getD off 0)))) ∧
      (s.hostLink ≠ none → ∀ data,
        (bitAt s.mgmt.scopes 1 = false ∨ s.inSave p a len = false →
          exec (.hostAccess part false (2 ^ 46 + a) data len) s = .next (s.emit [])) ∧
          (bitAt s.mgmt.scopes 1 = true → s.inSave p a len = true → s.outerMoves 4 a len false = true → s.outerReach 4 a = true →
            s.physSound a len = true → exec (.hostAccess part false (2 ^ 46 + a) data len) s =
              .next (((s.outerCarry 4 a len false).fetched a len).emit
                (if p.confidential then cipher p.key (s.devRead true a len) else s.devRead true a len)))) ∧
      (s.peerEntry pa = none → ∀ wr, exec (.peerAccess wr pa data len) s = .next s) ∧
      (∀ q, s.peerEntry pa = some q →
        (pa + data.length ≤ s.slices.capacity → (s.peerLink q).free (flitCount 0) = true →
          exec (.peerAccess true pa data len) s = .next ((s.peerCarry q data.length 0).ingress 5 (s.ownerOf pa) pa data)) ∧
          (pa + len ≤ s.slices.capacity → (s.peerLink q).free (flitCount len) = true → (s.peerCarry q 0 len).physSound pa len = true →
            exec (.peerAccess false pa data len) s = .next (((s.peerCarry q 0 len).fetched pa len).emit (s.devRead true pa len)))) ∧
      (s.mgmt.swHeld = false → pa < 2 ^ 51 → pa % 8 = 0 → pa + 8 ≤ s.slices.capacity →
        exec (.managementCoreAccess pa v) s = .next (s.ingress 0 (s.ownerOf pa) pa (leBytes 8 v.toNat))) ∧
      (s.mgmt.swHeld = false → a < 2 ^ 51 → len = 8 → s.outerReach 0 a = true → s.physSound a 8 = true →
        let t := (s.outerCarry 0 a 8 false).fetched a 8
        (a + 8 ≤ s.slices.capacity →
          (s.parts.find? (fun p => p.2.confidential && !apart a 8 p.2.memBase p.2.memLen) = none →
            exec (.managementCoreAccess (2 ^ 51 + a) v) s = .next (t.emit (s.devRead true a 8))) ∧
            (∀ k q, s.parts.find? (fun p => p.2.confidential && !apart a 8 p.2.memBase p.2.memLen) = some (k, q) →
              exec (.managementCoreAccess (2 ^ 51 + a) v) s = .next (t.emit (cipher q.key (s.devRead true a 8))))) ∧
          (s.slices.capacity < a + 8 → s.slices.carve ≠ 0 → bits s.mgmt.mcbase 0 42 ≤ a → a + 8 ≤ bits s.mgmt.mcbase 0 42 + 65536 →
            exec (.managementCoreAccess (2 ^ 51 + a) v) s = .next (t.emit (s.devRead true a 8)))) ∧
      (s.mgmt.swHeld = false → a < 2 ^ 42 → exec (.managementCoreAccess (2 ^ 55 + a) v) s = .next (s.installImage a)) ∧
      (∀ text head table file : List Byte, s.ownBytes a 64 = some head → s.ownBytes a (num head 16 8 + 32 * num head 8 2) = some table →
        s.ownBytes a (fileEnd table) = some file → sectBytes file 1 = text → num file 0 4 = 0x4F564C7F → num file 4 2 = 1 → num file 6 1 = 2 → num file 28 4 = crc32c (file.drop 64) →
        text.length ≤ 32768 →
        let ws := (upto 0 (text.length / 8)).map (fun i => BitVec.ofNat 64 (num text (8 * i) 8))
        let t := s.ownRead a (fileEnd table)
        (s.installImage a).mgmt.images = t.mgmt.images ++ [ws] ∧
          (s.installImage a).mgmt.ms = (t.mgmt.extend 4 (Config.sha256 (imageBytes ws))).ms ∧ (s.installImage a).mem = t.mem ∧
          (s.slices.bad = [] → t.mem = s.mem ∧ t.mgmt = s.mgmt))
end

