-- ==== Sys2Proof/Laws/Memory.lean ====
section
/-! SUPPORT. The laws of tables and byte memories: read after write, and the canonical form that every memory operation
keeps. -/

namespace Sys2Proof.Machine

/-! ## Tables -/

@[simp] theorem Store.find_put_same {α : Type} (m : Store α) (k : Nat) (v : α) : (m.put k v).find k = some v := by
  induction m with
  | nil => simp [Store.put, Store.find]
  | cons e t ih =>
    obtain ⟨k', v'⟩ := e
    by_cases h1 : k < k'
    · simp [Store.put, Store.find, h1]
    · by_cases h2 : k' = k
      · simp [Store.put, Store.find, h2]
      · simp [Store.put, Store.find, h1, h2, ih]

theorem Store.find_put_other {α : Type} (m : Store α) {k j : Nat} (h : j ≠ k) (v : α) : (m.put k v).find j = m.find j := by
  induction m with
  | nil => simp [Store.put, Store.find, Ne.symm h]
  | cons e t ih =>
    obtain ⟨k', v'⟩ := e
    by_cases h1 : k < k'
    · simp [Store.put, Store.find, h1, Ne.symm h]
    · by_cases h2 : k' = k
      · simp [Store.put, Store.find, h2, Ne.symm h]
      · by_cases h3 : k' = j
        · subst h3
          simp [Store.put, Store.find, h1, h2]
        · simp [Store.put, Store.find, h1, h2, h3, ih]

@[simp] theorem Store.find_del_same {α : Type} (m : Store α) (k : Nat) : (m.del k).find k = none := by
  induction m with
  | nil => rfl
  | cons e t ih =>
    obtain ⟨k', v'⟩ := e
    by_cases h : k' = k
    · simp [Store.del, h, ih]
    · simp [Store.del, Store.find, h, ih]

theorem Store.find_del_other {α : Type} (m : Store α) {k j : Nat} (h : j ≠ k) : (m.del k).find j = m.find j := by
  induction m with
  | nil => rfl
  | cons e t ih =>
    obtain ⟨k', v'⟩ := e
    by_cases h1 : k' = k
    · have h2 : k ≠ j := Ne.symm h
      simp [Store.del, Store.find, h1, h2, ih]
    · by_cases h2 : k' = j
      · subst h2
        simp [Store.del, Store.find, h1]
      · simp [Store.del, Store.find, h1, h2, ih]

@[simp] theorem Store.get_put_same {α : Type} (m : Store α) (k : Nat) (v d : α) : (m.put k v).get k d = v := by
  simp [Store.get]

@[simp] theorem Store.get_put_other {α : Type} (m : Store α) {k j : Nat} (h : j ≠ k) (v d : α) :
    (m.put k v).get j d = m.get j d := by
  simp [Store.get, Store.find_put_other m h]

/-! ## Reading after writing -/

/-- A byte written reads back. -/
@[simp] theorem Memory.read_write_same (m : Memory) (a : Nat) (v : Byte) : (m.write a v).read a = v := by
  by_cases h : v = Memory.unlisted
  · simp [Memory.read, Memory.write, h, Store.get]
  · simp [Memory.read, Memory.write, h, Store.get]

/-- A write leaves every other byte alone. -/
theorem Memory.read_write_other (m : Memory) {a b : Nat} (h : b ≠ a) (v : Byte) : (m.write a v).read b = m.read b := by
  by_cases hv : v = Memory.unlisted
  · simp [Memory.read, Memory.write, hv, Store.get, Store.find_del_other m h]
  · simp [Memory.read, Memory.write, hv, Store.get, Store.find_put_other m h]

/-- Bytes below or above those written are left alone. -/
theorem Memory.read_writeN_outside (vs : List Byte) (m : Memory) (a b : Nat) (h : b < a ∨ a + vs.length ≤ b) :
    (m.writeN a vs).read b = m.read b := by
  induction vs generalizing m a with
  | nil => rfl
  | cons v t ih =>
    simp only [List.length_cons] at h
    have hb : b ≠ a := by omega
    rw [Memory.writeN, ih (m.write a v) (a + 1) (by omega), Memory.read_write_other m hb]

/-- Bytes written read back. -/
theorem Memory.readN_writeN (vs : List Byte) (m : Memory) (a : Nat) : (m.writeN a vs).readN a vs.length = vs := by
  induction vs generalizing m a with
  | nil => rfl
  | cons v t ih =>
    simp only [List.length_cons, Memory.readN, Memory.writeN]
    rw [ih, Memory.read_writeN_outside t (m.write a v) (a + 1) a (by omega), Memory.read_write_same]

/-! ## The canonical form -/

/-- Rising addresses, each above a bound. -/
def Memory.above (m : Memory) (lo : Nat) : Bool := m.all (fun c => lo < c.1)

theorem Memory.rising_cons (c : Host.Cell) (t : Memory) : Memory.rising (c :: t) = (Memory.rising t && Memory.above t c.1) := by
  induction t generalizing c with
  | nil => rfl
  | cons d t ih =>
    rw [Memory.rising, ih d]
    by_cases h : c.1 < d.1
    · have habove : Memory.above t d.1 = true → Memory.above t c.1 = true := by
        intro ht
        simp only [Memory.above, List.all_eq_true, decide_eq_true_eq] at ht ⊢
        exact fun e he => Nat.lt_trans h (ht e he)
      cases h1 : Memory.above t d.1
      · simp [h]
      · have := habove h1
        simp only [Memory.above] at this ⊢
        simp [h, this]
    · simp [Memory.above, h]

theorem Memory.above_put (m : Memory) (lo k : Nat) (v : Byte) (hm : Memory.above m lo = true) (hk : lo < k) :
    Memory.above (Store.put m k v) lo = true := by
  induction m with
  | nil => simp [Store.put, Memory.above, hk]
  | cons e t ih =>
    obtain ⟨k', v'⟩ := e
    simp only [Memory.above, List.all_cons, Bool.and_eq_true, decide_eq_true_eq] at hm
    have iht := ih (by simpa [Memory.above] using hm.2)
    simp only [Memory.above] at iht
    by_cases h1 : k < k'
    · simp only [Store.put, h1, if_true, Memory.above, List.all_cons, Bool.and_eq_true, decide_eq_true_eq]
      exact ⟨hk, hm.1, hm.2⟩
    · by_cases h2 : k' = k
      · simp only [Store.put, h2, Nat.lt_irrefl, if_false, if_true, Memory.above, List.all_cons, Bool.and_eq_true,
          decide_eq_true_eq]
        exact ⟨hk, hm.2⟩
      · simp only [Store.put, h1, h2, if_false, Memory.above, List.all_cons, Bool.and_eq_true, decide_eq_true_eq]
        exact ⟨hm.1, iht⟩

theorem Memory.rising_put (m : Memory) (k : Nat) (v : Byte) (hm : m.rising = true) : Memory.rising (Store.put m k v) = true := by
  induction m with
  | nil => rfl
  | cons e t ih =>
    obtain ⟨k', v'⟩ := e
    have hr := hm
    rw [Memory.rising_cons, Bool.and_eq_true] at hr
    by_cases h1 : k < k'
    · have ht : Memory.above t k = true := by
        have := hr.2
        simp only [Memory.above, List.all_eq_true, decide_eq_true_eq] at this ⊢
        exact fun e he => Nat.lt_trans h1 (this e he)
      simp only [Store.put, h1, if_true]
      rw [Memory.rising_cons, Bool.and_eq_true]
      refine ⟨hm, ?_⟩
      simp only [Memory.above, List.all_cons, Bool.and_eq_true, decide_eq_true_eq]
      exact ⟨h1, by simpa [Memory.above] using ht⟩
    · by_cases h2 : k' = k
      · subst h2
        simp only [Store.put, Nat.lt_irrefl, if_false, if_true]
        rw [Memory.rising_cons, Bool.and_eq_true]
        exact hr
      · simp only [Store.put, h1, h2, if_false]
        rw [Memory.rising_cons, Bool.and_eq_true]
        exact ⟨ih hr.1, Memory.above_put t k' k v hr.2 (by omega)⟩

theorem Memory.above_del (m : Memory) (lo k : Nat) (hm : Memory.above m lo = true) : Memory.above (Store.del m k) lo = true := by
  induction m with
  | nil => rfl
  | cons e t ih =>
    obtain ⟨k', v'⟩ := e
    simp only [Memory.above, List.all_cons, Bool.and_eq_true, decide_eq_true_eq] at hm
    have iht := ih (by simpa [Memory.above] using hm.2)
    by_cases h : k' = k
    · simpa [Store.del, h] using iht
    · simp only [Store.del, h, if_false, Memory.above, List.all_cons, Bool.and_eq_true, decide_eq_true_eq]
      exact ⟨hm.1, by simpa [Memory.above] using iht⟩

theorem Memory.rising_del (m : Memory) (k : Nat) (hm : m.rising = true) : Memory.rising (Store.del m k) = true := by
  induction m with
  | nil => rfl
  | cons e t ih =>
    obtain ⟨k', v'⟩ := e
    rw [Memory.rising_cons, Bool.and_eq_true] at hm
    by_cases h : k' = k
    · simpa [Store.del, h] using ih hm.1
    · simp only [Store.del, h, if_false]
      rw [Memory.rising_cons, Bool.and_eq_true]
      exact ⟨ih hm.1, Memory.above_del t k' k hm.2⟩

theorem Store.mem_put {α : Type} (m : Store α) (k : Nat) (v : α) : ∀ c ∈ m.put k v, c = (k, v) ∨ c ∈ m := by
  induction m with
  | nil => simp [Store.put]
  | cons e t ih =>
    obtain ⟨k', v'⟩ := e
    intro c hc
    by_cases h1 : k < k'
    · simpa [Store.put, h1] using hc
    · by_cases h2 : k' = k
      · simp only [Store.put, h2, Nat.lt_irrefl, if_false, if_true, List.mem_cons] at hc
        rcases hc with h | h
        · exact .inl h
        · exact .inr (List.mem_cons_of_mem _ h)
      · simp only [Store.put, h1, h2, if_false, List.mem_cons] at hc
        rcases hc with h | h
        · exact .inr (h ▸ List.mem_cons_self)
        · rcases ih c h with h | h
          · exact .inl h
          · exact .inr (List.mem_cons_of_mem _ h)

theorem Store.mem_del {α : Type} (m : Store α) (k : Nat) : ∀ c ∈ m.del k, c ∈ m := by
  induction m with
  | nil => simp [Store.del]
  | cons e t ih =>
    obtain ⟨k', v'⟩ := e
    intro c hc
    by_cases h : k' = k
    · simp only [Store.del, h, if_true] at hc
      exact List.mem_cons_of_mem _ (ih c hc)
    · simp only [Store.del, h, if_false, List.mem_cons] at hc
      rcases hc with h | h
      · exact h ▸ List.mem_cons_self
      · exact List.mem_cons_of_mem _ (ih c h)

theorem Memory.wf_iff (m : Memory) : m.wf = true ↔ m.rising = true ∧ ∀ c ∈ m, c.2 ≠ Memory.unlisted := by
  simp [Memory.wf]

/-- A write keeps the canonical form. -/
theorem Memory.write_wf (m : Memory) (a : Nat) (v : Byte) (hm : m.wf = true) : (m.write a v).wf = true := by
  rw [Memory.wf_iff] at hm ⊢
  by_cases h : v = Memory.unlisted
  · simp only [Memory.write, h, if_true]
    exact ⟨Memory.rising_del m a hm.1, fun c hc => hm.2 c (Store.mem_del m a c hc)⟩
  · simp only [Memory.write, h, if_false]
    refine ⟨Memory.rising_put m a v hm.1, fun c hc => ?_⟩
    rcases Store.mem_put m a v c hc with e | e
    · rw [e]; exact h
    · exact hm.2 c e

/-- A write of bytes keeps the canonical form. -/
theorem Memory.writeN_wf (vs : List Byte) (m : Memory) (a : Nat) (hm : m.wf = true) : (m.writeN a vs).wf = true := by
  induction vs generalizing m a with
  | nil => exact hm
  | cons v t ih => exact ih (m.write a v) (a + 1) (Memory.write_wf m a v hm)

theorem Memory.above_filter (m : Memory) (lo : Nat) (p : Host.Cell → Bool) (hm : Memory.above m lo = true) :
    Memory.above (m.filter p) lo = true := by
  simp only [Memory.above, List.all_eq_true] at hm ⊢
  exact fun c hc => hm c (List.mem_of_mem_filter hc)

/-- Dropping bytes keeps the canonical form. -/
theorem Memory.clear_wf (m : Memory) (lo hi : Nat) (hm : m.wf = true) : (m.clear lo hi).wf = true := by
  rw [Memory.wf_iff] at hm ⊢
  refine ⟨?_, fun c hc => hm.2 c (List.mem_of_mem_filter hc)⟩
  have : ∀ m : Memory, m.rising = true → (m.clear lo hi).rising = true := by
    intro m
    induction m with
    | nil => exact id
    | cons e t ih =>
      intro h
      rw [Memory.rising_cons, Bool.and_eq_true] at h
      have iht := ih h.1
      by_cases hp : (!(lo ≤ e.1 && e.1 < hi)) = true
      · have : Memory.clear (e :: t) lo hi = e :: Memory.clear t lo hi := by simp only [Memory.clear, List.filter_cons, hp, if_true]
        rw [this, Memory.rising_cons, Bool.and_eq_true]
        exact ⟨iht, Memory.above_filter t e.1 _ h.2⟩
      · have : Memory.clear (e :: t) lo hi = Memory.clear t lo hi := by simp only [Memory.clear, List.filter_cons, hp]; rfl
        rw [this]; exact iht
  exact this m hm.1

/-- The empty memory is in canonical form. -/
@[simp] theorem Memory.wf_nil : Memory.wf [] = true := rfl

end Sys2Proof.Machine
end

