-- ==== Sys2Proof/Laws/State.lean ====
section
/-! SUPPORT. The small lemmas of the state: what each update of a part leaves of every field, what reading a part gives
after an update, and the same for the streams and registers of a context. -/

namespace Sys2Proof.Machine

@[simp] theorem State.setCore_cur (s : State) (n : Nat) (c : Core) : (s.setCore n c).cur = s.cur := rfl
@[simp] theorem State.setCore_agenda (s : State) (n : Nat) (c : Core) : (s.setCore n c).agenda = s.agenda := rfl
@[simp] theorem State.setCore_fresh (s : State) (n : Nat) (c : Core) : (s.setCore n c).fresh = s.fresh := rfl
@[simp] theorem State.setCore_now (s : State) (n : Nat) (c : Core) : (s.setCore n c).now = s.now := rfl
@[simp] theorem State.setCore_clusters (s : State) (n : Nat) (c : Core) : (s.setCore n c).clusters = s.clusters := rfl
@[simp] theorem State.setCore_parts (s : State) (n : Nat) (c : Core) : (s.setCore n c).parts = s.parts := rfl
@[simp] theorem State.setCore_mem (s : State) (n : Nat) (c : Core) : (s.setCore n c).mem = s.mem := rfl
@[simp] theorem State.setCore_slices (s : State) (n : Nat) (c : Core) : (s.setCore n c).slices = s.slices := rfl
@[simp] theorem State.setCore_mgmt (s : State) (n : Nat) (c : Core) : (s.setCore n c).mgmt = s.mgmt := rfl
@[simp] theorem State.setCore_fabric (s : State) (n : Nat) (c : Core) : (s.setCore n c).fabric = s.fabric := rfl
@[simp] theorem State.modCore_cur (s : State) (n : Nat) (f : Core → Core) : (s.modCore n f).cur = s.cur := rfl
@[simp] theorem State.modCore_agenda (s : State) (n : Nat) (f : Core → Core) : (s.modCore n f).agenda = s.agenda := rfl
@[simp] theorem State.modCore_fresh (s : State) (n : Nat) (f : Core → Core) : (s.modCore n f).fresh = s.fresh := rfl
@[simp] theorem State.modCore_now (s : State) (n : Nat) (f : Core → Core) : (s.modCore n f).now = s.now := rfl
@[simp] theorem State.modCore_clusters (s : State) (n : Nat) (f : Core → Core) : (s.modCore n f).clusters = s.clusters := rfl
@[simp] theorem State.modCore_parts (s : State) (n : Nat) (f : Core → Core) : (s.modCore n f).parts = s.parts := rfl
@[simp] theorem State.modCore_mem (s : State) (n : Nat) (f : Core → Core) : (s.modCore n f).mem = s.mem := rfl
@[simp] theorem State.modCore_slices (s : State) (n : Nat) (f : Core → Core) : (s.modCore n f).slices = s.slices := rfl
@[simp] theorem State.modCore_mgmt (s : State) (n : Nat) (f : Core → Core) : (s.modCore n f).mgmt = s.mgmt := rfl
@[simp] theorem State.modCore_fabric (s : State) (n : Nat) (f : Core → Core) : (s.modCore n f).fabric = s.fabric := rfl
@[simp] theorem State.modCtx_cur (s : State) (n : Nat) (f : Ctx → Ctx) : (s.modCtx n f).cur = s.cur := rfl
@[simp] theorem State.modCtx_agenda (s : State) (n : Nat) (f : Ctx → Ctx) : (s.modCtx n f).agenda = s.agenda := rfl
@[simp] theorem State.modCtx_fresh (s : State) (n : Nat) (f : Ctx → Ctx) : (s.modCtx n f).fresh = s.fresh := rfl
@[simp] theorem State.modCtx_now (s : State) (n : Nat) (f : Ctx → Ctx) : (s.modCtx n f).now = s.now := rfl
@[simp] theorem State.modCtx_clusters (s : State) (n : Nat) (f : Ctx → Ctx) : (s.modCtx n f).clusters = s.clusters := rfl
@[simp] theorem State.modCtx_parts (s : State) (n : Nat) (f : Ctx → Ctx) : (s.modCtx n f).parts = s.parts := rfl
@[simp] theorem State.modCtx_mem (s : State) (n : Nat) (f : Ctx → Ctx) : (s.modCtx n f).mem = s.mem := rfl
@[simp] theorem State.modCtx_slices (s : State) (n : Nat) (f : Ctx → Ctx) : (s.modCtx n f).slices = s.slices := rfl
@[simp] theorem State.modCtx_mgmt (s : State) (n : Nat) (f : Ctx → Ctx) : (s.modCtx n f).mgmt = s.mgmt := rfl
@[simp] theorem State.modCtx_fabric (s : State) (n : Nat) (f : Ctx → Ctx) : (s.modCtx n f).fabric = s.fabric := rfl
@[simp] theorem State.setCluster_cur (s : State) (n : Nat) (c : Cluster) : (s.setCluster n c).cur = s.cur := rfl
@[simp] theorem State.setCluster_agenda (s : State) (n : Nat) (c : Cluster) : (s.setCluster n c).agenda = s.agenda := rfl
@[simp] theorem State.setCluster_fresh (s : State) (n : Nat) (c : Cluster) : (s.setCluster n c).fresh = s.fresh := rfl
@[simp] theorem State.setCluster_now (s : State) (n : Nat) (c : Cluster) : (s.setCluster n c).now = s.now := rfl
@[simp] theorem State.setCluster_cores (s : State) (n : Nat) (c : Cluster) : (s.setCluster n c).cores = s.cores := rfl
@[simp] theorem State.setCluster_parts (s : State) (n : Nat) (c : Cluster) : (s.setCluster n c).parts = s.parts := rfl
@[simp] theorem State.setCluster_mem (s : State) (n : Nat) (c : Cluster) : (s.setCluster n c).mem = s.mem := rfl
@[simp] theorem State.setCluster_slices (s : State) (n : Nat) (c : Cluster) : (s.setCluster n c).slices = s.slices := rfl
@[simp] theorem State.setCluster_mgmt (s : State) (n : Nat) (c : Cluster) : (s.setCluster n c).mgmt = s.mgmt := rfl
@[simp] theorem State.setCluster_fabric (s : State) (n : Nat) (c : Cluster) : (s.setCluster n c).fabric = s.fabric := rfl
@[simp] theorem State.modCluster_cur (s : State) (n : Nat) (f : Cluster → Cluster) : (s.modCluster n f).cur = s.cur := rfl
@[simp] theorem State.modCluster_agenda (s : State) (n : Nat) (f : Cluster → Cluster) : (s.modCluster n f).agenda = s.agenda := rfl
@[simp] theorem State.modCluster_fresh (s : State) (n : Nat) (f : Cluster → Cluster) : (s.modCluster n f).fresh = s.fresh := rfl
@[simp] theorem State.modCluster_now (s : State) (n : Nat) (f : Cluster → Cluster) : (s.modCluster n f).now = s.now := rfl
@[simp] theorem State.modCluster_cores (s : State) (n : Nat) (f : Cluster → Cluster) : (s.modCluster n f).cores = s.cores := rfl
@[simp] theorem State.modCluster_parts (s : State) (n : Nat) (f : Cluster → Cluster) : (s.modCluster n f).parts = s.parts := rfl
@[simp] theorem State.modCluster_mem (s : State) (n : Nat) (f : Cluster → Cluster) : (s.modCluster n f).mem = s.mem := rfl
@[simp] theorem State.modCluster_slices (s : State) (n : Nat) (f : Cluster → Cluster) : (s.modCluster n f).slices = s.slices := rfl
@[simp] theorem State.modCluster_mgmt (s : State) (n : Nat) (f : Cluster → Cluster) : (s.modCluster n f).mgmt = s.mgmt := rfl
@[simp] theorem State.modCluster_fabric (s : State) (n : Nat) (f : Cluster → Cluster) : (s.modCluster n f).fabric = s.fabric := rfl
@[simp] theorem State.setPart_cur (s : State) (n : Nat) (p : Part) : (s.setPart n p).cur = s.cur := rfl
@[simp] theorem State.setPart_agenda (s : State) (n : Nat) (p : Part) : (s.setPart n p).agenda = s.agenda := rfl
@[simp] theorem State.setPart_fresh (s : State) (n : Nat) (p : Part) : (s.setPart n p).fresh = s.fresh := rfl
@[simp] theorem State.setPart_now (s : State) (n : Nat) (p : Part) : (s.setPart n p).now = s.now := rfl
@[simp] theorem State.setPart_cores (s : State) (n : Nat) (p : Part) : (s.setPart n p).cores = s.cores := rfl
@[simp] theorem State.setPart_clusters (s : State) (n : Nat) (p : Part) : (s.setPart n p).clusters = s.clusters := rfl
@[simp] theorem State.setPart_mem (s : State) (n : Nat) (p : Part) : (s.setPart n p).mem = s.mem := rfl
@[simp] theorem State.setPart_slices (s : State) (n : Nat) (p : Part) : (s.setPart n p).slices = s.slices := rfl
@[simp] theorem State.setPart_mgmt (s : State) (n : Nat) (p : Part) : (s.setPart n p).mgmt = s.mgmt := rfl
@[simp] theorem State.setPart_fabric (s : State) (n : Nat) (p : Part) : (s.setPart n p).fabric = s.fabric := rfl
@[simp] theorem State.modPart_cur (s : State) (n : Nat) (f : Part → Part) : (s.modPart n f).cur = s.cur := rfl
@[simp] theorem State.modPart_agenda (s : State) (n : Nat) (f : Part → Part) : (s.modPart n f).agenda = s.agenda := rfl
@[simp] theorem State.modPart_fresh (s : State) (n : Nat) (f : Part → Part) : (s.modPart n f).fresh = s.fresh := rfl
@[simp] theorem State.modPart_now (s : State) (n : Nat) (f : Part → Part) : (s.modPart n f).now = s.now := rfl
@[simp] theorem State.modPart_cores (s : State) (n : Nat) (f : Part → Part) : (s.modPart n f).cores = s.cores := rfl
@[simp] theorem State.modPart_clusters (s : State) (n : Nat) (f : Part → Part) : (s.modPart n f).clusters = s.clusters := rfl
@[simp] theorem State.modPart_mem (s : State) (n : Nat) (f : Part → Part) : (s.modPart n f).mem = s.mem := rfl
@[simp] theorem State.modPart_slices (s : State) (n : Nat) (f : Part → Part) : (s.modPart n f).slices = s.slices := rfl
@[simp] theorem State.modPart_mgmt (s : State) (n : Nat) (f : Part → Part) : (s.modPart n f).mgmt = s.mgmt := rfl
@[simp] theorem State.modPart_fabric (s : State) (n : Nat) (f : Part → Part) : (s.modPart n f).fabric = s.fabric := rfl
@[simp] theorem State.modRegion_cur (s : State) (p r : Nat) (f : Region → Region) : (s.modRegion p r f).cur = s.cur := rfl
@[simp] theorem State.modRegion_agenda (s : State) (p r : Nat) (f : Region → Region) : (s.modRegion p r f).agenda = s.agenda := rfl
@[simp] theorem State.modRegion_fresh (s : State) (p r : Nat) (f : Region → Region) : (s.modRegion p r f).fresh = s.fresh := rfl
@[simp] theorem State.modRegion_now (s : State) (p r : Nat) (f : Region → Region) : (s.modRegion p r f).now = s.now := rfl
@[simp] theorem State.modRegion_cores (s : State) (p r : Nat) (f : Region → Region) : (s.modRegion p r f).cores = s.cores := rfl
@[simp] theorem State.modRegion_clusters (s : State) (p r : Nat) (f : Region → Region) : (s.modRegion p r f).clusters = s.clusters := rfl
@[simp] theorem State.modRegion_mem (s : State) (p r : Nat) (f : Region → Region) : (s.modRegion p r f).mem = s.mem := rfl
@[simp] theorem State.modRegion_slices (s : State) (p r : Nat) (f : Region → Region) : (s.modRegion p r f).slices = s.slices := rfl
@[simp] theorem State.modRegion_mgmt (s : State) (p r : Nat) (f : Region → Region) : (s.modRegion p r f).mgmt = s.mgmt := rfl
@[simp] theorem State.modRegion_fabric (s : State) (p r : Nat) (f : Region → Region) : (s.modRegion p r f).fabric = s.fabric := rfl

/-! ## Reading a part after an update -/

@[simp] theorem State.core_setCore_same (s : State) (n : Nat) (c : Core) : (s.setCore n c).core n = c := by
  simp [State.core, State.setCore]

theorem State.core_setCore_other (s : State) {n k : Nat} (h : k ≠ n) (c : Core) : (s.setCore n c).core k = s.core k := by
  simp [State.core, State.setCore, h]

@[simp] theorem State.core_modCore_same (s : State) (n : Nat) (f : Core → Core) : (s.modCore n f).core n = f (s.core n) := by
  simp [State.modCore]

theorem State.core_modCore_other (s : State) {n k : Nat} (h : k ≠ n) (f : Core → Core) : (s.modCore n f).core k = s.core k := by
  simp [State.modCore, State.core_setCore_other s h]

@[simp] theorem State.ctx_modCtx_same (s : State) (n : Nat) (f : Ctx → Ctx) : (s.modCtx n f).ctx n = f (s.ctx n) := by
  simp [State.modCtx, State.ctx]

theorem State.core_modCtx_other (s : State) {n k : Nat} (h : k ≠ n) (f : Ctx → Ctx) : (s.modCtx n f).core k = s.core k := by
  simp [State.modCtx, State.core_modCore_other s h]

theorem State.ctx_modCtx_other (s : State) {n k : Nat} (h : k ≠ n) (f : Ctx → Ctx) : (s.modCtx n f).ctx k = s.ctx k := by
  simp [State.ctx, State.core_modCtx_other s h]

@[simp] theorem State.core_modCtx_same (s : State) (n : Nat) (f : Ctx → Ctx) :
    (s.modCtx n f).core n = { s.core n with ctx := f (s.ctx n) } := by
  simp [State.modCtx, State.ctx]

@[simp] theorem State.cluster_setCluster_same (s : State) (n : Nat) (c : Cluster) : (s.setCluster n c).cluster n = c := by
  simp [State.cluster, State.setCluster]

theorem State.cluster_setCluster_other (s : State) {n k : Nat} (h : k ≠ n) (c : Cluster) :
    (s.setCluster n c).cluster k = s.cluster k := by
  simp [State.cluster, State.setCluster, h]

@[simp] theorem State.cluster_modCluster_same (s : State) (n : Nat) (f : Cluster → Cluster) :
    (s.modCluster n f).cluster n = f (s.cluster n) := by
  simp [State.modCluster]

theorem State.cluster_modCluster_other (s : State) {n k : Nat} (h : k ≠ n) (f : Cluster → Cluster) :
    (s.modCluster n f).cluster k = s.cluster k := by
  simp [State.modCluster, State.cluster_setCluster_other s h]

@[simp] theorem State.part_setPart_same (s : State) (n : Nat) (p : Part) : (s.setPart n p).part n = p := by
  simp [State.part, State.setPart]

theorem State.part_setPart_other (s : State) {n k : Nat} (h : k ≠ n) (p : Part) : (s.setPart n p).part k = s.part k := by
  simp [State.part, State.setPart, h]

@[simp] theorem State.part_modPart_same (s : State) (n : Nat) (f : Part → Part) : (s.modPart n f).part n = f (s.part n) := by
  simp [State.modPart]

theorem State.part_modPart_other (s : State) {n k : Nat} (h : k ≠ n) (f : Part → Part) : (s.modPart n f).part k = s.part k := by
  simp [State.modPart, State.part_setPart_other s h]

@[simp] theorem State.cluster_setCore (s : State) (n k : Nat) (c : Core) : (s.setCore n c).cluster k = s.cluster k := rfl
@[simp] theorem State.cluster_modCore (s : State) (n k : Nat) (f : Core → Core) : (s.modCore n f).cluster k = s.cluster k := rfl
@[simp] theorem State.cluster_modCtx (s : State) (n k : Nat) (f : Ctx → Ctx) : (s.modCtx n f).cluster k = s.cluster k := rfl
@[simp] theorem State.part_modCore (s : State) (n k : Nat) (f : Core → Core) : (s.modCore n f).part k = s.part k := rfl
@[simp] theorem State.part_modCtx (s : State) (n k : Nat) (f : Ctx → Ctx) : (s.modCtx n f).part k = s.part k := rfl
@[simp] theorem State.core_modCluster (s : State) (n k : Nat) (f : Cluster → Cluster) : (s.modCluster n f).core k = s.core k := rfl
@[simp] theorem State.core_modPart (s : State) (n k : Nat) (f : Part → Part) : (s.modPart n f).core k = s.core k := rfl
@[simp] theorem State.ctx_modCluster (s : State) (n k : Nat) (f : Cluster → Cluster) : (s.modCluster n f).ctx k = s.ctx k := rfl
@[simp] theorem State.ctx_modPart (s : State) (n k : Nat) (f : Part → Part) : (s.modPart n f).ctx k = s.ctx k := rfl
@[simp] theorem State.part_modCluster (s : State) (n k : Nat) (f : Cluster → Cluster) : (s.modCluster n f).part k = s.part k := rfl
@[simp] theorem State.cluster_modPart (s : State) (n k : Nat) (f : Part → Part) : (s.modPart n f).cluster k = s.cluster k := rfl
@[simp] theorem State.cyc_modCtx (s : State) (n k : Nat) (f : Ctx → Ctx) : (s.modCtx n f).cyc k = s.cyc k := rfl
@[simp] theorem State.me_modCtx (s : State) (n : Nat) (f : Ctx → Ctx) : (s.modCtx n f).me = s.me := rfl

/-! ## Streams of a context -/

@[simp] theorem Ctx.strm_setStrm_same (x : Ctx) (st : Strm) (v : Stream) : (x.setStrm st v).strm st = v := by
  cases st <;> rfl

theorem Ctx.strm_setStrm_other (x : Ctx) {st k : Strm} (h : k ≠ st) (v : Stream) : (x.setStrm st v).strm k = x.strm k := by
  cases st <;> cases k <;> first | rfl | exact absurd rfl h

@[simp] theorem Ctx.strm_modStrm_same (x : Ctx) (st : Strm) (f : Stream → Stream) : (x.modStrm st f).strm st = f (x.strm st) := by
  simp [Ctx.modStrm]

theorem Ctx.strm_modStrm_other (x : Ctx) {st k : Strm} (h : k ≠ st) (f : Stream → Stream) :
    (x.modStrm st f).strm k = x.strm k := by
  simp [Ctx.modStrm, Ctx.strm_setStrm_other x h]

@[simp] theorem Ctx.setStrm_mode (x : Ctx) (st : Strm) (v : Stream) : (x.setStrm st v).mode = x.mode := by cases st <;> rfl
@[simp] theorem Ctx.modStrm_mode (x : Ctx) (st : Strm) (f : Stream → Stream) : (x.modStrm st f).mode = x.mode := by cases st <;> rfl
@[simp] theorem Ctx.setStrm_text (x : Ctx) (st : Strm) (v : Stream) : (x.setStrm st v).text = x.text := by cases st <;> rfl
@[simp] theorem Ctx.modStrm_text (x : Ctx) (st : Strm) (f : Stream → Stream) : (x.modStrm st f).text = x.text := by cases st <;> rfl
@[simp] theorem Ctx.setStrm_regs (x : Ctx) (st : Strm) (v : Stream) : (x.setStrm st v).regs = x.regs := by cases st <;> rfl
@[simp] theorem Ctx.modStrm_regs (x : Ctx) (st : Strm) (f : Stream → Stream) : (x.modStrm st f).regs = x.regs := by cases st <;> rfl
@[simp] theorem Ctx.setStrm_tok (x : Ctx) (st : Strm) (v : Stream) : (x.setStrm st v).tok = x.tok := by cases st <;> rfl
@[simp] theorem Ctx.modStrm_tok (x : Ctx) (st : Strm) (f : Stream → Stream) : (x.modStrm st f).tok = x.tok := by cases st <;> rfl
@[simp] theorem Ctx.setStrm_tok0 (x : Ctx) (st : Strm) (v : Stream) : (x.setStrm st v).tok0 = x.tok0 := by cases st <;> rfl
@[simp] theorem Ctx.modStrm_tok0 (x : Ctx) (st : Strm) (f : Stream → Stream) : (x.modStrm st f).tok0 = x.tok0 := by cases st <;> rfl
@[simp] theorem Ctx.setStrm_lq (x : Ctx) (st : Strm) (v : Stream) : (x.setStrm st v).lq = x.lq := by cases st <;> rfl
@[simp] theorem Ctx.modStrm_lq (x : Ctx) (st : Strm) (f : Stream → Stream) : (x.modStrm st f).lq = x.lq := by cases st <;> rfl
@[simp] theorem Ctx.setStrm_sq (x : Ctx) (st : Strm) (v : Stream) : (x.setStrm st v).sq = x.sq := by cases st <;> rfl
@[simp] theorem Ctx.modStrm_sq (x : Ctx) (st : Strm) (f : Stream → Stream) : (x.modStrm st f).sq = x.sq := by cases st <;> rfl
@[simp] theorem Ctx.setStrm_bq (x : Ctx) (st : Strm) (v : Stream) : (x.setStrm st v).bq = x.bq := by cases st <;> rfl
@[simp] theorem Ctx.modStrm_bq (x : Ctx) (st : Strm) (f : Stream → Stream) : (x.modStrm st f).bq = x.bq := by cases st <;> rfl
@[simp] theorem Ctx.setStrm_send (x : Ctx) (st : Strm) (v : Stream) : (x.setStrm st v).send = x.send := by cases st <;> rfl
@[simp] theorem Ctx.modStrm_send (x : Ctx) (st : Strm) (f : Stream → Stream) : (x.modStrm st f).send = x.send := by cases st <;> rfl
@[simp] theorem Ctx.setStrm_sys (x : Ctx) (st : Strm) (v : Stream) : (x.setStrm st v).sys = x.sys := by cases st <;> rfl
@[simp] theorem Ctx.modStrm_sys (x : Ctx) (st : Strm) (f : Stream → Stream) : (x.modStrm st f).sys = x.sys := by cases st <;> rfl
@[simp] theorem Ctx.setStrm_frame (x : Ctx) (st : Strm) (v : Stream) : (x.setStrm st v).frame = x.frame := by cases st <;> rfl
@[simp] theorem Ctx.modStrm_frame (x : Ctx) (st : Strm) (f : Stream → Stream) : (x.modStrm st f).frame = x.frame := by cases st <;> rfl
@[simp] theorem Ctx.setStrm_pend (x : Ctx) (st : Strm) (v : Stream) : (x.setStrm st v).pend = x.pend := by cases st <;> rfl
@[simp] theorem Ctx.modStrm_pend (x : Ctx) (st : Strm) (f : Stream → Stream) : (x.modStrm st f).pend = x.pend := by cases st <;> rfl
@[simp] theorem Ctx.setStrm_fills (x : Ctx) (st : Strm) (v : Stream) : (x.setStrm st v).fills = x.fills := by cases st <;> rfl
@[simp] theorem Ctx.modStrm_fills (x : Ctx) (st : Strm) (f : Stream → Stream) : (x.modStrm st f).fills = x.fills := by cases st <;> rfl
@[simp] theorem Ctx.setStrm_eng (x : Ctx) (st : Strm) (v : Stream) : (x.setStrm st v).eng = x.eng := by cases st <;> rfl
@[simp] theorem Ctx.modStrm_eng (x : Ctx) (st : Strm) (f : Stream → Stream) : (x.modStrm st f).eng = x.eng := by cases st <;> rfl
@[simp] theorem Ctx.setStrm_fifo (x : Ctx) (st : Strm) (v : Stream) : (x.setStrm st v).fifo = x.fifo := by cases st <;> rfl
@[simp] theorem Ctx.modStrm_fifo (x : Ctx) (st : Strm) (f : Stream → Stream) : (x.modStrm st f).fifo = x.fifo := by cases st <;> rfl
@[simp] theorem Ctx.setStrm_fails (x : Ctx) (st : Strm) (v : Stream) : (x.setStrm st v).fails = x.fails := by cases st <;> rfl
@[simp] theorem Ctx.modStrm_fails (x : Ctx) (st : Strm) (f : Stream → Stream) : (x.modStrm st f).fails = x.fails := by cases st <;> rfl
@[simp] theorem Ctx.setStrm_counters (x : Ctx) (st : Strm) (v : Stream) : (x.setStrm st v).counters = x.counters := by cases st <;> rfl
@[simp] theorem Ctx.modStrm_counters (x : Ctx) (st : Strm) (f : Stream → Stream) : (x.modStrm st f).counters = x.counters := by cases st <;> rfl
@[simp] theorem Ctx.setStrm_launch (x : Ctx) (st : Strm) (v : Stream) : (x.setStrm st v).launch = x.launch := by cases st <;> rfl
@[simp] theorem Ctx.modStrm_launch (x : Ctx) (st : Strm) (f : Stream → Stream) : (x.modStrm st f).launch = x.launch := by cases st <;> rfl
@[simp] theorem Ctx.setStrm_nextId (x : Ctx) (st : Strm) (v : Stream) : (x.setStrm st v).nextId = x.nextId := by cases st <;> rfl
@[simp] theorem Ctx.modStrm_nextId (x : Ctx) (st : Strm) (f : Stream → Stream) : (x.modStrm st f).nextId = x.nextId := by cases st <;> rfl
@[simp] theorem Ctx.setStrm_atomSeq (x : Ctx) (st : Strm) (v : Stream) : (x.setStrm st v).atomSeq = x.atomSeq := by cases st <;> rfl
@[simp] theorem Ctx.modStrm_atomSeq (x : Ctx) (st : Strm) (f : Stream → Stream) : (x.modStrm st f).atomSeq = x.atomSeq := by cases st <;> rfl
@[simp] theorem Ctx.setStrm_mark (x : Ctx) (st : Strm) (v : Stream) : (x.setStrm st v).mark = x.mark := by cases st <;> rfl
@[simp] theorem Ctx.modStrm_mark (x : Ctx) (st : Strm) (f : Stream → Stream) : (x.modStrm st f).mark = x.mark := by cases st <;> rfl
@[simp] theorem Ctx.setStrm_ending (x : Ctx) (st : Strm) (v : Stream) : (x.setStrm st v).ending = x.ending := by cases st <;> rfl
@[simp] theorem Ctx.modStrm_ending (x : Ctx) (st : Strm) (f : Stream → Stream) : (x.modStrm st f).ending = x.ending := by cases st <;> rfl

/-! ## What an issue pays -/

@[simp] theorem Ctx.pay_mode (x : Ctx) (st : Strm) (h : Hdr) (u : Nat) : (x.pay st h u).mode = x.mode := rfl
@[simp] theorem Ctx.pay_text (x : Ctx) (st : Strm) (h : Hdr) (u : Nat) : (x.pay st h u).text = x.text := rfl
@[simp] theorem Ctx.pay_regs (x : Ctx) (st : Strm) (h : Hdr) (u : Nat) : (x.pay st h u).regs = x.regs := rfl
@[simp] theorem Ctx.pay_c (x : Ctx) (st : Strm) (h : Hdr) (u : Nat) : (x.pay st h u).c = x.c := rfl
@[simp] theorem Ctx.pay_l (x : Ctx) (st : Strm) (h : Hdr) (u : Nat) : (x.pay st h u).l = x.l := rfl
@[simp] theorem Ctx.pay_v (x : Ctx) (st : Strm) (h : Hdr) (u : Nat) : (x.pay st h u).v = x.v := rfl
@[simp] theorem Ctx.pay_s (x : Ctx) (st : Strm) (h : Hdr) (u : Nat) : (x.pay st h u).s = x.s := rfl
@[simp] theorem Ctx.pay_tok0 (x : Ctx) (st : Strm) (h : Hdr) (u : Nat) : (x.pay st h u).tok0 = x.tok0 := rfl
@[simp] theorem Ctx.pay_lq (x : Ctx) (st : Strm) (h : Hdr) (u : Nat) : (x.pay st h u).lq = x.lq := rfl
@[simp] theorem Ctx.pay_sq (x : Ctx) (st : Strm) (h : Hdr) (u : Nat) : (x.pay st h u).sq = x.sq := rfl
@[simp] theorem Ctx.pay_bq (x : Ctx) (st : Strm) (h : Hdr) (u : Nat) : (x.pay st h u).bq = x.bq := rfl
@[simp] theorem Ctx.pay_send (x : Ctx) (st : Strm) (h : Hdr) (u : Nat) : (x.pay st h u).send = x.send := rfl
@[simp] theorem Ctx.pay_frame (x : Ctx) (st : Strm) (h : Hdr) (u : Nat) : (x.pay st h u).frame = x.frame := rfl
@[simp] theorem Ctx.pay_pend (x : Ctx) (st : Strm) (h : Hdr) (u : Nat) : (x.pay st h u).pend = x.pend := rfl
@[simp] theorem Ctx.pay_fills (x : Ctx) (st : Strm) (h : Hdr) (u : Nat) : (x.pay st h u).fills = x.fills := rfl
@[simp] theorem Ctx.pay_eng (x : Ctx) (st : Strm) (h : Hdr) (u : Nat) : (x.pay st h u).eng = x.eng := rfl
@[simp] theorem Ctx.pay_fifo (x : Ctx) (st : Strm) (h : Hdr) (u : Nat) : (x.pay st h u).fifo = x.fifo := rfl
@[simp] theorem Ctx.pay_fails (x : Ctx) (st : Strm) (h : Hdr) (u : Nat) : (x.pay st h u).fails = x.fails := rfl
@[simp] theorem Ctx.pay_launch (x : Ctx) (st : Strm) (h : Hdr) (u : Nat) : (x.pay st h u).launch = x.launch := rfl
@[simp] theorem Ctx.pay_nextId (x : Ctx) (st : Strm) (h : Hdr) (u : Nat) : (x.pay st h u).nextId = x.nextId := rfl
@[simp] theorem Ctx.pay_atomSeq (x : Ctx) (st : Strm) (h : Hdr) (u : Nat) : (x.pay st h u).atomSeq = x.atomSeq := rfl
@[simp] theorem Ctx.pay_mark (x : Ctx) (st : Strm) (h : Hdr) (u : Nat) : (x.pay st h u).mark = x.mark := rfl
@[simp] theorem Ctx.pay_ending (x : Ctx) (st : Strm) (h : Hdr) (u : Nat) : (x.pay st h u).ending = x.ending := rfl
@[simp] theorem Ctx.strm_pay (x : Ctx) (st k : Strm) (h : Hdr) (u : Nat) : (x.pay st h u).strm k = x.strm k := by cases k <;> rfl

@[simp] theorem Ctx.commit_mode (x : Ctx) (st : Strm) (h : Hdr) (o u cyc : Nat) : (x.commit st h o u cyc).mode = x.mode := by simp [Ctx.commit]
@[simp] theorem Ctx.commit_text (x : Ctx) (st : Strm) (h : Hdr) (o u cyc : Nat) : (x.commit st h o u cyc).text = x.text := by simp [Ctx.commit]
@[simp] theorem Ctx.commit_regs (x : Ctx) (st : Strm) (h : Hdr) (o u cyc : Nat) : (x.commit st h o u cyc).regs = x.regs := by simp [Ctx.commit]
@[simp] theorem Ctx.commit_tok0 (x : Ctx) (st : Strm) (h : Hdr) (o u cyc : Nat) : (x.commit st h o u cyc).tok0 = x.tok0 := by simp [Ctx.commit]
@[simp] theorem Ctx.commit_lq (x : Ctx) (st : Strm) (h : Hdr) (o u cyc : Nat) : (x.commit st h o u cyc).lq = x.lq := by simp [Ctx.commit]
@[simp] theorem Ctx.commit_sq (x : Ctx) (st : Strm) (h : Hdr) (o u cyc : Nat) : (x.commit st h o u cyc).sq = x.sq := by simp [Ctx.commit]
@[simp] theorem Ctx.commit_bq (x : Ctx) (st : Strm) (h : Hdr) (o u cyc : Nat) : (x.commit st h o u cyc).bq = x.bq := by simp [Ctx.commit]
@[simp] theorem Ctx.commit_send (x : Ctx) (st : Strm) (h : Hdr) (o u cyc : Nat) : (x.commit st h o u cyc).send = x.send := by simp [Ctx.commit]
@[simp] theorem Ctx.commit_frame (x : Ctx) (st : Strm) (h : Hdr) (o u cyc : Nat) : (x.commit st h o u cyc).frame = x.frame := by simp [Ctx.commit]
@[simp] theorem Ctx.commit_pend (x : Ctx) (st : Strm) (h : Hdr) (o u cyc : Nat) : (x.commit st h o u cyc).pend = x.pend := by simp [Ctx.commit]
@[simp] theorem Ctx.commit_fills (x : Ctx) (st : Strm) (h : Hdr) (o u cyc : Nat) : (x.commit st h o u cyc).fills = x.fills := by simp [Ctx.commit]
@[simp] theorem Ctx.commit_eng (x : Ctx) (st : Strm) (h : Hdr) (o u cyc : Nat) : (x.commit st h o u cyc).eng = x.eng := by simp [Ctx.commit]
@[simp] theorem Ctx.commit_fifo (x : Ctx) (st : Strm) (h : Hdr) (o u cyc : Nat) : (x.commit st h o u cyc).fifo = x.fifo := by simp [Ctx.commit]
@[simp] theorem Ctx.commit_fails (x : Ctx) (st : Strm) (h : Hdr) (o u cyc : Nat) : (x.commit st h o u cyc).fails = x.fails := by simp [Ctx.commit]
@[simp] theorem Ctx.commit_launch (x : Ctx) (st : Strm) (h : Hdr) (o u cyc : Nat) : (x.commit st h o u cyc).launch = x.launch := by simp [Ctx.commit]
@[simp] theorem Ctx.commit_nextId (x : Ctx) (st : Strm) (h : Hdr) (o u cyc : Nat) : (x.commit st h o u cyc).nextId = x.nextId := by simp [Ctx.commit]
@[simp] theorem Ctx.commit_atomSeq (x : Ctx) (st : Strm) (h : Hdr) (o u cyc : Nat) : (x.commit st h o u cyc).atomSeq = x.atomSeq := by simp [Ctx.commit]
@[simp] theorem Ctx.commit_mark (x : Ctx) (st : Strm) (h : Hdr) (o u cyc : Nat) : (x.commit st h o u cyc).mark = x.mark := by simp [Ctx.commit]
@[simp] theorem Ctx.commit_ending (x : Ctx) (st : Strm) (h : Hdr) (o u cyc : Nat) : (x.commit st h o u cyc).ending = x.ending := by simp [Ctx.commit]

/-! ## Registers -/

@[simp] theorem Ctx.putReg_mode (x : Ctx) (d : Reg) (v : Word) : (x.putReg d v).mode = x.mode := rfl
@[simp] theorem Ctx.putReg_text (x : Ctx) (d : Reg) (v : Word) : (x.putReg d v).text = x.text := rfl
@[simp] theorem Ctx.putReg_c (x : Ctx) (d : Reg) (v : Word) : (x.putReg d v).c = x.c := rfl
@[simp] theorem Ctx.putReg_l (x : Ctx) (d : Reg) (v : Word) : (x.putReg d v).l = x.l := rfl
@[simp] theorem Ctx.putReg_v (x : Ctx) (d : Reg) (v : Word) : (x.putReg d v).v = x.v := rfl
@[simp] theorem Ctx.putReg_s (x : Ctx) (d : Reg) (v : Word) : (x.putReg d v).s = x.s := rfl
@[simp] theorem Ctx.putReg_tok (x : Ctx) (d : Reg) (v : Word) : (x.putReg d v).tok = x.tok := rfl
@[simp] theorem Ctx.putReg_tok0 (x : Ctx) (d : Reg) (v : Word) : (x.putReg d v).tok0 = x.tok0 := rfl
@[simp] theorem Ctx.putReg_lq (x : Ctx) (d : Reg) (v : Word) : (x.putReg d v).lq = x.lq := rfl
@[simp] theorem Ctx.putReg_sq (x : Ctx) (d : Reg) (v : Word) : (x.putReg d v).sq = x.sq := rfl
@[simp] theorem Ctx.putReg_bq (x : Ctx) (d : Reg) (v : Word) : (x.putReg d v).bq = x.bq := rfl
@[simp] theorem Ctx.putReg_send (x : Ctx) (d : Reg) (v : Word) : (x.putReg d v).send = x.send := rfl
@[simp] theorem Ctx.putReg_sys (x : Ctx) (d : Reg) (v : Word) : (x.putReg d v).sys = x.sys := rfl
@[simp] theorem Ctx.putReg_frame (x : Ctx) (d : Reg) (v : Word) : (x.putReg d v).frame = x.frame := rfl
@[simp] theorem Ctx.putReg_pend (x : Ctx) (d : Reg) (v : Word) : (x.putReg d v).pend = x.pend := rfl
@[simp] theorem Ctx.putReg_fills (x : Ctx) (d : Reg) (v : Word) : (x.putReg d v).fills = x.fills := rfl
@[simp] theorem Ctx.putReg_eng (x : Ctx) (d : Reg) (v : Word) : (x.putReg d v).eng = x.eng := rfl
@[simp] theorem Ctx.putReg_fifo (x : Ctx) (d : Reg) (v : Word) : (x.putReg d v).fifo = x.fifo := rfl
@[simp] theorem Ctx.putReg_fails (x : Ctx) (d : Reg) (v : Word) : (x.putReg d v).fails = x.fails := rfl
@[simp] theorem Ctx.putReg_counters (x : Ctx) (d : Reg) (v : Word) : (x.putReg d v).counters = x.counters := rfl
@[simp] theorem Ctx.putReg_launch (x : Ctx) (d : Reg) (v : Word) : (x.putReg d v).launch = x.launch := rfl
@[simp] theorem Ctx.putReg_nextId (x : Ctx) (d : Reg) (v : Word) : (x.putReg d v).nextId = x.nextId := rfl
@[simp] theorem Ctx.putReg_atomSeq (x : Ctx) (d : Reg) (v : Word) : (x.putReg d v).atomSeq = x.atomSeq := rfl
@[simp] theorem Ctx.putReg_mark (x : Ctx) (d : Reg) (v : Word) : (x.putReg d v).mark = x.mark := rfl
@[simp] theorem Ctx.putReg_ending (x : Ctx) (d : Reg) (v : Word) : (x.putReg d v).ending = x.ending := rfl
@[simp] theorem Ctx.putReg_regs (x : Ctx) (d : Reg) (v : Word) : (x.putReg d v).regs = x.regs.set d v := rfl

/-- S0 reads as zero (R21). -/
@[simp] theorem Regs.get_zero (r : Regs) : r.get (.s 0#5) = 0#64 := rfl

/-- S0 ignores writes (R21). -/
@[simp] theorem Regs.set_zero (r : Regs) (v : Word) : r.set (.s 0#5) v = r := rfl

/-- A write of a register of S, other than S0. -/
theorem Regs.set_s (r : Regs) {i : BitVec 5} (hi : i ≠ 0) (v : Word) : r.set (.s i) v = { r with s := r.s.set i.toFin v } :=
  if_neg hi

/-- A read of a register of S, other than S0. -/
theorem Regs.get_s (r : Regs) {i : BitVec 5} (hi : i ≠ 0) : r.get (.s i) = r.s[i.toFin] := if_neg hi

/-- A register holds what was written, but S0. -/
theorem Regs.get_set_same (r : Regs) (d : Reg) (v : Word) (h : d ≠ .s 0) : (r.set d v).get d = v := by
  cases d with
  | s i =>
    have hi : i ≠ 0 := fun e => h (by rw [e])
    rw [Regs.set_s r hi, Regs.get_s _ hi]
    simp
  | h i => simp [Regs.get, Regs.set]

/-- A write leaves every other register alone. -/
theorem Regs.get_set_other (r : Regs) (d e : Reg) (v : Word) (h : e ≠ d) : (r.set d v).get e = r.get e := by
  have apart : ∀ {w : Nat} {i j : BitVec w}, i ≠ j → i.toNat ≠ j.toNat := fun hn k => hn (BitVec.eq_of_toNat_eq k)
  cases d with
  | s i =>
    by_cases hi : i = 0
    · rw [hi]; rfl
    · rw [Regs.set_s r hi]
      cases e with
      | s j =>
        by_cases hj : j = 0
        · rw [hj]; rfl
        · have hij := apart (fun k : i = j => h (by rw [k]))
          rw [Regs.get_s _ hj, Regs.get_s _ hj]
          simp [hij]
      | h j => rfl
  | h i =>
    cases e with
    | s j => rfl
    | h j =>
      have hij := apart (fun k : i = j => h (by rw [k]))
      simp [Regs.get, Regs.set, hij]

/-- A write of a scalar register leaves the other register files alone. -/
theorem Regs.set_files (r : Regs) (d : Reg) (v : Word) :
    (r.set d v).pl = r.pl ∧ (r.set d v).ps = r.ps ∧ (r.set d v).k = r.k ∧ (r.set d v).z = r.z ∧ (r.set d v).grid = r.grid := by
  cases d with
  | s i =>
    by_cases hi : i = 0
    · rw [hi]; exact ⟨rfl, rfl, rfl, rfl, rfl⟩
    · rw [Regs.set_s r hi]; exact ⟨rfl, rfl, rfl, rfl, rfl⟩
  | h i => exact ⟨rfl, rfl, rfl, rfl, rfl⟩

/-- Z0 reads as all ones (R21). -/
@[simp] theorem Regs.zget_zero (r : Regs) : r.zget 0#3 = BitVec.allOnes 64 := rfl

/-- Z0 ignores writes (R21). -/
@[simp] theorem Regs.zset_zero (r : Regs) (m v : Word) : r.zset 0#3 m v = r := rfl

end Sys2Proof.Machine
end

