-- ==== Sys2Proof/Laws/Ops.lean ====
section
/-! SUPPORT. What the shared operations do: one lemma each for the issue of an instruction, a hold, a fault that is taken, a
stop, a forward and a release. -/

namespace Sys2Proof.Machine

/-! ## What a step for one core leaves alone -/

/-- Everything but the cores is as before. -/
def State.SameBut (s t : State) : Prop :=
  t.clusters = s.clusters ∧ t.mem = s.mem ∧ t.slices = s.slices ∧ t.mgmt = s.mgmt ∧ t.fabric = s.fabric ∧ t.now = s.now ∧
    t.fresh = s.fresh ∧ t.cur = s.cur ∧ t.agenda = s.agenda

theorem State.SameBut.refl (s : State) : s.SameBut s := ⟨rfl, rfl, rfl, rfl, rfl, rfl, rfl, rfl, rfl⟩

theorem State.SameBut.trans {s t u : State} (h : s.SameBut t) (k : t.SameBut u) : s.SameBut u := by
  obtain ⟨a1, a2, a3, a4, a5, a6, a7, a8, a9⟩ := h
  obtain ⟨b1, b2, b3, b4, b5, b6, b7, b8, b9⟩ := k
  exact ⟨b1.trans a1, b2.trans a2, b3.trans a3, b4.trans a4, b5.trans a5, b6.trans a6, b7.trans a7, b8.trans a8, b9.trans a9⟩

theorem State.sameBut_modCore (s : State) (n : Nat) (f : Core → Core) : s.SameBut (s.modCore n f) :=
  ⟨rfl, rfl, rfl, rfl, rfl, rfl, rfl, rfl, rfl⟩

theorem State.sameBut_modCtx (s : State) (n : Nat) (f : Ctx → Ctx) : s.SameBut (s.modCtx n f) :=
  ⟨rfl, rfl, rfl, rfl, rfl, rfl, rfl, rfl, rfl⟩

theorem State.sameBut_modPart (s : State) (n : Nat) (f : Part → Part) : s.SameBut (s.modPart n f) :=
  ⟨rfl, rfl, rfl, rfl, rfl, rfl, rfl, rfl, rfl⟩

theorem State.sameBut_withdraw (s : State) (n : Nat) : s.SameBut (s.withdraw n) := s.sameBut_modPart _ _

theorem State.sameBut_stopCut (s : State) (n : Nat) : s.SameBut (s.stopCut n) :=
  (s.sameBut_withdraw n).trans (State.sameBut_modCtx _ _ _)

theorem State.sameBut_stopWait (s : State) (n : Nat) (w : Option (Trap × Strm)) : s.SameBut (s.stopWait n w) := by
  unfold State.stopWait
  split
  · exact s.sameBut_modCtx _ _
  · exact (s.sameBut_withdraw n).trans (State.sameBut_modCtx _ _ _)

theorem State.sameBut_halt (s : State) (n : Nat) : s.SameBut (s.halt n) := by
  unfold State.halt
  split
  · split
    · exact s.sameBut_stopWait n _
    · exact (s.sameBut_stopCut n).trans (State.sameBut_modCtx _ _ _)
  · exact s.sameBut_modCtx _ _
  · exact State.SameBut.refl s

theorem State.sameBut_foldl (l : List Nat) (f : State → Nat → State) (hf : ∀ (s : State) (n : Nat), s.SameBut (f s n)) (s : State) :
    s.SameBut (l.foldl f s) := by
  induction l generalizing s with
  | nil => exact State.SameBut.refl s
  | cons a l ih => exact (hf s a).trans (ih (f s a))

theorem State.sameBut_forward (s : State) (n : Nat) : s.SameBut (s.forward n) := by
  unfold State.forward
  have h (f : Part → Part) : s.SameBut (((s.modPart (s.ctx n).launch.part f).stopCut n).modCtx n (fun x => { x with mode := .stopped })) :=
    ((s.sameBut_modPart _ _).trans (State.sameBut_stopCut _ _)).trans (State.sameBut_modCtx _ _ _)
  dsimp only
  split
  · split
    · exact h _
    · refine (h _).trans (State.sameBut_foldl _ _ (fun t k => ?_) _)
      split
      · exact t.sameBut_halt k
      · exact State.SameBut.refl t
  · exact h _

theorem State.sameBut_takeFault (s : State) (n : Nat) (st : Strm) (t : Trap) : s.SameBut (s.takeFault n st t) := by
  unfold State.takeFault
  split
  · exact (s.sameBut_modCtx _ _).trans (State.sameBut_forward _ _)
  · exact (s.sameBut_stopCut n).trans (State.sameBut_modCtx _ _ _)

theorem State.sameBut_uncounted (s : State) (n : Nat) (st : Strm) (t : Trap) : s.SameBut (s.uncounted n st t) := by
  unfold State.uncounted
  split
  · exact State.SameBut.refl s
  · exact s.sameBut_modCtx _ _

/-- A fault that is due changes cores and the partition's homes only. -/
theorem State.sameBut_raise (s : State) (n : Nat) (st : Strm) (t : Trap) : s.SameBut (s.raise n st t) := by
  unfold State.raise
  split
  · exact State.SameBut.refl s
  · split
    · exact (s.sameBut_uncounted n st t).trans (State.sameBut_stopWait _ _ _)
    · exact (s.sameBut_uncounted n st t).trans (State.sameBut_takeFault _ _ _ _)

theorem State.sameBut_hold (s : State) (st : Strm) (c : HeadClass) : s.SameBut (s.hold st c) := s.sameBut_modCtx _ _

/-! ## The issue of an instruction -/

/-- An instruction whose conditions all hold issues. -/
theorem State.issue_ready {s : State} {st : Strm} {h : Hdr} (hr : s.ready st h) (go : State) : s.issue st h .go go = go := by
  obtain ⟨h1, h2, h3, h4⟩ := hr
  simp [State.issue, h1, h2, h3, h4]

/-- An instruction whose own conditions fault takes that fault once conditions 1 and 2 hold. -/
theorem State.issue_trap {s : State} {st : Strm} {h : Hdr} (ht : (s.ctx s.me).tries st = true) (hf : s.front st h = none)
    (t : Trap) (go : State) : s.issue st h (.trap t) go = s.raise s.me st t := by
  simp [State.issue, ht, hf]

/-- Everything that the issue of an instruction can be: nothing, a hold, a fault, or the issue with all its conditions. -/
theorem State.issue_cases (s : State) (st : Strm) (h : Hdr) (v : Verdict) (go : State) :
    s.issue st h v go = s ∨ (∃ c, s.issue st h v go = s.hold st c) ∨ (∃ t, s.issue st h v go = s.raise s.me st t) ∨
      (v = .go ∧ s.ready st h ∧ s.issue st h v go = go) := by
  unfold State.issue
  split
  · exact .inl rfl
  · rename_i ht
    split
    · exact .inr (.inl ⟨_, rfl⟩)
    · rename_i hf
      split
      · exact .inr (.inl ⟨_, rfl⟩)
      · exact .inr (.inr (.inl ⟨_, rfl⟩))
      · split
        · exact .inr (.inl ⟨_, rfl⟩)
        · rename_i hb
          split
          · exact .inr (.inr (.inl ⟨_, rfl⟩))
          · rename_i hk
            refine .inr (.inr (.inr ⟨rfl, ⟨by simpa using ht, hf, by simpa using hb, by simpa using hk⟩, rfl⟩))

/-- An issue whose effect changes nothing but cores and homes changes nothing else however it ends. -/
theorem State.sameBut_issue (s : State) (st : Strm) (h : Hdr) (v : Verdict) (go : State) (hg : s.SameBut go) :
    s.SameBut (s.issue st h v go) := by
  rcases s.issue_cases st h v go with e | ⟨c, e⟩ | ⟨t, e⟩ | ⟨_, _, e⟩ <;> rw [e]
  · exact State.SameBut.refl s
  · exact s.sameBut_hold st c
  · exact s.sameBut_raise _ _ _
  · exact hg

theorem State.sameBut_done (s : State) (st : Strm) (h : Hdr) (o u : Nat) (f : Ctx → Ctx) : s.SameBut (s.done st h o u f) :=
  s.sameBut_modCtx _ _

/-- The context after an issue whose effect lies in it. -/
@[simp] theorem State.ctx_done (s : State) (st : Strm) (h : Hdr) (o u : Nat) (f : Ctx → Ctx) :
    (s.done st h o u f).ctx s.me = (f (s.ctx s.me)).commit st h o u (s.cyc s.me) := by
  simp [State.done]

theorem State.core_done_other (s : State) (st : Strm) (h : Hdr) (o u : Nat) (f : Ctx → Ctx) {k : Nat} (hk : k ≠ s.me) :
    (s.done st h o u f).core k = s.core k := State.core_modCtx_other s hk _

/-- The context after the issue of an instruction that waits. -/
@[simp] theorem State.ctx_waits (s : State) (st : Strm) (h : Hdr) (u : Nat) (w : Wait) :
    (s.waits st h u w).ctx s.me = (s.ctx s.me).commitWait st h u w := by
  simp [State.waits]

/-- A released stream has its head behind it and waits no longer. -/
theorem State.release_strm (s : State) (n : Nat) (st : Strm) (f : Ctx → Ctx) :
    ((s.release n st f).ctx n).strm st = { ((f (s.ctx n)).strm st).retire (s.cyc n) 1 with wait := none } := by
  simp [State.release]

/-! ## Taking a fault -/

@[simp] theorem Ctx.uncount_frame (x : Ctx) (st : Strm) : (x.uncount st).frame = x.frame := by
  unfold Ctx.uncount; split <;> simp

@[simp] theorem State.cyc_uncounted (s : State) (n k : Nat) (st : Strm) (t : Trap) : (s.uncounted n st t).cyc k = s.cyc k := by
  unfold State.uncounted; split <;> simp

@[simp] theorem State.frame_uncounted (s : State) (n : Nat) (st : Strm) (t : Trap) :
    ((s.uncounted n st t).ctx n).frame = (s.ctx n).frame := by
  unfold State.uncounted; split <;> simp

/-- A running core outside handler mode with no accepted request takes a fault at once (R305, R309). -/
theorem State.raise_now (s : State) (n : Nat) (st : Strm) (t : Trap) (hm : (s.ctx n).mode = .run)
    (hh : (s.ctx n).frame.handler = false) (hw : (s.ctx n).stopWaits = false) :
    s.raise n st t = ((s.uncounted n st t).stopCut n).modCtx n (fun x => x.enterHandler t st (s.cyc n)) := by
  simp [State.raise, State.takeFault, hm, hh, hw]

/-- A core that does not run takes no fault. -/
theorem State.raise_idle (s : State) (n : Nat) (st : Strm) (t : Trap) (hm : (s.ctx n).mode ≠ .run) : s.raise n st t = s := by
  simp [State.raise, hm]

end Sys2Proof.Machine
end

