-- ==== Sys2Proof/Tests/Slice0.lean ====
section
/-! SUPPORT. Tests: words written out from the encodings, ill-formed terms, single steps, and the witnesses that the hypotheses of
the statements can be met together. -/

set_option Elab.async false

namespace Sys2Proof.Tests

open Sys2Proof Sys2Proof.Machine

/-! ## Decoding: words of the spec's worked examples -/

/-- No idle count, no tokens. -/
def h0 : Hdr := { idle := 0, wp := false, wn := false, pp := false, pn := false }

/-- 03, worked decode: `+21 v.fadd.f32.rne row1, lq0, k0, z0`. -/
theorem test_decode_fadd : decode 0x40A80101C0D00040 = .ok (.vFadd { h0 with idle := 21 } (.row 1) (.lq 0) (.k 0) .f32 0 .rne) := by
  decide +kernel

/-- 02: `+3 c.addi s3, s3, -8` with WN and PN. -/
theorem test_decode_addi : decode 0x001AA018FFFFFFF8 = .ok (.cAddi { h0 with idle := 3, wn := true, pn := true } 3 3 (-8)) := by
  decide +kernel

/-- 04: `c.st.d s11, s10, 0x40`. -/
theorem test_decode_st : decode 0x0000315A80000040 = .ok (.cSt h0 11 10 0 .core .d 0x40) := by decide +kernel

/-- `c.st.d s0, s10, 0x20` with PP, and `c.st.d s0, s11, 0x20` with PN: the token bits are told apart. -/
theorem test_decode_st_tokens :
    decode 0x0001310280000020 = .ok (.cSt { h0 with pp := true } 0 10 0 .core .d 0x20) ∧
      decode 0x0000B102C0000020 = .ok (.cSt { h0 with pn := true } 0 11 0 .core .d 0x20) := by decide +kernel

/-- `c.waita.eq.slot0 s9, s22, s13`. -/
theorem test_decode_waita : decode 0x00003B4D9A000000 = .ok (.cWaita h0 9 22 13 0 .eq) := by decide +kernel

/-- `c.bar.cluster s21, 0, 0`. -/
theorem test_decode_bar : decode 0x000055A800010000 = .ok (.cBar h0 21 0 .cluster 0) := by decide +kernel

/-- `l.ldq.f32 lq0, p1`. -/
theorem test_decode_ldq : decode 0x2000031C04000000 = .ok (.lLdq h0 1 0 .f32 .none .none 0) := by decide +kernel

/-- `s.stq.f32.f16 sq0, p1` with WN. -/
theorem test_decode_stq : decode 0x6002031C04800000 = .ok (.sStq { h0 with wn := true } 1 0 .f32 .f16 .none 0) := by decide +kernel

/-- `s.stsx sq0, p2, row9`. -/
theorem test_decode_stsx : decode 0x6000122C00000009 = .ok (.sStsx h0 2 0 0 .core 9) := by decide +kernel

/-- `v.fcmp.f32.lt z3, row4, zero`. -/
theorem test_decode_fcmp : decode 0x400009E904E93240 = .ok (.vFcmp h0 .void (.row 4) .zero 3 .lt 0) := by decide +kernel

/-- `v.setk k1`, `v.bcmp8 row1, pk0, 0x22` and `v.clmul row5, row4, k1`. -/
theorem test_decode_vector :
    decode 0x40006AD100BFB8AA = .ok (.vSetk h0 1 0xBFB8AA) ∧
      decode 0x40003501C8002200 = .ok (.vBcmp8 h0 (.row 1) (.pk 0) 0x22 0) ∧
      decode 0x4008340504D10000 = .ok (.vClmul { h0 with idle := 1 } (.row 5) (.row 4) (.k 1) 0) := by decide +kernel

/-- `all.loop lp1, 6` and `all.loop lp0, 4`. -/
theorem test_decode_loop :
    decode 0xE000034000600005 = .ok (.allLoop 0 1 false 6 5) ∧ decode 0xE00003000040000D = .ok (.allLoop 0 0 false 4 13) := by
  decide +kernel

/-- Bad words (R70): an untagged word, the loader's fill, an unassigned opcode, a reserved field, a header bit of an ALL word. -/
theorem test_decode_bad :
    decode 0x80A80101C0D00040 = .error 1 ∧ decode 0x8000000000000000 = .error 1 ∧ decode 0x40A83701C0D00040 = .error 2 ∧
      decode 0x40A80101C0D00140 = .error 3 ∧ decode 0xE001020000000000 = .error 3 := by decide +kernel

/-- R105 (not R65): 0x53 is `rrel`, 0x54 is `rwaite`. -/
theorem test_decode_rings :
    decode 0x0000530000000000 = .ok (.cRrel h0 0 0 .core 0) ∧ decode 0x0000540000000000 = .ok (.cRwaite h0 0 .core) := by
  decide +kernel

/-- Words of the other forms, laid out field by field from the encoding tables. -/
theorem test_decode_forms :
    -- CR: ENG 0, OP 0x0E, D 1, A 2, B 3
    decode (BitVec.ofNat 64 (0x0E * 2 ^ 40 + 1 * 2 ^ 35 + 2 * 2 ^ 30 + 3 * 2 ^ 25)) = .ok (.cDiv h0 1 2 3) ∧
      -- CY: OP 0x78, FN16 0x1234
      decode (BitVec.ofNat 64 (0x78 * 2 ^ 40 + 0x1234)) = .ok (.cTrap h0 0x1234) ∧
      -- AP of L: ENG 1, OP 0x01 with P 5 and IMM36 -1
      decode (BitVec.ofNat 64 (1 * 2 ^ 61 + 1 * 2 ^ 40 + 5 * 2 ^ 36 + (2 ^ 36 - 1))) = .ok (.lPset h0 5 (-1)) ∧
      -- AB: ENG 7, OP 0x04
      decode (BitVec.ofNat 64 (7 * 2 ^ 61)) = .ok (.allNop 0) := by decide +kernel

/-! ## Ill-formed terms -/

/-- Each check of `Instr.wf` refuses a term that breaks it and nothing else. -/
theorem test_wf_smoke :
    ([.cLd h0 0 0 0 .core .d true 0, .cLdx h0 0 0 0 0 .core true .d, .cB h0 1 0 .al 0, .allBr 0 0 1 .al 0,
      .cWake h0 .vlg 0x10, .cSleep h0 .xe false 2, .cWstat h0 .wbb 0x10000, .lWake h0 .ce 2, .lSleep h0 .acb true 0x1000000,
      .lWstat h0 .gfb 0x10, .vWake h0 .maq 0x10, .vSleep h0 .vlg false 0x10, .vWstat h0 .xe 2, .sWake h0 .gfb 0x10,
      .sSleep h0 .ce false 2, .sWstat h0 .maq 0x10, .lLdq h0 0 0 .i32 .bf16 .none 0, .lLdg h0 0 (.row 0) .f32 .i8 .none 0,
      .lLdb h0 0 (.lq 0) .f32 .pk .none 0, .lLda h0 0 (.lq 0) .i32 true .none 0, .sStq h0 0 0 .f32 .pk .none 0,
      .sStg h0 0 (.row 0) .i32 .f16 .none 0, .vCvt h0 (.row 0) (.row 0) (.row 1) false .i32 .f32 0 .rne,
      .vScan h0 (.row 0) (.row 0) false .xor .f32 0 .rne, .vRed h0 (.row 0) (.row 0) .add .f32 0 .sr,
      .allLoop 0 0 false 1 0, .allLoop 0 0 true 32 1, .illegalWord 0, .illegalWord 8, .arrayMma 160, .ceCopy 640,
      .domainAwake ⟨0, .vlg, 4⟩, .domainAwake ⟨160, .maq, 0⟩, .doorbell 64 0] : List Instr).all (fun i => !i.wf) = true := by
  decide +kernel

/-- The same terms within the checks are well formed. -/
theorem test_wf_good :
    ([.cLd h0 0 0 0 .core .b true 0, .cB h0 0 0 .al 0, .cWake h0 .spb 0xFFFFFFFF, .lLdq h0 0 0 .i32 .i8 .none 0,
      .lLda h0 0 (.lq 0) .f32 true .none 0, .vCvt h0 (.row 0) (.row 0) (.row 0) false .i32 .f32 0 .rne,
      .vScan h0 (.row 0) (.row 0) false .add .f32 0 .sr, .allLoop 0 0 true 31 1, .illegalWord 7, .arrayMma 159, .ceCopy 639,
      .domainAwake ⟨159, .maq, 3⟩, .doorbell 63 0] : List Instr).all Instr.wf = true := by decide +kernel

/-! ## Small states -/

/-- A domain that is awake. -/
def awake : Dom := { Dom.init with st := .awake }

/-- A table of awake domains. -/
def allAwake (n : Nat) : Store Dom := (upto 0 n).map (fun k => (k, awake))

/-- A core whose context runs, with every domain awake. -/
def coreOf (f : Ctx → Ctx) : Core := { Core.init with ctx := f { Ctx.init with mode := .run }, doms := allAwake 65 }

/-- A cluster at cycle 100, with every domain awake. -/
def cluster0 : Cluster := { Cluster.init with cyc := 100, doms := allAwake 21 }

/-- The partition 0: 64 KiB of memory from 0x100000, one ring of four slots, one barrier. -/
def part0 : Part := { Part.init with
  clusters := [0], memBase := 0x100000, memLen := 0x10000, xlroot := 1, xlcfg := 0x10001,
  rings := [(0, { Ring.init with base := 0x1000, slotsize := 256, slots := 4 })], bars := [(0, { Barrier.init with need := 1 })] }

/-- Core 0 running, and the other cores off. -/
def run (f : Ctx → Ctx) : State := { State.reset with
  cores := [(0, coreOf f), (1, { Core.init with doms := allAwake 65 })], clusters := [(0, cluster0)], parts := [(0, part0)],
  slices := { State.reset.slices with capacity := 0x200000 } }

/-- The state with its core 0 changed. -/
def with0 (s : State) (f : Core → Core) : State := s.modCore 0 f

/-- S1 and S2 hold two values. -/
def regs12 (a b : Word) (x : Ctx) : Ctx := { x with regs := (x.regs.set (.s 1) a).set (.s 2) b }

/-- The first address of the window's regions (R32). -/
def winWord (off : Nat) : Word := BitVec.ofNat 64 (windowBase + off)

/-- A lease on the page of 0x80000000000000, readable and writable, with key 0, on the partition's memory. -/
def lease0 : Lease :=
  { page := 0x80000000000000, log2 := 16, pa := 0x100000, r := true, w := true, key := 0, d := false, c := false, len := 2 ^ 20,
    expiry := 2 ^ 40, used := 0 }

/-- The base of the page that `lease0` maps. -/
def page0 : Word := 0x80000000000000

/-- Core 0 running with that lease in its access lease cache. -/
def leased (f : Ctx → Ctx) : State := with0 (run f) (fun c => { c with leases := [lease0] })

/-- Every stream of the running core may issue (CArithmetic, CImmediate, NoOperations, and the part that every statement about a
word shares). -/
theorem witness_ready : (run id).ready .c h0 ∧ (run id).ready .l h0 ∧ (run id).ready .v h0 ∧ (run id).ready .s h0 ∧
    (run id).ready .c (allHdr 0) ∧ (run id).ready .l (allHdr 0) ∧ ((run id).ctx (run id).me).frame.handler = false := by
  unfold State.ready; decide +kernel

/-! ## Witnesses: encodings, steps, issue -/

theorem witness_StepRunsHead :
    let s := State.reset.withFetchWord 64 0x0000055800000000
    s.mgmt.off = false ∧ s.agenda = [.stream 0 .c] ∧ ((s.ctx 0).strm .c).queue.length = 1 ∧ ((s.ctx 0).strm .c).due = none ∧
      decode 0 = .ok (.cNop h0) ∧ coupledFate (s.ctx 0) (.cNop h0) = none ∧ placeFate (s.ctx 0) 0x6FFF = none ∧
      (let u := run (fun x => { x with l := { x.l with due := some { cause := .race } } })
       (u.ctx 0).tries .l = true ∧ ((u.ctx 0).strm .l).due = some { cause := .race }) := by decide +kernel

/-- A word with a bad tag, a word at 0x7000 outside handler mode, one that names a coupled queue, an empty agenda, and no power. -/
theorem witness_StepRunsOtherSteps :
    let s := run (fun x => x.withHead .c 0x7000 0x80A80101C0D00040)
    ((s.ctx 0).strm .c).queue.map (fun e => (e.addr, e.word)) = [(0x7000, 0x80A80101C0D00040)] ∧
      decode 0x80A80101C0D00040 = .error 1 ∧ (s.ctx 0).frame.handler = false ∧ s.agenda = [] ∧ s.mgmt.off = false ∧
      ((s.ctx 0).strm .c).due = none ∧ coupledFate (s.ctx 0) (.cNop h0) = none ∧
      decode 0x2000031C04000000 = .ok (.lLdq h0 1 0 .f32 .none .none 0) ∧
      namedQueue (.lLdq h0 1 0 .f32 .none .none 0) = some (true, 0) ∧
      (0 : BitVec 3) ∈ ({ Launch.init with cplIn := [0] } : Launch).cplIn ∧
      ({ s with mgmt := { s.mgmt with off := true } } : State).mgmt.off = true := by decide +kernel

theorem witness_IssueConditions :
    let p : Hdr := { h0 with wp := true }
    let q : Hdr := { h0 with pp := true }
    let s := run id
    let t := run (fun x => { x with tok := List.replicate 8 63, tok0 := List.replicate 8 63 })
    (s.ctx s.me).tries .c = true ∧ ((s.ctx s.me).strm .c).anew = false ∧
      s.cyc s.me < ((s.ctx s.me).strm .c).last + 1 + ({ h0 with idle := 100 } : Hdr).idle.toNat ∧
      ((s.ctx s.me).strm .c).last + 1 + ({ h0 with idle := 99 } : Hdr).idle.toNat ≤ s.cyc s.me ∧
      ((s.ctx s.me).strm .c).notBefore ≤ s.cyc s.me ∧ pops .c p ≠ [] ∧ (∀ n ∈ pops .c p, (s.ctx s.me).tok0.getD n 0 = 0) ∧
      (t.ctx t.me).tries .c = true ∧ pushes .c q ≠ [] ∧ (∀ n ∈ pushes .c q, 63 ≤ (t.ctx t.me).tok0.getD n 0) ∧
      (∀ n ∈ pops .c q, (t.ctx t.me).tok0.getD n 0 ≠ 0) := by decide +kernel

theorem witness_DecodeOfEncode : (Instr.cDiv h0 31 31 31).wf = true ∧ encode (.cDiv h0 31 31 31) = some 0x00000EFFFE000000 := by
  decide +kernel

theorem witness_EncodeOfDecode : decode 0x00000EFFFE000000 = .ok (.cDiv h0 31 31 31) := by decide +kernel

theorem witness_StepKeepsMemory : State.reset.MemOk ∧ step State.reset = .next State.reset.plan :=
  ⟨by unfold State.MemOk; decide +kernel, rfl⟩

theorem witness_RegisterFile : (Reg.s 1 ≠ .s 0) ∧ (Reg.h 0 ≠ .s 1) ∧ (Reg.s 0 ≠ .h 7) := by decide

/-! ## Witnesses: C -/

/-- The four cases of a division. -/
theorem witness_CDivision :
    (run (regs12 7 0)).reg 2 = 0 ∧ (run (regs12 7 3)).reg 2 ≠ 0 ∧ ((run (regs12 (BitVec.ofInt 64 (-2 ^ 63)) (-1))).reg 1).toInt = -2 ^ 63 ∧
      ((run (regs12 (BitVec.ofInt 64 (-2 ^ 63)) (-1))).reg 2).toInt = -1 ∧ (run (regs12 7 0)).ready .c h0 ∧
      (run (regs12 7 3)).ready .c h0 ∧ (run (regs12 (BitVec.ofInt 64 (-2 ^ 63)) (-1))).ready .c h0 := by
  unfold State.ready; decide +kernel

theorem witness_CRegisterFrame :
    (Instr.cAdd h0 0 1 2).aluDest = some (h0, 0) ∧ ((run id).ctx 0).regOf 0 = .s 0 ∧ (run id).ready .c h0 ∧
      ∃ t, exec (.cAdd h0 0 1 2) (run id) = .next t :=
  ⟨rfl, by decide +kernel, by unfold State.ready; decide +kernel, _, rfl⟩

/-- A branch to the last text address, taken and not taken, and a `jr` to it. -/
theorem witness_CBranches :
    let s := run (fun x => regs12 28671 28671 (x.withHead .c 28670 0))
    (s.ctx s.me).target .c (1 : BitVec 27).toInt = some 28671 ∧ (s.ctx s.me).target .c (1 : BitVec 35).toInt = some 28671 ∧
      cndHolds .eq (s.reg 1) (s.reg 2) = true ∧ cndHolds .ne (s.reg 1) (s.reg 2) = false ∧
      (s.reg 1).toNat < (s.ctx s.me).targetEnd := by decide +kernel

/-- Targets −1 and 28,672 outside handler mode, 0x8000 in it; a `jr` to 28,672; an illegal word that may issue, and one too
early; handler mode. -/
theorem witness_IllegalTargetsAndWords :
    let s := run (fun x => regs12 28672 0 x)
    let u := run (fun x => { x.withHead .c 0x7000 0 with frame := { x.frame with handler := true } })
    s.cur.st = .c ∧ ((s.ctx s.me).c.head : Int) + (-1 : BitVec 27).toInt < 0 ∧
      (28672 : Int) ≤ (s.ctx s.me).c.head + (28672 : BitVec 27).toInt ∧
      (0x8000 : Int) ≤ (u.ctx u.me).c.head + (0x1000 : BitVec 35).toInt ∧ (u.ctx u.me).frame.handler = true ∧
      28672 ≤ (s.reg 1).toNat ∧ (s.ctx s.me).tries .c = true ∧ s.front .c h0 = none ∧ (s.ctx s.me).c.last < s.cyc s.me ∧
      (s.ctx s.me).c.notBefore ≤ s.cyc s.me ∧ (s.cyc s.me ≤ ({ (s.ctx s.me).c with last := 100 } : Stream).last) := by
  decide +kernel

/-- Core 0 running with the lease, S1 holding an address. -/
def at1 (a : Word) : State := leased (regs12 a 3)

/-- A loaded command: `mzero` of tile 0, one word of the accumulator store, with the array lease held. -/
def armed (f : Ctx → Ctx) : State :=
  (run (fun x => f { x with eng := { x.eng with
    cmdw := x.eng.cmdw.set 0 0x0300000000000000, tiles := x.eng.tiles.set 0 (BitVec.ofNat 128 (2 ^ 125 + 2 ^ 116)) } })).modCluster 0
    (fun c => { c with holder := some 0, left := 1 })

/-- An access of a class FIFO. -/
def acc0 : Acc :=
  { id := 7, st := .c, issued := 90, due := 91, addr := 0x80000000000000, place := .dev 0x100000, kind := .load .d false (.s 3), cls := 0,
    scp := .core, reach := .partition, expiry := none, d := false, cpg := false, lane := none, head := 0, order := 0, tag := none, resent := 0,
    sentAt := 0, parked := false }

/-- A load meets each kind of address (the last word of a region, where it has one). -/
theorem witness_CLoads :
    (at1 (winWord 0x1FFFF8)).ready .c h0 ∧ (at1 page0).ready .c h0 ∧ (run (regs12 page0 0)).ready .c h0 ∧
      (let T := fun a => (at1 a).cTarget ((at1 a).reg 1 + (0 : BitVec 20).signExtend 64).toNat 8 true false
       T (winWord 0x1FFFF8) = .spad 0 0x1FFFF8 ∧ T (winWord 0x400000) = .spad 1 0 ∧ T page0 = .ext lease0 (.dev 0x100000) ∧
         T (winWord 0xA203F8) = .tiles 0x3F8 ∧ T (winWord 0xA10FF8) = .rings 0xFF8 ∧ T (winWord 0xA00030) = .cmd .array 0x30 ∧
         T (winWord 0xA00038) = .cmd .array 0x38 ∧ T (winWord 0xA00028) = .cmd .array 0x28) ∧
      (run (regs12 page0 0)).cTarget page0.toNat 8 true false = .walk ∧ ((at1 0).core 0).spadSound 0x1FFFF8 8 = true ∧
      (let r := fun (x : Ctx) => { x with eng := { x.eng with records := [[5], [], []] } }
       let q := fun (x : Ctx) => (armed id).goCmd 0 .array |> fun k => { x with eng := { x.eng with live := [k] } }
       ((run r).ctx 0).recs .array = [5] ∧ ((run id).ctx 0).recs .array = [] ∧ ((run id).ctx 0).liveOf .array = [] ∧
         ((run q).ctx 0).recs .array = [] ∧ ((run q).ctx 0).liveOf .array ≠ []) := by
  unfold State.ready; decide +kernel

theorem witness_CStores :
    let T := fun a => (at1 a).cTarget ((at1 a).reg 1 + (0 : BitVec 20).signExtend 64).toNat 8 false true
    T (winWord 0x1FFFF8) = .spad 0 0x1FFFF8 ∧ T (winWord 0x400000) = .spad 1 0 ∧ T page0 = .ext lease0 (.dev 0x100000) ∧
      ¬ (lease0.d = true ∧ ((at1 page0).ctx 0).launch.raceMode = 2) ∧ T (winWord 0xA00018) = .cmd .array 0x18 ∧
      T (winWord 0xA00060) = .cmd .copy 0x20 ∧
      (let s := armed (regs12 (winWord 0xA00020) 0)
       let k := s.goCmd 0 .array
       s.ready .c h0 ∧ s.goFault k (windowBase + 0xA00020) = none ∧ s.mayPush 0 .array ((s.core 0).maskIds k.rmask) = true) ∧
      (let s := with0 (armed (regs12 (winWord 0xA00020) 0)) (fun c => { c with direct := [{ acc0 with kind := .store [0] }] })
       s.goFault (s.goCmd 0 .array) (windowBase + 0xA00020) = none ∧ s.mayPush 0 .array [] = false) ∧
      (let s := run (regs12 (winWord 0xA00020) 0)
       s.goFault (s.goCmd 0 .array) (windowBase + 0xA00020) = some (addrTrap .badcmd (windowBase + 0xA00020))) := by
  unfold State.ready; decide +kernel

theorem witness_CAtomics :
    let T := fun a => (at1 a).cTarget ((at1 a).reg 1).toNat 8 true true
    T (winWord 0x1FFFF8) = .spad 0 0x1FFFF8 ∧ T (winWord 0x400000) = .spad 1 0 ∧ T page0 = .ext lease0 (.dev 0x100000) ∧
      (at1 page0).ready .c h0 ∧ ((at1 page0).core 0).atomsOut < 64 ∧ ((at1 0).core 0).spadSound 0x1FFFF8 8 = true ∧
      (let s := leased (fun x => x.setFifo 0 (List.replicate 64 { acc0 with tag := some 0 }))
       64 ≤ (s.core 0).atomsOut ∧ s.ready .c h0 ∧ s.cTarget page0.toNat 8 true true = .ext lease0 (.dev 0x100000)) ∧
      (winWord 0xB00000).toNat % 8 = 0 ∧ resolve 0 (winWord 0xB00000).toNat 8 = .bad := by
  unfold State.ready; decide +kernel

theorem witness_CTurnedAway :
    let s := run (regs12 1 2)
    (s.ctx s.me).tries .c = true ∧ s.front .c h0 = none ∧ (s.reg 1 + (0 : BitVec 20).signExtend 64).toNat % szBytes .h ≠ 0 ∧
      (s.reg 1 + s.reg 2).toNat % szBytes .h ≠ 0 ∧ (s.reg 1).toNat % 4 ≠ 0 ∧ (s.ctx s.me).frame.handler = false ∧
      9 ≤ (9 : BitVec 16).toNat ∧ 4 ≤ (4 : BitVec 16).toNat ∧ (s.cluster (clusterOf s.me)).holder ≠ some s.me ∧ (1 : BitVec 32) ≠ 0 := by
  decide +kernel

theorem witness_CWaitaAndFence :
    let s := run (regs12 (winWord 0x400004) 0)
    s.ready .c h0 ∧ (s.reg 1).toNat % 4 = 0 ∧ resolve s.me (s.reg 1).toNat 4 = .win (.spad 1 4) ∧
      s.spadTarget s.me 1 4 4 (s.reg 1).toNat = .spad 1 4 ∧ icndHolds .eq ((s.core 1).spad.lane 4) ((s.reg 2).setWidth 32) = true ∧
      icndHolds .ne ((s.core 1).spad.lane 4) ((s.reg 2).setWidth 32) = false ∧ s.fenceIds s.me .pod 0xFFFF = [] ∧
      (s.ctx s.me).failOf .pod 0xFFFF = none ∧
      (let u := run (fun x => x.setFifo 0 [acc0])
       u.ready .c h0 ∧ u.fenceIds u.me .partition 1 ≠ []) ∧
      (let u := run (fun x => { x with fails := [(0, .core, { cause := .remote })] })
       u.ready .c h0 ∧ u.fenceIds u.me .pod 1 = [] ∧ (u.ctx 0).failOf .pod 1 = some (0, .core, { cause := .remote }) ∧
         (u.ctx 0).mode = .run) := by
  unfold State.ready; decide +kernel

/-- One ring and one barrier. -/
def synced (f : Ctx → Ctx) : State := run (fun x => f { x with sys := { x.sys with syncwin := 0x00010001 } })

theorem witness_RingsAndBarriers :
    let s := synced id
    let u := synced (fun x => { x with c := { x.c with kept := some (0, 0) } })
    let v := synced (fun x => { x with c := { x.c with kept := some (0, 5) } })
    let w := synced (fun x => x.setFifo 0 [acc0])
    s.ready .c h0 ∧ (s.ctx 0).ringNo 0 = some 0 ∧ (s.ctx 0).ringNo 1 = none ∧ ((s.part 0).ring 0).refuses .claim 0 = false ∧
      ((s.part 0).ring 0).refuses .pub 0 = true ∧ s.fenceIds s.me .device 1 = [] ∧ w.fenceIds w.me .device 1 ≠ [] ∧ w.ready .c h0 ∧
      (s.ctx 0).barNo 0 = some 0 ∧ (s.ctx 0).c.kept = none ∧ (u.ctx 0).c.kept = some (0, 0) ∧ u.ready .c h0 ∧
      ((u.part 0).barrier 0).gen.toNat = 0 ∧ (v.ctx 0).c.kept = some (0, 5) ∧ ((v.part 0).barrier 0).gen.toNat ≠ 5 ∧ v.ready .c h0 := by
  unfold State.ready; decide +kernel

theorem witness_ArrayLease :
    (armed id).ready .c h0 ∧ ((armed id).cluster 0).holder = some 0 ∧ ((run id).cluster 0).holder ≠ some 0 ∧
      bits (0x0000610000000000 : Word) 61 3 = 0 ∧ bits (0x0000610000000000 : Word) 40 7 = 0x61 ∧
      bits (0x0000610000000000 : Word) 0 40 = 0 ∧ bits (0x0000610000000001 : Word) 0 40 ≠ 0 := by
  unfold State.ready; decide +kernel

/-- A command in the queue of the array, in batch 0. -/
def queued : State := run (fun x => { x with eng := { x.eng with live := [(armed id).goCmd 0 .array] } })

theorem witness_TilesFormatsBatches :
    (tileOf (tileValue 0 0)).ok = true ∧ (tileOf (tileValue (BitVec.ofNat 64 (15 * 2 ^ 53)) 0)).ok = false ∧ ((run id).ctx 0).eng.inUse 0 = false ∧
      (queued.ctx 0).eng.inUse 0 = true ∧ queued.ready .c h0 ∧ bitAt (0 : TileImage) 125 = false ∧
      bitAt (BitVec.ofNat 128 (2 ^ 125) : TileImage) 125 = true ∧
      (let behind := fun (n : Nat) => (0 + 65536 - n) % 65536
       behind 32768 = 32768 ∧ behind 32769 = 32767 ∧ behind 0 = 0) ∧
      ((run id).ctx 0).batchDone .array 0 = true ∧ ((run id).ctx 0).batchError .array 0 = none ∧
      (queued.ctx 0).batchDone .array 0 = false := by
  unfold State.ready; decide +kernel

theorem witness_ValuesIterationsPrefetch :
    let s := run (fun x => { x with send := [{ id := 0, filled := true, lanes := [5, 6], bad := none, left := 0, at_ := 0 }] })
    ((s.ctx 0).sendHead).isSome = true ∧ s.ready .c h0 ∧ ((run id).ctx 0).sendHead = none ∧ (run id).reg 2 = 0 := by
  unfold State.ready; decide +kernel

/-- Core 0 in handler mode. -/
def handling (f : Ctx → Ctx) : State := run (fun x => f { x with frame := { x.frame with handler := true, heads := [7, 8, 9, 10] } })

theorem witness_SystemRegisters :
    let s := handling (regs12 1 0)
    let u := run (fun x => { x with launch := { x.launch with trc := BitVec.ofNat 64 (2 ^ 62) } })
    s.ready .c h0 ∧ (s.ctx 0).sysReg 0 0x101 = some 7 ∧ ((s.ctx 0).setSysReg 0x108 1).isSome = true ∧ (s.ctx 0).frame.handler = true ∧
      s.reg 1 = 1 ∧ s.reg 2 ≠ 1 ∧ bitAt (u.ctx 0).launch.trc 62 = true ∧ u.ready .c h0 ∧ bitAt (s.ctx 0).launch.trc 62 = false := by
  unfold State.ready; decide +kernel

theorem witness_TrapInstruction :
    let s := run (fun x => x.withHead .c 9 0)
    s.ready .c h0 ∧ (s.ctx 0).frame.handler = false ∧ (s.ctx 0).stopWaits = false ∧ (s.ctx 0).c.wait = none ∧
      (s.ctx 0).c.queue.map (fun e => (e.addr, e.loops)) = [(9, [Loop.init, Loop.init, Loop.init, Loop.init])] := by
  unfold State.ready; decide +kernel

theorem witness_EretInstruction :
    (handling id).ready .c h0 ∧ ((handling id).ctx 0).frame.handler = true ∧ ((handling id).ctx 0).c.leaves = false ∧ (run id).ready .c h0 ∧
      ((run id).ctx 0).frame.handler = false ∧ bits (0x0000790000000000 : Word) 61 3 = 0 ∧
      bits (0x0000790000000000 : Word) 40 7 = 0x79 ∧ bits (0x0000798000000000 : Word) 0 40 ≠ 0 := by
  unfold State.ready; decide +kernel

theorem witness_FaultEntry :
    ((run id).ctx 0).mode = .run ∧ ((run id).ctx 0).frame.handler = false ∧ ((run id).ctx 0).stopWaits = false ∧
      ((run id).ctx 0).c.wait = none ∧ ((handling id).ctx 0).mode = .run ∧ ((handling id).ctx 0).frame.handler = true ∧
      ((handling id).ctx 0).stopWaits = false ∧ ((handling id).ctx 0).c.wait = none ∧ (handling id).regionOf 0 = none := by
  decide +kernel

theorem witness_PowerInstructions :
    (run id).leaseCheck 0 .spb 0xFFFFFFFF = .go ∧ (run id).otherBank 0 .spb 0xFFFFFFFF = .go ∧ (armed id).leaseCheck 0 .wbb 1 = .go ∧
      (run id).wstatFault 0 .spb 0xFFFFFFFF = none ∧ (run id).allAwake 0 .spb 0xFFFFFFFF = true ∧
      (let s := with0 (run id) (fun c => { c with doms := c.doms.put 8 { awake with st := .waking } })
       s.wstatFault 0 .spb 1 = none ∧ s.allAwake 0 .spb 1 = false ∧ s.ready .l h0) := by
  unfold State.ready; decide +kernel

theorem witness_Pointers :
    (synced id).ready .l h0 ∧ (synced id).ready .s h0 ∧ ((synced id).ctx 0).ringNo 0 = some 0 ∧ (((synced id).part 0).ring 0).slots ≠ 0 := by
  unfold State.ready; decide +kernel

/-- Pointer 1 of L and of S holds an address. -/
def pointed (a : Word) (f : Ctx → Ctx) : State :=
  leased (fun x => f { x with regs := (x.regs.pset false 1 a).pset true 1 a })

/-- A filled queue entry. -/
def line0 : QLine := { id := 0, filled := true, lanes := lanes (fun j => BitVec.ofNat 32 j), bad := none, left := 0, at_ := 0 }

/-- The last line of the own scratchpad, and of the accumulator store. -/
theorem witness_LineAccesses :
    let s := pointed (winWord 0x1FFF00) id
    let u := pointed (winWord 0x1FFF00) (fun x => { x with sq := x.sq.set 0 [line0] })
    let w := pointed 0x2FFF00 (fun x => { x with sq := x.sq.set 0 [line0] })
    s.ready .l h0 ∧ (s.ctx 0).bound true (.q 0) = false ∧ (s.ctx 0).lineReady true (.q 0) = true ∧
      (s.ctx 0).bound true (.g (.row 0)) = false ∧ (s.ctx 0).lineReady true (.g (.row 0)) = true ∧
      s.lineTarget (mdAddr .none ((s.ctx 0).regs.pget false 1) 0).1 256 false true .none = .spad 0 0x1FFF00 ∧
      s.lineTarget (mdAddr .none ((s.ctx 0).regs.pget false 1) 0).1 4 true true .none = .spad 0 0x1FFF00 ∧
      (s.ctx 0).chkClear (rdEntry 1 0 0x1FFF00 256 (some 103)) 100 = true ∧
      s.touch 0 (spadBanks 0 0x1FFF00 256 ++ (Lane2.g (.row 0)).touches 0) 0 = .go ∧ (s.core 0).spadSound 0x1FFF00 256 = true ∧
      w.ready .l h0 ∧ w.accVerdict 0x2FFF00 false (.q 0) = .go ∧
      u.ready .s h0 ∧ (u.ctx 0).bound false (.q 0) = false ∧ (u.ctx 0).lineReady false (.q 0) = true ∧
      u.lineTarget (mdAddr .none ((u.ctx 0).regs.pget true 1) 0).1 256 false false .none = .spad 0 0x1FFF00 ∧
      (u.ctx 0).chkClear (wrEntry 0 0 0x1FFF00 256 (some 106)) 100 = true ∧
      w.ready .s h0 ∧ w.accVerdict 0x2FFF00 false (.q 0) = .go := by
  unfold State.ready; decide +kernel

/-- 64 lanes of four bytes at the end of the page; an index row of zeros. -/
theorem witness_VectorMemory :
    let a : Word := page0 + 0xFF00
    let s := pointed a (fun x => { x with sq := x.sq.set 0 [line0] })
    s.ready .l h0 ∧ s.ready .s h0 ∧ (s.ctx 0).bound true (.q 0) = false ∧ (s.ctx 0).bound false (.q 0) = false ∧ (s.ctx 0).s.posted = [] ∧
      (s.ctx 0).l.lanes = none ∧ (s.ctx 0).s.lanes = none ∧
      s.amVerdict true 0 none (strided a 0) = .go ∧ s.amVerdict true 0 (some 0) (gathered (s.ctx 0) a 0) = .go ∧
      s.amVerdict false 0 none (strided a 0) = .go ∧
      (let q := fun (st : Strm) (r w : Bool) => s.resolvePages st r w 64 (numbered (strided a 0))
       (q .l true false).2 = .none ∧ (q .s false true).2 = .none ∧ (q .s true true).2 = .none ∧ (q .s true true).1.length = 64) ∧
      (s.core 0).atomsOut + 64 ≤ 64 ∧ (s.ctx 0).raceHolds [] = false := by
  unfold State.ready; decide +kernel

/-! ## Witnesses: V -/

/-- Core 0 with a filled entry in LQ0 and all-ones predicate rows. -/
def fed (f : Ctx → Ctx) : State := run (fun x => f { x with lq := x.lq.set 0 [line0] })

/-- The conditions of a V word hold for every kind of source and destination, with every lane enabled. -/
theorem witness_VectorWords :
    let s := fed id
    let m := s.mask 0
    s.ready .v h0 ∧ m = BitVec.allOnes 64 ∧ s.vGo (.row 1) [.lq 0, .pk 0, .k 0] m false ∧ s.vGo (.sq 0) [.col 63, .dia 5] m false ∧
      s.vGo .void [.lane] m true ∧ s.vGo (.dia 63) [.zero] m true ∧ s.vGo (.row 1) [] m false ∧
      s.vGo (.row 1) (cvtSrcs (.row 0) (.row 1) .f32 .bf16x2) m false ∧ s.sendVerdict (.lq 0) = .go := by
  unfold State.ready State.vGo; decide +kernel

theorem witness_VectorFrame :
    let s := fed (fun x => x.withHead .v 0 0)
    (Instr.vMov h0 (.row 1) (.lq 0) 0).vecDest = some (h0, .row 1, .rne) ∧ s.ready .v h0 ∧ (s.ctx 0).v.queue ≠ [] ∧
      ∃ t, exec (.vMov h0 (.row 1) (.lq 0) 0) s = .next t ∧ (t.ctx 0).v.queue = (s.ctx 0).v.queue.tail :=
  ⟨rfl, by unfold State.ready; decide +kernel, by decide +kernel, _, rfl, by decide +kernel⟩

/-- A result due in this cycle, and a fill of an LQ entry. -/
theorem witness_ResultsLand :
    let p : Pend := { due := 100, issued := 96, st := .v, mask := 0, dst := .kreg 1 7, captured := false }
    let s := run (fun x => { x with
      pend := [p, { p with due := 101 }], fills := [{ due := 100, q := 0, id := 0, lanes := line0.lanes, bad := none }]
      lq := x.lq.set 0 [{ line0 with filled := false }] })
    nextPend (s.ctx 0).pend (s.cyc 0) = some p ∧ (s.ctx 0).fills.length = 1 ∧ ((s.ctx 0).lqueue 0).map (·.id) = [0] ∧
      ((fed (fun x => { x with sq := x.sq.set 7 [line0] })).ctx 0).squeue 7 = [line0] := by decide +kernel

/-! ## Witnesses: ALL -/

/-- The broadcast queue empty, with an entry of an earlier cycle, and full. -/
theorem witness_LoopsAndBranches :
    let e : BEntry := { val := 1, pushed := 99, l := false, v := false, s := false }
    let u := run (fun x => { x with bq := [e], l := { x.l with fetch := 28670 } })
    let w := run (fun x => { x with bq := List.replicate 8 e })
    (run id).cur.st = .c ∧ ((run id).ctx 0).bq.length < 8 ∧ 8 ≤ (w.ctx 0).bq.length ∧ w.ready .c (allHdr 0) ∧
      (let v := { u with cur := { core := 0, st := .l } }
       v.cur.st = .l ∧ v.ready .l (allHdr 0) ∧ bqHead (v.ctx 0).bq .l (v.cyc 0) = some 1 ∧ (v.ctx 0).target .l (1 : BitVec 27).toInt = some 28671 ∧
         (v.ctx 0).target .l (2 : BitVec 27).toInt = none) ∧
      bqHead ((run id).ctx 0).bq .l 100 = none ∧ (w.ctx 0).frame.handler = false ∧
      ((run id).ctx 0).target .c (0 : BitVec 27).toInt = some 0 ∧ ((run id).ctx 0).target .c (-1 : BitVec 27).toInt = none := by
  unfold State.ready; decide +kernel

/-- Three streams at a barrier word; all four at one, at each of the words at which C may stand. -/
theorem witness_StreamBarriers :
    let at_ := fun (k : StandAt) (x : Ctx) => { x with
      c := { x.c with stand := some (90, k) }, l := { x.l with stand := some (90, .start) }, v := { x.v with stand := some (90, .start) }
      s := { x.s with stand := some (90, .start) } }
    let x := at_ .start Ctx.init
    let y := at_ .realign Ctx.init
    let z := { at_ .brk Ctx.init with launch := { Launch.init with trc := BitVec.ofNat 64 (2 ^ 59) } }
    (({ x with v := Stream.init } : Ctx).strm .v).barrierAt = none ∧ (x.strm .c).barrierAt = some .start ∧
      (x.strm .l).barrierAt ≠ none ∧ (x.strm .v).barrierAt ≠ none ∧ (x.strm .s).barrierAt ≠ none ∧
      (y.strm .c).barrierAt = some .realign ∧ (z.strm .c).barrierAt = some .brk ∧ bitAt z.launch.trc 59 = true ∧
      bitAt x.launch.trc 59 = false ∧ (run id).ready .c (allHdr 0) := by
  unfold State.ready; decide +kernel

/-! ## Witnesses: the engines -/

/-- A command of core 0, started in cycle 90 and not yet worked. -/
def cmd (eng : Eng) (opc : Nat) : Cmd := { (armed id).goCmd 0 eng with
  w0 := BitVec.ofNat 64 (opc * 2 ^ 56), seq := 3, started := some 90, tiles := [(0, BitVec.ofNat 128 (2 ^ 125 + 2 ^ 116))] }

/-- Core 0 with commands in its queues, at the head of the array's order. -/
def busy (ks : List Cmd) : State :=
  (run (fun x => { x with eng := { x.eng with live := ks } })).modCluster 0 (fun c => { c with arrayQ := [(0, 3)] })

theorem witness_EngineWork :
    let ops : List (Op × Nat) := [(.mma, 1), (.mmas, 2), (.mzero, 3), (.drain, 4)]
    let ces : List (Op × Nat) := [(.copy, 1), (.gath, 2), (.scat, 3), (.wfill, 4)]
    let xes : List (Op × Nat) := [(.fwd, 1), (.inv, 2), (.tagset, 3)]
    (ops.all (fun o =>
      let u := (busy [cmd .array o.2]).faced 0 .array
      decide (u.arrayRuns 0 o.1 = some (cmd .array o.2)) && u.rowSound (cmd .array o.2) 0) = true) ∧
      (([(.mma, 1), (.mmas, 2), (.drain, 4)] : List (Op × Nat)).all (fun o =>
        let u := (with0 (busy [cmd .array o.2]) (fun c => { c with badAcc := [(0, 3)] })).faced 0 .array
        decide (u.arrayRuns 0 o.1 = some (cmd .array o.2)) && !u.rowSound (cmd .array o.2) 0) = true) ∧
      (ces.all (fun o => decide (((busy [cmd .copy o.2]).faced 0 .copy).copyRuns 0 o.1 = some (cmd .copy o.2))) = true) ∧
      (xes.all (fun o =>
        let u := (busy [cmd .xe o.2]).faced 0 .xe
        decide (u.xeRuns 0 o.1 = some (cmd .xe o.2)) && u.rowSound (cmd .xe o.2) 0) = true) ∧
      (([(.fwd, 1), (.inv, 2)] : List (Op × Nat)).all (fun o =>
        let u := (with0 (busy [cmd .xe o.2]) (fun c => { c with badSpad := [(0, 3)] })).faced 0 .xe
        decide (u.xeRuns 0 o.1 = some (cmd .xe o.2)) && !u.rowSound (cmd .xe o.2) 0) = true) ∧
      (let k := { cmd .copy 5 with w2 := BitVec.ofNat 64 (windowBase + 0x400000), doneAt := some 100 }
       let u := (busy [k]).faced 0 .copy
       u.copyRuns 0 .flagw = some k ∧ spadAt 0 k.dst = some (1, 0) ∧ 100 ≤ u.cyc 0) ∧
      (let k := { cmd .copy 6 with w1 := page0, w2 := 1 }
       let u := (busy [k]).faced 0 .copy
       u.copyRuns 0 .pref = some k ∧ k.row < k.len ∧ k.src + k.row < windowBase ∧ u.xlateCheck 0 0 (k.src + k.row) = none ∧
         k.sect < 16) := by
  decide +kernel

theorem witness_ZeroedTile :
    let k := cmd .array 3
    let t := k.tile k.t2
    ((run id).core 0).badAcc = [] ∧ t.rows = 1 ∧ t.base = 0 ∧ t.rowBytes = 4 := by decide +kernel

theorem witness_EngineQueues :
    let g := (armed id).goCmd 0 .array
    let u := armed (fun x => { x with c := { x.c with wait := some (.go g 0 []) } })
    (u.ctx 0).c.wait = some (.go g 0 []) ∧ u.barred 0 .c = false ∧ u.mayPush 0 .array [] = true ∧
      (let k := { cmd .array 3 with started := none }
       let s := (busy [k]).faced 0 .array
       s.nextCmd 0 .array = some k ∧ s.engineLets k = true ∧ s.chkLets k = true) ∧
      (let k := { cmd .xe 1 with started := none, w0 := BitVec.ofNat 64 (2 ^ 56 + 2 ^ 55), seq := 4 }
       let s := (busy [cmd .xe 1, k]).faced 0 .xe
       s.nextCmd 0 .xe = some k ∧ bitAt k.w0 55 = true ∧ s.chkLets k = true ∧ (s.xeRunning 0).isSome = true ∧
         (coresOf 0).find? (fun n => n != 0 && s.mayPull n) = some 1) ∧
      (let k := { cmd .array 3 with worked := true, doneAt := some 100 }
       ((busy [k]).faced 0 .array).finished 0 .array = some k) ∧
      (let k := cmd .copy 1
       let s := (busy [k]).faced 0 .copy
       0 = 4 * 0 + (s.cluster 0).cyc % 4 ∧ s.copyRunning 0 = some k ∧ k.worked = false ∧ k.paused = false ∧ k.slot ≠ some (s.cyc 0) ∧
         k.op ≠ some .flagw ∧ k.op ≠ some .pref) ∧
      (let s := run (fun x => { x with c := { x.c with wait := some (.result .copy (.s 1)) }, eng := { x.eng with records := [[], [5], []] } })
       (s.ctx 0).c.wait = some (.result .copy (.s 1)) ∧ s.barred 0 .c = false ∧ (s.ctx 0).recs .copy = [5] ∧ recErr 5 = 0) := by
  decide +kernel

/-! ## Witnesses: waits, homes, accesses -/

/-- Core 0 whose C waits. -/
def waiting (w : Wait) (f : Ctx → Ctx) : State := run (fun x => f { x with c := { x.c with wait := some w } })

theorem witness_WaitsOfC :
    (let s := waiting (.reply 7 (some 5) none (some (.s 1))) id
     s.barred 0 .c = false ∧ (s.ctx 0).mode = .run ∧ (s.ctx 0).c.wait = some (.reply 7 (some 5) none (some (.s 1)))) ∧
      (waiting (.reply 7 none (some { cause := .remote }) none) id).barred 0 .c = false ∧
      (let s := waiting (.fence .pod 1 [] 0) id
       s.settled 0 .pod [] = true ∧ (s.ctx 0).failOf .pod 1 = none) ∧
      (let s := waiting (.fence .pod 1 [] 0) (fun x => { x with fails := [(0, .core, { cause := .remote })] })
       s.settled 0 .pod [] = true ∧ (s.ctx 0).failOf .pod 1 = some (0, .core, { cause := .remote })) ∧
      (let s := waiting (.waita 1 4 0 .eq 0 (.s 1) none) id
       s.isFenced 0 1 = false ∧ icndHolds .eq ((s.core 1).spad.lane 4) 0 = true ∧
         (s.ctx 0).c.wait = some (.waita 1 4 0 .eq 0 (.s 1) none)) ∧
      (let s := waiting (.waita 1 4 0 .eq 5 (.s 1) (some (5, none))) id
       s.isFenced 0 1 = false ∧ (s.ctx 0).c.wait = some (.waita 1 4 0 .eq 5 (.s 1) (some (5, none)))) ∧
      (4 < 1 + 4 ∧ 1 < 4 + 4 ∧ icndHolds .eq (5 : Lane) 5 = true) ∧
      (let s := (waiting (.waita 1 4 0 .eq 0 (.s 1) none) id).modPart 0 (fun p => { p with
         regions := [{ regionOfChain 0x100000 0 [List.replicate 128 0] with st := .running, cores := [0, 1], fenced := [1] }] })
       s.isFenced 0 1 = true ∧ (s.ctx 0).mode = .run) ∧
      (let s := waiting (.waitb .copy 0) id
       (s.ctx 0).batchDone .copy 0 = true ∧ (s.ctx 0).batchError .copy 0 = none) ∧
      (let s := waiting (.waitb .copy 0) (fun x => { x with eng := { x.eng with records := [[], [BitVec.ofNat 64 (2 ^ 56)], []] } })
       (s.ctx 0).batchDone .copy 0 = true ∧ (s.ctx 0).batchError .copy 0 = some (BitVec.ofNat 64 (2 ^ 56))) ∧
      (let s := waiting (.recv (.s 1)) (fun x => { x with send := [line0] })
       (s.ctx 0).sendHead.isSome = true) ∧
      (let s := with0 (waiting (.wstat .spb 1) id) (fun c => { c with doms := c.doms.put 8 Dom.init })
       s.wstatFault 0 .spb 1 = some 0 ∧ ((s.ctx 0).strm .c).wait = some (.wstat .spb 1)) := by decide +kernel

/-- A region of the partition 0 that runs on core 0. -/
def region0 : Region := { regionOfChain 0x100000 0 [List.replicate 128 0] with regid := 5, st := .running, on := [0], cores := [0] }

/-- Core 0 in the launch of that region. -/
def launched (r : Region) (f : Ctx → Ctx) : State :=
  (run (fun x => f { x with launch := { x.launch with region := 0, regid := 5 } })).modPart 0 (fun p => { p with regions := [r] })

theorem witness_GrantsAndHomes :
    (let s := waiting (.wstat .spb 1) id
     s.wstatFault 0 .spb 1 = none ∧ s.allAwake 0 .spb 1 = true ∧ s.barred 0 .c = false) ∧
      (let s := run (fun x => { x with l := { x.l with wait := some (.gridLoad 9 (some (1, 5))) } })
       (s.ctx 0).posted.any (fun a => a.id == 9) = false ∧ s.barred 0 .l = false) ∧
      (let s := launched { region0 with iterQ := [0] } (fun x => { x with c := { x.c with wait := some (.iter 100) } })
       s.regionOf 0 = some { region0 with iterQ := [0] } ∧ 100 ≤ s.cyc 0) ∧
      (let s := waiting (.lease 96 4 (.s 1)) id
       (s.cluster 0).holder = none ∧ (s.cluster 0).freeFrom ≤ (s.cluster 0).cyc ∧ s.leaseAsks 0 = some (4, .s 1) ∧
         ((upto 1 4).map (fun k => 4 * 0 + ((s.cluster 0).leaseLast + k) % 4)).find? (fun k => (s.leaseAsks k).isSome) = some 0) ∧
      (let s := { (armed id) with now := 160000 }
       (s.cluster 0).holder = some 0 ∧ (s.cluster 0).granted + 16000 ≤ s.timeAt 0) ∧
      (let o : HomeOp := { core := 0, op := .claim, slot := 0 }
       let s := (synced id).arriveHome 0 0 o
       ((((s.gather 0 false 0).part 0).ring 0).pick).map (fun r => (r.1, r.2.refuses o.op o.slot)) = some (o, false)) ∧
      (let o : HomeOp := { core := 0, op := .bar, slot := 0 }
       let s := (synced id).arriveHome 0 0 o
       ((s.gather 0 true 0).part 0).barrier 0 |>.arrivals = [o]) := by decide +kernel

theorem witness_DirectAccesses :
    let s := fun (k : AccKind) => with0 (run id) (fun c => { c with direct := [{ acc0 with due := 100, place := .spad 0 0x1FFFF8, kind := k }] })
    (((s (.load .d false (.s 1))).core 0).direct.filter (fun b => b.due ≤ (s (.load .d false (.s 1))).cyc 0)).length = 1 ∧
      (((s (.store [1, 2])).core 0).direct.filter (fun b => b.due ≤ (s (.store [1, 2])).cyc 0)).length = 1 ∧
      (AccKind.amo false .add 5 (.s 1)).update (((run id).core 0).spad.readN 0x1FFFF8 8) = some (some (leBytes 8 5), 0) ∧
      (AccKind.cas false 1 2 (.s 1)).update (((run id).core 0).spad.readN 0x1FFFF8 8) = some (none, 0) ∧
      (partSectors 0x1FFFF8 2).all (sramSound ((run id).core 0).spad ((run id).core 0).badSpad) = true := by decide +kernel

theorem witness_MemoryWrites :
    (partSectors 30 4).all (sramSound ((run id).core 0).spad ((run id).core 0).badSpad) = true ∧
      (partSectors 30 4).all (sramSound ((run id).core 0).spad [(1, 3)]) = false ∧ (partSectors 30 4).all (run id).sectorSound = true ∧
      (partSectors 30 4).all ({ run id with slices := { (run id).slices with bad := [(1, 257)] } } : State).sectorSound = false := by
  decide +kernel

theorem witness_ClassFifos :
    let s := run (fun x => x.setFifo 0 [acc0])
    let w := fun (a : Acc) => { run (fun x => x.setFifo 0 [a]) with now := 300000 }
    ((s.facing 0 0).ctx 0).fifoOf 0 = [acc0] ∧ (s.facing 0 0).mayPerform 0 acc0 = true ∧
      ((w { acc0 with due := 101 }).facing 0 0).mayPerform 0 { acc0 with due := 101 } = false ∧
      (let a := { acc0 with expiry := some 30000 }
       (((w a).facing 0 0).ctx 0).fifoOf 0 = [a] ∧ 30000 ≤ ((w a).facing 0 0).time ∧ a.parked = false) ∧
      (let a := { acc0 with tag := some 1, sentAt := 10000 }
       a.tag.isSome = true ∧ a.sentAt + 20000 ≤ ((w a).facing 0 0).time ∧ a.resent < 3 ∧ 3 ≤ ({ a with resent := 3 } : Acc).resent) ∧
      acc0.place = .dev 0x100000 ∧ acc0.d = false ∧ s.reaches 0 0x100000 = true ∧ s.slotSound false 0x100000 8 = true ∧
      s.isDead 0x100000 = false ∧ (s.devWrite false 0x100000 [1]).isSome = true ∧ s.tagFind 0 (s.sliceOf 0x100000) 0 = none ∧
      (AccKind.amo true .swap 5 (.s 1)).update (s.devRead false 0x100000 4) = some (some (leBytes 4 5), 0) ∧
      (AccKind.cas true 1 2 (.s 1)).update (s.devRead false 0x100000 4) = some (none, 0) ∧
      (let v := { s with slices := { s.slices with bad := [(0x100000 / 32, 257)] } }
       v.slotSound false 0x100000 8 = false) ∧ (s.core 1).spadSound 0 8 = true ∧ s.isFenced 0 1 = false := by decide +kernel

/-! ## Witnesses: walks, domains, regions -/

/-- A walk of the cluster's walkers for core 0. -/
def walk0 : Walk :=
  { part := 0, va := page0.toNat, reqs := [{ core := 0, why := .lpf, va := page0.toNat, lane := none, r := false, w := false }],
    level := 3, table := 0x110000, ats := false }

/-- Core 0, the walk running, and a page-table entry at the place that it reads. -/
def walking (k : Walk) (e : Word) : State :=
  { (run id).modCluster 0 (fun c => { c with walks := [k] }) with
    mem := Memory.writeN [] (k.table + 8 * pteIndex k.level k.va) (leBytes 8 e.toNat) }

/-- A slice's entry, packed or not; a walk in each half, at a bad entry, a table and a leaf; a coupled entry 24 cycles old. -/
theorem witness_SlicesWalksCouplings :
    let q : SliceEntry := { pa := 0x100000, va := 0, bytes := [1, 2], packed := false, cpg := false, expiry := none, core := 0, seq := 1,
                             d := false, head := 0, intv := 0 }
    let s := fun (q : SliceEntry) => { run id with slices := { (run id).slices with queues := [(3, [q])] } }
    (s q).slices.queues.get 3 [] = [q] ∧ (s { q with packed := true }).slices.queues.get 3 [] = [{ q with packed := true }] ∧
      ((s q).devWrite q.cpg q.pa q.bytes).isSome = true ∧
      (let w := walking walk0 0
       (w.cluster 0).running.find? (fun k => !k.ats) = some walk0 ∧ w.xlateCheck 0 0 walk0.va = none ∧
         w.rodataLease 0 walk0.va w.time = none ∧ 2 ^ 55 ≤ walk0.va ∧ w.isLocal walk0.table = true ∧
         (let pa := walk0.table + 8 * pteIndex 3 walk0.va
          w.slotSound true pa 8 = true ∧ w.isDead pa = false ∧ pa < w.slices.capacity ∧ w.reachesFrom (clusterRouter 0) pa = true ∧
            w.moves (clusterRouter 0) pa 0 8 = true) ∧
         w.isLocal (2 ^ 42) = false ∧
         w.pte (w.mem.word (walk0.table + 8 * pteIndex 3 walk0.va)) 3 walk0.va w.time = .bad) ∧
      (let k := { walk0 with va := 0x1000 }
       let w := walking k 0
       (w.cluster 0).running.find? (fun k => !k.ats) = some k ∧ w.xlateCheck 0 0 k.va = none ∧ k.va < 2 ^ 55 ∧
         w.reachesRouter (clusterRouter 0) w.outerRouter = true ∧ w.routeMoves (clusterRouter 0) w.outerRouter 0 16 = true) ∧
      (let w := walking walk0 0x120001
       w.pte (w.mem.word (walk0.table + 8 * pteIndex 3 walk0.va)) 3 walk0.va w.time = .table 0x120000) ∧
      (let k := { walk0 with level := 1 }
       let w := walking k 0x120007
       (match w.pte (w.mem.word (k.table + 8 * pteIndex 1 k.va)) 1 k.va w.time with
        | .leaf e _ => e.pa
        | _ => 0) = 0x120000) ∧
      (let w := (run (fun x => { x with
         sq := x.sq.set 2 [{ line0 with at_ := 76 }], launch := { x.launch with cplOut := [(2, 1, 5)] } })).modCore 1 (fun c =>
           { c with ctx := { c.ctx with mode := .run } })
       (w.ctx 0).launch.cplOut.find? (fun c => c.1 == 2) = some (2, 1, 5) ∧ (w.ctx 0).squeue 2 = [{ line0 with at_ := 76 }] ∧
         76 + 24 ≤ w.cyc 0 ∧ ((w.ctx 1).lqueue 5).length < 16 ∧ (w.ctx 0).stopped = false ∧ (w.ctx 1).stopped = false ∧ (w.ctx 0).sibling (w.ctx 1) = true) := by
  decide +kernel

/-- A domain in each of the states that a step of the power domains meets. -/
theorem witness_DomainSteps :
    let put := fun (k : Nat) (d : Dom) => with0 (run id) (fun c => { c with doms := c.doms.put k d, wakeQ := [k] })
    ((put 8 { Dom.init with st := .waking, queued := true }).core 0).wakeQ = [8] ∧ (DomTy.spb, 0) = coreSlot 8 ∧
      (put 8 { Dom.init with st := .waking, queued := true }).wakingWeight false 0 + domWeight .spb ≤ 32 ∧
      (DomTy.wbb, 15) = clusterSlot 19 ∧ (run id).wakingWeight true 0 + domWeight .wbb ≤ 96 ∧
      (let d := (put 8 { Dom.init with st := .waking, ready := 100 }).dom 0 .spb 0
       d.st = .waking ∧ d.queued = false ∧ d.ready ≤ 100 ∧ d.sleepPend = none) ∧
      (let s := put 8 { Dom.init with sleptAt := some 90 }
       (s.dom 0 .spb 0).sleptAt = some 90 ∧ (s.dom 0 .spb 0).offAt = none ∧ s.domBusy 0 .spb 0 = false) ∧
      (let s := put 8 { Dom.init with sleptAt := some 90, offAt := some 100 }
       (s.dom 0 .spb 0).offAt = some 100 ∧ 100 ≤ s.cyc 0) ∧
      (let s := (run (fun x => { x with sys := { x.sys with pwrset := 4 } })).modCluster 0 (fun c => { c with fadeDue := some (0, false, 0, 0) })
       (s.cluster 0).fadeDue = some (0, false, 0, 0) ∧ (s.cluster 0).fade = none ∧ (s.cluster 0).arrayFree ≤ (s.cluster 0).cyc ∧ s.ballasts (0, false, 0, 0) = true) ∧
      (let s := (run id).modCluster 0 (fun c => { c with cyc := 5000, fadeDue := some (0, false, 0, 0), fade := some 1000 })
       (s.cluster 0).fade = some 1000 ∧ 1000 + 4000 ≤ (s.cluster 0).cyc) ∧
      (run id).wakeOne 0 .spb 0 = run id ∧ (put 8 Dom.init).dom 0 .spb 0 = Dom.init ∧ (run id).dom 0 .spb 0 = awake := by
  decide +kernel

/-- An RCB of region 5: one cluster, a power cap of 1, one launch core. -/
def rcb0 : List Byte :=
  patch (patch (patch (patch (List.replicate 128 0) 0x28 (leBytes 2 5)) 0x34 (leBytes 2 1)) 0x36 (leBytes 2 1)) 0x3A (leBytes 1 1)

/-- The table and the text of a file of one word, `all.end`. -/
def fileTail : List Byte :=
  leBytes 2 1 ++ leBytes 2 8 ++ leBytes 4 1 ++ leBytes 8 96 ++ leBytes 8 8 ++ leBytes 8 0 ++ leBytes 8 0xE000020000000000

/-- A file of one section of text (R248 to R250). -/
def file0 : List Byte :=
  leBytes 4 0x4F564C7F ++ leBytes 2 1 ++ leBytes 1 1 ++ leBytes 1 0 ++ leBytes 8 1 ++ leBytes 8 64 ++ leBytes 4 0 ++
    leBytes 4 (crc32c fileTail) ++ leBytes 32 0 ++ fileTail

/-- The partition 0 with a queue of one entry, no core running, the RCB and the file in its memory. -/
def queue0 (r : List Region) : State :=
  { ({ run id with cores := [] } : State).modPart 0 (fun p => { p with
      sqcfg := 0x100004, tail := 1, pcap := 100, regions := r, memLen := 0x4000000, psave := 0x100000 }) with
    mem := Memory.writeN (Memory.writeN (Memory.writeN [] 0x100000 (leBytes 8 0x100080)) 0x100080 rcb0) 0x101000 file0 }

/-- The region of that RCB, waiting, its program on a host page that the device has been given. -/
def waiting0 : Region := { regionOfChain 0x100080 0 [rcb0] with
  prog := 0x1000, preds := [], hostPages := [{ lease0 with page := 0x1000, log2 := 12, pa := 0x101000 }] }

theorem witness_RegionSteps_queue :
    let s := queue0 []
    let p := s.part 0
    ((16 : BitVec 16) - p.tail).toNat + (p.tail - p.head).toNat ≤ p.queueSize ∧
      p.queueSize < ((17 : BitVec 16) - p.tail).toNat + (p.tail - p.head).toNat ∧ p.head ≠ p.tail ∧
      s.readOwn 0 (bits p.sqcfg 12 44 * 4096 + 8 * (p.head.toNat % p.queueSize)) 8 = some (leBytes 8 0x100080) ∧
      (s.readOwn 0 0x100080 128).isSome = true ∧ s.rcbChain 0 8 0x100080 = some [rcb0] ∧
      (regionOfChain 0x100080 p.accepted [rcb0]).regid = 5 ∧ chainOk [rcb0] 1 = true ∧ p.clusters.length = 1 ∧ p.affords (regionOfChain 0x100080 p.accepted [rcb0]) = true ∧
      p.regions = [] := by decide +kernel

theorem witness_RegionSteps_dispatch :
    let s := queue0 [waiting0]
    let p := s.part 0
    p.doomed = none ∧ p.foremost = some waiting0 ∧ p.room waiting0 = true ∧ s.pick 0 p waiting0 = some [0] ∧
      launchCores [0] waiting0.cmask = [0] := by decide +kernel

/-- The load of the file passes every check, and its text is read for execution. -/
theorem witness_RegionSteps_load :
    (match (queue0 [waiting0]).loadInput 0 waiting0 1 with
     | .inl k => k.failure.isNone && decide (k.file = file0)
     | .inr _ => false) = true ∧
      (queue0 [waiting0]).readAt 0 waiting0.host true (0x1000 + 96) 8 = .ok (leBytes 8 0xE000020000000000) := by decide +kernel

/-- A loaded region without preloads, an ended core, an ended region, a stop without accepted requests. -/
theorem witness_RegionSteps_run :
    let l := { region0 with st := .loading }
    let e := { region0 with ended := [0] }
    ((launched l id).part 0).regions.find? (fun o => o.regid == 5 && o.st == .loading && o.preload.isEmpty) = some l ∧ l.err = 0 ∧
      (let s := launched region0 (fun x => { x with
         c := { x.c with stand := some (99, .fin) }, l := { x.l with stand := some (99, .fin) }, v := { x.v with stand := some (99, .fin) }
         s := { x.s with stand := some (99, .fin) } })
       let u := s.modCtx 0 (fun x => { x with eng := { x.eng with records := [[], [BitVec.ofNat 64 (2 ^ 56)], []] } })
       s.launchOver 0 = true ∧ (s.ctx 0).undelivered = none ∧ (s.ctx 0).fails = [] ∧ (s.ctx 0).ending = none ∧ 99 < s.cyc 0 ∧
         u.launchOver 0 = true ∧ (u.ctx 0).undelivered = some (.copy, BitVec.ofNat 64 (2 ^ 56))) ∧
      ((launched e id).part 0).regions.find? (fun o => o.regid == 5 && (o.st == .running || o.st == .preempted)) = some e ∧
      e.cores.all (fun n => e.ended.contains n) = true ∧ (launched e (fun x => { x with mode := .off })).settledRegion 0 e = true ∧
      (let s := run (fun x => { x with mode := .stopping (some ({ cause := .race }, .c)) })
       (s.ctx 0).mode = .stopping (some ({ cause := .race }, .c)) ∧ (s.ctx 0).stopWaits = false) := by decide +kernel

/-- The region as Sapwood stops, keeps and resumes it. -/
def kept0 (st : RegionSt) : Region := { region0 with st := st }

/-- A launched region whose partition has room for save areas. -/
def shelved (r : Region) (f : Ctx → Ctx) (g : Part → Part) : State :=
  (launched r f).modPart 0 (fun p => g { p with memLen := 0x4000000, psave := 0x100000 })

/-- A second bank whose stopped context belongs to the region 6. -/
def banked (f : Ctx → Ctx) : State :=
  (with0 (launched region0 (fun x => f { x with launch := { x.launch with zero := 10 } })) (fun c =>
    { c with alt := { c.alt with mode := .stopped, launch := { c.alt.launch with region := 1 } } })).modPart 0 (fun p =>
      { p with regions := [region0, { region0 with regid := 6, order := 1 }], shared := some (0, 1), slice := 64 })

theorem witness_StopsAndBanks_operations :
    let s := shelved region0 id id
    let u := shelved (kept0 .preempted) (fun x => { x with mode := .off }) id
    let w := shelved { region0 with fdom := true } (fun x => { x with mode := .stopped }) (fun p => { p with posted := [(0, 0)] })
    (s.part 0).named 5 (fun r => r.st == .running) = some region0 ∧ s.areasOk (s.part 0) 1 = true ∧
      (u.part 0).named 5 (fun r => r.st == .preempted || r.held) = some (kept0 .preempted) ∧
      (s.part 0).named 5 (fun r => r.st == .running || r.st == .preempted) = some region0 ∧ w.oneCore 0 5 0 = some 0 ∧
      (u.part 0).placing = none ∧ (u.part 0).regions.find? (fun r => r.regid == 5 && r.st == .preempted) = some (kept0 .preempted) ∧
      u.placeable 0 (u.part 0) (kept0 .preempted) = true ∧ u.mgmt.swHeld = false ∧
      ({ u with mgmt := { u.mgmt with swHeld := true } } : State).mgmt.swHeld = true := by decide +kernel

theorem witness_StopsAndBanks_ends :
    (let s := shelved region0 (fun x => { x with mode := .stopped }) (fun p => { p with pctlOp := some (1, 0, false) })
     (s.part 0).pctlOp = some (1, region0.order, false) ∧ (s.part 0).regions.find? (fun r => r.order == 0 && r.st == .running) = some region0 ∧
       region0.left = [0] ∧ region0.left.all ((s.seal 0 0 0).mayShelve 0 0) = true ∧
         region0.left.all (((shelved region0 id id).seal 0 0 0).mayShelve 0 0) = false) ∧
      (let r := { region0 with held := true }
       let s := shelved r (fun x => { x with mode := .stopped }) (fun p => { p with pctlOp := some (2, 0, false) })
       (s.part 0).region r.order = some r ∧ r.held = true ∧
         r.left.all (fun n => (s.core n).exchange.isNone && ((s.ctx n).belongs 0 r.order || (s.ctx n).mode == .off)) = true ∧
         r.left.all (fun n => (s.ctx n).belongs 0 r.order) = true ∧
         r.left.all (fun n => ((shelved r (fun x => { x with mode := .off }) id).ctx n).belongs 0 r.order) = false) ∧
      (let r := kept0 .preempted
       let s := shelved r (fun x => { x with mode := .off }) (fun p => { p with pctlOp := some (2, 0, false) })
       (s.part 0).region r.order = some r ∧ r.held = false ∧ r.st = .preempted ∧ (s.part 0).placing = none ∧
         s.coresFree 0 (s.part 0) r = true) ∧
      (let r := { region0 with ended := [0] }
       let s := shelved r (fun x => { x with mode := .off }) (fun p => { p with pctlOp := some (2, 0, true) })
       (s.part 0).pctlOp = some (2, r.order, true) ∧ (s.part 0).region r.order = some r ∧ s.areasAwake (s.part 0) r true = true) ∧
      (let r := kept0 .preempted
       let s := fun (z : Bool) => shelved r (fun x => { x with mode := .off }) (fun p => { p with placing := some (0, z) })
       ((s false).part 0).placing = some (r.order, false) ∧
         ((s false).part 0).regions.find? (fun o => o.order == 0 && o.st == .preempted) = some r ∧
         (s false).placeable 0 ((s false).part 0) r = true ∧ ((s true).part 0).placing = some (r.order, true) ∧
         (s true).areasAwake ((s true).part 0) r false = true) := by decide +kernel

theorem witness_StopsAndBanks_banks :
    (banked id).sliceOut 0 = true ∧
      (let t := ((banked id).modCore 0 (fun c => { c with exchangeDue := true })).halt 0
       (t.ctx 0).mode = .stopped ∧ (t.core 0).exchangeDue = true ∧ (t.core 0).direct = [] ∧ t.altReady 0 = true) ∧
      (let s := with0 (launched region0 (fun x => { x with mode := .stopped })) (fun c => { c with exchange := some 100 })
       (s.core 0).exchange = some 100 ∧ 100 ≤ s.cyc 0 ∧ s.mayRun (s.ctx 0) = true) ∧
      (let s := with0 (banked (fun x => { x with mode := .off })) (fun c => { c with exchange := some 100 })
       (s.ctx 0).mode = .off ∧ s.mayRun (s.ctx 0) = false ∧ s.altReady 0 = true) ∧
      (let s := (launched region0 (fun x => { x with mode := .stopped })).modPart 0 (fun p => { p with posted := [(0, 0)] })
       s.regionFor (s.ctx 0) = some region0 ∧ (s.part 0).posted.contains (region0.order, 0) = true ∧
         (s.ctx 0).belongs 0 region0.order = true ∧ region0.fdom = false ∧ region0.held = false ∧ s.placingOn 0 region0.cores = false ∧
         region0.left.all (fun n => s.stoodStill 0 region0.order n &&
           ((s.core n).alt.belongs 0 region0.order || (s.core n).direct.isEmpty)) = true) ∧
      (let s := launched region0 id
       s.running 0 = [(0, 0)] ∧ bitAt ({ s with mgmt := { s.mgmt with scopes := 2 } } : State).mgmt.scopes 1 = true ∧
         (s.ctx 0).belongs 0 region0.order = true) ∧
      (let s := with0 (launched region0 (fun x => { x with mode := .stopping none })) (fun c => { c with exchangeDue := true })
       (s.ctx 0).belongs 0 region0.order = true ∧ (s.ctx 0).mode = .stopping none ∧ (s.core 0).exchangeDue = true) ∧
      (let s := launched region0 (fun x => { x with frame := { x.frame with handler := true } })
       (s.ctx 0).belongs 0 region0.order = true ∧ (s.ctx 0).frame.handler = true ∧ (s.ctx 0).stopWaits = false) := by decide +kernel

/-! ## Witnesses: the device -/

/-- Offsets inside and outside 8 ns; 3 µs without a beacon; 1 ms since the last exchange; a switch of rails; a running context;
a sample due; a head of a log. -/
theorem witness_TimeRailsTraces :
    ((8 : Int) < 9 ∨ (9 : Int) < -8) ∧ (-8 : Int) ≤ 8 ∧
      (({ run id with now := 30000 } : State).cluster 0).clock.beacon + 3000 ≤ ({ run id with now := 30000 } : State).time ∧
      (let s : State := { run id with now := 10000000, fabric := { (run id).fabric with hostUp := [true] } }
       s.hostLink = some 0 ∧ (s.cluster 0).window < s.time / 1024) ∧
      (((run id).modCluster 0 (fun c => { c with switching := some true })).cluster 0).switching = some true ∧
      ((run id).ctx 0).mode = .run ∧ ((run id).ctx 0).frame.handler = false ∧
      (let s := run (fun x => { x with launch := { x.launch with trc := BitVec.ofNat 64 (2 ^ 63) } })
       bitAt (s.ctx 0).launch.trc 63 = true ∧ s.classed 0 = true ∧ nextSample (s.ctx 0).launch.trc (s.ctx 0).launch.sampled ≤ s.timeAt 0) ∧
      (let s := run (fun x => { x with launch := { x.launch with replay := some [(.c, 4, 0, 0)], zero := 10 } })
       (s.ctx 0).launch.replay = some [(.c, 4, 0, 0)] ∧ (s.ctx 0).replayNext .c = some (.c, 4, 0, 0) ∧
         4 ≤ (s.ctx 0).launchCycle (s.cyc 0) ∧ ((s.ctx 0).strm .c).cls ≠ .issue ∧ ((s.ctx 0).strm .c).named 0 0 = true) := by decide +kernel

theorem witness_HeartwoodSteps :
    let s := { State.reset with mgmt := { State.reset.mgmt with busy := true, running := some (.host, .nonce) } }
    State.reset.mgmt.busy = false ∧ State.reset.mgmt.swHeld = false ∧ s.mgmt.busy = true ∧ s.mgmt.running = some (.host, .nonce) ∧
      MbOp.allowed .extend .host = false ∧ (MbOp.nonce ≠ .ident ∧ MbOp.nonce ≠ .quote) := by decide +kernel

theorem witness_FabricSteps :
    let s := State.reset
    let l := fun (f : Link → Link) => s.modLink true 0 0 f
    (s.linkEnd false 0 0).up = true ∧ (s.linkEnd false 0 0).lost = false ∧ (s.linkEnd false 0 0).nextSeq = 0 ∧
      ((List.range 162).any (fun r => (List.range 8).any (fun p => dieCrossing r p)) = true) ∧
      (s.arriving false 0 0 0 true).sound = true ∧ (s.arriving false 0 0 255 true).sound = true ∧ (0 - 255 : BitVec 8).toNat ≤ 128 ∧
      (s.arriving false 0 0 0 false).sound = false ∧ 128 < (0 - 1 : BitVec 8).toNat ∧
      (let t := l (fun l => { l with recent := List.replicate 16 0 })
       16 < ((t.time :: (t.linkEnd true 0 0).recent).filter (fun v => t.time < v + 1000)).length) ∧
      ((l (fun l => { l with training := true })).linkEnd true 0 0).training = true ∧
      (let n := fun (bad : BitVec 32) => bits bad 0 (2 * halfLanes true)
       n 0x10 = 0 ∧ n 1 ≠ 0 ∧ n 1 / 2 ^ halfLanes true = 0 ∧ n 5 % 2 ^ halfLanes true ≠ 0 ∧ n 5 / 2 ^ halfLanes true ≠ 0) ∧
      (let q : AtsReq := { cl := 0, va := 0x1000, pasid := 0 }
       let k := { walk0 with va := 0x1000, ats := true }
       let w := (walking k 0)
       let t : State := { w with fabric := { w.fabric with ats := [q] } }
       t.fabric.ats.find? (fun q => q.cl == 0) = some q ∧ 12 ≤ 12 ∧ 0x1000 % 2 ^ 12 = 0 ∧ q.va / 2 ^ 12 = 0x1000 / 2 ^ 12 ∧
         (t.cluster 0).walks.find? (fun k => k.ats && k.va / 4096 * 4096 == q.va && bits (t.part k.part).xlcfg 32 20 == q.pasid) = some k) ∧
      s.fabric.inval.length < 32 ∧ s.fabric.inval.any (fun i => i.tag == 7) = false ∧
      (let t : State := { s with now := 1120, fabric := { s.fabric with inval := [{ tag := 7, last := 0, len := 64, reqs := [] }] } }
       t.fabric.inval.find? (fun i => i.tag == 7) = some { tag := 7, last := 0, len := 64, reqs := [] } ∧ 0 + 64 + 48 ≤ t.time) := by decide +kernel

/-- A route whose next hop has lost its link no longer stands. -/
theorem witness_FabricSteps_route :
    let t := State.reset.loseLink false 0 (bits (State.reset.route 0 1) 0 4)
    t.routeStands 0 1 = false ∧ (t.link 0 (bits (t.route 0 1) 0 4)).lost = true ∧ State.reset.routeStands 0 1 = true := by decide +kernel

theorem witness_OutsideAccesses :
    let s := run id
    let p := s.part 0
    p.head = p.tail ∧ ((queue0 []).part 0).head ≠ ((queue0 []).part 0).tail ∧ p.memBase ≤ 0x10FFFF ∧
      0x10FFFF + 1 ≤ p.memBase + p.memLen ∧ s.physSound 0x10FFFF 1 = true ∧ s.outerMoves 4 0x10FFFF 1 true = true ∧
      s.outerMoves 4 0x10FFFF 1 false = true ∧
      s.outerReach 4 0x10FFFF = true ∧ p.coreList[0]? = some 0 ∧
      s.mgmt.swHeld = false ∧
      (let v : State := { s with mgmt := { s.mgmt with marker := 1 }, slices := { s.slices with bad := [(0x10FFFF / 32, 257)] } }
       v.physSound 0x10FFFF 1 = false ∧ v.outerMoves 4 0x10FFFF 1 false = true ∧ v.outerReach 4 0x10FFFF = true) ∧ 0xFFFFF < p.memBase ∧
      0x1FFFFF + 1 ≤ s.slices.capacity ∧ s.physSound 0x1FFFFF 1 = true ∧ 0x1FFFF8 % 8 = 0 ∧ 0x1FFFF8 + 8 ≤ s.slices.capacity := by
  decide +kernel

/-! ## Witnesses of further clauses -/

/-- With no power: a cold reset, a host's read of SECSTAT, and anything else. -/
theorem witness_StepRunsOtherSteps_off :
    let s : State := { State.reset with mgmt := { State.reset.mgmt with off := true } }
    s.mgmt.off = true ∧ s.mgmt.trip = false ∧ 2 ^ 43 / 8 = 2 ^ 40 ∧ (2 ^ 43 + 8) / 8 ≠ 2 ^ 40 := by decide +kernel

/-- A head that has been counted before its walk returned, one executed anew, one that owes its units. -/
theorem witness_Issue_heads :
    let c := fun (f : Stream → Stream) => ((run (fun x => { x with c := f x.c })).ctx 0).strm .c
    (c (fun t => { t with counted := true })).counted = true ∧ (c (fun t => { t with anew := true, owed := 160 })).owed = 160 ∧
      (c id).anew = false := by decide +kernel

/-- Atomics at a tile image, a command window, the ring table and an offset that holds nothing. -/
theorem witness_CAtomics_windows :
    resolve 0 (winWord 0xA20000).toNat 4 = .win (.tiles 0) ∧ resolve 0 (winWord 0xA00020).toNat 8 = .win (.cmd .array 0x20) ∧
      resolve 0 (winWord 0xA10FF8).toNat 8 = .win (.rings 0xFF8) ∧ (winWord 0xA20000).toNat % 4 = 0 := by decide +kernel

/-- Core 0 with the sibling 1 in its region, whose scratchpad is fenced. -/
def fencing (f : Ctx → Ctx) : State :=
  (run f).modPart 0 (fun p => { p with regions := [{ region0 with cores := [0, 1], fenced := [1] }] })

theorem witness_CWaitaAndFence_faults :
    (run (regs12 1 0)).ready .c h0 ∧ ((run (regs12 1 0)).reg 1).toNat % 4 ≠ 0 ∧
      (run (regs12 page0 0)).ready .c h0 ∧ page0.toNat < 2 ^ 56 ∧ page0.toNat % 4 = 0 ∧
      (match resolve 0 page0.toNat 4 with
       | .win (.spad _ _) => true
       | _ => false) = false ∧
      (match (fencing id).spadTarget 0 1 4 4 (windowBase + 0x400004) with
       | .bad t => decide (t.cause = .winlost)
       | _ => false) = true ∧
      (match (with0 (run id) (fun c => { c with doms := c.doms.put 8 Dom.init })).spadTarget 0 0 4 4 (windowBase + 4) with
       | .bad t => decide (t.cause = .sleeping)
       | _ => false) = true := by
  unfold State.ready; decide +kernel

/-- An `lpf` of the last byte of a page and the first of the next, neither held. -/
theorem witness_ValuesIterationsPrefetch_walks :
    let s := run (regs12 (page0 + 0xFFFF) 2)
    let va := page0.toNat + 0xFFFF
    let z := (va / 2 ^ walkPage va + 1) * 2 ^ walkPage va
    s.ready .c h0 ∧ (s.reg 1).toNat = va ∧ va < va + 2 ∧ va < windowBase ∧ s.xlateCheck 0 0 va = none ∧
      leaseFind (s.core 0).leases va (s.timeAt 0) = none ∧ z < va + 2 ∧ s.xlateCheck 0 0 z = none ∧
      leaseFind (s.core 0).leases z (s.timeAt 0) = none ∧ (s.cluster 0).walks.length < 15 := by
  unfold State.ready; decide +kernel

/-- A domain of the other bank, and one that is off, the last of their masks. -/
theorem witness_PowerInstructions_faults :
    let s := with0 (run id) (fun c => { c with doms := (c.doms.put 39 { awake with owner := true }).put 38 Dom.init })
    s.leaseCheck 0 .spb 0x80000000 = .go ∧ recordsBank .spb = true ∧ 31 ∈ maskIxs .spb 0x80000000 ∧ (s.dom 0 .spb 31).st ≠ .off ∧
      (s.dom 0 .spb 31).owner ≠ (s.core 0).bank ∧ (∀ j ∈ maskIxs .spb 0x80000000, ¬ j < 31) ∧ 30 ∈ maskIxs .spb 0x40000000 ∧
      (s.dom 0 .spb 30).st = .off ∧ (∀ j ∈ maskIxs .spb 0x40000000, ¬ j < 30) ∧ s.ready .c h0 ∧ s.ready .s h0 := by
  unfold State.ready; decide +kernel

/-- A line of the sibling's scratchpad, and a line of tile images. -/
theorem witness_LineAccesses_far :
    let s := pointed (winWord 0x400000) id
    let u := pointed (winWord 0xA20000) id
    let w := pointed (winWord 0x400000) (fun x => { x with sq := x.sq.set 0 [line0] })
    s.ready .l h0 ∧ (s.ctx 0).bound true (.q 0) = false ∧ (s.ctx 0).lineReady true (.q 0) = true ∧
      (s.ctx 0).lineReady true (.g (.row 0)) = true ∧
      s.lineTarget (mdAddr .none ((s.ctx 0).regs.pget false 1) 0).1 256 false true .none = .spad 1 0 ∧
      (s.ctx 0).chkClear (rdEntry 1 1 0 256 none) 100 = true ∧ s.touch 0 (spadBanks 1 0 256 ++ (Lane2.q 0).touches 0) 0 = .go ∧
      s.touch 0 (spadBanks 1 0 256 ++ (Lane2.g (.row 0)).touches 0) 0 = .go ∧
      u.lineTarget (mdAddr .none ((u.ctx 0).regs.pget false 1) 0).1 256 false true .none = .tiles 0 ∧
      u.touch 0 ((Lane2.q 0).touches 0) 0 = .go ∧
      w.ready .s h0 ∧ (w.ctx 0).lineReady false (.q 0) = true ∧
      w.lineTarget (mdAddr .none ((w.ctx 0).regs.pget true 1) 0).1 256 false false .none = .spad 1 0 ∧
      (w.ctx 0).chkClear (wrEntry 0 1 0 256 none) 100 = true := by
  unfold State.ready; decide +kernel

/-- In trap mode, a page with D = 1. -/
theorem witness_VectorMemory_race :
    let s := with0 (pointed page0 (fun x => { x with launch := { x.launch with raceMode := 2 } })) (fun c =>
      { c with leases := [{ lease0 with d := true }] })
    (s.ctx 0).raceHolds (s.resolvePages .l true false 64 (numbered (strided page0 0))).1 = true ∧
      (s.resolvePages .l true false 64 (numbered (strided page0 0))).2 = .none := by decide +kernel

/-- An access of a core that is due. -/
def dueNow (p : Place) (k : AccKind) (f : Core → Core) : State :=
  with0 (run id) (fun c => { f c with direct := [{ acc0 with due := 100, place := p, kind := k }] })

/-- Line loads of the last line: to a queue and to a grid line, sound and not, packed and not; loads and stores of the last line of the
accumulator store; a compare that matches. -/
theorem witness_DirectAccesses_lines :
    let one := fun (s : State) => ((s.core 0).direct.filter (fun b => b.due ≤ s.cyc 0)).length = 1
    let q := AccKind.lineLoad (.lq 0 7) false .none
    let g := AccKind.lineLoad (.line (.row 0)) false .none
    let s := dueNow (.spad 0 0x1FFF00) q id
    let u := dueNow (.spad 0 0x1FFF00) g (fun c => { c with badSpad := [(0xFFF8, 3)] })
    let w := dueNow (.spad 0 0x1FFF00) (.lineLoad (.lq 0 7) false .pk) (fun c => { c with packed := [0x1FFF] })
    one s ∧ one u ∧ one w ∧ (s.core 0).spadSound 0x1FFF00 q.width = true ∧ (u.core 0).spadSound 0x1FFF00 g.width = false ∧
      (w.core 0).slotSound 0x1FFF00 = true ∧ one (dueNow (.spad 0 0x1FFF00) g id) ∧
      (dueNow (.spad 0 0x1FFF00) g id).mgmt.mcwptr % 32 = 0 ∧
      one (dueNow (.acc 0x2FFF00) q id) ∧ one (dueNow (.acc 0x2FFF00) g id) ∧ one (dueNow (.acc 0x2FFF00) (.store [1]) id) ∧
      ((dueNow (.acc 0x2FFF00) q id).core 0).accSound 0x2FFF00 256 = true ∧
      (AccKind.cas true 0 2 (.s 1)).update (((run id).core 0).spad.readN 0x1FFFF8 4) = some (some (leBytes 4 2), 0) := by
  decide +kernel

/-- A write of a slot, of the marker in a page with C = 1, and a full list of exceptions of its slice. -/
theorem witness_MemoryWrites_marked :
    let s : State := { run id with mgmt := { (run id).mgmt with marker := 0xDEADBEEF } }
    let v := leBytes 4 0xDEADBEEF
    s.slices.bad = [] ∧ (s.devWrite true 0x100000 v).isSome = true ∧ 0 % 256 + v.length ≤ 256 ∧ v ≠ [] ∧ 4 ≤ v.length ∧
      (partSectors 0x2FFF00 4).all (sramSound (s.core 0).acc (s.core 0).badAcc) = true ∧
      (partSectors 30 4).all (sramSound (s.core 0).acc [(1, 3)]) = false ∧ s.mgmt.mcwptr % 32 = 0 := by decide +kernel

/-- A lane of a vector load and an added lane, a line for each place, a core out of reach, a fenced sibling. -/
theorem witness_ClassFifos_lines :
    let s := run (fun x => x.setFifo 0 [acc0])
    let far : State := { s with fabric := { s.fabric with routes := [(162 * clusterRouter 0 + sliceRouter (s.sliceOf 0x100000), 0)] } }
    let bad : State := { s with slices := { s.slices with bad := [(0x100000 / 32, 257)] } }
    far.reaches 0 0x100000 = false ∧ s.reaches 0 0x100000 = true ∧ s.slotSound false 0x100000 4 = true ∧
      bad.slotSound false 0x100000 4 = false ∧ (bad.ctx 0).awaits acc0.id = false ∧
      (AccKind.laneAdd .i32 1).update (s.devRead false 0x100000 4) = some (some (leBytes 4 1), 0) ∧
      ({ s with slices := { s.slices with dead := [s.sliceOf 0x100000] } } : State).isDead 0x100000 = true ∧
      (fencing id).isFenced 0 1 = true ∧ s.isFenced 0 1 = false ∧
      (s.core 1).spadSound 0x1FFF00 (AccKind.lineLoad (.line (.row 0)) false .none).width = true ∧
      ((with0 s (fun c => { c with badSpad := [(0, 3)] })).core 0).spadSound 0 8 = false := by decide +kernel

/-- An entry whose lease has expired, and one of a dead slice; a table where there is no memory, out of reach, behind a link that
trains, dead or flawed; a host walk out of reach and held. -/
theorem witness_SlicesWalksCouplings_faults :
    let s := walking walk0 0
    let q : SliceEntry := { pa := 0x100000, va := 0, bytes := [1], packed := false, cpg := false, expiry := some 0, core := 0, seq := 3, d := false, head := 0, intv := 0 }
    let pa := walk0.table + 8 * pteIndex 3 walk0.va
    let r := clusterRouter 0
    let off := fun (d : Nat) => ({ s with fabric := { s.fabric with routes := [(162 * r + d, 0)] } } : State)
    let train := (upto 0 8).foldl (fun t p => t.modLink false r p (fun l => { l with training := true, up := false })) s
    0 ≤ s.sliceTime q.pa ∧ s.sliceTime q.pa < 1 ∧
      (((busy [cmd .copy 1]).ctx 0).liveCmd .copy 3) = some (cmd .copy 1) ∧ (cmd .copy 1).migrates true q.va = false ∧
      ({ s with slices := { s.slices with dead := [s.sliceOf q.pa] } } : State).isDead q.pa = true ∧
      ({ walk0 with table := 0x200000 } : Walk).table + 8 * pteIndex 3 walk0.va ≥ s.slices.capacity ∧
      s.isLocal (2 ^ 42) = false ∧ s.isLocal walk0.table = true ∧
      (off (sliceRouter (s.sliceOf pa))).reachesFrom r pa = false ∧ train.reachesFrom r pa = true ∧ train.moves r pa 0 8 = false ∧
      ({ s with slices := { s.slices with bad := [(pa / 32, 257)] } } : State).slotSound true pa 8 = false ∧
      (off s.outerRouter).reachesRouter r s.outerRouter = false ∧ train.routeMoves r s.outerRouter 0 16 = false := by
  decide +kernel

/-- A launch whose context is resident, and whose conditions hold; an error that is left, and a failure of a posted access. -/
theorem witness_RegionSteps_resident :
    let fin := fun (x : Ctx) => { x with
      mode := .stopped, c := { x.c with stand := some (99, .fin) }, l := { x.l with stand := some (99, .fin) }
      v := { x.v with stand := some (99, .fin) }, s := { x.s with stand := some (99, .fin) } }
    let s := with0 (launched region0 id) (fun c => { c with alt := fin c.alt })
    let u := with0 s (fun c => { c with alt := { c.alt with ending := some 99 } })
    let w := launched region0 (fun x => { fin x with mode := .run, fails := [(0, .core, { cause := .remote })] })
    s.residentOver 0 = true ∧ s.launchOver 0 = false ∧ (s.core 0).alt.undelivered = none ∧ (s.core 0).alt.fails = [] ∧
      (s.core 0).alt.ending = none ∧ (u.core 0).alt.ending = some 99 ∧ 99 < u.cyc 0 ∧ u.residentOver 0 = true ∧
      w.residentOver 0 = false ∧ w.launchOver 0 = true ∧ (w.ctx 0).undelivered = none ∧ (w.ctx 0).mode = .run := by decide +kernel

/-- Copies of the time base behind and ahead; a router of a host link; no beacon for 3 µs. -/
theorem witness_TimeRailsTraces_clocks :
    let c := fun (d : Int) => ((run id).modCluster 0 (fun c => { c with clock := { hold := 0, off := d, beacon := 0 } }) : State)
    let s : State := { c 9 with now := 1000 }
    (s.timeAt 0 : Int) - s.time = 9 ∧ (({ c (-8) with now := 1000 } : State).timeAt 0 : Int) - s.time = -8 ∧ 161 - 1 = 160 ∧ 0 < 160 ∧
      s.hostLink ≠ none := by decide +kernel

/-- A full replay: a route whose entry stands, no host link up, an invalidation due at the last nanosecond. -/
theorem witness_FabricSteps_links :
    let s := State.reset
    let none_ : State := { s with fabric := { s.fabric with hostUp := [false, false] } }
    none_.hostLink = none ∧ s.hostLink = some 0 ∧ s.routeStands 0 1 = true ∧ (s.link 0 (bits (s.route 0 1) 0 4)).lost = false ∧
      (95 : Nat) < 96 ∧ s.hostTime 0 = 0 := by decide +kernel

/-- A mapped aperture and its last byte; one that is not mapped; a counter of the last word of a core; the ring of the machine-check
records in the carve-out. -/
theorem witness_OutsideAccesses_apertures :
    let s : State := { run id with fabric := { (run id).fabric with apertures := [(0, 0x200000, 0, 0)] } }
    let p := s.part 0
    s.hostLink ≠ none ∧ s.apertureAt 0xFFFF 1 = some (0, 0x10FFFF) ∧ s.apertureAt 0x1FFFFF 2 = none ∧ 0x1FFFFF < 2 ^ 36 ∧
      0x10FFFF + 1 ≤ p.memBase + p.memLen ∧ s.outerMoves 4 0x10FFFF 1 true = true ∧ p.coreList[0]? = some 0 ∧
      s.outerReach 0 0x1FFFF8 = true ∧ s.physSound 0x1FFFF8 8 = true ∧
      s.parts.find? (fun p => p.2.confidential && !apart 0x1FFFF8 8 p.2.memBase p.2.memLen) = none ∧
      (let t := s.modPart 0 (fun p => { p with confidential := true })
       (t.parts.find? (fun p => p.2.confidential && !apart 0x10FFF8 8 p.2.memBase p.2.memLen)).isSome = true) ∧
      (let t : State := { s with
         slices := { s.slices with carve := 0x200000 }, mgmt := { s.mgmt with mcbase := 0x200000, swHeld := false } }
       t.slices.capacity < 0x20FFF8 + 8 ∧ t.slices.carve ≠ 0 ∧ bits t.mgmt.mcbase 0 42 ≤ 0x20FFF8 ∧
         0x20FFF8 + 8 ≤ bits t.mgmt.mcbase 0 42 + 65536 ∧ t.physSound 0x20FFF8 8 = true ∧ t.outerReach 0 0x20FFF8 = true) := by
  decide +kernel

/-- An image of KIND 2 of one word. -/
theorem witness_OutsideAccesses_image :
    let s : State := { run id with mem := Memory.writeN [] 0x101000 (patch file0 6 [2]) }
    let head := s.devRead true 0x101000 64
    let file := s.devRead true 0x101000 (fileEnd (s.devRead true 0x101000 (num head 16 8 + 32 * num head 8 2)))
    num file 0 4 = 0x4F564C7F ∧ num file 4 2 = 1 ∧ num file 6 1 = 2 ∧ num file 28 4 = crc32c (file.drop 64) ∧
      sectBytes file 1 = leBytes 8 0xE000020000000000 ∧ (sectBytes file 1).length ≤ 32768 := by decide +kernel

/-! ## Witnesses and tests of the engines' results -/

/-- A tile image, field by field (R28). -/
def image (f bszc fmt acc pitch rows cols base : Nat) : TileImage :=
  BitVec.ofNat 128 (2 ^ 125 + f * 2 ^ 123 + bszc * 2 ^ 121 + fmt * 2 ^ 117 + acc * 2 ^ 116 + pitch * 2 ^ 94 + (rows - 1) * 2 ^ 82 +
    (cols - 1) * 2 ^ 70 + base * 2 ^ 48)

/-- A command of core 0 with its words, formats and tiles 1 and 2. -/
def task (eng : Eng) (w0 w1 w2 fmt : Nat) (t1 t2 : TileImage) : Cmd :=
  { cmd eng 0 with w0 := BitVec.ofNat 64 (w0 + 2 ^ 42 + 2 * 2 ^ 36), w1 := BitVec.ofNat 64 w1, w2 := BitVec.ofNat 64 w2,
                   fmt := BitVec.ofNat 64 fmt, tiles := [(1, t1), (2, t2)] }

/-- `mma` of one row of two BF16 elements and one column. -/
def mma0 : Cmd := task .array (2 ^ 56 + 2 ^ 29) (2 * 2 ^ 24) 0 (2 ^ 60 + 2 ^ 56) (image 0 0 1 0 32 1 2 0) (image 0 0 0 1 32 1 1 0)

/-- Its operands: (1, 2) and (3, 4). -/
def fedArray : State :=
  (with0 (run id) (fun c => { c with spad := Memory.writeN [] 0 (leBytes 4 0x40003F80) })).modCluster 0 (fun c =>
    { c with wb := Memory.writeN [] 0 (leBytes 4 0x40804040) })

theorem witness_ArrayResults_mma :
    let a := mma0.tile mma0.t1
    (fedArray.core 0).packed = [] ∧ (fedArray.cluster 0).wbPacked = [] ∧ (fedArray.core 0).badAcc = [] ∧ a.fmt < 12 ∧ mma0.bfmt < 12 ∧
      1 ≤ a.rows ∧ 4 * mma0.nn ≤ (mma0.tile mma0.t2).pitch ∧ mma0.nn = 1 ∧ mma0.afmt = 1 ∧ mma0.kk = 2 ∧
      spadAt 0 (windowBase + 0x200000) = some (0, 0) := by decide +kernel

/-- R177: 1 · 3 + 2 · 4 is 11 in FP32. -/
theorem test_mma : ((fedArray.mma mma0 1).core 0).acc.readN 0 4 = leBytes 4 0x41300000 := by decide +kernel

/-- An accumulator tile of one complex column for `mmas`. -/
theorem witness_ArrayResults_mmas :
    let k := task .array (2 * 2 ^ 56) 0 0 0 (image 1 0 9 0 64 1 8 0) (image 1 0 10 1 64 1 8 0)
    (k.tile k.t2).fmt = 10 ∧ 8 * (k.tile k.t2).cols ≤ (k.tile k.t2).pitch ∧ k.wbsz / 2 = 8 := by decide +kernel

/-- `drain` of one part to FP32, with CLR and OEXP −1. -/
def drain0 (ofmt : Nat) : Cmd :=
  task .array (4 * 2 ^ 56 + 2 ^ 34) 0 0 (ofmt * 2 ^ 48 + 255 * 2 ^ 36) (image 0 0 0 0 32 1 1 0) (image 0 0 0 1 32 1 1 0)

theorem witness_ArrayResults_drain :
    let k := drain0 8
    let t := k.tile k.t2
    ((run id).core 0).badSpad = [] ∧ k.cmp = false ∧ t.rowBytes % 4 = 0 ∧ t.rowBytes ≤ t.pitch ∧
      t.rowBytes / 4 * fmtBytes 8 ≤ (k.tile k.t1).pitch ∧ k.ofmt = 8 ∧ (drain0 9).ofmt = 9 ∧ (drain0 0).oexp = -1 := by decide +kernel

/-- R181: 11 × 2⁻¹ is 5.5, and CLR clears the cell. -/
theorem test_drain :
    let s := fedArray.mma mma0 1
    let t := s.drain (drain0 0) 1
    (t.core 0).spad.readN 0 4 = leBytes 4 0x40B00000 ∧ (t.core 0).acc.readN 0 4 = leBytes 4 0 := by decide +kernel

/-- `fwd` of one block of 16, and `inv` of the last half block of a row. -/
theorem witness_TransformAndCopyResults_transform :
    let k := task .xe (2 ^ 56) 0 0 0 (image 1 0 1 0 32 1 16 0) (image 1 0 9 0 64 1 8 64)
    let i := task .xe (2 * 2 ^ 56) 0 0 0 (image 1 0 9 0 64 1 8 0) (image 1 0 1 0 64 1 16 64)
    (k.tile k.t1).bsz = 2 ^ 4 ∧ (k.tile k.t1).fmt < 10 ∧ (k.tile k.t1).cols % 16 = 0 ∧ 2 * (k.tile k.t1).cols ≤ (k.tile k.t2).pitch ∧
      (0 + 1) * 16 ≤ (k.tile k.t1).cols ∧ (i.tile i.t1).fmt = 9 ∧ (i.tile i.t1).cols % 8 = 0 ∧
      4 * (i.tile i.t1).cols ≤ (i.tile i.t2).pitch ∧ (0 + 1) * 8 ≤ (i.tile i.t1).cols ∧ 1 ≤ (i.tile i.t1).rows ∧
      ([(FV.num false 0 0, FV.num false 0 0), (FV.num false 0 0, FV.num false 0 0)] : List (FV × FV)).length = 2 ^ (0 + 1) := by
  decide +kernel

/-- R216: the first bin of a block of 16 ones is 16, with the last bin, 0, beside it. -/
theorem test_fwd :
    let k := task .xe (2 ^ 56) 0 0 0 (image 1 0 1 0 32 1 16 0) (image 1 0 9 0 64 1 8 64)
    let s := with0 (run id) (fun c => { c with spad := Memory.writeN [] 0 ((List.replicate 16 (leBytes 2 0x3F80)).flatten) })
    ((s.writeRows k (s.fwdRows k)).core 0).spad.readN 64 4 = leBytes 4 0x00004180 := by decide +kernel

/-- A `copy` of one row of one sector from the last of the scratchpad to its first; a `gath` whose index is skipped, and one whose row
lies beyond the scratchpad. -/
def copy0 (opc : Nat) : Cmd :=
  { cmd .copy opc with w0 := BitVec.ofNat 64 (opc * 2 ^ 56 + 2 ^ 22), w1 := BitVec.ofNat 64 (windowBase + 0x3FFFE0),
                       w2 := BitVec.ofNat 64 (windowBase + 0x200000), tiles := [(0, image 0 0 8 0 32 1 1 0x1000)] }

theorem witness_TransformAndCopyResults_copy :
    let k := copy0 1
    let g := copy0 2
    let s := busy [k]
    let skip := with0 s (fun c => { c with spad := Memory.writeN [] 0x1000 (leBytes 4 0xFFFFFFFF) })
    let beyond := with0 s (fun c => { c with spad := Memory.writeN [] 0x1000 (leBytes 4 1) })
    k.op = some .copy ∧ k.rowb / 32 = 1 ∧ k.sect = 0 ∧ spadAt 0 (k.srcRow k.row) = some (0, 0x1FFFE0) ∧
      (match s.currentIndex k with
       | .inr i => i == 0
       | .inl _ => false) = true ∧ (s.core 0).spadSound 0x1FFFE0 32 = true ∧ spadAt 0 (k.rowTo k.row 0) = some (0, 0) ∧
      g.op = some .gath ∧ g.indexAt 0 = 0x1000 ∧ ((skip.core 0).spad.lane 0x1000).toNat = 0xFFFFFFFF ∧
      (skip.core 0).spadSound 0x1000 4 = true ∧ s.indexFault g 0 = none ∧ beyond.indexFault g 1 = some .perm ∧
      (copy0 4).op = some .wfill ∧ (packSectors ((s.core 0).spad.readN 0 32)) + 1 ≤ 8 ∧ s.slices.bad = [] := by decide +kernel

/-- R182, R183: a sector moves. -/
theorem test_copy :
    let s := with0 (busy [copy0 1]) (fun c => { c with spad := Memory.writeN [] 0x1FFFE0 [1, 2, 3] })
    let t := (s.writeRow (copy0 1) [(false, (s.core 0).spad.readN 0x1FFFE0 32)] 0).1
    (t.core 0).spad.readN 0 4 = [1, 2, 3, 0] := by decide +kernel

/-! ## Witnesses: more clauses -/

/-- RESULT, STATUS and the last ignored word of a command window; the ring table and a tile image; a page without a lease; a page marked D in
trap mode; a GO store by `stx`; what an atomic compares. -/
theorem witness_CStores_places :
    let T := fun a => (at1 a).cTarget ((at1 a).reg 1 + (0 : BitVec 20).signExtend 64).toNat 8 false true
    T (winWord 0xA00028) = .cmd .array 0x28 ∧ T (winWord 0xA00030) = .cmd .array 0x30 ∧ T (winWord 0xA00038) = .cmd .array 0x38 ∧
      T (winWord 0xA10FF8) = .rings 0xFF8 ∧ (winWord 0xA203F8).toNat % 8 = 0 ∧
      resolve 0 (winWord 0xA203F8).toNat 8 = .win (.tiles 0x3F8) ∧
      (run (regs12 page0 0)).cTarget page0.toNat 8 false true = .walk ∧ (run (regs12 page0 0)).ready .c h0 ∧
      (let e := { lease0 with d := true }
       let s := with0 (run (fun x => { regs12 page0 3 x with launch := { x.launch with raceMode := 2 } })) (fun c => { c with leases := [e] })
       s.cTarget page0.toNat 8 false true = .ext e (.dev 0x100000) ∧ (s.ctx 0).launch.raceMode = 2 ∧ s.ready .c h0) ∧
      (let s := armed (regs12 (winWord 0xA00000) 0x20)
       s.ready .c h0 ∧ s.cTarget (s.reg 1 + s.reg 2).toNat 8 false true = .cmd .array 0x20 ∧
         s.goFault (s.goCmd 0 .array) (s.reg 1 + s.reg 2).toNat = none) ∧
      ((0x100000001 : Word).setWidth 32 : Lane) = (1 : Word).setWidth 32 := by
  unfold State.ready; decide +kernel

/-- A ring of the program, empty and with a slot claimed; a ring that it does not have; the boundaries of the fields. -/
theorem witness_CStores_rings :
    let s := run (fun x => { x with sys := { x.sys with syncwin := 0x00010001 } })
    let t := s.modPart 0 (fun p => { p with rings := p.rings.put 0 { Ring.init with claim := 1 } })
    (s.ctx 0).launch.part = 0 ∧ (s.ctx 0).ringNo (0x3F / 64) = some 0 ∧ ((s.part 0).ring 0).claim = ((s.part 0).ring 0).head ∧
      ((t.part 0).ring 0).claim ≠ ((t.part 0).ring 0).head ∧ (s.ctx 0).ringNo (0x3FF / 64) = none ∧ 0x38 / 8 % 8 = 7 ∧
      bits (BitVec.ofNat 64 (64 * 2 ^ 20 + 32)) 20 7 ≤ 64 ∧ bits (BitVec.ofNat 64 (64 * 2 ^ 20 + 32)) 0 20 % 32 = 0 ∧
      64 < bits (BitVec.ofNat 64 (65 * 2 ^ 20)) 20 7 ∧ bits (BitVec.ofNat 64 16) 0 20 % 32 ≠ 0 := by decide +kernel

/-- Counters at the end of their loops, with counts 2 and 1, and one whose count is not known; a word of another stream, and an
`all.loop` word with SRC 0 and 1. -/
theorem witness_LoopsAndBranches_counters :
    let l : Loop := { count := 2, last := 10, iter := 1, active := true, back := 5, order := 3, unknown := false }
    let t := fun (ls : List Loop) => { ((run id).ctx 0).l with fetch := 10, loops := ls, queue := [], ended := false }
    let ends := fun (t : Stream) (n : Nat) => (t.loops.getD n Loop.init).active = true ∧ (t.loops.getD n Loop.init).last = 10
    (t [l]).ended = false ∧ (t [l]).queue.length < 32 ∧ ends (t [l]) 0 ∧ ¬ ends (t [{ l with active := false }]) 0 ∧
      ends (t [{ l with count := 1 }, { l with order := 2 }]) 0 ∧ ends (t [{ l with count := 1 }, { l with order := 2 }]) 1 ∧
      (match decode 0x2000000000000000 with
       | .ok (.lNop _) => true
       | _ => false) = true ∧
      decode 0xE00003000040000D = .ok (.allLoop 0 0 false 4 13) ∧ takes .l 0xE00003000040000D = true ∧
      decode 0xE00003000000000D = .ok (.allLoop 0 0 false 0 13) ∧
      (let e : QEntry := { addr := 5, word := 0, pre := [{ l with unknown := true }], loops := [{ l with unknown := true }] }
       let u := { t [{ l with unknown := true }] with queue := [e] }
       u.head = 5 ∧ (u.loops.getD 0 Loop.init).unknown = true ∧ (u.loops.getD 0 Loop.init).back = u.head ∧
         (u.loops.getD 0 Loop.init).iter < 2 ∧ 0 < e.loops.length) := by decide +kernel

/-- R137: the last pass of a loop of count 1 ends it, and the fetch goes on behind END; a pass before goes back behind the `all.loop`. -/
theorem test_loop_passes :
    let l : Loop := { count := 2, last := 10, iter := 0, active := true, back := 5, order := 3, unknown := false }
    let t := fun (ls : List Loop) => { ((run id).ctx 0).l with fetch := 10, loops := ls, queue := [], ended := false }
    ((t [l]).scanWord (fun _ => 0x2000000000000000) .l false 100).map (fun r => (r.1.fetch, (r.1.loops.getD 0 l).count, (r.1.loops.getD 0 l).iter)) =
        some (6, 1, 1) ∧
      ((t [{ l with count := 1, iter := 1 }]).scanWord (fun _ => 0x2000000000000000) .l false 100).map (fun r =>
        (r.1.fetch, (r.1.loops.getD 0 l).active, (r.1.loops.getD 0 l).iter)) = some (11, false, 2) := by decide +kernel

/-- A full broadcast queue and an empty one at an `all.br`. -/
theorem witness_LoopsAndBranches_holds :
    let e : BEntry := { val := 1, pushed := 99, l := false, v := false, s := false }
    let w := run (fun x => { x with bq := List.replicate 8 e })
    let v : State := { run id with cur := { core := 0, st := .l } }
    8 ≤ (w.ctx 0).bq.length ∧ (w.ctx 0).target .c (0 : BitVec 27).toInt = some 0 ∧ w.ready .c (allHdr 0) ∧ v.ready .l (allHdr 0) ∧
      bqHead (v.ctx 0).bq .l (v.cyc 0) = none ∧ (v.ctx 0).target .l (0 : BitVec 27).toInt = some 0 := by
  unfold State.ready; decide +kernel

/-- Lines of NaNs, of infinities and of scales of 0xFF. -/
theorem witness_VectorConvertAndCross_lines :
    let n := List.replicate 64 (0x7F800001 : Lane)
    let i := List.replicate 64 (0xFF800000 : Lane)
    n.length = 64 ∧ bits (laneAt n 63) 23 8 = 255 ∧ bits (laneAt n 63) 0 23 ≠ 0 ∧ i.length = 64 ∧ bits (laneAt i 31) 23 8 = 255 ∧
      bits (laneAt i 31) 0 23 = 0 ∧ bits (laneAt n (16 + 63 / 32)) 0 8 = 1 ∧
      bits (laneAt (List.replicate 64 (0xFF : Lane)) (16 + 63 / 32)) 0 8 = 255 ∧ bitAt (1 : Word) 0 = true := by decide +kernel

/-- A retained bank; CE off, waking and awake, with and without the bit of another core. -/
theorem witness_DomainSteps_states :
    let ce := fun (d : Dom) (r : List (Nat × Bool)) =>
      (run id).modCluster 0 (fun c => { c with doms := c.doms.put 20 d, ceRefs := r })
    let put := fun (d : Dom) => with0 (run id) (fun c => { c with doms := c.doms.put 8 d })
    ((put { Dom.init with st := .retained, cold := false }).dom 0 .spb 0).st = .retained ∧
      ((put { Dom.init with st := .retained, cold := false }).dom 0 .spb 0).cold = false ∧
      ((ce { Dom.init with st := .off } []).dom 0 .ce 0).st = .off ∧ ((ce { Dom.init with st := .awake } []).dom 0 .ce 0).st = .awake ∧
      ((ce { Dom.init with st := .waking } []).dom 0 .ce 0).st = .waking ∧
      ((ce Dom.init [(1, false)]).cluster (clusterOf 0)).ceRefs = [(1, false)] ∧ (1, false) ≠ (0, ((run id).core 0).bank) := by
  decide +kernel

/-- R39: the engine stays awake while another core's bit is set, and sleeps with the last. -/
theorem test_ce_refs :
    let ce := fun (r : List (Nat × Bool)) => (run id).modCluster 0 (fun c => { c with doms := c.doms.put 20 { Dom.init with st := .awake }, ceRefs := r })
    (((ce [(0, false), (1, false)]).sleepOne 0 .ce false 0).dom 0 .ce 0).st = .awake ∧
      (((ce [(0, false)]).sleepOne 0 .ce false 0).dom 0 .ce 0).st = .off := by decide +kernel

/-- Two due fills, of which each has its entry, and none. -/
theorem witness_ResultsLand_fills :
    let f : Fill := { due := 100, q := 0, id := 0, lanes := line0.lanes, bad := none }
    let s := run (fun x => { x with
      fills := [f, { f with id := 1 }, { f with due := 101, id := 2 }]
      lq := x.lq.set 0 [{ line0 with filled := false }, { line0 with id := 1 }, { line0 with id := 3 }] })
    f ∈ (s.ctx 0).fills ∧ f.due ≤ s.cyc 0 ∧ ((s.ctx 0).lqueue 0).map (·.id) = [0, 1, 3] ∧
      nextPend (s.ctx 0).pend (s.cyc 0) = none := by decide +kernel

/-- No stop of DBGHALT; one that is due on a core; one that is due later; the flits of the save area move. -/
theorem witness_StopsAndBanks_halts :
    let s := launched region0 id
    let u : State := { s.modPart 0 (fun p => { p with halts := [(0, 0, 0)] }) with now := 10 }
    s.haltDue 0 = false ∧ u.parts = [(0, u.part 0)] ∧ (u.part 0).halts = [(0, region0.order, 0)] ∧ 0 ≤ u.timeAt (clusterOf 0) ∧
      (s.modPart 0 (fun p => { p with halts := [(1, 0, 0)] })).haltDue 0 = false ∧
      (let v := shelved region0 (fun x => { x with mode := .stopped }) (fun p => { p with pctlOp := some (1, 0, false) })
       region0.left.all (fun n => (v.seal 0 0 0).mayShelve 0 0 n &&
         (v.seal 0 0 0).areaMoves n ((v.part 0).areaAt (region0.cores.idxOf n)) 0x18000 true) = true) := by decide +kernel

/-- A record whose logged cycle has come, outside handler mode; a stream that does not replay in it. -/
theorem witness_TimeRailsTraces_replay :
    let s := run (fun x => { x with launch := { x.launch with replay := some [(.c, 4, 0, 0)], zero := 10 } })
    let u := run (fun x => { x with frame := { x.frame with handler := true } })
    s.classed 0 = true ∧ (s.ctx 0).mode = .run ∧ (s.ctx 0).frame.pending = none ∧ (s.ctx 0).frame.handler = false ∧
      ((0x7000 : Nat) ≤ 0 ↔ (s.ctx 0).frame.handler = true) ∧ (s.ctx 0).replayNext .c = some (.c, 4, 0, 0) ∧
      4 ≤ (s.ctx 0).launchCycle (s.cyc 0) ∧ (u.ctx 0).frame.handler = true ∧ Strm.l ≠ .c := by decide +kernel

/-- A mailbox whose buffer lies in the carve-out, sound, flawed, and behind a link that trains. -/
theorem witness_HeartwoodSteps_buffer :
    let r := State.reset.outerRouter
    let s : State := { State.reset with
      slices := { State.reset.slices with capacity := 0x200000 }, mgmt := { State.reset.mgmt with
        busy := true, running := some (.sapwood, .quote), hwarg := 0x100000 } }
    let bad : State := { s with slices := { s.slices with bad := [(0x100000 / 32, 257)] } }
    let train := (upto 0 8).foldl (fun t p => t.modLink false r p (fun l => { l with training := true, up := false })) s
    s.opMoves .sapwood .quote = true ∧ s.opBuffer .sapwood .quote = some 0x100000 ∧ MbOp.reads .quote ≠ 0 ∧
      (bad.ownBar true 0x100000 (MbOp.reads .quote)).isSome = true ∧ bad.opBuffer .sapwood .quote = some 0x100000 ∧
      train.opMoves .sapwood .quote = false := by decide +kernel

/-- A full replay buffer of the new port; a completion whose flit may go, and one that is held. -/
theorem witness_FabricSteps_room :
    let t := State.reset.loseLink false 0 (bits (State.reset.route 0 1) 0 4)
    let e := routeFor t.linkLive 0 1
    let f : Flit := { Flit.make 0 1 0 [] false with dest := 2 }
    let full := t.modLink false 0 (bits e 0 4) (fun l => { l with unacked := List.replicate 128 f })
    let old := full.modLink false 0 (bits (State.reset.route 0 1) 0 4) (fun l => { l with unacked := [{ f with dest := 1 }] })
    let r := State.reset.outerRouter
    let train := (upto 0 8).foldl (fun t p => t.modLink false r p (fun l => { l with training := true, up := false })) State.reset
    bitAt e 4 = true ∧ (t.link 0 (bits e 0 4)).unacked.length + (t.sentTowards 0 (bits (t.route 0 1) 0 4) 1).length ≤ 128 ∧
      128 < (old.link 0 (bits e 0 4)).unacked.length + (old.sentTowards 0 (bits (old.route 0 1) 0 4) 1).length ∧
      State.reset.routeMoves r (clusterRouter 0) 16 0 = true ∧ train.routeMoves r (clusterRouter 0) 16 0 = false := by decide +kernel

/-- A save area of a pre-empted region with SCOPE[1] open and closed; a peer's port, and none left; the parts of an image. -/
theorem witness_OutsideAccesses_ports :
    let k : Saved := { region := 0, lcore := 0, ctx := (run id).ctx 0, packed := [], bad := [], badAcc := [], wbPacked := [], wbBad := [] }
    let s : State := shelved (kept0 .preempted) (fun x => { x with mode := .off }) (fun p => { p with saved := [k] })
    let u : State := { s with mgmt := { s.mgmt with scopes := 2 } }
    let lost := (List.range 24).foldl (fun t q => t.modLink true 0 q (fun l => { l with lost := true })) s
    s.hostLink ≠ none ∧ bitAt s.mgmt.scopes 1 = false ∧ bitAt u.mgmt.scopes 1 = true ∧ u.inSave (u.part 0) 0x100000 8 = true ∧
      u.outerMoves 4 0x100000 8 false = true ∧ u.outerReach 4 0x100000 = true ∧ u.physSound 0x100000 8 = true ∧
      s.peerEntry 0x100000 = some (4096 % 24) ∧ (s.peerLink (4096 % 24)).free (flitCount 8) = true ∧ 0x100000 + 8 ≤ s.slices.capacity ∧
      (s.peerCarry (4096 % 24) 0 8).physSound 0x100000 8 = true ∧ lost.peerEntry 0x100000 = none ∧
      (let v : State := { run id with mem := Memory.writeN [] 0x101000 (patch file0 6 [2]) }
       (v.ownBytes 0x101000 64).isSome = true ∧
         (v.ownBytes 0x101000 (fileEnd (v.devRead true 0x101000 96))).isSome = true) := by decide +kernel

/-- An entry of a page with D = 1 and of one without; a coupling between two clusters whose route may carry it, and one that is held. -/
theorem witness_SlicesWalksCouplings_routes :
    let q : SliceEntry := { pa := 0x100000, va := 0, bytes := List.replicate 32 1, packed := false, cpg := false, expiry := none, core := 0,
                            seq := 1, d := true, head := 0, intv := 0 }
    let s := run id
    let train := (upto 0 8).foldl (fun t p => t.modLink false (clusterRouter 0) p (fun l => { l with training := true, up := false })) s
    q.d = true ∧ q.pa % 32 = 0 ∧ q.bytes.length = 32 ∧ (s.devWrite q.cpg q.pa q.bytes).isSome = true ∧ clusterOf 3 ≠ clusterOf 4 ∧
      s.reachesRouter (clusterRouter (clusterOf 3)) (clusterRouter (clusterOf 4)) = true ∧
      s.routeMoves (clusterRouter (clusterOf 3)) (clusterRouter (clusterOf 4)) 256 0 = true ∧
      train.routeMoves (clusterRouter 0) (clusterRouter (clusterOf 4)) 256 0 = false := by decide +kernel

/-! ## Single steps -/

/-- What holds of the next state, if there is one. -/
def next? {α : Type} (o : Host.Outcome State Fault Refusal) (f : State → α) : Option α :=
  match o with
  | .next t => some (f t)
  | _ => none

/-- 04, the worked pair: `lih s10, s10, 0x3FF_FFFF` on 0xFFFF_FFFF_FFA0_0000 is 2^56 − 0x60_0000. -/
theorem test_lih : next? (exec (.cLih h0 2 1 0x3FFFFFF) (run (regs12 0xFFFFFFFFFFA00000 0))) (fun t => t.reg 2) =
    some 0x00FFFFFFFFA00000 := by decide +kernel

/-- R84: −2^63 ÷ −1 is −2^63, and A ÷ 0 is all ones. -/
theorem test_div : next? (exec (.cDiv h0 3 1 2) (run (regs12 0x8000000000000000 0xFFFFFFFFFFFFFFFF))) (fun t => t.reg 3) =
      some 0x8000000000000000 ∧
    next? (exec (.cDiv h0 3 1 2) (run (regs12 5 0))) (fun t => t.reg 3) = some 0xFFFFFFFFFFFFFFFF := by decide +kernel

/-- R83: the high product is signed, and `sra` fills with the sign; a source may be the destination. -/
theorem test_signs : next? (exec (.cMulh h0 1 1 2) (run (regs12 0xFFFFFFFFFFFFFFFF 2))) (fun t => t.reg 1) = some 0xFFFFFFFFFFFFFFFF ∧
    next? (exec (.cSra h0 1 1 2) (run (regs12 0x8000000000000000 67))) (fun t => t.reg 1) = some 0xF000000000000000 := by
  decide +kernel

/-- R95: a branch taken from word 10 by −10 fetches at 0 and has occupancy 3; one not taken has occupancy 1. -/
theorem test_branch : next? (exec (.cB h0 1 2 .ltu (-10)) (run (fun x => regs12 1 2 (x.withHead .c 10 0))))
      (fun t => ((t.ctx 0).c.fetch, (t.ctx 0).c.last)) = some (0, 102) ∧
    next? (exec (.cB h0 1 2 .geu (-10)) (run (fun x => regs12 1 2 (x.withHead .c 10 0)))) (fun t => (t.ctx 0).c.last) = some 100 := by
  decide +kernel

/-- R309: a misaligned store takes ALIGN (0x0F), whose handler stands at 0x7078, with the address in FVA. -/
theorem test_align : next? (exec (.cSt h0 3 1 0 .core .w 0) (run (regs12 2 0)))
    (fun t => ((t.ctx 0).c.fetch, (t.ctx 0).frame.fva, (t.ctx 0).frame.handler)) = some (0x7000 + 8 * 0x0F, 2, true) := by
  decide +kernel

/-- R152: 1 + 2 in FP32 is 3; the result is due 4 cycles after the issue. -/
theorem test_fadd : next? (exec (.vFadd h0 (.row 1) (.k 0) (.k 1) .f32 0 .rne) (run (fun x => { x with
      regs := { x.regs with k := (x.regs.k.set 0 0x3F800000).set 1 0x40000000 } })))
    (fun t => (t.ctx 0).pend.map (fun p => (p.due, match p.dst with
      | .line _ _ v => laneAt v 63
      | _ => 0))) = some [(104, 0x40400000)] := by decide +kernel

/-- R122: `pset` with bits [63:56] zero. -/
theorem test_pset : next? (exec (.lPset h0 1 (-1)) (run id)) (fun t => (t.ctx 0).regs.pget false 1) = some 0x00FFFFFFFFFFFFFF := by
  decide +kernel

/-- R100: the closed batch's number is 0, and the next is 1. -/
theorem test_cbatch : next? (exec (.cCbatch h0 1 .copy) (run id)) (fun t => (t.reg 1, (t.ctx 0).eng.openBatch)) = some (0, [0, 1, 0]) := by
  decide +kernel

/-- R14: WINDOW below 16 stores 16. -/
theorem test_window : next? (exec (.cMtsr h0 1 0) (run (regs12 3 0))) (fun t => (t.ctx 0).sys.window) = some 16 := by decide +kernel

/-- The first step after a word is placed runs it: `c.addi s1, s0, 5` (OP 0x20). -/
theorem test_first_step : next? (step (State.reset.withFetchWord 64 (0x20 * 2 ^ 40 + 1 * 2 ^ 35 + 5))) (fun t => t.reg 1) = some 5 := by
  decide +kernel

/-- Decode of a table word (one 64-bit word). -/
theorem test_table_word : decodeTableWord 64 (0x78 * 2 ^ 40 + 0x1234) = some (.cTrap h0 0x1234) := by decide +kernel

/-- R359: the check of the nine bytes "123456789". -/
theorem test_sector_check : sectorCheck ([0x31, 0x32, 0x33, 0x34, 0x35, 0x36, 0x37, 0x38, 0x39] : List Byte) = 0xD0DB := by decide +kernel

/-- R361: in HBM one wrong byte of 32 is corrected and two are not; in SRAM one wrong bit of 64 is, and two are not. -/
theorem test_sector_codes :
    let v := leBytes 32 0x123456789ABCDEF
    hbmFetch v (BitVec.ofNat 304 0xFF00) = .ok v true ∧ hbmFetch v (BitVec.ofNat 304 0x0101) = .uncorrectable ∧
      sramFetch v (BitVec.ofNat 304 (2 ^ 200)) = .ok v true ∧ sramFetch v (BitVec.ofNat 304 3) = .uncorrectable := by decide +kernel

/-- Below R311: the first word of the resident image's SWTRAP vector is `c.mfsr s24, 0x100`. -/
theorem test_resident_vector : (residentInstr 0x7088).map (fun i => decide (i = .cMfsr h0 24 0x100)) = some true := by decide +kernel
end Sys2Proof.Tests
end

section
/-! PROOF. The division instructions of C (R83, R84). -/

namespace Sys2Proof.Machine

/-- A C register instruction that is ready issues, and D takes its operation's value at the operands as they stand. -/
theorem State.alu_ready {s : State} {h : Hdr} (hr : s.ready .c h) (occ : Nat) (d : BitVec 5) (f : Ctx → Word) :
    s.alu h occ d f = s.cAfter h occ d (f (s.ctx s.me)) :=
  State.issue_ready hr _

/-! ## Division by zero -/

theorem opDiv_zero (A : Word) : opDiv A 0 = BitVec.allOnes 64 := rfl
theorem opDivu_zero (A : Word) : opDivu A 0 = BitVec.allOnes 64 := rfl
theorem opRem_zero (A : Word) : opRem A 0 = A := rfl
theorem opRemu_zero (A : Word) : opRemu A 0 = A := rfl

/-! ## Unsigned division -/

theorem toNat_opDivu (A : Word) {B : Word} (hB : B ≠ 0) : (opDivu A B).toNat = A.toNat / B.toNat := by
  rw [opDivu, if_neg hB, BitVec.toNat_udiv]

theorem toNat_opRemu (A : Word) {B : Word} (hB : B ≠ 0) : (opRemu A B).toNat = A.toNat % B.toNat := by
  rw [opRemu, if_neg hB, BitVec.toNat_umod]

/-! ## Signed division -/

/-- The least word, by its signed value. -/
theorem eq_intMin_iff_toInt (A : Word) : A = BitVec.intMin 64 ↔ A.toInt = -2 ^ 63 := by
  rw [← BitVec.toInt_inj, BitVec.toInt_intMin_of_pos (by decide)]

/-- The word of ones, by its signed value. -/
theorem eq_neg_one_iff_toInt (B : Word) : B = -1#64 ↔ B.toInt = -1 := by
  rw [← BitVec.toInt_inj, show (-1#64 : Word).toInt = -1 from rfl]

/-- The quotient is truncated toward zero where it is a signed word at all: only −2^63 ÷ −1 is none. -/
theorem toInt_opDiv (A : Word) {B : Word} (hB : B ≠ 0) (hov : ¬(A.toInt = -2 ^ 63 ∧ B.toInt = -1)) :
    (opDiv A B).toInt = A.toInt.tdiv B.toInt := by
  rw [← eq_intMin_iff_toInt, ← eq_neg_one_iff_toInt, not_and_or] at hov
  rw [opDiv, if_neg hB, BitVec.toInt_sdiv_of_ne_or_ne A B hov]

/-- The remainder goes with the truncated quotient: it has the sign of A. -/
theorem toInt_opRem (A : Word) {B : Word} (hB : B ≠ 0) : (opRem A B).toInt = A.toInt.tmod B.toInt := by
  rw [opRem, if_neg hB, BitVec.toInt_srem]

/-- −2^63 ÷ −1 gives −2^63 (R84). -/
theorem opDiv_overflow {A B : Word} (hA : A.toInt = -2 ^ 63) (hB : B.toInt = -1) : opDiv A B = A := by
  rw [(eq_intMin_iff_toInt A).2 hA, (eq_neg_one_iff_toInt B).2 hB]
  exact (if_neg (by decide)).trans BitVec.intMin_sdiv_neg_one

/-- A divisor of −1 leaves no remainder. -/
theorem opRem_neg_one (A : Word) {B : Word} (hB : B.toInt = -1) : opRem A B = 0 := by
  have hB0 : B ≠ 0 := by
    rintro rfl
    exact absurd hB (by decide)
  apply BitVec.eq_of_toInt_eq
  rw [toInt_opRem A hB0, hB]
  simp

/-- Settles O13: the four results are `opDiv`, `opDivu`, `opRem` and `opRemu` of A and B, after an issue of 24 cycles. -/
theorem cDivision : Obligations.CDivision := by
  unfold Obligations.CDivision
  intro s h d a b hr
  have issues (f : Ctx → Word) :
      Host.Outcome.next (ρ := Refusal) (φ := Fault) (s.alu h 24 d f) = .next (s.cAfter h 24 d (f (s.ctx s.me))) :=
    congrArg _ (State.alu_ready hr 24 d f)
  refine ⟨opDiv (s.reg a) (s.reg b), opDivu (s.reg a) (s.reg b), opRem (s.reg a) (s.reg b), opRemu (s.reg a) (s.reg b),
    issues _, issues _, issues _, issues _, ?_, ?_, ?_, ?_⟩
  · intro hz
    rw [hz]
    exact ⟨opDiv_zero _, opDivu_zero _, opRem_zero _, opRemu_zero _⟩
  · exact fun hB => ⟨toNat_opDivu _ hB, toNat_opRemu _ hB⟩
  · exact fun hA hB => ⟨opDiv_overflow hA hB, opRem_neg_one _ hB⟩
  · exact fun hB hov => ⟨toInt_opDiv _ hB hov, toInt_opRem _ hB⟩

end Sys2Proof.Machine
end

section
/-! PROOF. The array lease (R98, R99, R195), and the words of the C instructions that have no operand fields (R40, R65, R70). -/

namespace Sys2Proof

/-- A field that the decoder cuts out holds the bits of the word. -/
theorem toNat_fld (w : Word) (p n : Nat) : (fld w.toNat p n).toNat = Machine.bits w p n := BitVec.toNat_ofNat _ _

/-- A field that the decoder cuts out is zero when the bits of the word are. -/
theorem fld_eq_zero_iff (w : Word) (p n : Nat) : fld w.toNat p n = 0 ↔ Machine.bits w p n = 0 := by
  rw [← toNat_fld, BitVec.toNat_eq]
  simp

/-- A word with ENG 0 is a word of C (R40). -/
theorem decode_of_eng_zero {w : Word} (he : Machine.bits w 61 3 = 0) : decode w = decodeC w.toNat := by
  rw [decode, decodeNat, toNat_fld, he]
  rfl

/-- What the decoder makes of a C word whose body is reserved whole (R70): the instruction `i`, or detail 3. -/
def decodeEmptyBody (w : Nat) (i : Hdr → Instr) : Except Nat Instr := if fld w 0 40 ≠ 0 then .error 3 else .ok (i (Hdr.ofWord w))

/-- OP 0x61 is `ulease` (R65). -/
theorem decodeC_op_0x61 {w : Word} (ho : Machine.bits w 40 7 = 0x61) : decodeC w.toNat = decodeEmptyBody w.toNat .cUlease := by
  rw [decodeC, toNat_fld, ho]
  rfl

/-- The words of a C instruction whose body is reserved whole: those with a body of zeros; another body is ILLEGAL with detail 3. -/
theorem decode_emptyBody {w : Word} {i : Hdr → Instr} (hd : decode w = decodeEmptyBody w.toNat i) :
    (Machine.bits w 0 40 = 0 → ∃ h, decode w = .ok (i h)) ∧ (Machine.bits w 0 40 ≠ 0 → decode w = .error 3) := by
  rw [hd, decodeEmptyBody]
  exact ⟨fun hz => ⟨_, if_neg (not_not.2 ((fld_eq_zero_iff w 0 40).2 hz))⟩, fun hz => if_pos (mt (fld_eq_zero_iff w 0 40).1 hz)⟩

end Sys2Proof

namespace Sys2Proof.Machine

/-- The holder's lease ends (R99, R195). -/
theorem State.endLease_holder {s : State} {n : Nat} (hh : (s.cluster (clusterOf n)).holder = some n) :
    s.endLease n = s.modCluster (clusterOf n) (fun c => { c with holder := none, left := 0, freeFrom := c.cyc + 1 }) :=
  if_pos hh

/-- A core without the lease ends nothing (R99). -/
theorem State.endLease_other {s : State} {n : Nat} (hh : (s.cluster (clusterOf n)).holder ≠ some n) : s.endLease n = s :=
  if_neg hh

/-- The issue of an instruction changes no cluster. -/
@[simp] theorem State.cluster_done (s : State) (st : Strm) (h : Hdr) (o u : Nat) (f : Ctx → Ctx) (k : Nat) :
    (s.done st h o u f).cluster k = s.cluster k := rfl

/-- `lease` of the holder sets its count left, and D is the time of its grant (R98); its occupancy of 1 is the model's choice (log 89). -/
theorem exec_cLease_holder {s : State} {h : Hdr} (hr : s.ready .c h) (d : BitVec 5) (n1 : BitVec 6)
    (hh : (s.cluster (clusterOf s.me)).holder = some s.me) :
    exec (.cLease h d n1) s = .next ((s.cAfter h 1 d (BitVec.ofNat 64 (s.cluster (clusterOf s.me)).granted)).modCluster
      (clusterOf s.me) (fun c => { c with left := n1.toNat + 1 })) :=
  congrArg _ ((State.issue_ready hr _).trans (if_pos hh))

/-- `lease` of another core waits for the grant (R98). -/
theorem exec_cLease_other {s : State} {h : Hdr} (hr : s.ready .c h) (d : BitVec 5) (n1 : BitVec 6)
    (hh : (s.cluster (clusterOf s.me)).holder ≠ some s.me) :
    exec (.cLease h d n1) s =
      .next (s.waits .c h 8 (.lease (s.cyc s.me) (n1.toNat + 1) ((s.ctx s.me).regOf d))) :=
  congrArg _ ((State.issue_ready hr _).trans (if_neg hh))

/-- `ulease` issues, and ends the lease that its core holds (R99). -/
theorem exec_cUlease {s : State} {h : Hdr} (hr : s.ready .c h) :
    exec (.cUlease h) s = .next ((s.done .c h 1 8 id).endLease s.me) :=
  congrArg _ (State.issue_ready hr _)

/-- Settles O25, with the equations of `lease` and `ulease` and the decoder's case of OP 0x61. -/
theorem arrayLease : Obligations.ArrayLease := by
  unfold Obligations.ArrayLease
  refine ⟨fun s h d n1 hr => ?_, fun w he ho => ?_⟩
  · refine ⟨exec_cLease_holder hr d n1, exec_cLease_other hr d n1, _, exec_cUlease hr, fun hh => ?_, fun hh => ?_⟩
    · exact State.endLease_holder (by rwa [State.cluster_done])
    · exact State.endLease_other (by rwa [State.cluster_done])
  · exact decode_emptyBody ((decode_of_eng_zero he).trans (decodeC_op_0x61 ho))

end Sys2Proof.Machine
end

section
/-! PROOF. What the device stores for itself, such as a record of a trace (R330, R337), leaves every core as it is: it goes through
status bits, machine-check records, slices and links. -/

namespace Sys2Proof.Machine

/-- A fold of operations that leave the cores alone leaves them alone. -/
theorem State.cores_foldl {α : Type} {f : State → α → State} (hf : ∀ s a, (f s a).cores = s.cores) (l : List α) (s : State) :
    (l.foldl f s).cores = s.cores :=
  List.foldlRecOn (motive := fun t => t.cores = s.cores) l f rfl (fun t ht a _ => (hf t a).trans ht)

/-! ## Status bits and machine-check records (R362, R371) -/

@[simp] theorem State.message_cores (s : State) (vec : Nat) : (s.message vec).cores = s.cores := by
  unfold State.message
  split
  · split <;> rfl
  · rfl

@[simp] theorem State.raiseMgmt_cores (s : State) (i : Nat) : (s.raiseMgmt i).cores = s.cores := by
  unfold State.raiseMgmt
  split
  · rfl
  · dsimp only
    split <;> simp

@[simp] theorem State.raisePart_cores (s : State) (p i : Nat) : (s.raisePart p i).cores = s.cores := by
  unfold State.raisePart
  dsimp only
  split
  · rfl
  · split <;> simp

@[simp] theorem State.machineCheck_cores (s : State) (unit kind num part pa syn : Nat) :
    (s.machineCheck unit kind num part pa syn).cores = s.cores := by
  unfold State.machineCheck
  split
  · rfl
  · simp

/-! ## Stores to slices (R358 to R361, R366) -/

@[simp] theorem State.countCorrected_cores (s : State) (k : Nat) : (s.countCorrected k).cores = s.cores := by
  unfold State.countCorrected
  extract_lets g unit day old n _ t
  have ht : t.cores = s.cores := State.machineCheck_cores _ _ _ _ _ _ _
  split
  · exact (State.machineCheck_cores _ _ _ _ _ _ _).trans ht
  · exact ht

@[simp] theorem State.fetchedOf_cores (s : State) (ks : List Nat) : (s.fetchedOf ks).cores = s.cores := by
  unfold State.fetchedOf
  split
  · rfl
  · refine State.cores_foldl (fun t k => ?_) ks s
    split <;> simp

@[simp] theorem State.freshChecks_cores (s : State) (a n : Nat) : (s.freshChecks a n).cores = s.cores := by
  unfold State.freshChecks
  split <;> rfl

theorem State.writeMarked_cores {s t : State} {a : Nat} {v : List Byte} (h : s.writeMarked a v = some t) : t.cores = s.cores := by
  unfold State.writeMarked at h
  dsimp only at h
  split at h
  · split at h
    · cases h
    · cases h; rfl
  · cases h; rfl

theorem State.devWrite_cores {s t : State} {cpg : Bool} {a : Nat} {v : List Byte} (h : s.devWrite cpg a v = some t) :
    t.cores = s.cores := by
  unfold State.devWrite at h
  split at h
  · cases h
  · dsimp only at h
    split at h
    · simpa using State.writeMarked_cores h
    · cases h; simp

/-- One slot of a store, whether the slice takes it, is not reached, is dead or refuses it. -/
theorem State.storeSlots_cores (unit part : Nat) (reach : Nat → Bool) (cpg : Bool) (k : Nat) (s : State) (a : Nat) (v : List Byte) :
    (s.storeSlots unit part reach cpg k a v).cores = s.cores := by
  induction k generalizing s a v with
  | zero => rfl
  | succ k ih =>
    unfold State.storeSlots
    dsimp only
    split
    · rfl
    · rw [ih]
      split
      · rfl
      · split
        · simp
        · cases hw : s.devWrite cpg a (v.take (min v.length (256 - a % 256))) with
          | some t => exact State.devWrite_cores hw
          | none => simp

/-! ## Links (R351 to R353) -/

@[simp] theorem State.carry_cores (s : State) (r pa out back : Nat) : (s.carry r pa out back).cores = s.cores := by
  have passes (n : Nat) (l : List (Nat × Nat)) (t : State) :
      (l.foldl (fun t p => t.passLink p (flitCount n)) t).cores = t.cores :=
    State.cores_foldl (f := fun t p => t.passLink p (flitCount n)) (fun _ _ => rfl) l t
  exact (passes _ _ _).trans (passes _ _ _)

@[simp] theorem State.linesCarry_cores (s : State) (r a n : Nat) (wr : Bool) : (s.linesCarry r a n wr).cores = s.cores :=
  State.cores_foldl (fun _ _ => State.carry_cores _ _ _ _ _) _ s

@[simp] theorem State.store_cores (s : State) (part a : Nat) (v : List Byte) : (s.store part a v).cores = s.cores := by
  rw [State.store, State.storeFrom, State.storeSlots_cores, State.linesCarry_cores]

/-! ## Records of a trace (R330, R331, R337) -/

@[simp] theorem State.commitBytes_cores (s : State) (p : Nat) (v : List Byte) : (s.commitBytes p v).cores = s.cores := by
  simp [State.commitBytes]

@[simp] theorem State.syncBlock_cores (s : State) (p : Nat) (ovw : Bool) : (s.syncBlock p ovw).cores = s.cores := by
  unfold State.syncBlock
  dsimp only
  split <;> simp

theorem State.fitRecord_cores {s t : State} {p : Nat} {v : List Byte} {ovw : Bool} (h : s.fitRecord p v ovw = some t) :
    t.cores = s.cores := by
  unfold State.fitRecord at h
  extract_lets q room pad s1 at h
  split at h
  · cases h
  · split at h
    · cases h
    · injection h with h
      rw [← h, State.commitBytes_cores, State.syncBlock_cores]
      show (if pad = 0 then s else s.commitBytes p (padRecord s.time pad)).cores = s.cores
      split <;> simp

@[simp] theorem State.dropRecord_cores (s : State) (p : Nat) : (s.dropRecord p).cores = s.cores := by
  simp [State.dropRecord]

@[simp] theorem State.record_cores (s : State) (p : Nat) (v : List Byte) (drawn ovw : Bool) :
    (s.record p v drawn ovw).cores = s.cores := by
  unfold State.record
  dsimp only
  split
  · simp
  · split
    next t h =>
      obtain ⟨u, hu, ht⟩ := Option.bind_eq_some_iff.1 h
      rw [State.fitRecord_cores ht]
      split at hu
      · cases hu; simp
      · obtain ⟨w, hw, rfl⟩ := Option.map_eq_some_iff.1 hu
        simpa using State.fitRecord_cores hw
    · simp

@[simp] theorem State.logReplay_cores (s : State) (n : Nat) (st : Strm) : (s.logReplay n st).cores = s.cores := by
  simp [State.logReplay]

end Sys2Proof.Machine
end

section
/-! PROOF. The return from handler mode: `eret` (R116, R310). -/

namespace Sys2Proof

/-- OP 0x79 is `eret` (R65). -/
theorem decodeC_op_0x79 {w : Word} (ho : Machine.bits w 40 7 = 0x79) : decodeC w.toNat = decodeEmptyBody w.toNat .cEret := by
  rw [decodeC, toNat_fld, ho]
  rfl

end Sys2Proof

namespace Sys2Proof.Machine

/-! ## Leaving handler mode (R310) -/

/-- A stream resumes at the head it is given, whether it stands there already or fetches from there. -/
@[simp] theorem Stream.head_resume (t : Stream) (head delta q : Nat) (skip : Bool) : (t.resume head delta q skip).head = head := by
  unfold Stream.resume
  dsimp only
  split
  · assumption
  · rfl

@[simp] theorem Ctx.leave_mode (x : Ctx) (e : Nat) : (x.leave e).mode = .run := rfl
@[simp] theorem Ctx.leave_regs (x : Ctx) (e : Nat) : (x.leave e).regs = x.regs := rfl
@[simp] theorem Ctx.leave_handler (x : Ctx) (e : Nat) : (x.leave e).frame.handler = false := rfl

/-- C's class and sample words, which `eret` sets, are no part of its head. -/
theorem Ctx.leave_c_head (x : Ctx) (e : Nat) : (x.leave e).c.head = (x.frame.heads.getD 0 0).toNat :=
  Stream.head_resume x.frame.cstream _ _ _ _

theorem Ctx.leave_l_head (x : Ctx) (e : Nat) : (x.leave e).l.head = (x.frame.heads.getD 1 0).toNat := Stream.head_resume x.l _ _ _ _
theorem Ctx.leave_v_head (x : Ctx) (e : Nat) : (x.leave e).v.head = (x.frame.heads.getD 2 0).toNat := Stream.head_resume x.v _ _ _ _
theorem Ctx.leave_s_head (x : Ctx) (e : Nat) : (x.leave e).s.head = (x.frame.heads.getD 3 0).toNat := Stream.head_resume x.s _ _ _ _

/-! ## What an update of a context and a refill leave alone -/

theorem State.sameBytes.refl (s : State) : s.sameBytes s := ⟨fun _ => rfl, fun _ _ => ⟨rfl, rfl⟩, fun _ _ => rfl⟩

theorem State.sameBytes.trans {s t u : State} (h : s.sameBytes t) (k : t.sameBytes u) : s.sameBytes u := by
  obtain ⟨hm, hc, hw⟩ := h
  obtain ⟨km, kc, kw⟩ := k
  exact ⟨fun a => (km a).trans (hm a), fun n a => ⟨(kc n a).1.trans (hc n a).1, (kc n a).2.trans (hc n a).2⟩,
    fun cl a => (kw cl a).trans (hw cl a)⟩

/-- A context holds no memory. -/
theorem State.sameBytes_modCtx (s : State) (n : Nat) (f : Ctx → Ctx) : s.sameBytes (s.modCtx n f) := by
  refine ⟨fun _ => rfl, fun k a => ?_, fun _ _ => rfl⟩
  by_cases hk : k = n
  · subst hk
    simp
  · simp [State.core_modCtx_other s hk]

/-- Of core `n`, nothing but its streams has changed among mode, frame and registers, and every byte of memory reads as before. -/
def State.sameButStreams (s t : State) (n : Nat) : Prop :=
  (t.ctx n).mode = (s.ctx n).mode ∧ (t.ctx n).frame = (s.ctx n).frame ∧ (t.ctx n).regs = (s.ctx n).regs ∧ s.sameBytes t

theorem State.sameButStreams.refl (s : State) (n : Nat) : s.sameButStreams s n := ⟨rfl, rfl, rfl, State.sameBytes.refl s⟩

theorem State.sameButStreams.trans {s t u : State} {n : Nat} (h : s.sameButStreams t n) (k : t.sameButStreams u n) :
    s.sameButStreams u n := by
  obtain ⟨hm, hf, hr, hb⟩ := h
  obtain ⟨km, kf, kr, kb⟩ := k
  exact ⟨km.trans hm, kf.trans hf, kr.trans hr, hb.trans kb⟩

/-- One stream's share of a refill: `skip` where handler mode keeps the stream from fetching. -/
theorem State.modStrm_sameButStreams (s : State) (n : Nat) (st : Strm) (skip : Ctx → Bool) (f : Ctx → Stream → Stream) :
    s.sameButStreams (s.modCtx n (fun x => if skip x then x else x.modStrm st (f x))) n := by
  unfold State.sameButStreams
  rw [State.ctx_modCtx_same]
  split
  · exact ⟨rfl, rfl, rfl, s.sameBytes_modCtx n _⟩
  · exact ⟨Ctx.modStrm_mode _ _ _, Ctx.modStrm_frame _ _ _, Ctx.modStrm_regs _ _ _, s.sameBytes_modCtx n _⟩

/-- A refill fetches into the queues, and changes streams only. -/
theorem State.refill_sameButStreams (s : State) (n : Nat) : s.sameButStreams (s.refill n) n :=
  List.foldlRecOn (motive := fun t => s.sameButStreams t n) _ _ (State.sameButStreams.refl s n)
    (fun t ht st _ => ht.trans (t.modStrm_sameButStreams n st (fun x => x.frame.handler && st != .c)
      (fun x k => k.refill (t.textWord n) st x.frame.handler (x.fetchLimit st))))

/-! ## `eret` -/

/-- The state in which `eret` refills the queues (R310, R337): the replay record of C's head is written if one is due, and the core has
left handler mode. -/
def State.returned (s : State) (h : Hdr) : State :=
  (if (s.ctx s.me).c.leaves && bitAt (s.ctx s.me).launch.trc 61 then s.logReplay s.me .c else s).modCtx s.me
    (fun x => (x.pay .c h 8).leave (s.cyc s.me))

/-- `eret` returns and refills in handler mode, and takes PERM outside it (R116). -/
theorem exec_cEret (s : State) (h : Hdr) :
    exec (.cEret h) s = .next (if (s.ctx s.me).frame.handler then s.issue .c h .go ((s.returned h).refill s.me)
      else s.issue .c h (.trap { cause := .perm }) s) := rfl

/-- In handler mode `eret` returns and refills. -/
theorem exec_cEret_handler {s : State} {h : Hdr} (hr : s.ready .c h) (hh : (s.ctx s.me).frame.handler = true) :
    exec (.cEret h) s = .next ((s.returned h).refill s.me) := by
  rw [exec_cEret, if_pos hh, State.issue_ready hr]

/-- Outside handler mode `eret` takes PERM (R116). -/
theorem exec_cEret_perm {s : State} {h : Hdr} (hr : s.ready .c h) (hh : (s.ctx s.me).frame.handler = false) :
    exec (.cEret h) s = .next (s.raise s.me .c { cause := .perm }) := by
  obtain ⟨ht, hf, -, -⟩ := hr
  rw [exec_cEret, if_neg (by simp [hh]), State.issue_trap ht hf]

/-- The context that has returned, also where a replay record was written: that changes no core. -/
theorem State.ctx_returned (s : State) (h : Hdr) :
    (s.returned h).ctx s.me = ((s.ctx s.me).pay .c h 8).leave (s.cyc s.me) := by
  rw [State.returned, State.ctx_modCtx_same]
  split
  · simp [State.ctx, State.core]
  · rfl

/-- Where no replay record is due, the return changes no byte of memory. -/
theorem State.sameBytes_returned {s : State} (h : Hdr)
    (hlog : (s.ctx s.me).c.leaves = false ∨ bitAt (s.ctx s.me).launch.trc 61 = false) : s.sameBytes (s.returned h) := by
  rw [State.returned, if_neg (by rw [Bool.and_eq_true]; rcases hlog with e | e <;> simp [e])]
  exact s.sameBytes_modCtx _ _

/-- Settles O30, with `State.returned` as the state before the refill, which changes streams only. -/
theorem eretInstruction : Obligations.EretInstruction := by
  unfold Obligations.EretInstruction
  refine ⟨fun s h hr => ⟨fun hh => ?_, exec_cEret_perm hr⟩, fun w he ho => ?_⟩
  · refine ⟨s.returned h, exec_cEret_handler hr hh, ?_⟩
    obtain ⟨hmode, hframe, hregs, hbytes⟩ := (s.returned h).refill_sameButStreams s.me
    rw [hmode, hframe, hregs, State.ctx_returned]
    exact ⟨Ctx.leave_handler _ _, Ctx.leave_mode _ _, Ctx.leave_c_head _ _, Ctx.leave_l_head _ _, Ctx.leave_v_head _ _,
      Ctx.leave_s_head _ _, fun hlog => ⟨Ctx.leave_handler _ _, Ctx.leave_mode _ _, Ctx.leave_regs _ _,
        (State.sameBytes_returned h hlog).trans hbytes⟩⟩
  · exact decode_emptyBody ((decode_of_eng_zero he).trans (decodeC_op_0x79 ho))

end Sys2Proof.Machine
end

section
/-! PROOF. Decode and encode agree (R40 to R52, R65 to R70). A layout of fields pins down the bits of a word, from the top down; so the
word of an instruction is known by its fields, and the decoder's checks are the instruction's own. -/

namespace Sys2Proof

/-! ## The fields that stand for a value -/

/-- What a field decodes to, where each pattern that decodes is the one that encodes its value. -/
theorem eq_bits_iff {n : Nat} {α : Type} {ofBits : BitVec n → Option α} {bits : α → BitVec n}
    (back : ∀ b, (ofBits b).all (fun v => bits v = b) = true) (forth : ∀ v, ofBits (bits v) = some v) {b : BitVec n} {v : α} :
    b = bits v ↔ ofBits b = some v := by
  refine ⟨fun h => h ▸ forth v, fun h => ?_⟩
  have hb := back b
  rw [h] at hb
  simpa using (of_decide_eq_true hb).symm

theorem Scp.eq_bits_iff {b : BitVec 3} {v : Scp} : b = v.bits ↔ Scp.ofBits b = some v :=
  Sys2Proof.eq_bits_iff (by decide) (by rintro ⟨⟩ <;> rfl)
theorem FTy.eq_bits_iff {b : BitVec 3} {v : FTy} : b = v.bits ↔ FTy.ofBits b = some v :=
  Sys2Proof.eq_bits_iff (by decide) (by rintro ⟨⟩ <;> rfl)
theorem WTy.eq_bits_iff {b : BitVec 3} {v : WTy} : b = v.bits ↔ WTy.ofBits b = some v :=
  Sys2Proof.eq_bits_iff (by decide) (by rintro ⟨⟩ <;> rfl)
theorem RTy.eq_bits_iff {b : BitVec 3} {v : RTy} : b = v.bits ↔ RTy.ofBits b = some v :=
  Sys2Proof.eq_bits_iff (by decide) (by rintro ⟨⟩ <;> rfl)
theorem Cnd.eq_bits_iff {b : BitVec 3} {v : Cnd} : b = v.bits ↔ Cnd.ofBits b = some v :=
  Sys2Proof.eq_bits_iff (by decide) (by rintro ⟨⟩ <;> rfl)
theorem FCnd.eq_bits_iff {b : BitVec 4} {v : FCnd} : b = v.bits ↔ FCnd.ofBits b = some v :=
  Sys2Proof.eq_bits_iff (by decide) (by rintro ⟨⟩ <;> rfl)
theorem AmoOp.eq_bits_iff {b : BitVec 4} {v : AmoOp} : b = v.bits ↔ AmoOp.ofBits b = some v :=
  Sys2Proof.eq_bits_iff (by decide) (by rintro ⟨⟩ <;> rfl)
theorem LaneOp.eq_bits_iff {b : BitVec 3} {v : LaneOp} : b = v.bits ↔ LaneOp.ofBits b = some v :=
  Sys2Proof.eq_bits_iff (by decide) (by rintro ⟨⟩ <;> rfl)
theorem Eng.eq_bits_iff {b : BitVec 6} {v : Eng} : b = v.bits ↔ Eng.ofBits b = some v :=
  Sys2Proof.eq_bits_iff (by decide) (by rintro ⟨⟩ <;> rfl)
theorem DomTy.eq_bits_iff {b : BitVec 4} {v : DomTy} : b = v.bits ↔ DomTy.ofBits b = some v :=
  Sys2Proof.eq_bits_iff (by decide) (by rintro ⟨⟩ <;> rfl)
theorem Md.eq_bits_iff {b : BitVec 2} {v : Md} : b = v.bits ↔ Md.ofBits b = some v :=
  Sys2Proof.eq_bits_iff (by decide) (by rintro ⟨⟩ <;> rfl)
theorem eq_w32Bits_iff {b : BitVec 2} {v : Bool} : b = w32Bits v ↔ w32OfBits b = some v :=
  Sys2Proof.eq_bits_iff (by decide) (by rintro ⟨⟩ <;> rfl)
theorem eq_retBits_iff {b : BitVec 2} {v : Bool} : b = retBits v ↔ retOfBits b = some v :=
  Sys2Proof.eq_bits_iff (by decide) (by rintro ⟨⟩ <;> rfl)
theorem eq_pkBits_iff {b : BitVec 3} {v : Bool} : b = pkBits v ↔ pkOfBits b = some v :=
  Sys2Proof.eq_bits_iff (by decide) (by rintro ⟨⟩ <;> rfl)
theorem ICnd.eq_bits_3_iff {b : BitVec 3} {v : ICnd} : b = v.bits 3 ↔ ICnd.ofBits b.toNat = some v :=
  by cases v <;> revert b <;> decide
theorem ICnd.eq_bits_4_iff {b : BitVec 4} {v : ICnd} : b = v.bits 4 ↔ ICnd.ofBits b.toNat = some v :=
  by cases v <;> revert b <;> decide
theorem eq_setWidth_iff_idxBelow16 {b : BitVec 6} {v : BitVec 4} : b = v.setWidth 6 ↔ idxBelow16 b = some v :=
  Sys2Proof.eq_bits_iff (by decide) (by decide)
theorem eq_setWidth_iff_idxBelow32 {b : BitVec 6} {v : BitVec 5} : b = v.setWidth 6 ↔ idxBelow32 b = some v :=
  Sys2Proof.eq_bits_iff (by decide) (by decide)
theorem eq_queueBits_iff {b : BitVec 8} {v : BitVec 3} : b = queueBits v ↔ queueOfBits b = some v :=
  Sys2Proof.eq_bits_iff (by decide) (by decide)
theorem eq_kBits_iff {b : BitVec 8} {v : BitVec 4} : b = kBits v ↔ kOfBits b = some v :=
  Sys2Proof.eq_bits_iff (by decide) (by decide)

theorem Cv.eq_bits_iff {b : BitVec 3} {v : Cv} : b = v.bits ↔ Cv.ofBits true b = some v :=
  Sys2Proof.eq_bits_iff (by decide) (by rintro ⟨⟩ <;> rfl)

/-- CV 4 is no value where the instruction does not pack (R124). -/
theorem Cv.ofBits_false_iff {b : BitVec 3} {v : Cv} : Cv.ofBits false b = some v ↔ Cv.ofBits true b = some v ∧ v ≠ .pk := by
  cases v <;> revert b <;> decide

/-! ## The designators (R23, R57) -/

theorem Line.eq_bits_iff {b : BitVec 8} {v : Line} : b = v.bits ↔ Line.ofBits b = some v := by
  refine Sys2Proof.eq_bits_iff (by decide) fun v => ?_
  cases v with
  | row i => revert i; decide
  | col i => revert i; decide
  | dia i => revert i; decide

theorem Src.eq_bits_iff {b : BitVec 8} {v : Src} : b = v.bits ↔ Src.ofBits b = some v := by
  refine Sys2Proof.eq_bits_iff (by decide) fun v => ?_
  cases v with
  | row i => revert i; decide
  | col i => revert i; decide
  | dia i => revert i; decide
  | lq n => revert n; decide
  | pk n => revert n; decide
  | k n => revert n; decide
  | lane => decide
  | zero => decide

theorem Dst.eq_bits_iff {b : BitVec 8} {v : Dst} : b = v.bits ↔ Dst.ofBits b = some v := by
  refine Sys2Proof.eq_bits_iff (by decide) fun v => ?_
  cases v with
  | row i => revert i; decide
  | col i => revert i; decide
  | dia i => revert i; decide
  | sq n => revert n; decide
  | void => decide

/-- No queue is a grid line. -/
theorem Line.ofBits_queueBits (n : BitVec 3) : Line.ofBits (queueBits n) = none := by
  revert n; decide

theorem LqLine.eq_bits_iff {b : BitVec 8} {v : LqLine} : b = v.bits ↔ LqLine.ofBits b = some v := by
  refine Sys2Proof.eq_bits_iff (by decide) fun v => ?_
  cases v with
  | lq n => simp [LqLine.ofBits, LqLine.bits, Line.ofBits_queueBits, eq_queueBits_iff.1 rfl]
  | line x => simp [LqLine.ofBits, LqLine.bits, Line.eq_bits_iff.1 rfl]

theorem SqLine.eq_bits_iff {b : BitVec 8} {v : SqLine} : b = v.bits ↔ SqLine.ofBits b = some v := by
  refine Sys2Proof.eq_bits_iff (by decide) fun v => ?_
  cases v with
  | sq n => simp [SqLine.ofBits, SqLine.bits, Line.ofBits_queueBits, eq_queueBits_iff.1 rfl]
  | line x => simp [SqLine.ofBits, SqLine.bits, Line.eq_bits_iff.1 rfl]

/-! ## The fields of which every pattern is a value -/

theorem Sz.bits_ofBits (b : BitVec 2) : (Sz.ofBits b).bits = b := by revert b; decide
theorem Sz.ofBits_bits (v : Sz) : Sz.ofBits v.bits = v := by cases v <;> rfl
theorem Rnd.bits_ofBits (b : BitVec 2) : (Rnd.ofBits b).bits = b := by revert b; decide
theorem Rnd.ofBits_bits (v : Rnd) : Rnd.ofBits v.bits = v := by cases v <;> rfl
theorem LaneTy.bits_ofBits (b : BitVec 3) : (LaneTy.ofBits b).bits = b := by revert b; decide
theorem LaneTy.ofBits_bits (v : LaneTy) : LaneTy.ofBits v.bits = v := by cases v <;> rfl

/-- The value of a field that encodes it. -/
theorem Sz.eq_bits_iff {b : BitVec 2} {v : Sz} : b = v.bits ↔ Sz.ofBits b = v :=
  ⟨fun h => h ▸ Sz.ofBits_bits v, fun h => h ▸ (Sz.bits_ofBits b).symm⟩
theorem Rnd.eq_bits_iff {b : BitVec 2} {v : Rnd} : b = v.bits ↔ Rnd.ofBits b = v :=
  ⟨fun h => h ▸ Rnd.ofBits_bits v, fun h => h ▸ (Rnd.bits_ofBits b).symm⟩
theorem LaneTy.eq_bits_iff {b : BitVec 3} {v : LaneTy} : b = v.bits ↔ LaneTy.ofBits b = v :=
  ⟨fun h => h ▸ LaneTy.ofBits_bits v, fun h => h ▸ (LaneTy.bits_ofBits b).symm⟩

theorem bit_eq_iff {v : BitVec 1} {b : Bool} : v = bit b ↔ decide (v = 1) = b := by
  revert v b; decide


/-! ## Layouts -/

/-- The bits of `w` from bit `p` up are the layout `n`. -/
def Lays (w p n : Nat) : Prop := w / 2 ^ p = n

/-- A layout that ends in a field: the layout above it, and the field. -/
theorem lays_cat {w q hi k : Nat} {v : BitVec k} : Lays w q (cat hi k v) ↔ Lays w (q + k) hi ∧ fld w q k = v := by
  have hv := v.isLt
  unfold Lays cat fld
  rw [Nat.pow_add, ← Nat.div_div_eq_div_mul]
  constructor
  · intro h
    rw [h]
    refine ⟨?_, ?_⟩
    · rw [Nat.mul_comm, Nat.mul_add_div (by positivity), Nat.div_eq_of_lt hv, Nat.add_zero]
    · apply BitVec.eq_of_toNat_eq
      rw [BitVec.toNat_ofNat, Nat.mul_comm, Nat.mul_add_mod, Nat.mod_eq_of_lt hv]
  · rintro ⟨h1, h2⟩
    rw [← h1, ← h2, BitVec.toNat_ofNat]
    exact (Nat.div_add_mod' _ _).symm

/-- The empty layout: no bit is left. -/
theorem lays_zero {w q : Nat} : Lays w q 0 ↔ w < 2 ^ q := by
  unfold Lays
  rw [Nat.div_eq_zero_iff]
  have : 0 < 2 ^ q := by positivity
  omega

/-- The top 24 bits of a single-stream word (R40). -/
theorem lays_hdr {w : Nat} {h : Hdr} {e : BitVec 3} {op : BitVec 7} : Lays w 40 (h.bits e op) ↔
    w < 2 ^ 64 ∧ fld w 61 3 = e ∧ (fld w 40 7).toNat = op.toNat ∧ Hdr.ofWord w = h := by
  obtain ⟨idle, wp, wn, pp, pn⟩ := h
  simp only [Hdr.bits, lays_cat, lays_zero, Hdr.ofWord, Hdr.mk.injEq, bit_eq_iff, BitVec.toNat_inj]
  tauto

/-- The top 24 bits of a word tagged ALL (R42). -/
theorem lays_all {w : Nat} {idle : BitVec 10} {op : BitVec 7} : Lays w 40 (allBits idle op) ↔
    w < 2 ^ 64 ∧ fld w 61 3 = 7 ∧ (fld w 40 7).toNat = op.toNat ∧ fld w 51 10 = idle ∧ fld w 47 4 = 0 := by
  simp only [allBits, lays_cat, lays_zero, BitVec.toNat_inj]
  tauto

/-- The word `w` is the word of the well-formed instruction `i`. -/
def WordOf (w : Nat) (i : Instr) : Prop := i.wf = true ∧ ∃ n, encodeNat i = some n ∧ Lays w 0 n

/-! ## What a decoder accepts -/

/-- Of the decoder's answer for `w`: an instruction has the word `w`. -/
def Sound (w : Nat) (r : Except Nat Instr) : Prop := ∀ i, r = .ok i → WordOf w i

theorem sound_throw {w d : Nat} : Sound w (throw d) := fun _ h => nomatch h

theorem sound_pure {w : Nat} {i : Instr} (h : WordOf w i) : Sound w (pure i) := fun j e => by cases e; exact h


/-! ## The checks of the decoder are the checks of the instruction -/

/-- Two neighbouring fields are zero when the field of both is. -/
theorem fld_add_eq_zero_iff {w p m n : Nat} : fld w p (m + n) = 0 ↔ fld w p m = 0 ∧ fld w (p + m) n = 0 := by
  simp only [fld, ← BitVec.toNat_inj, BitVec.toNat_ofNat, BitVec.ofNat_eq_ofNat, Nat.zero_mod]
  rw [Nat.pow_add, Nat.pow_add, ← Nat.div_div_eq_div_mul, Nat.mod_mul, Nat.add_eq_zero_iff, Nat.mul_eq_zero]
  simp

/-- SX is reserved where SZ is 0 (R55). -/
theorem sxOk_iff {z : BitVec 2} {x : BitVec 1} : sxOk (Sz.ofBits z) (decide (x = 1)) = true ↔ ¬(z = 0 ∧ x ≠ 0) := by
  revert z x; decide

/-- A and B are reserved where CND is 6 (R56). -/
theorem cndOk_iff {w : Nat} {c : Cnd} (hc : Cnd.ofBits (fld w 27 3) = some c) :
    cndOk c (fld w 35 5) (fld w 30 5) = true ↔ ¬(fld w 27 3 = 6 ∧ fld w 30 10 ≠ 0) := by
  rw [Cnd.eq_bits_iff.2 hc, show (fld w 30 10 ≠ 0) ↔ ¬(fld w 30 5 = 0 ∧ fld w 35 5 = 0) from not_congr <| fld_add_eq_zero_iff (m := 5) (n := 5)]
  cases c <;> simp [cndOk, Cnd.bits, and_comm]

/-- The MASK bits above the last index are reserved (R45). -/
theorem maskOk_iff {w : Nat} {t : DomTy} (ht : DomTy.ofBits (fld w 36 4) = some t) :
    t.maskOk (fld w 0 32) = true ↔ ¬maskHigh w = true := by
  simp [maskHigh, ht]

/-- The TY that the CV accepts (R124). -/
theorem tyOk_iff {w : Nat} {c : Cv} (hc : Cv.ofBits true (fld w 22 3) = some c) :
    c.tyOk (LaneTy.ofBits (fld w 25 3)) = true ↔ ¬badTyCv w = true := by
  simp [badTyCv, hc]

/-- Of an instruction that does not pack, CV 4 is no value (R124). -/
theorem tyOk_of_not_packs_iff {w : Nat} {c : Cv} (hc : Cv.ofBits false (fld w 22 3) = some c) :
    (c != .pk && c.tyOk (LaneTy.ofBits (fld w 25 3))) = true ↔ ¬badTyCv w = true := by
  obtain ⟨ht, hp⟩ := Cv.ofBits_false_iff.1 hc
  simp [← tyOk_iff ht, hp]

/-- The CV of a well-formed instruction that does not pack. -/
theorem ofBits_of_not_packs {b : BitVec 3} {c : Cv} {x : Bool} (hc : Cv.ofBits true b = some c) (hx : (c != .pk && x) = true) :
    Cv.ofBits false b = some c :=
  Cv.ofBits_false_iff.2 ⟨hc, by simpa using (Bool.and_eq_true_iff.1 hx).1⟩

/-- The TY of `lda` (R124). -/
theorem ldaOk_iff {w : Nat} {pk : Bool} (hp : pkOfBits (fld w 22 3) = some pk) :
    (!pk || LaneTy.ofBits (fld w 25 3) == .f32) = true ↔ ¬badTyCv w = true := by
  have hb := eq_pkBits_iff.2 hp
  cases pk with
  | false => rw [← tyOk_iff (c := .none) (Cv.eq_bits_iff.1 hb)]; simp [Cv.tyOk]
  | true => rw [← tyOk_iff (c := .pk) (Cv.eq_bits_iff.1 hb)]; simp [Cv.tyOk]

/-- END20 is not zero, and COUNT17 is a register where SRC is 1 (R50, R70). -/
theorem loopOk_iff {w : Nat} : loopOk (decide (fld w 37 1 = 1)) (fld w 20 17) (fld w 0 20) = true ↔
    ¬(fld w 37 1 = 1 ∧ fld w 25 12 ≠ 0) ∧ ¬fld w 0 20 = 0 := by
  have small : (fld w 20 17).toNat < 32 ↔ fld w 25 12 = 0 := by
    simp only [fld, ← BitVec.toNat_inj, BitVec.toNat_ofNat, BitVec.ofNat_eq_ofNat, Nat.zero_mod]
    omega
  simp [loopOk, small]
  tauto

/-- The fields that a `cvt` pair reserves, and the pairs and roundings that exist (R159). -/
theorem cvtOk_iff {w : Nat} {b : Src} (hb : Src.ofBits (fld w 16 8) = some b) :
    cvtOk b (decide (fld w 11 1 = 1)) (LaneTy.ofBits (fld w 8 3)) (LaneTy.ofBits (fld w 5 3)) (Rnd.ofBits (fld w 0 2)) = true ↔
      ¬cvtReserved w = true ∧ ¬cvtIllegal w = true := by
  have row : b = .row 0#6 ↔ fld w 16 8 = 0 := by
    rw [Src.eq_bits_iff.2 hb]
    exact ⟨fun h => by rw [h]; rfl, fun h => Option.some_inj.1 ((Src.eq_bits_iff.1 h.symm).symm.trans rfl)⟩
  have rounds (r : BitVec 2) : (Rnd.ofBits r = .rne ↔ r = 0) ∧ (Rnd.ofBits r = .sr ↔ r = 3) := by
    revert r; decide
  have one (e : BitVec 1) : ¬e = 1#1 ↔ e = 0#1 := by
    revert e; decide
  unfold cvtOk cvtReserved cvtIllegal cvtPair
  cases cvtKind (LaneTy.ofBits (fld w 5 3)) (LaneTy.ofBits (fld w 8 3)) with
  | none => simp
  | some k =>
    obtain ⟨narrows, widens, rounding⟩ := k
    cases narrows <;> cases widens <;> cases rounding <;> simp [row, rounds, one, and_assoc]

/-- RND and the bitwise operations of `scan` and `red` (R146, R162). -/
theorem laneOpOk_iff {w : Nat} {op : LaneOp} {ty : RTy} (ho : LaneOp.ofBits (fld w 8 3) = some op)
    (ht : RTy.ofBits (fld w 5 3) = some ty) :
    laneOpOk op ty (Rnd.ofBits (fld w 0 2)) = true ↔ ¬laneOpRndReserved w = true ∧ ¬laneOpFloatIllegal w = true := by
  rw [laneOpRndReserved, laneOpFloatIllegal, LaneOp.eq_bits_iff.2 ho, RTy.eq_bits_iff.2 ht]
  generalize fld w 0 2 = r
  cases op <;> cases ty <;> revert r <;> decide

/-- `red` rounds stochastically never (R162). -/
theorem redOk_iff {w : Nat} {op : LaneOp} {ty : RTy} (ho : LaneOp.ofBits (fld w 8 3) = some op)
    (ht : RTy.ofBits (fld w 5 3) = some ty) :
    (laneOpOk op ty (Rnd.ofBits (fld w 0 2)) && Rnd.ofBits (fld w 0 2) != .sr) = true ↔
      ¬laneOpRndReserved w = true ∧ ¬laneOpFloatIllegal w = true ∧ ¬fld w 0 2 = 3 := by
  rw [Bool.and_eq_true, laneOpOk_iff ho ht, and_assoc]
  generalize fld w 0 2 = r
  have : (Rnd.ofBits r != .sr) = true ↔ ¬r = 3 := by revert r; decide
  rw [this]


/-- A check that a decoder makes passes. -/
theorem check_ok {d : Nat} {c : Prop} [Decidable c] {f : PUnit → Except Nat Instr} {i : Instr} (hc : ¬c) (h : f ⟨⟩ = .ok i) :
    (if c then throw d >>= f else f ⟨⟩) = .ok i := by
  rw [if_neg hc, h]

/-- A field that a decoder needs has a value. -/
theorem need_ok {α : Type} {d : Nat} {o : Option α} {v : α} {f : α → Except Nat Instr} {i : Instr} (ho : o = some v)
    (h : f v = .ok i) : (need d o >>= f) = .ok i := by
  rw [ho]
  exact h

/-- A word has 64 bits, and its top three name one of the five kinds of words (R40). -/
theorem wordOf_top {w : Nat} {i : Instr} (hi : WordOf w i) :
    w < 2 ^ 64 ∧ (fld w 61 3 = 0 ∨ fld w 61 3 = 1 ∨ fld w 61 3 = 2 ∨ fld w 61 3 = 3 ∨ fld w 61 3 = 7) := by
  obtain ⟨-, n, hn, hl⟩ := hi
  cases i <;> cases hn
  all_goals
    simp only [lays_cat, lays_hdr, lays_all, Nat.zero_add, Nat.reduceAdd] at hl
    simp only [hl, true_or, or_true, and_self]

/-- The decoder of the C stream finds the instruction of a word: the fields are those laid out, and its checks pass. -/
theorem decodeC_of_wordOf {w : Nat} {i : Instr} (he : fld w 61 3 = 0) (hi : WordOf w i) : decodeC w = .ok i := by
  obtain ⟨hwf, n, hn, hl⟩ := hi
  cases i <;> cases hn
  all_goals
    simp only [lays_cat, lays_hdr, lays_all, Nat.zero_add, Nat.reduceAdd, BitVec.reduceToNat, Sz.eq_bits_iff,
      Scp.eq_bits_iff, Cnd.eq_bits_iff, AmoOp.eq_bits_iff, Eng.eq_bits_iff, DomTy.eq_bits_iff, eq_w32Bits_iff,
      eq_retBits_iff, ICnd.eq_bits_3_iff, eq_setWidth_iff_idxBelow16, eq_setWidth_iff_idxBelow32, bit_eq_iff, he] at hl
    casesm* _ ∧ _
  all_goals try contradiction
  all_goals
    subst_vars
    rw [decodeC, ‹(fld w 40 7).toNat = _›]
    repeat' first | refine check_ok ?_ ?_ | refine need_ok ‹_› ?_ | exact rfl
  all_goals try simp only [*, not_true_eq_false, not_false_eq_true, ne_eq, false_or]
  case cLd => exact sxOk_iff.1 hwf
  case cLdx => exact sxOk_iff.1 hwf
  case cB => exact (cndOk_iff ‹_›).1 hwf
  case cWake => exact (maskOk_iff ‹_›).1 hwf
  case cSleep => exact (maskOk_iff ‹_›).1 hwf
  case cWstat => exact (maskOk_iff ‹_›).1 hwf

/-- The decoder of the L stream finds the instruction of a word: the fields are those laid out, and its checks pass. -/
theorem decodeL_of_wordOf {w : Nat} {i : Instr} (he : fld w 61 3 = 1) (hi : WordOf w i) : decodeL w = .ok i := by
  obtain ⟨hwf, n, hn, hl⟩ := hi
  cases i <;> cases hn
  all_goals
    simp only [lays_cat, lays_hdr, lays_all, Nat.zero_add, Nat.reduceAdd, BitVec.reduceToNat, Scp.eq_bits_iff,
      LaneTy.eq_bits_iff, Cv.eq_bits_iff, Md.eq_bits_iff, DomTy.eq_bits_iff, eq_retBits_iff, eq_pkBits_iff,
      eq_queueBits_iff, Line.eq_bits_iff, LqLine.eq_bits_iff, he] at hl
    casesm* _ ∧ _
  all_goals try contradiction
  all_goals
    subst_vars
    rw [decodeL, ‹(fld w 40 7).toNat = _›]
    repeat' first | refine check_ok ?_ ?_ | refine need_ok ‹_› ?_ | refine need_ok (ofBits_of_not_packs ‹_› hwf) ?_ | exact rfl
  all_goals try simp only [*, not_true_eq_false, not_false_eq_true, ne_eq, false_or]
  case lLdq => exact (tyOk_iff ‹_›).1 hwf
  case lLdg => exact (tyOk_iff ‹_›).1 hwf
  case lLdb => exact (tyOk_of_not_packs_iff (ofBits_of_not_packs ‹_› hwf)).1 hwf
  case lLda => exact (ldaOk_iff ‹_›).1 hwf
  case lWake => exact (maskOk_iff ‹_›).1 hwf
  case lSleep => exact (maskOk_iff ‹_›).1 hwf
  case lWstat => exact (maskOk_iff ‹_›).1 hwf

/-- The decoder of the S stream finds the instruction of a word: the fields are those laid out, and its checks pass. -/
theorem decodeS_of_wordOf {w : Nat} {i : Instr} (he : fld w 61 3 = 3) (hi : WordOf w i) : decodeS w = .ok i := by
  obtain ⟨hwf, n, hn, hl⟩ := hi
  cases i <;> cases hn
  all_goals
    simp only [lays_cat, lays_hdr, lays_all, Nat.zero_add, Nat.reduceAdd, BitVec.reduceToNat, Scp.eq_bits_iff,
      LaneTy.eq_bits_iff, Cv.eq_bits_iff, Md.eq_bits_iff, DomTy.eq_bits_iff, eq_retBits_iff, eq_queueBits_iff,
      Line.eq_bits_iff, SqLine.eq_bits_iff, he] at hl
    casesm* _ ∧ _
  all_goals try contradiction
  all_goals
    subst_vars
    rw [decodeS, ‹(fld w 40 7).toNat = _›]
    repeat' first | refine check_ok ?_ ?_ | refine need_ok ‹_› ?_ | refine need_ok (ofBits_of_not_packs ‹_› hwf) ?_ | exact rfl
  all_goals try simp only [*, not_true_eq_false, not_false_eq_true, ne_eq, false_or]
  case sStq => exact (tyOk_of_not_packs_iff (ofBits_of_not_packs ‹_› hwf)).1 hwf
  case sStg => exact (tyOk_of_not_packs_iff (ofBits_of_not_packs ‹_› hwf)).1 hwf
  case sWake => exact (maskOk_iff ‹_›).1 hwf
  case sSleep => exact (maskOk_iff ‹_›).1 hwf
  case sWstat => exact (maskOk_iff ‹_›).1 hwf

/-- The decoder of the V stream finds the instruction of a word: the fields are those laid out, and its checks pass. -/
theorem decodeV_of_wordOf {w : Nat} {i : Instr} (he : fld w 61 3 = 2) (hi : WordOf w i) : decodeV w = .ok i := by
  obtain ⟨hwf, n, hn, hl⟩ := hi
  cases i <;> cases hn
  all_goals
    simp only [lays_cat, lays_hdr, lays_all, Nat.zero_add, Nat.reduceAdd, BitVec.reduceToNat, Rnd.eq_bits_iff,
      LaneTy.eq_bits_iff, FTy.eq_bits_iff, WTy.eq_bits_iff, RTy.eq_bits_iff, LaneOp.eq_bits_iff, FCnd.eq_bits_iff,
      ICnd.eq_bits_4_iff, DomTy.eq_bits_iff, eq_retBits_iff, eq_kBits_iff, Src.eq_bits_iff, Dst.eq_bits_iff, bit_eq_iff,
      he]
      at hl
    casesm* _ ∧ _
  all_goals try contradiction
  all_goals
    subst_vars
    rw [decodeV, ‹(fld w 40 7).toNat = _›]
    repeat' first | refine check_ok ?_ ?_ | refine need_ok ‹_› ?_ | exact rfl
  all_goals try simp only [*, not_true_eq_false, not_false_eq_true, ne_eq, false_or]
  case vCvt.refl.refine_1 => exact ((cvtOk_iff ‹_›).1 hwf).1
  case vCvt.refl.refine_2.refine_1 => exact ((cvtOk_iff ‹_›).1 hwf).2
  case vScan.refl.refine_1 => exact ((laneOpOk_iff ‹_› ‹_›).1 hwf).1
  case vScan.refl.refine_2.refine_1 => exact ((laneOpOk_iff ‹_› ‹_›).1 hwf).2
  case vRed.refl.refine_1 => exact ((redOk_iff ‹_› ‹_›).1 hwf).1
  case vRed.refl.refine_2.refine_1 => exact ((redOk_iff ‹_› ‹_›).1 hwf).2.1
  case vRed.refl.refine_2.refine_2.refine_1 => exact ((redOk_iff ‹_› ‹_›).1 hwf).2.2
  case vWake => exact (maskOk_iff ‹_›).1 hwf
  case vSleep => exact (maskOk_iff ‹_›).1 hwf
  case vWstat => exact (maskOk_iff ‹_›).1 hwf

/-- The decoder of the words tagged ALL finds the instruction of a word: the fields are those laid out, and its checks pass. -/
theorem decodeAll_of_wordOf {w : Nat} {i : Instr} (he : fld w 61 3 = 7) (hi : WordOf w i) : decodeAll w = .ok i := by
  obtain ⟨hwf, n, hn, hl⟩ := hi
  cases i <;> cases hn
  all_goals
    simp only [lays_cat, lays_hdr, lays_all, Nat.zero_add, Nat.reduceAdd, BitVec.reduceToNat, Cnd.eq_bits_iff,
      bit_eq_iff, he] at hl
    casesm* _ ∧ _
  all_goals try contradiction
  all_goals
    subst_vars
    rw [decodeAll, ‹(fld w 40 7).toNat = _›]
    repeat' first | refine check_ok ?_ ?_ | refine need_ok ‹_› ?_ | exact rfl
  all_goals try simp only [*, not_true_eq_false, not_false_eq_true, ne_eq, false_or]
  case allLoop.refl.refine_1 => exact (loopOk_iff.1 hwf).1
  case allLoop.refl.refine_2.refine_1 => exact (loopOk_iff.1 hwf).2
  case allBr => exact (cndOk_iff ‹_›).1 hwf

/-- The decoder finds the instruction of a word. -/
theorem decodeNat_of_wordOf {w : Nat} {i : Instr} (hi : WordOf w i) : decodeNat w = .ok i := by
  obtain ⟨-, he | he | he | he | he⟩ := wordOf_top hi <;> rw [decodeNat, he]
  · exact decodeC_of_wordOf he hi
  · exact decodeL_of_wordOf he hi
  · exact decodeV_of_wordOf he hi
  · exact decodeS_of_wordOf he hi
  · exact decodeAll_of_wordOf he hi

/-- A check of a decoder that turned no word away. -/
theorem sound_check {w d : Nat} {c : Prop} [Decidable c] {f : PUnit → Except Nat Instr} (h : ¬c → Sound w (f ⟨⟩)) :
    Sound w (if c then throw d >>= f else f ⟨⟩) := by
  split
  · exact sound_throw
  · exact h ‹_›

/-- A field of a decoder that has a value. -/
theorem sound_need {w d : Nat} {α : Type} {o : Option α} {f : α → Except Nat Instr} (h : ∀ v, o = some v → Sound w (f v)) :
    Sound w (need d o >>= f) := by
  cases o with
  | none => exact sound_throw
  | some v => exact h v rfl

/-- What the decoder of the C stream makes of a word has that word: each field is the field it was read from. -/
theorem decodeC_sound {w : Nat} (hw : w < 2 ^ 64) (he : fld w 61 3 = 0) : Sound w (decodeC w) := by
  unfold decodeC
  split
  all_goals
    repeat' first
      | refine sound_check fun _ => ?_
      | refine sound_need fun _ _ => ?_
      | refine sound_pure ⟨?_, _, rfl, ?_⟩
      | exact sound_throw
  all_goals try rfl
  all_goals try
    simp_all only [lays_cat, lays_hdr, Nat.zero_add, Nat.reduceAdd, BitVec.reduceToNat, Sz.eq_bits_iff,
      Scp.eq_bits_iff, Cnd.eq_bits_iff, AmoOp.eq_bits_iff, Eng.eq_bits_iff, DomTy.eq_bits_iff, eq_w32Bits_iff,
      eq_retBits_iff, ICnd.eq_bits_3_iff, eq_setWidth_iff_idxBelow16, eq_setWidth_iff_idxBelow32, bit_eq_iff, not_or,
      not_not, ne_eq, and_self]
    done
  case h_45.refine_1 => exact sxOk_iff.2 ‹_›
  case h_47.refine_1 => exact sxOk_iff.2 (not_or.1 (not_or.1 ‹_›).2).2
  case h_53.refine_1 => exact (cndOk_iff ‹_›).2 ‹_›
  case h_71.refine_1 => exact (maskOk_iff ‹_›).2 (not_or.1 ‹_›).2
  case h_72.refine_1 => exact (maskOk_iff ‹_›).2 (not_or.1 ‹_›).2
  case h_73.refine_1 => exact (maskOk_iff ‹_›).2 (not_or.1 ‹_›).2

/-- What the decoder of the L stream makes of a word has that word: each field is the field it was read from. -/
theorem decodeL_sound {w : Nat} (hw : w < 2 ^ 64) (he : fld w 61 3 = 1) : Sound w (decodeL w) := by
  unfold decodeL
  split
  all_goals
    repeat' first
      | refine sound_check fun _ => ?_
      | refine sound_need fun _ _ => ?_
      | refine sound_pure ⟨?_, _, rfl, ?_⟩
      | exact sound_throw
  all_goals try rfl
  all_goals try
    simp_all only [lays_cat, lays_hdr, Nat.zero_add, Nat.reduceAdd, BitVec.reduceToNat, Scp.eq_bits_iff,
      LaneTy.eq_bits_iff, Cv.eq_bits_iff, Md.eq_bits_iff, DomTy.eq_bits_iff, eq_retBits_iff, eq_pkBits_iff,
      eq_queueBits_iff, Line.eq_bits_iff, LqLine.eq_bits_iff, Cv.ofBits_false_iff, not_or, not_not, ne_eq, and_self]
    done
  case h_4.refine_1 => exact (tyOk_iff ‹_›).2 ‹_›
  case h_5.refine_1 => exact (tyOk_iff ‹_›).2 ‹_›
  case h_6.refine_1 => exact (ldaOk_iff ‹_›).2 ‹_›
  case h_8.refine_1 => exact (tyOk_of_not_packs_iff ‹_›).2 ‹_›
  case h_11.refine_1 => exact (maskOk_iff ‹_›).2 (not_or.1 ‹_›).2
  case h_12.refine_1 => exact (maskOk_iff ‹_›).2 (not_or.1 ‹_›).2
  case h_13.refine_1 => exact (maskOk_iff ‹_›).2 (not_or.1 ‹_›).2

/-- What the decoder of the S stream makes of a word has that word: each field is the field it was read from. -/
theorem decodeS_sound {w : Nat} (hw : w < 2 ^ 64) (he : fld w 61 3 = 3) : Sound w (decodeS w) := by
  unfold decodeS
  split
  all_goals
    repeat' first
      | refine sound_check fun _ => ?_
      | refine sound_need fun _ _ => ?_
      | refine sound_pure ⟨?_, _, rfl, ?_⟩
      | exact sound_throw
  all_goals try rfl
  all_goals try
    simp_all only [lays_cat, lays_hdr, Nat.zero_add, Nat.reduceAdd, BitVec.reduceToNat, Scp.eq_bits_iff,
      LaneTy.eq_bits_iff, Cv.eq_bits_iff, Md.eq_bits_iff, DomTy.eq_bits_iff, eq_retBits_iff, eq_queueBits_iff,
      Line.eq_bits_iff, SqLine.eq_bits_iff, Cv.ofBits_false_iff, not_or, not_not, ne_eq, and_self]
    done
  case h_4.refine_1 => exact (tyOk_of_not_packs_iff ‹_›).2 ‹_›
  case h_5.refine_1 => exact (tyOk_of_not_packs_iff ‹_›).2 ‹_›
  case h_11.refine_1 => exact (maskOk_iff ‹_›).2 (not_or.1 ‹_›).2
  case h_12.refine_1 => exact (maskOk_iff ‹_›).2 (not_or.1 ‹_›).2
  case h_13.refine_1 => exact (maskOk_iff ‹_›).2 (not_or.1 ‹_›).2

/-- What the decoder of the V stream makes of a word has that word: each field is the field it was read from. -/
theorem decodeV_sound {w : Nat} (hw : w < 2 ^ 64) (he : fld w 61 3 = 2) : Sound w (decodeV w) := by
  unfold decodeV
  split
  all_goals
    repeat' first
      | refine sound_check fun _ => ?_
      | refine sound_need fun _ _ => ?_
      | refine sound_pure ⟨?_, _, rfl, ?_⟩
      | exact sound_throw
  all_goals try rfl
  all_goals try
    simp_all only [lays_cat, lays_hdr, Nat.zero_add, Nat.reduceAdd, BitVec.reduceToNat, Rnd.eq_bits_iff,
      LaneTy.eq_bits_iff, FTy.eq_bits_iff, WTy.eq_bits_iff, RTy.eq_bits_iff, LaneOp.eq_bits_iff, FCnd.eq_bits_iff,
      ICnd.eq_bits_4_iff, DomTy.eq_bits_iff, eq_retBits_iff, eq_kBits_iff, Src.eq_bits_iff, Dst.eq_bits_iff, bit_eq_iff,
      not_or, not_not, ne_eq, and_self]
    done
  case h_40.refine_1 => exact (cvtOk_iff ‹_›).2 ⟨(not_or.1 ‹_›).2, ‹_›⟩
  case h_43.refine_1 => exact (laneOpOk_iff ‹_› ‹_›).2 ⟨(not_or.1 ‹_›).2, ‹_›⟩
  case h_44.refine_1 => exact (redOk_iff ‹_› ‹_›).2 ⟨(not_or.1 ‹_›).2, ‹_›, ‹_›⟩
  case h_61.refine_1 => exact (maskOk_iff ‹_›).2 (not_or.1 ‹_›).2
  case h_62.refine_1 => exact (maskOk_iff ‹_›).2 (not_or.1 ‹_›).2
  case h_63.refine_1 => exact (maskOk_iff ‹_›).2 (not_or.1 ‹_›).2

/-- What the decoder of the words tagged ALL makes of a word has that word: each field is the field it was read from. -/
theorem decodeAll_sound {w : Nat} (hw : w < 2 ^ 64) (he : fld w 61 3 = 7) : Sound w (decodeAll w) := by
  unfold decodeAll
  split
  all_goals
    repeat' first
      | refine sound_check fun _ => ?_
      | refine sound_need fun _ _ => ?_
      | refine sound_pure ⟨?_, _, rfl, ?_⟩
      | exact sound_throw
  all_goals try rfl
  all_goals try
    simp_all only [lays_cat, lays_all, Nat.zero_add, Nat.reduceAdd, BitVec.reduceToNat, Cnd.eq_bits_iff, bit_eq_iff,
      not_or, not_not, ne_eq, and_self]
    done
  case h_4.refine_1 => exact loopOk_iff.2 ⟨(not_or.1 ‹_›).2, ‹_›⟩
  case h_5.refine_1 => exact (cndOk_iff ‹_›).2 (not_or.1 ‹_›).2

/-- What the decoder makes of a word has that word. -/
theorem decodeNat_sound {w : Nat} (hw : w < 2 ^ 64) : Sound w (decodeNat w) := by
  unfold decodeNat
  split
  next he => exact decodeC_sound hw (BitVec.eq_of_toNat_eq he)
  next he => exact decodeL_sound hw (BitVec.eq_of_toNat_eq he)
  next he => exact decodeV_sound hw (BitVec.eq_of_toNat_eq he)
  next he => exact decodeS_sound hw (BitVec.eq_of_toNat_eq he)
  next he => exact decodeAll_sound hw (BitVec.eq_of_toNat_eq he)
  next => exact sound_throw

/-- The word of an instruction, as a number: the encoder cuts nothing off. -/
theorem wordOf_iff_encode {w : Word} {i : Instr} : WordOf w.toNat i ↔ i.wf = true ∧ encode i = some w := by
  have lays (n : Nat) : Lays n 0 n := Nat.div_one n
  constructor
  · rintro ⟨hwf, n, hn, hl⟩
    have : w.toNat = n := (lays _).symm.trans hl
    exact ⟨hwf, by rw [encode, hn, ← this]; simp⟩
  · rintro ⟨hwf, he⟩
    obtain ⟨n, hn, rfl⟩ := Option.map_eq_some_iff.1 he
    have hlt : n < 2 ^ 64 := (wordOf_top ⟨hwf, n, hn, lays n⟩).1
    exact ⟨hwf, n, hn, by rw [BitVec.toNat_ofNat, Nat.mod_eq_of_lt hlt]; exact lays n⟩

/-- Settles O8: the fields of the word are those laid out, and every check of the decoder is one of the instruction's own. -/
theorem decodeOfEncode : Obligations.DecodeOfEncode := by
  unfold Obligations.DecodeOfEncode
  exact fun i w hwf he => decodeNat_of_wordOf (wordOf_iff_encode.2 ⟨hwf, he⟩)

/-- Settles O9: each field of the word is the field that the decoder read, and its checks are those of the instruction. -/
theorem encodeOfDecode : Obligations.EncodeOfDecode := by
  unfold Obligations.EncodeOfDecode
  exact fun w i hd => wordOf_iff_encode.1 (decodeNat_sound w.isLt i hd)

end Sys2Proof
end

section
/-! PROOF. Every step of the machine completes (R305): each instruction and each step of the device has a next state. -/

namespace Sys2Proof.Machine

/-- Every instruction and every step of the device has a next state. -/
theorem exec_next (i : Instr) (s : State) : ∃ t, exec i s = .next t := by
  cases i with
  | timeBeacon cl drift =>
    show ∃ t, execTimeBeacon cl drift s = .next t
    unfold execTimeBeacon
    split <;> exact ⟨_, rfl⟩
  | _ => exact ⟨_, rfl⟩

theorem State.tryHead_next (s : State) (n : Nat) (st : Strm) : ∃ t, s.tryHead n st = .next t := by
  unfold State.tryHead
  dsimp only
  split
  · exact ⟨_, rfl⟩
  · exact exec_next _ _
  · exact ⟨_, rfl⟩

theorem State.stand_next (s : State) : ∃ t, s.stand = .next t := by
  unfold State.stand
  split
  · exact exec_next _ _
  · split
    · exact exec_next _ _
    · exact ⟨_, rfl⟩
  · exact ⟨_, rfl⟩

theorem State.act_next (s : State) : ∃ t, s.act = .next t := by
  unfold State.act
  split
  · exact ⟨_, rfl⟩
  · exact State.tryHead_next _ _ _
  · exact exec_next _ _
  · exact ⟨_, rfl⟩
  · exact ⟨_, rfl⟩
  · exact ⟨_, rfl⟩

theorem step_next (s : State) : ∃ t, step s = .next t := by
  unfold step
  split
  · exact s.stand_next
  · exact s.act_next

/-- Settles O7, by induction on the number of steps: each has a next state. -/
theorem neverStuck : Obligations.NeverStuck := by
  unfold Obligations.NeverStuck
  intro s k
  induction k generalizing s with
  | zero => trivial
  | succ k ih =>
    obtain ⟨t, ht⟩ := step_next s
    exact ⟨t, ht, ih t⟩

end Sys2Proof.Machine
end

section
/-! PROOF. When an instruction may issue, and what an issue does beyond its effect (R16, R17, R78, R325): O6. -/

namespace Sys2Proof.Machine

theorem least_eq_none {l : List Nat} (h : least l = none) : l = [] := by
  cases l with
  | nil => rfl
  | cons n t =>
    rw [least] at h
    split at h <;> cases h

/-- The head is early before its IDLE has elapsed (R17). -/
theorem Stream.early_of_lt {t : Stream} {idle cyc : Nat} (ha : t.anew = false) (h : cyc < t.last + 1 + idle) :
    t.early idle cyc = true := by
  simp [Stream.early, ha, h]

theorem Stream.early_of_le {t : Stream} {idle cyc : Nat} (ha : t.anew = false) (h : t.last + 1 + idle ≤ cyc)
    (hb : t.notBefore ≤ cyc) : t.early idle cyc = false := by
  simp [Stream.early, ha, h, hb]

/-- Before its IDLE has elapsed, the head is classed ISSUE (R17, R324). -/
theorem State.front_early {s : State} {st : Strm} {h : Hdr} (he : ((s.ctx s.me).strm st).early h.idle.toNat (s.cyc s.me) = true) :
    s.front st h = some .issue := if_pos he

/-- A head that is not executed anew is held by its tokens alone, once its IDLE has elapsed (R16, R17). -/
theorem State.front_of_tokens {s : State} {st : Strm} {h : Hdr} (ha : ((s.ctx s.me).strm st).anew = false)
    (he : ((s.ctx s.me).strm st).early h.idle.toNat (s.cyc s.me) = false) : s.front st h = tokenHold (s.ctx s.me) st h := by
  simp [State.front, he, ha]

/-- A pop needs a token at the start of the cycle (R16). -/
theorem tokenHold_flag {x : Ctx} {st : Strm} {h : Hdr} {n : Nat} (hn : n ∈ pops st h) (h0 : x.tok0.getD n 0 = 0) :
    ∃ k, tokenHold x st h = some (.flag k) := by
  unfold tokenHold
  split
  · exact ⟨_, rfl⟩
  · next hl =>
    have hf := List.filter_eq_nil_iff.1 (least_eq_none hl) n hn
    exact absurd (by rw [decide_eq_true h0]; rfl) hf

/-- A push needs a count below 63 (R16). -/
theorem tokenHold_busy {x : Ctx} {st : Strm} {h : Hdr} {n : Nat}
    (hp : ∀ n ∈ pops st h, x.tok0.getD n 0 ≠ 0 ∧ x.tok.getD n 0 ≠ 0) (hn : n ∈ pushes st h) (h63 : 63 ≤ x.tok0.getD n 0) :
    tokenHold x st h = some .busy := by
  have hf : (pops st h).filter (fun n => x.tok0.getD n 0 = 0 || x.tok.getD n 0 = 0) = [] := by
    refine List.filter_eq_nil_iff.2 fun m hm => ?_
    obtain ⟨h0, h1⟩ := hp m hm
    simpa using And.intro h0 h1
  have ha : (pushes st h).any (fun n => 63 ≤ x.tok0.getD n 0) = true := List.any_eq_true.2 ⟨n, hn, by simpa using h63⟩
  rw [tokenHold, hf]
  exact if_pos ha

/-- A head whose first conditions do not hold is held (R17). -/
theorem State.issue_front {s : State} {st : Strm} {h : Hdr} {c : HeadClass} (ht : (s.ctx s.me).tries st = true)
    (hf : s.front st h = some c) (v : Verdict) (go : State) : s.issue st h v go = s.hold st c := by
  simp [State.issue, ht, hf]

/-! ## What an issue does beyond the instruction's own effect -/

/-- The stream whose head has issued (R17). -/
theorem Ctx.strm_commit_same (x : Ctx) (st : Strm) (h : Hdr) (o u cyc : Nat) :
    (x.commit st h o u cyc).strm st = (x.strm st).retire cyc o := by
  simp [Ctx.commit]

theorem Ctx.strm_commit_other (x : Ctx) {st k : Strm} (hk : k ≠ st) (h : Hdr) (o u cyc : Nat) :
    (x.commit st h o u cyc).strm k = x.strm k := by
  simp [Ctx.commit, Ctx.strm_modStrm_other _ hk]

@[simp] theorem Ctx.commit_tok (x : Ctx) (st : Strm) (h : Hdr) (o u cyc : Nat) :
    (x.commit st h o u cyc).tok = if (x.strm st).anew then x.tok else tokenMove x.tok st h := by
  simp [Ctx.commit, Ctx.pay]

@[simp] theorem Ctx.commit_sys (x : Ctx) (st : Strm) (h : Hdr) (o u cyc : Nat) : (x.commit st h o u cyc).sys =
    { x.sys with charge := x.sys.charge + (if (x.strm st).anew then (x.strm st).owed else u) } := by
  simp [Ctx.commit, Ctx.pay]

@[simp] theorem Ctx.commit_issued (x : Ctx) (st : Strm) (h : Hdr) (o u cyc : Nat) : (x.commit st h o u cyc).counters.issued =
    if (x.strm st).counted = true then x.counters.issued
    else x.counters.issued.set (strmCode st) (x.counters.issued.getD (strmCode st) 0 + 1) := by
  simp [Ctx.commit, Ctx.pay]

/-- An issue keeps mode, text, frame, engines, accesses, launch and system registers but for its charge. -/
theorem Ctx.keeps_commit (x : Ctx) (st : Strm) (h : Hdr) (o u cyc : Nat) : x.keeps (x.commit st h o u cyc) := by
  simp [Ctx.keeps]

theorem Ctx.sameQueues_commit (x : Ctx) (st : Strm) (h : Hdr) (o u cyc : Nat) : x.sameQueues (x.commit st h o u cyc) := by
  simp [Ctx.sameQueues]

/-- The issue of an instruction whose effect lies in its context changes nothing else. -/
theorem State.onlyCtx_modCtx (s : State) (n : Nat) (f : Ctx → Ctx) : s.onlyCtx (s.modCtx n f) n := by
  rw [State.onlyCtx, State.ctx_modCtx_same]
  rfl

theorem State.onlyCtx_done (s : State) (st : Strm) (h : Hdr) (o u : Nat) (f : Ctx → Ctx) : s.onlyCtx (s.done st h o u f) s.me :=
  s.onlyCtx_modCtx _ _

/-- Settles O6: the first conditions of R17, and the context after an issue with no effect of its own. -/
theorem issue : Obligations.Issue := by
  unfold Obligations.Issue
  refine ⟨fun s st h v go ht ha => ⟨fun hlt => ?_, fun hle hb => ⟨fun n hn h0 => ?_, fun hp n hn h63 => ?_⟩⟩,
    fun s st h occ units => ?_⟩
  · exact State.issue_front ht (State.front_early (Stream.early_of_lt ha hlt)) v go
  · obtain ⟨k, hk⟩ := tokenHold_flag hn h0
    exact ⟨k, State.issue_front ht ((State.front_of_tokens ha (Stream.early_of_le ha hle hb)).trans hk) v go⟩
  · exact State.issue_front ht ((State.front_of_tokens ha (Stream.early_of_le ha hle hb)).trans (tokenHold_busy hp hn h63)) v go
  · dsimp only
    rw [State.ctx_done, Ctx.strm_commit_same]
    exact ⟨s.onlyCtx_done _ _ _ _ _, rfl, rfl, fun k hk => Ctx.strm_commit_other _ hk _ _ _ _, Ctx.commit_tok _ _ _ _ _ _,
      by rw [Ctx.commit_sys]; rfl, Ctx.commit_issued _ _ _ _ _ _, Ctx.keeps_commit _ _ _ _ _ _, Ctx.commit_regs _ _ _ _ _ _,
      Ctx.sameQueues_commit _ _ _ _ _ _, Ctx.commit_pend _ _ _ _ _ _⟩

end Sys2Proof.Machine
end

section
/-! PROOF. The register arithmetic of C, and the frame of the register instructions (R83, R85): O12, O14, O15. -/

namespace Sys2Proof.Machine

/-! ## The comparisons and shift amounts of R83, by the values of their operands -/

/-- A signed comparison decides the order of the signed values. -/
theorem slt_eq_decide (A B : Word) : A.slt B = decide (A.toInt < B.toInt) := rfl

/-- An unsigned comparison decides the order of the values. -/
theorem ult_eq_decide (A B : Word) : A.ult B = decide (A.toNat < B.toNat) := rfl

theorem opMin_eq (A B : Word) : opMin A B = if A.toInt < B.toInt then A else B := by simp [opMin, slt_eq_decide]

theorem opMax_eq (A B : Word) : opMax A B = if A.toInt < B.toInt then B else A := by simp [opMax, slt_eq_decide]

theorem opMinu_eq (A B : Word) : opMinu A B = if A.toNat < B.toNat then A else B := by simp [opMinu, ult_eq_decide]

theorem opMaxu_eq (A B : Word) : opMaxu A B = if A.toNat < B.toNat then B else A := by simp [opMaxu, ult_eq_decide]

theorem opSlt_eq (A B : Word) : opSlt A B = if A.toInt < B.toInt then 1 else 0 := by simp [opSlt, flagWord, slt_eq_decide]

theorem opSltu_eq (A B : Word) : opSltu A B = if A.toNat < B.toNat then 1 else 0 := by simp [opSltu, flagWord, ult_eq_decide]

theorem opSne_eq (A B : Word) : opSne A B = if decide (A ≠ B) then 1 else 0 := by simp [opSne, flagWord]

/-- A shift amount of an immediate is its six bits (R85). -/
theorem amount_mod (k : BitVec 6) : (k.setWidth 64 : Word).toNat % 64 = k.toNat := by
  have := k.isLt
  rw [BitVec.toNat_setWidth]
  omega

theorem opShl_amount (A : Word) (k : BitVec 6) : opShl A (k.setWidth 64) = A <<< k.toNat := by rw [opShl, amount_mod]

theorem opShr_amount (A : Word) (k : BitVec 6) : opShr A (k.setWidth 64) = A >>> k.toNat := by rw [opShr, amount_mod]

theorem opSra_amount (A : Word) (k : BitVec 6) : opSra A (k.setWidth 64) = A.sshiftRight k.toNat := by rw [opSra, amount_mod]

/-- The outcome of a register instruction of C that is ready, by the value `w` that its operation has here. -/
theorem State.alu_next {s : State} {h : Hdr} (hr : s.ready .c h) (occ : Nat) (d : BitVec 5) (f : Ctx → Word) {w : Word}
    (hw : f (s.ctx s.me) = w) :
    (.next (s.alu h occ d f) : Host.Outcome State Fault Refusal) = .next (s.cAfter h occ d w) := by
  rw [State.alu_ready hr, hw]

/-- Settles O12: each instruction is `State.alu` with its operation; the comparisons are read by the values of the operands. -/
theorem cArithmetic : Obligations.CArithmetic := by
  unfold Obligations.CArithmetic
  intro s h d a b hr
  refine ⟨?_, ?_, ?_, ?_, ?_, ?_, ?_, ?_, ?_, ?_, ?_, ?_, ?_, ?_, ?_, ?_, ?_, ?_, ?_, ?_, ?_, ?_, ?_, ?_, ?_⟩
  case refine_14 => exact State.alu_next hr 1 d _ (opMin_eq _ _)
  case refine_15 => exact State.alu_next hr 1 d _ (opMax_eq _ _)
  case refine_16 => exact State.alu_next hr 1 d _ (opMinu_eq _ _)
  case refine_17 => exact State.alu_next hr 1 d _ (opMaxu_eq _ _)
  case refine_21 => exact State.alu_next hr 1 d _ (opSne_eq _ _)
  all_goals exact State.alu_next hr _ d _ rfl

/-- Settles O14: the immediate forms are the operations of R83 at the extended immediate, or at the six bits of an amount. -/
theorem cImmediate : Obligations.CImmediate := by
  unfold Obligations.CImmediate
  intro s h d a imm k hr
  refine ⟨?_, ?_, ?_, ?_, ?_, ?_, ?_, ?_, ?_, ?_, ?_, ?_⟩
  case refine_5 => exact State.alu_next hr 1 d _ (opShl_amount _ k)
  case refine_6 => exact State.alu_next hr 1 d _ (opShr_amount _ k)
  case refine_7 => exact State.alu_next hr 1 d _ (opSra_amount _ k)
  case refine_8 => exact State.alu_next hr 1 d _ (opSlt_eq _ _)
  case refine_9 => exact State.alu_next hr 1 d _ (opSltu_eq _ _)
  all_goals exact State.alu_next hr _ d _ rfl

/-! ## The frame of the register instructions -/

/-- A register instruction of C that is ready issues, and D takes a value: `Instr.aluDest` names D. -/
theorem exec_of_aluDest {s t : State} {i : Instr} {h : Hdr} {d : BitVec 5} (hi : i.aluDest = some (h, d)) (hr : s.ready .c h)
    (ht : exec i s = .next t) : ∃ occ w, t = s.cAfter h occ d w := by
  cases i
  all_goals cases hi
  all_goals exact ⟨_, _, (Host.Outcome.next.inj ht).symm.trans (State.alu_ready hr _ d _)⟩

/-- A write of one register leaves the others, and every other register file. -/
theorem Regs.sameBut_set (r : Regs) (d : Reg) (v : Word) : r.sameBut (r.set d v) d := by
  obtain ⟨hpl, hps, hk, hz, hg⟩ := Regs.set_files r d v
  exact ⟨fun e he => Regs.get_set_other r d e v he, hpl, hps, hk, hz, hg⟩

/-- Settles O15: each of these instructions ends in `State.cAfter`, a write of D and the issue's own effect. -/
theorem cRegisterFrame : Obligations.CRegisterFrame := by
  unfold Obligations.CRegisterFrame
  intro s t i h d hi hr ht
  obtain ⟨occ, w, rfl⟩ := exec_of_aluDest hi hr ht
  have hregs : ((s.cAfter h occ d w).ctx s.me).regs = (s.ctx s.me).regs.set ((s.ctx s.me).regOf d) w := by
    simp [State.cAfter, Ctx.setReg]
  refine ⟨State.onlyCtx_done _ _ _ _ _ _, State.sameBytes_modCtx _ _ _, ?_, ?_, ?_⟩
  · rw [hregs]
    exact Regs.sameBut_set _ _ _
  · intro h0
    rw [hregs, h0]
    exact Regs.set_zero _ _
  · rw [State.cAfter, State.ctx_done]
    exact ⟨Ctx.keeps_commit _ _ _ _ _ _, Ctx.sameQueues_commit _ _ _ _ _ _, rfl, rfl, rfl, Ctx.commit_pend _ _ _ _ _ _,
      Ctx.commit_mark _ _ _ _ _ _, Ctx.commit_tok _ _ _ _ _ _⟩

end Sys2Proof.Machine
end

section
/-! PROOF. No-operations, branches and illegal words (R43, R70, R72, R95): O16 to O18. -/

namespace Sys2Proof.Machine

/-- The outcome of an instruction that is ready, by what follows its conditions. -/
theorem State.issue_next {s : State} {st : Strm} {h : Hdr} (hr : s.ready st h) (go : State) :
    (.next (s.issue st h .go go) : Host.Outcome State Fault Refusal) = .next go :=
  congrArg _ (State.issue_ready hr go)

/-- Outside handler mode an ALL word is executed by its stream. -/
theorem State.allWord_run {s : State} (hh : (s.ctx s.me).frame.handler = false) (go : Strm → State) : s.allWord go = go s.cur.st := by
  rw [State.allWord, hh]
  rfl

/-- In handler mode an ALL word is ILLEGAL with detail 7 (R309). -/
theorem State.allWord_handler {s : State} (hh : (s.ctx s.me).frame.handler = true) (go : Strm → State) :
    s.allWord go = s.illegal s.cur.st 7 := by
  rw [State.allWord, hh]
  rfl

/-- Settles O16: each no-operation is an issue with `State.done` and no effect of its own. -/
theorem noOperations : Obligations.NoOperations := by
  unfold Obligations.NoOperations
  intro s h idle
  refine ⟨fun hr => ?_, fun hr => ?_, fun hr => ?_, fun hr => ?_, fun hh hr => ?_⟩
  case refine_5 => exact (congrArg _ (State.allWord_run hh _)).trans (State.issue_next hr _)
  all_goals exact State.issue_next hr _

/-! ## Branches -/

/-- Settles O17: by the target and the condition of the branch. -/
theorem cBranches : Obligations.CBranches := by
  unfold Obligations.CBranches
  intro s h d a b cnd o27 o35 t hr
  refine ⟨fun ht => ⟨fun hc => ?_, fun hc => ?_⟩, fun ht => ⟨?_, ?_⟩, fun hlt => ?_⟩
  · show execCB h a b cnd o27 s = _
    rw [State.reg, State.reg] at hc
    simp only [execCB, ht, hc, if_true]
    exact State.issue_next hr _
  · show execCB h a b cnd o27 s = _
    rw [State.reg, State.reg] at hc
    simp only [execCB, ht, hc]
    exact State.issue_next hr _
  · show execCJ h o35 s = _
    simp only [execCJ, ht]
    exact State.issue_next hr _
  · show execCJal h d o35 s = _
    simp only [execCJal, ht]
    exact State.issue_next hr _
  · show execCJr h d a s = _
    rw [State.reg] at hlt ⊢
    simp only [execCJr, if_pos hlt]
    exact State.issue_next hr _

/-- A target is legal when it lies below the end of the text that the mode may execute (R70, R114). -/
theorem Ctx.target_none {x : Ctx} {st : Strm} {ofs : Int}
    (hb : ((x.strm st).head : Int) + ofs < 0 ∨ (x.targetEnd : Int) ≤ (x.strm st).head + ofs) : x.target st ofs = none := by
  refine if_neg fun hc => ?_
  obtain ⟨h0, h1⟩ := hc
  omega

/-- A head that is not early, when no cycle before its last holds it. -/
theorem Stream.early_eq_false {t : Stream} {cyc : Nat} (h1 : t.last < cyc) (h2 : t.notBefore ≤ cyc) : t.early 0 cyc = false := by
  have h3 : ¬ cyc < t.last + 1 := by omega
  have h4 : ¬ cyc < t.notBefore := by omega
  simp [Stream.early, h3, h4]

theorem Stream.early_eq_true {t : Stream} {cyc : Nat} (h1 : cyc ≤ t.last) : t.early 0 cyc = true := by
  have h3 : cyc < t.last + 1 := by omega
  simp [Stream.early, h3]

/-- The end of the targets, as the statement writes it. -/
theorem Ctx.targetEnd_cast (x : Ctx) : (x.targetEnd : Int) = if x.frame.handler then 0x8000 else 28672 := by
  unfold Ctx.targetEnd
  split <;> rfl

/-- The branches with an illegal target run as an illegal word of detail 6 (R70). -/
theorem exec_branch_illegal {s : State} (hst : s.cur.st = .c) (h : Hdr) (a b d : BitVec 5) (cnd : Cnd) (ofs : BitVec 27)
    (o35 : BitVec 35) :
    ((s.ctx s.me).target .c ofs.toInt = none → exec (.cB h a b cnd ofs) s = exec (.illegalWord 6) s) ∧
      ((s.ctx s.me).target .c o35.toInt = none →
        exec (.cJ h o35) s = exec (.illegalWord 6) s ∧ exec (.cJal h d o35) s = exec (.illegalWord 6) s) := by
  have hi : exec (.illegalWord 6) s = .next (s.illegal .c 6) := congrArg (fun st => Host.Outcome.next (s.illegal st 6)) hst
  rw [hi]
  refine ⟨fun ht => ?_, fun ht => ⟨?_, ?_⟩⟩
  · show execCB h a b cnd ofs s = _
    simp only [execCB, ht]
  · show execCJ h o35 s = _
    simp only [execCJ, ht]
  · show execCJal h d o35 s = _
    simp only [execCJal, ht]

/-- `jr` beyond the text takes its fault at its issue (R70, R95). -/
theorem exec_cJr_illegal {s : State} (h : Hdr) (d a : BitVec 5) (hb : (s.ctx s.me).targetEnd ≤ (s.reg a).toNat)
    (ht : (s.ctx s.me).tries .c = true) (hf : s.front .c h = none) :
    exec (.cJr h d a) s = .next (s.raise s.me .c { cause := .illegal, code := 6 }) := by
  show execCJr h d a s = _
  rw [State.reg] at hb
  simp only [execCJr, if_neg (Nat.not_lt.2 hb)]
  exact congrArg _ (State.issue_trap ht hf _ _)

/-- An illegal word at a head that may be tried (R72). -/
theorem State.illegal_tries {s : State} {st : Strm} (ht : (s.ctx s.me).tries st = true) (detail : Nat) :
    s.illegal st detail = if ((s.ctx s.me).strm st).early 0 (s.cyc s.me) then s.hold st .issue
      else s.raise s.me st { cause := .illegal, code := BitVec.ofNat 16 detail } := by
  simp [State.illegal, ht]

/-- Settles O18: the branches by their target, the illegal word by its cycle, the ALL words by the mode. -/
theorem illegalTargetsAndWords : Obligations.IllegalTargetsAndWords := by
  unfold Obligations.IllegalTargetsAndWords
  constructor
  · intro s h a b d cnd ofs o35
    rw [← Ctx.targetEnd_cast]
    intro tops bad hst
    obtain ⟨hB, hJ⟩ := exec_branch_illegal hst h a b d cnd ofs o35
    exact ⟨fun hb => hB (Ctx.target_none hb), fun hb => hJ (Ctx.target_none hb), fun hb => exec_cJr_illegal h d a (Int.ofNat_le.1 hb)⟩
  · intro s detail idle lp src count end20 a b cnd ofs st x
    refine ⟨fun ht => ⟨fun h1 h2 => ?_, fun h1 => ?_⟩, fun hh i hi => ?_⟩
    · exact congrArg _ ((State.illegal_tries ht detail).trans (if_neg (by rw [Stream.early_eq_false h1 h2]; decide)))
    · exact congrArg _ ((State.illegal_tries ht detail).trans (if_pos (Stream.early_eq_true h1)))
    · have hall (go : Strm → State) : (.next (s.allWord go) : Host.Outcome State Fault Refusal) = exec (.illegalWord 7) s :=
        congrArg _ (State.allWord_handler hh go)
      simp only [List.mem_cons, List.not_mem_nil, or_false] at hi
      rcases hi with rfl | rfl | rfl | rfl | rfl | rfl | rfl <;> exact hall _

end Sys2Proof.Machine
end

section
/-! PROOF. Reset, the register files, and what a step runs (R21, R70, R72): O1 to O5, O11. -/

namespace Sys2Proof.Machine

/-- Settles O1: the tables of the reset state list nothing, so every core, partition and cluster is its initial one. -/
theorem resetState : Obligations.ResetState := by
  unfold Obligations.ResetState
  refine ⟨fun n => ⟨rfl, rfl, rfl, rfl, rfl, rfl, rfl, rfl, fun st => ?_⟩, fun p => ⟨rfl, rfl, rfl⟩, fun n dt i => ?_,
    fun cl => ⟨rfl, rfl⟩, rfl, rfl⟩
  · cases st <;> rfl
  · unfold State.dom
    split <;> rfl

/-- Settles O2: the memories of the reset state list nothing. -/
theorem resetMemoryCanonical : Obligations.ResetMemoryCanonical := by
  unfold Obligations.ResetMemoryCanonical State.MemOk
  exact ⟨rfl, fun _ hc => absurd hc List.not_mem_nil, fun _ hc => absurd hc List.not_mem_nil⟩

/-- Settles O3: the decoder is run on each word. -/
theorem decodeWords : Obligations.DecodeWords := by
  unfold Obligations.DecodeWords
  decide +kernel

/-! ## The register files (R21) -/

theorem Regs.pget_pset_same (r : Regs) (inS : Bool) (p : BitVec 4) (v : Word) : (r.pset inS p v).pget inS p = v := by
  cases inS <;> simp [Regs.pset, Regs.pget]

/-- A write of a pointer leaves the others, of its set and of the other one. -/
theorem Regs.pget_pset_other (r : Regs) {inS inT : Bool} {p q : BitVec 4} (h : (inT, q) ≠ (inS, p)) (v : Word) :
    (r.pset inS p v).pget inT q = r.pget inT q := by
  cases inS <;> cases inT
  case false.true => rfl
  case true.false => rfl
  all_goals
    have hq : p ≠ q := fun e => h (by rw [e])
    simp [Regs.pset, Regs.pget, BitVec.toNat_ne_iff_ne.2 hq]

/-- A lane predicate but Z0 takes the masked bits and keeps the others. -/
theorem Regs.zget_zset_same (r : Regs) {z : BitVec 3} (hz : z ≠ 0) (m v : Word) :
    (r.zset z m v).zget z = (r.zget z &&& ~~~m) ||| (v &&& m) := by
  have hz' : ¬ z = 0#3 := hz
  simp [Regs.zset, Regs.zget, hz']

theorem Regs.zget_zset_other (r : Regs) {z y : BitVec 3} (hy : y ≠ z) (m v : Word) : (r.zset z m v).zget y = r.zget y := by
  unfold Regs.zset
  split
  · rfl
  · simp [Regs.zget, BitVec.toNat_ne_iff_ne.2 hy.symm]

/-- A K register that a result lands in holds it in every lane. -/
theorem Ctx.src_land_kreg_same (x : Ctx) (cyc : Nat) (k : BitVec 4) (w : Lane) :
    (x.land cyc (.kreg k w)).src (.k k) = lanes (fun _ => w) := by
  simp [Ctx.land, Ctx.src]

theorem Ctx.src_land_kreg_other (x : Ctx) (cyc : Nat) {k o : BitVec 4} (ho : o ≠ k) (w : Lane) :
    (x.land cyc (.kreg k w)).src (.k o) = x.src (.k o) := by
  simp [Ctx.land, Ctx.src, BitVec.toNat_ne_iff_ne.2 ho.symm]

/-- Settles O11: one file after the other. -/
theorem registerFile : Obligations.RegisterFile := by
  unfold Obligations.RegisterFile
  intro r v m
  refine ⟨fun inS p => ⟨r.pget_pset_same inS p v, fun inT q h => r.pget_pset_other h v⟩, fun z hz => ⟨?_, ?_, ?_⟩,
    fun x cyc k w => ⟨x.src_land_kreg_same cyc k w, fun o ho => x.src_land_kreg_other cyc ho w⟩, ⟨rfl, rfl⟩, ⟨rfl, rfl⟩,
    fun d hd => r.get_set_same d v hd, fun d e he => r.get_set_other d e v he, fun x i => rfl⟩
  · rw [Regs.zget_zset_same r hz, BitVec.not_allOnes, BitVec.and_zero, BitVec.zero_or, BitVec.and_allOnes]
  · exact Regs.zget_zset_same r hz m v
  · exact fun y hy => Regs.zget_zset_other r hy m v

/-! ## What a step runs -/

/-- A device with power takes the next act of its agenda. -/
theorem step_on {s : State} (h : s.mgmt.off = false) : step s = s.act := by
  rw [step, h]
  rfl

/-- A device whose power is cut stands. -/
theorem step_off {s : State} (h : s.mgmt.off = true) : step s = s.stand := by
  rw [step, h]
  rfl

/-- The step of a stream's turn tries its head. -/
theorem step_stream {s : State} {n : Nat} {st : Strm} {rest : List Act} (ho : s.mgmt.off = false) (ha : s.agenda = .stream n st :: rest) :
    step s = State.tryHead { s with agenda := rest } n st := by
  rw [step_on ho, State.act, ha]

/-- A head that has met no fault is executed. -/
theorem State.tryHead_exec {s : State} {n : Nat} {st : Strm} {e : QEntry} {q : List QEntry} (hd : ((s.ctx n).strm st).due = none)
    (hq : ((s.ctx n).strm st).queue = e :: q) :
    s.tryHead n st = exec (headInstr (s.ctx n) e) { s with cur := { core := n, st := st } } := by
  have hn : (if (s.ctx n).tries st then ((s.ctx n).strm st).due else none) = none := by rw [hd]; split <;> rfl
  simp only [State.tryHead, hn, hq]

/-- A fault that a request of the head has met is taken (R73, R298). -/
theorem State.tryHead_due {s : State} {n : Nat} {st : Strm} {f : Trap} (ht : (s.ctx n).tries st = true)
    (hd : ((s.ctx n).strm st).due = some f) : s.tryHead n st = .next (s.raise n st f) := by
  simp only [State.tryHead, ht, hd, if_true]

theorem headInstr_error {x : Ctx} {e : QEntry} {d : Nat} (h : decode e.word = .error d) : headInstr x e = .illegalWord d := by
  simp only [headInstr, h]

/-- A word that decodes is its instruction where nothing forbids it. -/
theorem headInstr_ok {x : Ctx} {e : QEntry} {i : Instr} (h : decode e.word = .ok i) (hn : (coupledFate x i).or (placeFate x e.addr) = none) :
    headInstr x e = i := by
  simp only [headInstr, h, hn]

/-- A word that decodes is an illegal word where a coupling or its address forbids it (R70). -/
theorem headInstr_forbidden {x : Ctx} {e : QEntry} {i : Instr} {d : Nat} (h : decode e.word = .ok i)
    (hd : (coupledFate x i).or (placeFate x e.addr) = some d) : headInstr x e = .illegalWord d := by
  simp only [headInstr, h, hd]

/-- Settles O4: the step tries the head, whose instruction is the decoded one. -/
theorem stepRunsHead : Obligations.StepRunsHead := by
  unfold Obligations.StepRunsHead
  intro s n st rest ho ha
  refine ⟨fun e q i hd hq hi hc hp => ?_, fun f ht hd => ?_⟩
  · have hh : headInstr (s.ctx n) e = i := headInstr_ok hi (by rw [hc, hp]; rfl)
    exact (step_stream ho ha).trans ((State.tryHead_exec (s := { s with agenda := rest }) hd hq).trans (congrArg (exec · _) hh))
  · exact (step_stream ho ha).trans (State.tryHead_due (s := { s with agenda := rest }) ht hd)

/-- A word that names a bound queue where a coupling forbids it is ILLEGAL with detail 5 (R70, R133). -/
theorem coupledFate_eq_some {x : Ctx} {i : Instr}
    (h : (∃ k, namedQueue i = some (true, k) ∧ k ∈ x.launch.cplIn) ∨ ∃ k, namedQueue i = some (false, k) ∧ ∃ c ∈ x.launch.cplOut, c.1 = k) :
    coupledFate x i = some 5 := by
  unfold coupledFate
  rcases h with ⟨k, hn, hk⟩ | ⟨k, hn, c, hc, rfl⟩
  · rw [hn]
    exact if_pos (List.contains_iff_mem.2 hk)
  · have ha : x.launch.cplOut.any (fun d => d.1 == c.1) = true := List.any_eq_true.2 ⟨c, hc, beq_self_eq_true _⟩
    rw [hn]
    exact if_pos ha

/-- A word at 0x7000 and above outside handler mode is ILLEGAL with detail 6 (R70, R74). -/
theorem placeFate_eq_some {x : Ctx} {a : Nat} (hh : x.frame.handler = false) (ha : 0x7000 ≤ a) : placeFate x a = some 6 := by
  simp [placeFate, hh, ha]

/-- A stand with a cold reset on the agenda executes it; one with a host's read of SECSTAT too, while no trip stands. -/
theorem State.stand_coldReset {s : State} {hard work rest} (ha : s.agenda = .event (.coldReset hard work) :: rest) :
    s.stand = exec (.coldReset hard work) { s with agenda := rest } := by
  simp only [State.stand, ha]

theorem State.stand_hostRead {s : State} {part pa data n rest}
    (ha : s.agenda = .event (.hostAccess part false pa data n) :: rest) :
    s.stand = if !s.mgmt.trip && pa / 8 == 2 ^ 40 then exec (.hostAccess part false pa data n) { s with agenda := rest }
      else .next { s with agenda := rest } := by
  simp only [State.stand, ha]

/-- Settles O5: the words that are none by `headInstr`, the acts of a device with power and of one without. -/
theorem stepRunsOtherSteps : Obligations.StepRunsOtherSteps := by
  unfold Obligations.StepRunsOtherSteps
  refine ⟨fun s n st rest e q ho ha hq hd => ?_, fun s i rest => ⟨fun ho => ⟨fun ha => ?_, fun ha => ?_⟩, fun ho => ?_⟩⟩
  · have runs {i : Instr} (hh : headInstr (s.ctx n) e = i) :
        step s = exec i { s with agenda := rest, cur := { core := n, st := st } } :=
      (step_stream ho ha).trans ((State.tryHead_exec (s := { s with agenda := rest }) hd hq).trans (congrArg (exec · _) hh))
    refine ⟨fun d hi => runs (headInstr_error hi), fun i hi hc => runs (headInstr_forbidden hi ?_),
      fun i hi hh hc hp => runs (headInstr_forbidden hi ?_)⟩
    · rw [coupledFate_eq_some hc]
      rfl
    · rw [hc, placeFate_eq_some hh hp]
      rfl
  · rw [step_on ho, State.act, ha]
  · rw [step_on ho, State.act, ha]
  · rw [step_off ho]
    refine ⟨fun hard work ha => State.stand_coldReset ha, fun part pa data n htrip hpa ha => ?_, fun hcold hread => ?_⟩
    · rw [State.stand_hostRead ha, htrip, hpa]
      rfl
    · unfold State.stand
      split
      · next a b more ha => exact absurd ha (hcold a b more)
      · next p pa d n more ha =>
        rw [ha]
        rcases hread _ _ _ _ _ ha with ht | hp
        · rw [ht]; rfl
        · rw [beq_eq_false_iff_ne.2 hp, Bool.and_false]; rfl
      · rfl

end Sys2Proof.Machine
end

section
/-! PROOF. What a part of a step keeps of the memories: their canonical form, and, where it writes none, their bytes. -/

namespace Sys2Proof.Machine

/-! ## What tables hold after a change -/

/-- What a table gives is an entry of it, or the default. -/
theorem Store.get_cases {α : Type} (m : Store α) (k : Nat) (d : α) : (k, m.get k d) ∈ m ∨ m.get k d = d := by
  unfold Store.get
  induction m with
  | nil => exact .inr rfl
  | cons c m ih =>
    obtain ⟨j, v⟩ := c
    by_cases hj : j = k
    · subst hj
      exact .inl (by simp [Store.find])
    · rw [Store.find, if_neg hj]
      exact ih.imp (List.mem_cons_of_mem _) id

/-- The entry that is set is in the table. -/
theorem Store.self_mem_put {α : Type} (m : Store α) (k : Nat) (v : α) : (k, v) ∈ m.put k v := by
  induction m with
  | nil => exact List.mem_cons_self
  | cons c m ih =>
    obtain ⟨j, w⟩ := c
    unfold Store.put
    split
    · exact List.mem_cons_self
    · split
      · exact List.mem_cons_self
      · exact List.mem_cons_of_mem _ ih

/-- The only entry that is lost when one is set is the one that it replaces. -/
theorem Store.mem_of_put {α : Type} (m : Store α) (k : Nat) (v d : α) : ∀ c ∈ m, c = (k, Store.get m k d) ∨ c ∈ m.put k v := by
  induction m with
  | nil => exact fun c hc => absurd hc List.not_mem_nil
  | cons e m ih =>
    obtain ⟨j, w⟩ := e
    intro c hc
    unfold Store.put
    split
    · exact .inr (List.mem_cons_of_mem _ hc)
    · split
      · next hj =>
        subst hj
        rcases List.mem_cons.1 hc with rfl | hc
        · exact .inl (by simp [Store.get, Store.find])
        · exact .inr (List.mem_cons_of_mem _ hc)
      · next hj =>
        rcases List.mem_cons.1 hc with rfl | hc
        · exact .inr List.mem_cons_self
        · have hg : Store.get ((j, w) :: m) k d = Store.get m k d := by simp [Store.get, Store.find, hj]
          rw [hg]
          exact (ih c hc).imp id (List.mem_cons_of_mem _)

/-! ## The canonical form of the memories, core by core and cluster by cluster -/

/-- A core's memories are in canonical form. -/
theorem State.MemOk.core {s : State} (h : s.MemOk) (n : Nat) : (s.core n).spad.wf = true ∧ (s.core n).acc.wf = true := by
  rcases Store.get_cases s.cores n Core.init with hc | he
  · exact h.2.1 _ hc
  · rw [State.core, he]
    exact ⟨rfl, rfl⟩

/-- A cluster's weight buffer is in canonical form. -/
theorem State.MemOk.cluster {s : State} (h : s.MemOk) (n : Nat) : (s.cluster n).wb.wf = true := by
  rcases Store.get_cases s.clusters n Cluster.init with hc | he
  · exact h.2.2 _ hc
  · rw [State.cluster, he]
    rfl

/-- A core that is set keeps the canonical form when its memories are in it. -/
theorem State.MemOk.setCore {s : State} (h : s.MemOk) (n : Nat) {c : Core} (hc : c.spad.wf = true ∧ c.acc.wf = true) :
    (s.setCore n c).MemOk := by
  refine ⟨h.1, fun d hd => ?_, h.2.2⟩
  rcases Store.mem_put s.cores n c d hd with rfl | hd
  · exact hc
  · exact h.2.1 d hd

/-- A cluster that is set keeps the canonical form when its weight buffer is in it. -/
theorem State.MemOk.setCluster {s : State} (h : s.MemOk) (n : Nat) {c : Cluster} (hc : c.wb.wf = true) :
    (s.setCluster n c).MemOk := by
  refine ⟨h.1, h.2.1, fun d hd => ?_⟩
  rcases Store.mem_put s.clusters n c d hd with rfl | hd
  · exact hc
  · exact h.2.2 d hd

/-! ## What a part of a step keeps of the memories -/

/-- The memories of the device list the bytes that they listed. -/
structure State.SameMem (s t : State) : Prop where
  ok : t.MemOk ↔ s.MemOk
  mem : t.mem = s.mem
  core : ∀ n, (t.core n).spad = (s.core n).spad ∧ (t.core n).acc = (s.core n).acc
  cluster : ∀ n, (t.cluster n).wb = (s.cluster n).wb

theorem State.SameMem.symm {s t : State} (h : s.SameMem t) : t.SameMem s :=
  ⟨h.ok.symm, h.mem.symm, fun n => ⟨(h.core n).1.symm, (h.core n).2.symm⟩, fun n => (h.cluster n).symm⟩

theorem State.SameMem.trans {s t u : State} (h : s.SameMem t) (k : t.SameMem u) : s.SameMem u :=
  ⟨k.ok.trans h.ok, k.mem.trans h.mem, fun n => ⟨(k.core n).1.trans (h.core n).1, (k.core n).2.trans (h.core n).2⟩,
    fun n => (k.cluster n).trans (h.cluster n)⟩

/-- What a part of a step that has begun in `s` keeps of the memories: their canonical form, and, of a part that is `exact`, their
bytes. -/
def State.Keeps (exact : Bool) (s t : State) : Prop := (s.MemOk → t.MemOk) ∧ (exact = true → s.SameMem t)

@[simp] theorem State.Keeps.refl (ex : Bool) (s : State) : s.Keeps ex s :=
  ⟨id, fun _ => ⟨Iff.rfl, rfl, fun _ => ⟨rfl, rfl⟩, fun _ => rfl⟩⟩

/-- Every byte of memory reads as before. -/
theorem State.Keeps.sameBytes {s t : State} (h : s.Keeps true t) : s.sameBytes t := by
  obtain ⟨_, hm, hc, hw⟩ := h.2 rfl
  exact ⟨fun a => by rw [hm], fun n a => by rw [(hc n).1, (hc n).2]; exact ⟨rfl, rfl⟩, fun n a => by rw [hw n]⟩

/-- A change that leaves the memories may be passed over. -/
theorem State.SameMem.keeps_iff {t u : State} (h : t.SameMem u) {ex : Bool} {s : State} : s.Keeps ex u ↔ s.Keeps ex t :=
  ⟨fun k => ⟨fun hs => h.ok.1 (k.1 hs), fun he => (k.2 he).trans h.symm⟩, fun k => ⟨fun hs => h.ok.2 (k.1 hs), fun he => (k.2 he).trans h⟩⟩

/-- A state with the same memory, cores and clusters. -/
theorem State.SameMem.of_eq {t u : State} (hm : u.mem = t.mem) (hc : u.cores = t.cores) (hk : u.clusters = t.clusters) :
    t.SameMem u := by
  refine ⟨by rw [State.MemOk, State.MemOk, hm, hc, hk], hm, fun n => ?_, fun n => ?_⟩
  · rw [State.core, State.core, hc]
    exact ⟨rfl, rfl⟩
  · rw [State.cluster, State.cluster, hk]

/-- An update of the parts of the state that hold no memory. -/
@[simp] theorem State.keeps_mk {ex : Bool} {s t : State} (cur : Cur) (agenda : List Act) (fresh now : Nat)
    (parts : Store Part) (slices : Slices) (mgmt : Mgmt) (fabric : Fabric) :
    s.Keeps ex (State.mk cur agenda fresh now t.cores t.clusters parts t.mem slices mgmt fabric) ↔ s.Keeps ex t :=
  (State.SameMem.of_eq (t := t) (u := State.mk cur agenda fresh now t.cores t.clusters parts t.mem slices mgmt fabric) rfl rfl rfl).keeps_iff

/-- A core that is set with its own memories. -/
theorem State.SameMem.setCore (t : State) (n : Nat) {c : Core} (hs : c.spad = (t.core n).spad) (ha : c.acc = (t.core n).acc) :
    t.SameMem (t.setCore n c) := by
  refine ⟨⟨fun h => ⟨h.1, fun d hd => ?_, h.2.2⟩, fun h => h.setCore n (by rw [hs, ha]; exact h.core n)⟩, rfl, fun k => ?_, fun _ => rfl⟩
  · rcases Store.mem_of_put t.cores n c Core.init d hd with rfl | hd
    · have := h.2.1 _ (Store.self_mem_put t.cores n c)
      rwa [hs, ha] at this
    · exact h.2.1 d hd
  · by_cases hk : k = n
    · subst hk
      simpa using ⟨hs, ha⟩
    · rw [State.core_setCore_other _ hk]
      exact ⟨rfl, rfl⟩

/-- A cluster that is set with its own weight buffer. -/
theorem State.SameMem.setCluster (t : State) (n : Nat) {c : Cluster} (hw : c.wb = (t.cluster n).wb) :
    t.SameMem (t.setCluster n c) := by
  refine ⟨⟨fun h => ⟨h.1, h.2.1, fun d hd => ?_⟩, fun h => h.setCluster n (by rw [hw]; exact h.cluster n)⟩, rfl,
    fun k => ⟨rfl, rfl⟩, fun k => ?_⟩
  · rcases Store.mem_of_put t.clusters n c Cluster.init d hd with rfl | hd
    · have := h.2.2 _ (Store.self_mem_put t.clusters n c)
      rwa [hw] at this
    · exact h.2.2 d hd
  · by_cases hk : k = n
    · subst hk
      simpa [State.cluster, State.setCluster] using hw
    · simp [State.cluster, State.setCluster, hk]

@[simp] theorem State.keeps_setCore {ex : Bool} {s t : State} (n : Nat) (c : Core)
    (hc : c.spad = (t.core n).spad ∧ c.acc = (t.core n).acc) : s.Keeps ex (t.setCore n c) ↔ s.Keeps ex t :=
  (State.SameMem.setCore t n hc.1 hc.2).keeps_iff

@[simp] theorem State.keeps_setCluster {ex : Bool} {s t : State} (n : Nat) (c : Cluster) (hc : c.wb = (t.cluster n).wb) :
    s.Keeps ex (t.setCluster n c) ↔ s.Keeps ex t := (State.SameMem.setCluster t n hc).keeps_iff

/-- A change of a core that leaves its memories. -/
@[simp] theorem State.keeps_modCore {ex : Bool} {s t : State} (n : Nat) (f : Core → Core)
    (hf : ∀ c, (f c).spad = c.spad ∧ (f c).acc = c.acc) : s.Keeps ex (t.modCore n f) ↔ s.Keeps ex t :=
  State.keeps_setCore n _ (hf _)

/-- A change of a cluster that leaves its weight buffer. -/
@[simp] theorem State.keeps_modCluster {ex : Bool} {s t : State} (n : Nat) (f : Cluster → Cluster)
    (hf : ∀ c, (f c).wb = c.wb) : s.Keeps ex (t.modCluster n f) ↔ s.Keeps ex t :=
  State.keeps_setCluster n _ (hf _)

/-- A sequence of parts that each leave the memories. -/
@[simp] theorem State.keeps_foldl {ex : Bool} {α : Type} {s t : State} (l : List α) (f : State → α → State)
    (hf : ∀ u a, s.Keeps ex (f u a) ↔ s.Keeps ex u) : s.Keeps ex (l.foldl f t) ↔ s.Keeps ex t := by
  induction l generalizing t with
  | nil => exact Iff.rfl
  | cons a l ih => exact ih.trans (hf t a)

/-- A sequence of parts that each keep the canonical form. -/
theorem State.keeps_foldl_imp {ex : Bool} {α : Type} {s t : State} (h : s.Keeps ex t) (l : List α) (f : State → α → State)
    (hf : ∀ u a, s.Keeps ex u → s.Keeps ex (f u a)) : s.Keeps ex (l.foldl f t) := by
  induction l generalizing t with
  | nil => exact h
  | cons a l ih => exact ih (hf t a h)

/-- A choice between parts. -/
@[simp] theorem State.keeps_ite {ex : Bool} {s t u : State} {p : Prop} [Decidable p] :
    s.Keeps ex (if p then t else u) ↔ if p then s.Keeps ex t else s.Keeps ex u := by
  split <;> rfl

end Sys2Proof.Machine
end

section
/-! PROOF. The shared operations that write no memory leave the memories as they are; one lemma for each. -/

namespace Sys2Proof.Machine

@[simp] theorem State.keeps_modCtx {ex : Bool} {s₀ : State} (s : State) (n : Nat) (f : Ctx → Ctx) :
    s₀.Keeps ex (s.modCtx n f) ↔ s₀.Keeps ex s := by
  unfold State.modCtx
  simp

@[simp] theorem State.keeps_flip {ex : Bool} {s₀ : State} (s : State) (n : Nat) : s₀.Keeps ex (s.flip n) ↔ s₀.Keeps ex s := by
  unfold State.flip
  simp

@[simp] theorem State.keeps_setPart {ex : Bool} {s₀ : State} (s : State) (n : Nat) (p : Part) :
    s₀.Keeps ex (s.setPart n p) ↔ s₀.Keeps ex s := by
  unfold State.setPart
  simp

@[simp] theorem State.keeps_modPart {ex : Bool} {s₀ : State} (s : State) (n : Nat) (f : Part → Part) :
    s₀.Keeps ex (s.modPart n f) ↔ s₀.Keeps ex s := by
  unfold State.modPart
  simp

@[simp] theorem State.keeps_modRegion {ex : Bool} {s₀ : State} (s : State) (p order : Nat) (f : Region → Region) :
    s₀.Keeps ex (s.modRegion p order f) ↔ s₀.Keeps ex s := by
  unfold State.modRegion
  simp

@[simp] theorem State.keeps_modEntry {ex : Bool} {s₀ : State} (s : State) (p order : Nat) (f : Region → Region) :
    s₀.Keeps ex (s.modEntry p order f) ↔ s₀.Keeps ex s := by
  unfold State.modEntry
  simp

@[simp] theorem State.keeps_message {ex : Bool} {s₀ : State} (s : State) (vec : Nat) :
    s₀.Keeps ex (s.message vec) ↔ s₀.Keeps ex s := by
  unfold State.message
  repeat' split
  all_goals simp

@[simp] theorem State.keeps_sendPending {ex : Bool} {s₀ : State} (s : State) : s₀.Keeps ex s.sendPending ↔ s₀.Keeps ex s := by
  unfold State.sendPending
  simp

@[simp] theorem State.keeps_raiseMgmt {ex : Bool} {s₀ : State} (s : State) (i : Nat) :
    s₀.Keeps ex (s.raiseMgmt i) ↔ s₀.Keeps ex s := by
  unfold State.raiseMgmt
  simp

@[simp] theorem State.keeps_raisePart {ex : Bool} {s₀ : State} (s : State) (p i : Nat) :
    s₀.Keeps ex (s.raisePart p i) ↔ s₀.Keeps ex s := by
  unfold State.raisePart
  simp

@[simp] theorem State.keeps_withdraw {ex : Bool} {s₀ : State} (s : State) (n : Nat) :
    s₀.Keeps ex (s.withdraw n) ↔ s₀.Keeps ex s := by
  unfold State.withdraw
  simp

@[simp] theorem State.keeps_stopWait {ex : Bool} {s₀ : State} (s : State) (n : Nat) (why : Option (Trap × Strm)) :
    s₀.Keeps ex (s.stopWait n why) ↔ s₀.Keeps ex s := by
  unfold State.stopWait
  simp

@[simp] theorem State.keeps_stopCut {ex : Bool} {s₀ : State} (s : State) (n : Nat) :
    s₀.Keeps ex (s.stopCut n) ↔ s₀.Keeps ex s := by
  unfold State.stopCut
  simp

@[simp] theorem State.keeps_halt {ex : Bool} {s₀ : State} (s : State) (n : Nat) : s₀.Keeps ex (s.halt n) ↔ s₀.Keeps ex s := by
  unfold State.halt
  repeat' split
  all_goals simp

@[simp] theorem State.keeps_forward {ex : Bool} {s₀ : State} (s : State) (n : Nat) :
    s₀.Keeps ex (s.forward n) ↔ s₀.Keeps ex s := by
  unfold State.forward
  repeat' split
  all_goals simp

@[simp] theorem State.keeps_takeFault {ex : Bool} {s₀ : State} (s : State) (n : Nat) (st : Strm) (t : Trap) :
    s₀.Keeps ex (s.takeFault n st t) ↔ s₀.Keeps ex s := by
  unfold State.takeFault
  simp

@[simp] theorem State.keeps_uncounted {ex : Bool} {s₀ : State} (s : State) (n : Nat) (st : Strm) (t : Trap) :
    s₀.Keeps ex (s.uncounted n st t) ↔ s₀.Keeps ex s := by
  unfold State.uncounted
  simp

@[simp] theorem State.keeps_raise {ex : Bool} {s₀ : State} (s : State) (n : Nat) (st : Strm) (t : Trap) :
    s₀.Keeps ex (s.raise n st t) ↔ s₀.Keeps ex s := by
  unfold State.raise
  simp

@[simp] theorem State.keeps_hold {ex : Bool} {s₀ : State} (s : State) (st : Strm) (c : HeadClass) :
    s₀.Keeps ex (s.hold st c) ↔ s₀.Keeps ex s := by
  unfold State.hold
  simp

@[simp] theorem State.keeps_issue {ex : Bool} {s₀ s : State} (hs : s₀.Keeps ex s) (st : Strm) (h : Hdr) (v : Verdict)
    (go : State) (hgo : s₀.Keeps ex go) :
    s₀.Keeps ex (s.issue st h v go) := by
  unfold State.issue
  repeat' split
  all_goals simp [hs, hgo]

@[simp] theorem State.keeps_done {ex : Bool} {s₀ : State} (s : State) (st : Strm) (h : Hdr) (occ units : Nat) (f : Ctx → Ctx) :
    s₀.Keeps ex (s.done st h occ units f) ↔ s₀.Keeps ex s := by
  unfold State.done
  simp

@[simp] theorem State.keeps_waits {ex : Bool} {s₀ : State} (s : State) (st : Strm) (h : Hdr) (units : Nat) (w : Wait) :
    s₀.Keeps ex (s.waits st h units w) ↔ s₀.Keeps ex s := by
  unfold State.waits
  simp

@[simp] theorem State.keeps_release {ex : Bool} {s₀ : State} (s : State) (n : Nat) (st : Strm) (f : Ctx → Ctx) :
    s₀.Keeps ex (s.release n st f) ↔ s₀.Keeps ex s := by
  unfold State.release
  simp

@[simp] theorem State.keeps_alu {ex : Bool} {s₀ s : State} (hs : s₀.Keeps ex s) (h : Hdr) (occ : Nat) (d : BitVec 5)
    (f : Ctx → Word) :
    s₀.Keeps ex (s.alu h occ d f) := by
  unfold State.alu
  simp [hs]

@[simp] theorem State.keeps_illegal {ex : Bool} {s₀ : State} (s : State) (st : Strm) (detail : Nat) :
    s₀.Keeps ex (s.illegal st detail) ↔ s₀.Keeps ex s := by
  unfold State.illegal
  simp

@[simp] theorem State.keeps_refill {ex : Bool} {s₀ : State} (s : State) (n : Nat) : s₀.Keeps ex (s.refill n) ↔ s₀.Keeps ex s := by
  unfold State.refill
  simp

@[simp] theorem State.keeps_allWord {ex : Bool} {s₀ s : State} (hs : s₀.Keeps ex s) (go : Strm → State) (hgo : ∀ a, s₀.Keeps ex
    (go a)) :
    s₀.Keeps ex (s.allWord go) := by
  unfold State.allWord
  simp [hs, hgo]

@[simp] theorem State.keeps_barrier {ex : Bool} {s₀ s : State} (hs : s₀.Keeps ex s) (idle : BitVec 10) (k : StandAt) :
    s₀.Keeps ex (s.barrier idle k) := by
  unfold State.barrier
  simp [hs]

@[simp] theorem State.keeps_endLease {ex : Bool} {s₀ : State} (s : State) (n : Nat) :
    s₀.Keeps ex (s.endLease n) ↔ s₀.Keeps ex s := by
  unfold State.endLease
  simp

@[simp] theorem State.keeps_setDom {ex : Bool} {s₀ : State} (s : State) (core : Nat) (dt : DomTy) (i : Nat) (d : Dom) :
    s₀.Keeps ex (s.setDom core dt i d) ↔ s₀.Keeps ex s := by
  unfold State.setDom
  simp

@[simp] theorem State.keeps_setCeRef {ex : Bool} {s₀ : State} (s : State) (core : Nat) (bank : Bool) :
    s₀.Keeps ex (s.setCeRef core bank) ↔ s₀.Keeps ex s := by
  unfold State.setCeRef
  simp

@[simp] theorem State.keeps_joinWake {ex : Bool} {s₀ : State} (s : State) (core : Nat) (bank : Bool) (dt : DomTy) (i : Nat) :
    s₀.Keeps ex (s.joinWake core bank dt i) ↔ s₀.Keeps ex s := by
  unfold State.joinWake
  dsimp only
  split
  · split <;> simp
  · rfl
  · cases dt <;> simp

@[simp] theorem State.keeps_wakeOne {ex : Bool} {s₀ : State} (s : State) (core : Nat) (dt : DomTy) (i : Nat) :
    s₀.Keeps ex (s.wakeOne core dt i) ↔ s₀.Keeps ex s := by
  unfold State.wakeOne
  simp

@[simp] theorem State.keeps_sleepOne {ex : Bool} {s₀ : State} (s : State) (core : Nat) (dt : DomTy) (ret : Bool) (i : Nat) :
    s₀.Keeps ex (s.sleepOne core dt ret i) ↔ s₀.Keeps ex s := by
  unfold State.sleepOne
  simp

@[simp] theorem State.keeps_wake {ex : Bool} {s₀ s : State} (hs : s₀.Keeps ex s) (st : Strm) (h : Hdr) (dt : DomTy)
    (mask : BitVec 32) :
    s₀.Keeps ex (s.wake st h dt mask) := by
  unfold State.wake
  simp [hs]

@[simp] theorem State.keeps_sleep {ex : Bool} {s₀ s : State} (hs : s₀.Keeps ex s) (st : Strm) (h : Hdr) (dt : DomTy)
    (ret : Bool) (mask : BitVec 32) :
    s₀.Keeps ex (s.sleep st h dt ret mask) := by
  unfold State.sleep
  simp [hs]

@[simp] theorem State.keeps_wstat {ex : Bool} {s₀ s : State} (hs : s₀.Keeps ex s) (st : Strm) (h : Hdr) (dt : DomTy)
    (mask : BitVec 32) :
    s₀.Keeps ex (s.wstat st h dt mask) := by
  unfold State.wstat
  simp [hs]

@[simp] theorem State.keeps_chargeBank {ex : Bool} {s₀ : State} (s : State) (core : Nat) (bank : Bool) (units : Nat) :
    s₀.Keeps ex (s.chargeBank core bank units) ↔ s₀.Keeps ex s := by
  unfold State.chargeBank
  simp [apply_ite Core.spad, apply_ite Core.acc]

@[simp] theorem State.keeps_useLeases {ex : Bool} {s₀ : State} (s : State) (core : Nat) (vas : List Nat) :
    s₀.Keeps ex (s.useLeases core vas) ↔ s₀.Keeps ex s := by
  unfold State.useLeases
  simp

@[simp] theorem State.keeps_dropLease {ex : Bool} {s₀ : State} (s : State) (core va : Nat) :
    s₀.Keeps ex (s.dropLease core va) ↔ s₀.Keeps ex s := by
  unfold State.dropLease
  simp

@[simp] theorem State.keeps_askWalkOf {ex : Bool} {s₀ : State} (s : State) (part core va : Nat) (req : WalkReq) :
    s₀.Keeps ex (s.askWalkOf part core va req) ↔ s₀.Keeps ex s := by
  unfold State.askWalkOf
  dsimp only
  repeat' split
  all_goals simp

@[simp] theorem State.keeps_askWalk {ex : Bool} {s₀ : State} (s : State) (core va : Nat) (req : WalkReq) :
    s₀.Keeps ex (s.askWalk core va req) ↔ s₀.Keeps ex s := by
  unfold State.askWalk
  simp

@[simp] theorem State.keeps_vec {ex : Bool} {s₀ s : State} (hs : s₀.Keeps ex s) (h : Hdr) (d : Dst) (srcs : List Src)
    (mask : Word) (rnd : Rnd) (lat units : Nat) (cross : Bool) (zs : Ctx → List PendDst) (f : Ctx → List Lane) :
    s₀.Keeps ex (s.vec h d srcs mask rnd lat units cross zs f) := by
  unfold State.vec
  simp [hs]

@[simp] theorem State.keeps_freshChecks {ex : Bool} {s₀ : State} (s : State) (a n : Nat) :
    s₀.Keeps ex (s.freshChecks a n) ↔ s₀.Keeps ex s := by
  unfold State.freshChecks
  simp

@[simp] theorem State.keeps_sendOn {ex : Bool} {s₀ : State} (s : State) (r d pa : Nat) (data : List Byte) (packed : Bool) :
    s₀.Keeps ex (s.sendOn r d pa data packed) ↔ s₀.Keeps ex s := by
  unfold State.sendOn
  simp

@[simp] theorem State.keeps_sendFlit {ex : Bool} {s₀ : State} (s : State) (r pa : Nat) (out back : List Byte) (packed : Bool) :
    s₀.Keeps ex (s.sendFlit r pa out back packed) ↔ s₀.Keeps ex s := by
  unfold State.sendFlit
  simp

@[simp] theorem State.keeps_passLink {ex : Bool} {s₀ : State} (s : State) (p : Nat × Nat) (k : Nat) :
    s₀.Keeps ex (s.passLink p k) ↔ s₀.Keeps ex s := by
  unfold State.passLink
  simp

@[simp] theorem State.keeps_carry {ex : Bool} {s₀ : State} (s : State) (r pa out back : Nat) :
    s₀.Keeps ex (s.carry r pa out back) ↔ s₀.Keeps ex s := by
  unfold State.carry
  simp

@[simp] theorem State.keeps_settleLinks {ex : Bool} {s₀ : State} (s : State) (r d : Nat) :
    s₀.Keeps ex (s.settleLinks r d) ↔ s₀.Keeps ex s := by
  unfold State.settleLinks
  simp

@[simp] theorem State.keeps_sendPeer {ex : Bool} {s₀ : State} (s : State) (pa : Nat) (data : List Byte) (packed : Bool) :
    s₀.Keeps ex (s.sendPeer pa data packed) ↔ s₀.Keeps ex s := by
  unfold State.sendPeer
  repeat' split
  all_goals simp

@[simp] theorem State.keeps_sendTo {ex : Bool} {s₀ : State} (s : State) (core : Nat) (out back : List Byte) (packed : Bool)
    (p0 : Place) :
    s₀.Keeps ex (s.sendTo core out back packed p0) ↔ s₀.Keeps ex s := by
  unfold State.sendTo
  repeat' split
  all_goals simp

@[simp] theorem State.keeps_acknowledgeTo {ex : Bool} {s₀ : State} (s : State) (core : Nat) (p0 : Place) :
    s₀.Keeps ex (s.acknowledgeTo core p0) ↔ s₀.Keeps ex s := by
  unfold State.acknowledgeTo
  repeat' split
  all_goals simp

@[simp] theorem State.keeps_linesCarry {ex : Bool} {s₀ : State} (s : State) (r a n : Nat) (wr : Bool) :
    s₀.Keeps ex (s.linesCarry r a n wr) ↔ s₀.Keeps ex s := by
  unfold State.linesCarry
  simp

@[simp] theorem State.keeps_outerCarry {ex : Bool} {s₀ : State} (s : State) (unit a n : Nat) (wr : Bool) :
    s₀.Keeps ex (s.outerCarry unit a n wr) ↔ s₀.Keeps ex s := by
  unfold State.outerCarry
  simp

@[simp] theorem State.keeps_peerCarry {ex : Bool} {s₀ : State} (s : State) (q out back : Nat) :
    s₀.Keeps ex (s.peerCarry q out back) ↔ s₀.Keeps ex s := by
  unfold State.peerCarry
  simp

@[simp] theorem State.keeps_dropRecord {ex : Bool} {s₀ : State} (s : State) (p : Nat) :
    s₀.Keeps ex (s.dropRecord p) ↔ s₀.Keeps ex s := by
  unfold State.dropRecord
  simp

@[simp] theorem State.keeps_noteWrite {ex : Bool} {s₀ : State} (s : State) (c sector : Nat) (scp : Scp) (intv : Nat) :
    s₀.Keeps ex (s.noteWrite c sector scp intv) ↔ s₀.Keeps ex s := by
  unfold State.noteWrite
  simp

@[simp] theorem State.keeps_acquire {ex : Bool} {s₀ : State} (s : State) (n : Nat) (pairs : List (Nat × Nat)) :
    s₀.Keeps ex (s.acquire n pairs) ↔ s₀.Keeps ex s := by
  unfold State.acquire
  simp

@[simp] theorem State.keeps_closeInterval {ex : Bool} {s₀ : State} (s : State) (n : Nat) :
    s₀.Keeps ex (s.closeInterval n) ↔ s₀.Keeps ex s := by
  unfold State.closeInterval
  simp

@[simp] theorem State.keeps_tellWaiters {ex : Bool} {s₀ : State} (s : State) (core off n : Nat) (pair : Option (Nat × Nat)) :
    s₀.Keeps ex (s.tellWaiters core off n pair) ↔ s₀.Keeps ex s := by
  unfold State.tellWaiters
  simp

theorem State.keeps_ringStore {ex : Bool} {s₀ s : State} (hs : s₀.Keeps ex s) (core off : Nat) (v : Word) (t : State)
    (ht : s.ringStore core off v = .inr t) : s₀.Keeps ex t := by
  unfold State.ringStore at ht
  dsimp only at ht
  repeat' split at ht
  all_goals cases ht
  all_goals simp [hs]

@[simp] theorem State.keeps_direct {ex : Bool} {s₀ : State} (s : State) (me : Nat) (a : Acc) :
    s₀.Keeps ex (s.direct me a) ↔ s₀.Keeps ex s := by
  unfold State.direct
  simp

/-- An engine's work that keeps the memories keeps them with banks changed too. -/
theorem State.keeps_turned {ex : Bool} {s₀ s : State} (hs : s₀.Keeps ex s) (cl : Nat) (eng : Eng) {f : State → State}
    (hf : ∀ t, s₀.Keeps ex t → s₀.Keeps ex (f t)) : s₀.Keeps ex (s.turned cl eng f) := by
  simp only [State.turned]
  rw [State.keeps_foldl _ _ fun u n => State.keeps_flip u n]
  exact hf _ ((State.keeps_foldl _ _ fun u n => State.keeps_flip u n).2 hs)

@[simp] theorem State.keeps_push {ex : Bool} {s₀ : State} (s : State) (k : Cmd) : s₀.Keeps ex (s.push k) ↔ s₀.Keeps ex s := by
  simp only [State.push]
  split
  · split
    · split <;> simp
    · simp
  · simp

@[simp] theorem State.keeps_resultPop {ex : Bool} {s₀ s go : State} (hs : s₀.Keeps ex s) (hg : s₀.Keeps ex go) (core : Nat)
    (eng : Eng) (r : Word) : s₀.Keeps ex (s.resultPop core eng r go) := by
  unfold State.resultPop
  simp [hs, hg]

@[simp] theorem State.keeps_chargeFor {ex : Bool} {s₀ : State} (s : State) (core units : Nat) :
    s₀.Keeps ex (s.chargeFor core units) ↔ s₀.Keeps ex s := by
  unfold State.chargeFor
  simp

@[simp] theorem State.keeps_cWalk {ex : Bool} {s₀ s : State} (hs : s₀.Keeps ex s) (h : Hdr) (units va : Nat) (r w : Bool) :
    s₀.Keeps ex (s.cWalk h units va r w) := by
  unfold State.cWalk
  simp [hs]

@[simp] theorem State.keeps_cRemote {ex : Bool} {s₀ s : State} (hs : s₀.Keeps ex s) (h : Hdr) (units va : Nat) (p : Place)
    (k : AccKind) (cls : BitVec 4) (scp : Scp) (from_ : Nat) (e : Option Lease) (d : Option Reg) :
    s₀.Keeps ex (s.cRemote h units va p k cls scp from_ e d) := by
  unfold State.cRemote
  simp [hs]

@[simp] theorem State.keeps_cResult {ex : Bool} {s₀ s : State} (hs : s₀.Keeps ex s) (h : Hdr) (eng : Eng) (d : Reg) :
    s₀.Keeps ex (s.cResult h eng d) := by
  unfold State.cResult
  dsimp only
  repeat' split
  all_goals simp [hs]

@[simp] theorem State.keeps_cLoad {ex : Bool} {s₀ s : State} (hs : s₀.Keeps ex s) (h : Hdr) (di : BitVec 5) (va : Nat)
    (cls : BitVec 4)
    (scp : Scp) (sz : Sz) (sx : Bool) : s₀.Keeps ex (s.cLoad h di va cls scp sz sx) := by
  unfold State.cLoad
  dsimp only
  split <;> (try split) <;> simp [hs]

@[simp] theorem State.keeps_cGo {ex : Bool} {s₀ s : State} (hs : s₀.Keeps ex s) (h : Hdr) (eng : Eng) (va : Nat) :
    s₀.Keeps ex (s.cGo h eng va) := by
  unfold State.cGo
  refine State.keeps_issue hs _ _ _ _ ?_
  split <;> simp [hs]

@[simp] theorem State.keeps_cStore {ex : Bool} {s₀ s : State} (hs : s₀.Keeps ex s) (h : Hdr) (v : Word) (va : Nat)
    (cls : BitVec 4)
    (scp : Scp) (sz : Sz) : s₀.Keeps ex (s.cStore h v va cls scp sz) := by
  unfold State.cStore
  dsimp only
  split
  case h_5 =>
    split
    · simp [hs]
    · next t ht =>
      have hr := State.keeps_ringStore (s₀ := s₀) (ex := ex) hs s.me _ v t ht
      simp [hs, hr]
  all_goals simp [hs]

@[simp] theorem State.keeps_cAtomic {ex : Bool} {s₀ s : State} (hs : s₀.Keeps ex s) (h : Hdr) (va : Nat) (cls : BitVec 4)
    (scp : Scp)
    (w32 : Bool) (k : AccKind) (d : Reg) : s₀.Keeps ex (s.cAtomic h va cls scp w32 k d) := by
  unfold State.cAtomic
  dsimp only
  split <;> simp [hs]

@[simp] theorem State.keeps_fenceEnd {ex : Bool} {s₀ s : State} (hs : s₀.Keeps ex s) (core : Nat) (scp : Scp) (mask : BitVec 16)
    (go : State) (hgo : s₀.Keeps ex go) :
    s₀.Keeps ex (s.fenceEnd core scp mask go) := by
  unfold State.fenceEnd
  repeat' split
  all_goals simp [hs, hgo]

@[simp] theorem State.keeps_pset {ex : Bool} {s₀ s : State} (hs : s₀.Keeps ex s) (st : Strm) (h : Hdr) (p : BitVec 4)
    (imm : BitVec 36) :
    s₀.Keeps ex (s.pset st h p imm) := by
  unfold State.pset
  simp [hs]

@[simp] theorem State.keeps_padd {ex : Bool} {s₀ s : State} (hs : s₀.Keeps ex s) (st : Strm) (h : Hdr) (p : BitVec 4)
    (imm : BitVec 36) :
    s₀.Keeps ex (s.padd st h p imm) := by
  unfold State.padd
  simp [hs]

@[simp] theorem State.keeps_prs {ex : Bool} {s₀ s : State} (hs : s₀.Keeps ex s) (st : Strm) (h : Hdr) (p ring : BitVec 4) :
    s₀.Keeps ex (s.prs st h p ring) := by
  unfold State.prs
  dsimp only
  repeat' split
  all_goals simp [hs]

@[simp] theorem State.keeps_gridIssued {ex : Bool} {s₀ : State} (t s : State) (id : Nat) (x : Lane2)
    (move : Option (BitVec 4 × Word × Word)) : s₀.Keeps ex (t.gridIssued s id x move) ↔ s₀.Keeps ex t := by
  unfold State.gridIssued
  split <;> simp

@[simp] theorem State.keeps_lineLoad {ex : Bool} {s₀ s : State} (hs : s₀.Keeps ex s) (h : Hdr) (p : BitVec 4) (x : Lane2)
    (cv : Cv)
    (one : Bool) (md : Md) (inc : BitVec 20) : s₀.Keeps ex (s.lineLoad h p x cv one md inc) := by
  simp only [State.lineLoad]
  split
  · simp [hs]
  · split
    · simp [hs]
    · cases x <;> dsimp only <;> split <;> simp [hs]

@[simp] theorem State.keeps_accLoad {ex : Bool} {s₀ s : State} (hs : s₀.Keeps ex s) (h : Hdr) (p : BitVec 4) (x : Lane2)
    (pk : Bool)
    (md : Md) (inc : BitVec 20) : s₀.Keeps ex (s.accLoad h p x pk md inc) := by
  simp only [State.accLoad]
  split
  · simp [hs]
  · split
    · simp [hs]
    · cases x <;> simp [hs]

@[simp] theorem State.keeps_laneWalk {ex : Bool} {s₀ : State} (s : State) (st : Strm) (h : Hdr) (cls : BitVec 4) (addrs : List
    (Option Nat)) (va j : Nat) (r w : Bool) :
    s₀.Keeps ex (s.laneWalk st h cls addrs va j r w) ↔ s₀.Keeps ex s := by
  unfold State.laneWalk
  simp

@[simp] theorem State.keeps_vecLoad {ex : Bool} {s₀ s : State} (hs : s₀.Keeps ex s) (h : Hdr) (x : BitVec 3) (cls : BitVec 4)
    (scp : Scp) (row : Option (BitVec 6)) (addrs : List (Option Nat)) :
    s₀.Keeps ex (s.vecLoad h x cls scp row addrs) := by
  unfold State.vecLoad
  dsimp only
  repeat' split
  all_goals simp [hs]

@[simp] theorem State.keeps_vecStore {ex : Bool} {s₀ s : State} (hs : s₀.Keeps ex s) (h : Hdr) (x : BitVec 3) (cls : BitVec 4)
    (scp : Scp) (row : Option (BitVec 6)) (addrs : List (Option Nat)) (add : Option LaneTy) :
    s₀.Keeps ex (s.vecStore h x cls scp row addrs add) := by
  unfold State.vecStore
  dsimp only
  repeat' split
  all_goals simp [hs]

@[simp] theorem State.keeps_accFail {ex : Bool} {s₀ : State} (s : State) (core : Nat) (a : Acc) (c : Cause) :
    s₀.Keeps ex (s.accFail core a c) ↔ s₀.Keeps ex s := by
  unfold State.accFail
  simp

@[simp] theorem State.keeps_tagPut {ex : Bool} {s₀ : State} (s : State) (core slice tag : Nat) (v : Word) :
    s₀.Keeps ex (s.tagPut core slice tag v) ↔ s₀.Keeps ex s := by
  unfold State.tagPut
  simp

@[simp] theorem State.keeps_performPeer {ex : Bool} {s₀ : State} (s : State) (core : Nat) (a : Acc) (pa : Nat) :
    s₀.Keeps ex (s.performPeer core a pa) ↔ s₀.Keeps ex s := by
  unfold State.performPeer
  repeat' split
  all_goals simp

@[simp] theorem State.keeps_spadLost {ex : Bool} {s₀ : State} (s : State) (core : Nat) (a : Acc) (c : Nat) :
    s₀.Keeps ex (s.spadLost core a c) ↔ s₀.Keeps ex s := by
  unfold State.spadLost
  simp

/-- Work with the banks changed, or as they are. -/
theorem State.keeps_flipped {ex : Bool} {s₀ s : State} (hs : s₀.Keeps ex s) (core : Nat) (older : Bool) {f : State → State}
    (hf : ∀ t, s₀.Keeps ex t → s₀.Keeps ex (f t)) : s₀.Keeps ex (if older then (f (s.flip core)).flip core else f s) := by
  split
  · exact (State.keeps_flip _ _).2 (hf _ ((State.keeps_flip _ _).2 hs))
  · exact hf s hs

/-- A class FIFO's step that keeps the memories keeps them with banks changed too. -/
theorem State.keeps_onFifo {ex : Bool} {s₀ s : State} (hs : s₀.Keeps ex s) (core : Nat) (cls : BitVec 4) {f : State → State}
    (hf : ∀ t, s₀.Keeps ex t → s₀.Keeps ex (f t)) : s₀.Keeps ex (s.onFifo core cls f) :=
  State.keeps_flipped hs core _ hf

@[simp] theorem State.keeps_lanesDone {ex : Bool} {s₀ : State} (s : State) (core : Nat) (st : Strm) (pop : Option (BitVec 3)) :
    s₀.Keeps ex (s.lanesDone core st pop) ↔ s₀.Keeps ex s := by
  unfold State.lanesDone
  simp

@[simp] theorem State.keeps_postedFail {ex : Bool} {s₀ : State} (s : State) (core pa : Nat) :
    s₀.Keeps ex (s.postedFail core pa) ↔ s₀.Keeps ex s := by
  unfold State.postedFail
  simp

@[simp] theorem State.keeps_endCopy {ex : Bool} {s₀ : State} (s : State) (core seq : Nat) (c : Cause) :
    s₀.Keeps ex (s.endCopy core seq c) ↔ s₀.Keeps ex s := by
  unfold State.endCopy
  simp

@[simp] theorem State.keeps_setQueue {ex : Bool} {s₀ : State} (s : State) (slice : Nat) (q : List SliceEntry) :
    s₀.Keeps ex (s.setQueue slice q) ↔ s₀.Keeps ex s := by
  unfold State.setQueue
  simp

@[simp] theorem State.keeps_renewEntry {ex : Bool} {s₀ : State} (s : State) (slice : Nat) (e : SliceEntry) (l : Lease) :
    s₀.Keeps ex (s.renewEntry slice e l) ↔ s₀.Keeps ex s := by
  unfold State.renewEntry
  repeat' split
  all_goals simp

@[simp] theorem State.keeps_renewQueued {ex : Bool} {s₀ : State} (s : State) (core seq va : Nat) (l : Lease) :
    s₀.Keeps ex (s.renewQueued core seq va l) ↔ s₀.Keeps ex s := by
  unfold State.renewQueued
  simp

@[simp] theorem State.keeps_dropQueued {ex : Bool} {s₀ : State} (s : State) (core seq va : Nat) :
    s₀.Keeps ex (s.dropQueued core seq va) ↔ s₀.Keeps ex s := by
  unfold State.dropQueued
  simp

@[simp] theorem State.keeps_askEntry {ex : Bool} {s₀ : State} (s : State) (e : SliceEntry) :
    s₀.Keeps ex (s.askEntry e) ↔ s₀.Keeps ex s := by
  unfold State.askEntry
  repeat' split
  all_goals simp

@[simp] theorem State.keeps_cacheAccess {ex : Bool} {s₀ : State} (s : State) (core : Nat) (e : Lease) :
    s₀.Keeps ex (s.cacheAccess core e) ↔ s₀.Keeps ex s := by
  unfold State.cacheAccess
  simp

@[simp] theorem State.keeps_cacheCopy {ex : Bool} {s₀ : State} (s : State) (cl : Nat) (e : Lease) :
    s₀.Keeps ex (s.cacheCopy cl e) ↔ s₀.Keeps ex s := by
  unfold State.cacheCopy
  simp

@[simp] theorem State.keeps_walkHead {ex : Bool} {s₀ : State} (s : State) (q : WalkReq) (st : Strm) (f : Found) :
    s₀.Keeps ex (s.walkHead q st f) ↔ s₀.Keeps ex s := by
  unfold State.walkHead
  simp

@[simp] theorem State.keeps_walkAcc {ex : Bool} {s₀ : State} (s : State) (q : WalkReq) (cls : BitVec 4) (id : Nat) (f : Found) :
    s₀.Keeps ex (s.walkAcc q cls id f) ↔ s₀.Keeps ex s := by
  unfold State.walkAcc
  repeat' split
  all_goals simp

@[simp] theorem State.keeps_walkCopy {ex : Bool} {s₀ : State} (s : State) (q : WalkReq) (seq : Nat) (f : Found) :
    s₀.Keeps ex (s.walkCopy q seq f) ↔ s₀.Keeps ex s := by
  unfold State.walkCopy
  repeat' split
  all_goals simp

@[simp] theorem State.keeps_walkPref {ex : Bool} {s₀ : State} (s : State) (q : WalkReq) (seq : Nat) (also : Bool) (f : Found) :
    s₀.Keeps ex (s.walkPref q seq also f) ↔ s₀.Keeps ex s := by
  unfold State.walkPref
  repeat' split
  all_goals simp

@[simp] theorem State.keeps_preloadInto {ex : Bool} {s₀ : State} (s : State) (r : Region) (caches core : Nat) (e : Lease) :
    s₀.Keeps ex (s.preloadInto r caches core e) ↔ s₀.Keeps ex s := by
  unfold State.preloadInto
  simp

@[simp] theorem State.keeps_walkPreload {ex : Bool} {s₀ : State} (s : State) (part order : Nat) (q : WalkReq) (f : Found) :
    s₀.Keeps ex (s.walkPreload part order q f) ↔ s₀.Keeps ex s := by
  unfold State.walkPreload
  dsimp only
  repeat' split
  all_goals simp

@[simp] theorem State.keeps_deliver {ex : Bool} {s₀ s : State} (hs : s₀.Keeps ex s) (part : Nat) (f0 : Found) (q : WalkReq) :
    s₀.Keeps ex (s.deliver part f0 q) := by
  have hc (f : Found) : s₀.Keeps ex (match f with
      | .lease e _ => s.cacheAccess q.core e
      | .fail _ => s) := by
    cases f <;> simp [hs]
  simp only [State.deliver]
  split
  · exact (State.keeps_walkHead _ _ _ _).2 (hc _)
  · exact hc _
  · split <;> simp [hs]
  · exact State.keeps_turned hs _ _ fun t ht => by simp [ht]
  · exact State.keeps_turned hs _ _ fun t ht => by simp [ht]
  · simp [hs]

@[simp] theorem State.keeps_checkPage {ex : Bool} {s₀ : State} (s : State) (part : Nat) (e : Lease) :
    s₀.Keeps ex (s.checkPage part e) ↔ s₀.Keeps ex s := by
  unfold State.checkPage
  simp

@[simp] theorem State.keeps_foundPage {ex : Bool} {s₀ : State} (s : State) (part : Nat) (p0 : Found) :
    s₀.Keeps ex (s.foundPage part p0) ↔ s₀.Keeps ex s := by
  unfold State.foundPage
  repeat' split
  all_goals simp

@[simp] theorem State.keeps_endWalk {ex : Bool} {s₀ s : State} (hs : s₀.Keeps ex s) (cl : Nat) (w : Walk) (f : Found) :
    s₀.Keeps ex (s.endWalk cl w f) := by
  unfold State.endWalk
  exact State.keeps_foldl_imp (by simp [hs]) _ _ fun u q hu => State.keeps_deliver hu _ _ _

@[simp] theorem State.keeps_setWalk {ex : Bool} {s₀ : State} (s : State) (cl : Nat) (k k' : Walk) :
    s₀.Keeps ex (s.setWalk cl k k') ↔ s₀.Keeps ex s := by
  unfold State.setWalk
  simp

@[simp] theorem State.keeps_askHost {ex : Bool} {s₀ s : State} (hs : s₀.Keeps ex s) (cl : Nat) (k : Walk) :
    s₀.Keeps ex (s.askHost cl k) := by
  unfold State.askHost
  simp [hs]

@[simp] theorem State.keeps_couplingSend {ex : Bool} {s₀ : State} (s : State) (a b : Nat) (v : List Lane) :
    s₀.Keeps ex (s.couplingSend a b v) ↔ s₀.Keeps ex s := by
  unfold State.couplingSend
  simp

@[simp] theorem State.keeps_modCopy {ex : Bool} {s₀ : State} (s : State) (k : Cmd) (f : Cmd → Cmd) :
    s₀.Keeps ex (s.modCopy k f) ↔ s₀.Keeps ex s := by
  unfold State.modCopy
  simp

@[simp] theorem State.keeps_failCopy {ex : Bool} {s₀ : State} (s : State) (k : Cmd) (c : Cause) :
    s₀.Keeps ex (s.failCopy k c) ↔ s₀.Keeps ex s := by
  unfold State.failCopy
  simp

@[simp] theorem State.keeps_pauseCopy {ex : Bool} {s₀ : State} (s : State) (k : Cmd) :
    s₀.Keeps ex (s.pauseCopy k) ↔ s₀.Keeps ex s := by
  unfold State.pauseCopy
  simp

@[simp] theorem State.keeps_holdLease {ex : Bool} {s₀ : State} (s : State) (k : Cmd) (va : Nat) (e : Lease) :
    s₀.Keeps ex (s.holdLease k va e) ↔ s₀.Keeps ex s := by
  unfold State.holdLease
  simp

@[simp] theorem State.keeps_giveUp {ex : Bool} {s₀ : State} (s : State) (k : Cmd) (e : Lease) :
    s₀.Keeps ex (s.giveUp k e) ↔ s₀.Keeps ex s := by
  unfold State.giveUp
  simp

@[simp] theorem State.keeps_queueWrite {ex : Bool} {s₀ : State} (s : State) (k : Cmd) (va pa : Nat) (l : Option Lease)
    (packed : Bool) (bytes : List Byte) :
    s₀.Keeps ex (s.queueWrite k va pa l packed bytes) ↔ s₀.Keeps ex s := by
  unfold State.queueWrite
  simp

@[simp] theorem State.keeps_sendPiece {ex : Bool} {s₀ : State} (s : State) (k : Cmd) (p : Piece) :
    s₀.Keeps ex (s.sendPiece k p) ↔ s₀.Keeps ex s := by
  unfold State.sendPiece
  simp

@[simp] theorem State.keeps_nextRow {ex : Bool} {s₀ : State} (s : State) (k : Cmd) (read write : Option Nat) :
    s₀.Keeps ex (s.nextRow k read write) ↔ s₀.Keeps ex s := by
  unfold State.nextRow
  simp

@[simp] theorem State.keeps_startCmd {ex : Bool} {s₀ : State} (s : State) (k : Cmd) (runner : Nat) (info : BitVec 16) :
    s₀.Keeps ex (s.startCmd k runner info) ↔ s₀.Keeps ex s := by
  simp only [State.startCmd]
  split <;> simp

@[simp] theorem State.keeps_engineFree {ex : Bool} {s₀ : State} (s : State) (k : Cmd) :
    s₀.Keeps ex (s.engineFree k) ↔ s₀.Keeps ex s := by
  unfold State.engineFree
  repeat' split
  all_goals simp

@[simp] theorem State.keeps_arriveHome {ex : Bool} {s₀ : State} (s : State) (p n : Nat) (o : HomeOp) :
    s₀.Keeps ex (s.arriveHome p n o) ↔ s₀.Keeps ex s := by
  unfold State.arriveHome
  simp

@[simp] theorem State.keeps_syncGo {ex : Bool} {s₀ : State} (s : State) (h : Hdr) (op : SyncOp) (n : Nat) (scp : Scp)
    (mask : BitVec 16) (slot : Nat) (d : Option Reg) :
    s₀.Keeps ex (s.syncGo h op n scp mask slot d) ↔ s₀.Keeps ex s := by
  unfold State.syncGo
  simp

@[simp] theorem State.keeps_ringOp {ex : Bool} {s₀ s : State} (hs : s₀.Keeps ex s) (h : Hdr) (op : SyncOp) (idx : BitVec 6)
    (scp : Scp) (mask : BitVec 16) (slot : Nat) (d : Option Reg) :
    s₀.Keeps ex (s.ringOp h op idx scp mask slot d) := by
  unfold State.ringOp
  dsimp only
  repeat' split
  all_goals simp [hs]

@[simp] theorem State.keeps_applyRing {ex : Bool} {s₀ : State} (s : State) (p n : Nat) :
    s₀.Keeps ex (s.applyRing p n) ↔ s₀.Keeps ex s := by
  unfold State.applyRing
  repeat' split
  all_goals simp

@[simp] theorem State.keeps_openBar {ex : Bool} {s₀ : State} (s : State) (n : Nat) (g : BitVec 16) (pairs : List (Nat × Nat))
    (core : Nat) :
    s₀.Keeps ex (s.openBar n g pairs core) ↔ s₀.Keeps ex s := by
  unfold State.openBar
  simp [apply_ite Core.spad, apply_ite Core.acc]

@[simp] theorem State.keeps_applyBar {ex : Bool} {s₀ : State} (s : State) (p n : Nat) :
    s₀.Keeps ex (s.applyBar p n) ↔ s₀.Keeps ex s := by
  unfold State.applyBar
  dsimp only
  repeat' split
  all_goals simp

@[simp] theorem State.keeps_gather {ex : Bool} {s₀ : State} (s : State) (p : Nat) (bar : Bool) (n : Nat) :
    s₀.Keeps ex (s.gather p bar n) ↔ s₀.Keeps ex s := by
  unfold State.gather
  refine State.keeps_foldl _ _ fun u core => ?_
  split <;> simp

@[simp] theorem State.keeps_batchEnd {ex : Bool} {s₀ s : State} (hs : s₀.Keeps ex s) (core : Nat) (eng : Eng) (b : Nat)
    (go : State) (hgo : s₀.Keeps ex go) :
    s₀.Keeps ex (s.batchEnd core eng b go) := by
  unfold State.batchEnd
  repeat' split
  all_goals simp [hs, hgo]

@[simp] theorem State.keeps_prefetch {ex : Bool} {s₀ : State} (s : State) (core k va stop : Nat) :
    s₀.Keeps ex (s.prefetch core k va stop) ↔ s₀.Keeps ex s := by
  induction k generalizing s va stop with
  | zero => rfl
  | succ k ih =>
    unfold State.prefetch
    dsimp only
    split
    · rfl
    · split
      · exact ih _ _ _
      · split <;> simp [ih]

@[simp] theorem State.keeps_swapBanks {ex : Bool} {s₀ : State} (s : State) (n : Nat) :
    s₀.Keeps ex (s.swapBanks n) ↔ s₀.Keeps ex s := by
  unfold State.swapBanks
  simp

@[simp] theorem State.keeps_exchangeFrom {ex : Bool} {s₀ : State} (s : State) (n f : Nat) :
    s₀.Keeps ex (s.exchangeFrom n f) ↔ s₀.Keeps ex s := by
  unfold State.exchangeFrom
  simp

@[simp] theorem State.keeps_sleepBank {ex : Bool} {s₀ : State} (s : State) (n : Nat) (bank : Bool) :
    s₀.Keeps ex (s.sleepBank n bank) ↔ s₀.Keeps ex s := by
  simp only [State.sleepBank]
  split <;> simp

@[simp] theorem State.keeps_sleepCluster {ex : Bool} {s₀ : State} (s : State) (cl : Nat) :
    s₀.Keeps ex (s.sleepCluster cl) ↔ s₀.Keeps ex s := by
  unfold State.sleepCluster
  simp

@[simp] theorem State.keeps_sqError {ex : Bool} {s₀ : State} (s : State) (part : Nat) :
    s₀.Keeps ex (s.sqError part) ↔ s₀.Keeps ex s := by
  unfold State.sqError
  simp

@[simp] theorem State.keeps_wakeArea {ex : Bool} {s₀ : State} (s : State) (by_ n : Nat) (bank : Bool) (base : Nat) (m : Memory)
    (ty : DomTy) :
    s₀.Keeps ex (s.wakeArea by_ n bank base m ty) ↔ s₀.Keeps ex s := by
  unfold State.wakeArea
  simp

@[simp] theorem State.keeps_wakeSaved {ex : Bool} {s₀ : State} (s : State) (areas : List (Nat × Bool × Nat × Memory)) :
    s₀.Keeps ex (s.wakeSaved areas) ↔ s₀.Keeps ex s := by
  unfold State.wakeSaved
  simp

@[simp] theorem State.keeps_retainArea {ex : Bool} {s₀ : State} (s : State) (n : Nat) (bank : Bool) (base : Nat) (m : Memory) :
    s₀.Keeps ex (s.retainArea n bank base m) ↔ s₀.Keeps ex s := by
  unfold State.retainArea
  simp

@[simp] theorem State.keeps_haltOne {ex : Bool} {s₀ : State} (s : State) (part order n : Nat) :
    s₀.Keeps ex (s.haltOne part order n) ↔ s₀.Keeps ex s := by
  unfold State.haltOne
  repeat' split
  all_goals simp

@[simp] theorem State.keeps_takeHalts {ex : Bool} {s₀ : State} (s : State) (n : Nat) :
    s₀.Keeps ex (s.takeHalts n) ↔ s₀.Keeps ex s := by
  unfold State.takeHalts
  simp

@[simp] theorem State.keeps_stopGo {ex : Bool} {s₀ : State} (s : State) (core : Nat) :
    s₀.Keeps ex (s.stopGo core) ↔ s₀.Keeps ex s := by
  unfold State.stopGo
  dsimp only
  repeat' split
  all_goals simp

@[simp] theorem State.keeps_pctlDone {ex : Bool} {s₀ : State} (s : State) (part : Nat) :
    s₀.Keeps ex (s.pctlDone part) ↔ s₀.Keeps ex s := by
  unfold State.pctlDone
  simp

@[simp] theorem State.keeps_stopFor {ex : Bool} {s₀ : State} (s : State) (n : Nat) :
    s₀.Keeps ex (s.stopFor n) ↔ s₀.Keeps ex s := by
  unfold State.stopFor
  simp

@[simp] theorem State.keeps_preempt {ex : Bool} {s₀ : State} (s : State) (part regid : Nat) :
    s₀.Keeps ex (s.preempt part regid) ↔ s₀.Keeps ex s := by
  unfold State.preempt
  dsimp only
  repeat' split
  all_goals simp

@[simp] theorem State.keeps_resumeRegion {ex : Bool} {s₀ : State} (s : State) (part regid : Nat) :
    s₀.Keeps ex (s.resumeRegion part regid) ↔ s₀.Keeps ex s := by
  unfold State.resumeRegion
  repeat' split
  all_goals simp

@[simp] theorem State.keeps_unpost {ex : Bool} {s₀ : State} (s : State) (part order : Nat) :
    s₀.Keeps ex (s.unpost part order) ↔ s₀.Keeps ex s := by
  unfold State.unpost
  simp

@[simp] theorem State.keeps_place {ex : Bool} {s₀ : State} (s : State) (part slice regid : Nat) :
    s₀.Keeps ex (s.place part slice regid) ↔ s₀.Keeps ex s := by
  unfold State.place
  repeat' split
  all_goals simp

@[simp] theorem State.keeps_stopSharing {ex : Bool} {s₀ : State} (s : State) (part slice : Nat) :
    s₀.Keeps ex (s.stopSharing part slice) ↔ s₀.Keeps ex s := by
  unfold State.stopSharing
  simp

@[simp] theorem State.keeps_endPlacing {ex : Bool} {s₀ : State} (s : State) (part : Nat) :
    s₀.Keeps ex (s.endPlacing part) ↔ s₀.Keeps ex s := by
  unfold State.endPlacing
  simp

@[simp] theorem State.keeps_dropPlacing {ex : Bool} {s₀ : State} (s : State) (part : Nat) :
    s₀.Keeps ex (s.dropPlacing part) ↔ s₀.Keeps ex s := by
  unfold State.dropPlacing
  simp

@[simp] theorem State.keeps_markSkewed {ex : Bool} {s₀ : State} (s : State) (cl : Nat) :
    s₀.Keeps ex (s.markSkewed cl) ↔ s₀.Keeps ex s := by
  unfold State.markSkewed
  simp

@[simp] theorem State.keeps_rewalk {ex : Bool} {s₀ : State} (s : State) (cl : Nat) : s₀.Keeps ex
    (s.rewalk cl) ↔ s₀.Keeps ex s := by
  unfold State.rewalk
  refine State.keeps_foldl _ _ fun t n => ?_
  refine (State.keeps_foldl _ _ fun u k => State.keeps_foldl _ _ fun u m => State.keeps_askWalk _ _ _ _).trans ?_
  simp

@[simp] theorem State.keeps_hostBeacon {ex : Bool} {s₀ : State} (s : State) (link : Nat) (drift : Int) :
    s₀.Keeps ex (s.hostBeacon link drift) ↔ s₀.Keeps ex s := by
  unfold State.hostBeacon
  simp

@[simp] theorem State.keeps_emit {ex : Bool} {s₀ : State} (s : State) (v : List Byte) :
    s₀.Keeps ex (s.emit v) ↔ s₀.Keeps ex s := by
  unfold State.emit
  simp

@[simp] theorem State.keeps_modLink {ex : Bool} {s₀ : State} (s : State) (peer : Bool) (r p : Nat) (f : Link → Link) :
    s₀.Keeps ex (s.modLink peer r p f) ↔ s₀.Keeps ex s := by
  unfold State.modLink
  simp

@[simp] theorem State.keeps_modEnds {ex : Bool} {s₀ : State} (s : State) (peer : Bool) (r p : Nat) (f : Link → Link) :
    s₀.Keeps ex (s.modEnds peer r p f) ↔ s₀.Keeps ex s := by
  unfold State.modEnds
  simp

@[simp] theorem State.keeps_retrain {ex : Bool} {s₀ : State} (s : State) (peer : Bool) (r p : Nat) :
    s₀.Keeps ex (s.retrain peer r p) ↔ s₀.Keeps ex s := by
  unfold State.retrain
  simp

@[simp] theorem State.keeps_acknowledge {ex : Bool} {s₀ : State} (s : State) (peer : Bool) (r p : Nat) (seq : BitVec 8) :
    s₀.Keeps ex (s.acknowledge peer r p seq) ↔ s₀.Keeps ex s := by
  unfold State.acknowledge
  simp

@[simp] theorem State.keeps_requestReplay {ex : Bool} {s₀ : State} (s : State) (peer : Bool) (r p : Nat) :
    s₀.Keeps ex (s.requestReplay peer r p) ↔ s₀.Keeps ex s := by
  unfold State.requestReplay
  simp

@[simp] theorem State.keeps_replayElsewhere {ex : Bool} {s₀ : State} (s : State) (q : Nat) :
    s₀.Keeps ex (s.replayElsewhere q) ↔ s₀.Keeps ex s := by
  unfold State.replayElsewhere
  refine State.keeps_foldl _ _ fun t f => ?_
  dsimp only
  split
  · rfl
  · split <;> simp

@[simp] theorem State.keeps_reroute {ex : Bool} {s₀ : State} (s : State) (r p dest : Nat) :
    s₀.Keeps ex (s.reroute r p dest) ↔ s₀.Keeps ex s := by
  unfold State.reroute
  simp

@[simp] theorem State.keeps_softError {ex : Bool} {s₀ : State} (s : State) (n : Nat) :
    s₀.Keeps ex (s.softError n) ↔ s₀.Keeps ex s := by
  unfold State.softError
  repeat' split
  all_goals simp

@[simp] theorem State.keeps_startMailbox {ex : Bool} {s₀ : State} (s : State) (who : Party) (code : Nat) (op : Option MbOp) :
    s₀.Keeps ex (s.startMailbox who code op) ↔ s₀.Keeps ex s := by
  unfold State.startMailbox
  simp

@[simp] theorem State.keeps_carveOut {ex : Bool} {s₀ : State} (s : State) : s₀.Keeps ex s.carveOut ↔ s₀.Keeps ex s := by
  unfold State.carveOut
  simp

@[simp] theorem State.keeps_writeSqcfg {ex : Bool} {s₀ : State} (s : State) (part : Nat) (v : Word) :
    s₀.Keeps ex (s.writeSqcfg part v) ↔ s₀.Keeps ex s := by
  unfold State.writeSqcfg
  simp

@[simp] theorem State.keeps_writeBshare {ex : Bool} {s₀ : State} (s : State) (part : Nat) (v : Word) :
    s₀.Keeps ex (s.writeBshare part v) ↔ s₀.Keeps ex s := by
  unfold State.writeBshare
  repeat' split
  all_goals simp

@[simp] theorem State.keeps_enablePart {ex : Bool} {s₀ : State} (s : State) (part : Nat) (v : Word) :
    s₀.Keeps ex (s.enablePart part v) ↔ s₀.Keeps ex s := by
  unfold State.enablePart
  simp

@[simp] theorem State.keeps_writeBp {ex : Bool} {s₀ : State} (s : State) (part n k : Nat) (v : Word) :
    s₀.Keeps ex (s.writeBp part n k v) ↔ s₀.Keeps ex s := by
  unfold State.writeBp
  simp

@[simp] theorem State.keeps_writeMgmt {ex : Bool} {s₀ : State} (s : State) (who : Party) (off : Nat) (v : Word) :
    s₀.Keeps ex (s.writeMgmt who off v) ↔ s₀.Keeps ex s := by
  unfold State.writeMgmt
  repeat' split
  all_goals simp

@[simp] theorem State.keeps_readClears {ex : Bool} {s₀ : State} (s : State) (off : Nat) :
    s₀.Keeps ex (s.readClears off) ↔ s₀.Keeps ex s := by
  unfold State.readClears
  simp

@[simp] theorem State.keeps_readBar {ex : Bool} {s₀ : State} (s : State) (who : Party) (off n : Nat) :
    s₀.Keeps ex (s.readBar who off n) ↔ s₀.Keeps ex s := by
  unfold State.readBar
  simp

@[simp] theorem State.keeps_writeMsix {ex : Bool} {s₀ : State} (s : State) (off : Nat) (v : Word) :
    s₀.Keeps ex (s.writeMsix off v) ↔ s₀.Keeps ex s := by
  unfold State.writeMsix
  simp

@[simp] theorem State.keeps_mapAperture {ex : Bool} {s₀ : State} (s : State) (bar bytes part off : Nat) :
    s₀.Keeps ex (s.mapAperture bar bytes part off) ↔ s₀.Keeps ex s := by
  unfold State.mapAperture
  simp

@[simp] theorem State.keeps_arith2 {ex : Bool} {s₀ s : State} (hs : s₀.Keeps ex s) (h : Hdr) (d : Dst) (a b : Src) (ty : FTy)
    (z : BitVec 3) (rnd : Rnd) (op : FV → FV → FV) :
    s₀.Keeps ex (s.arith2 h d a b ty z rnd op) := by
  unfold State.arith2
  simp [hs]

@[simp] theorem State.keeps_arith3 {ex : Bool} {s₀ s : State} (hs : s₀.Keeps ex s) (h : Hdr) (d : Dst) (a b c : Src) (ty : FTy)
    (z : BitVec 3) (rnd : Rnd) (op : FV → FV → FV → FV) :
    s₀.Keeps ex (s.arith3 h d a b c ty z rnd op) := by
  unfold State.arith3
  simp [hs]

@[simp] theorem State.keeps_pick2 {ex : Bool} {s₀ s : State} (hs : s₀.Keeps ex s) (h : Hdr) (d : Dst) (srcs : List Src)
    (a b : Src) (ty : FTy) (z : BitVec 3) (op : Fmt → Nat → Nat → Nat) :
    s₀.Keeps ex (s.pick2 h d srcs a b ty z op) := by
  unfold State.pick2
  simp [hs]

@[simp] theorem State.keeps_trans {ex : Bool} {s₀ s : State} (hs : s₀.Keeps ex s) (h : Hdr) (d : Dst) (a : Src) (z : BitVec 3)
    (rnd : Rnd) (lat : Nat) (op : Rnd → Nat → FV → Nat) :
    s₀.Keeps ex (s.trans h d a z rnd lat op) := by
  unfold State.trans
  simp [hs]

@[simp] theorem State.keeps_map1 {ex : Bool} {s₀ s : State} (hs : s₀.Keeps ex s) (h : Hdr) (d : Dst) (a : Src) (z : BitVec 3)
    (lat units : Nat) (op : Lane → Lane) :
    s₀.Keeps ex (s.map1 h d a z lat units op) := by
  unfold State.map1
  simp [hs]

@[simp] theorem State.keeps_map2 {ex : Bool} {s₀ s : State} (hs : s₀.Keeps ex s) (h : Hdr) (d : Dst) (a b : Src) (z : BitVec 3)
    (lat units : Nat) (op : Lane → Lane → Lane) :
    s₀.Keeps ex (s.map2 h d a b z lat units op) := by
  unfold State.map2
  simp [hs]

@[simp] theorem State.keeps_compare {ex : Bool} {s₀ s : State} (hs : s₀.Keeps ex s) (h : Hdr) (d : Dst) (a b : Src)
    (zt z : BitVec 3) (units : Nat) (p : Lane → Lane → Bool) :
    s₀.Keeps ex (s.compare h d a b zt z units p) := by
  unfold State.compare
  simp [hs]

@[simp] theorem State.keeps_cross {ex : Bool} {s₀ s : State} (hs : s₀.Keeps ex s) (h : Hdr) (d : Dst) (srcs : List Src)
    (mask : Word) (rnd : Rnd) (lat units : Nat) (f : Ctx → List Lane) :
    s₀.Keeps ex (s.cross h d srcs mask rnd lat units f) := by
  unfold State.cross
  simp [hs]

@[simp] theorem State.keeps_zop {ex : Bool} {s₀ s : State} (hs : s₀.Keeps ex s) (h : Hdr) (zd za zb z : BitVec 3)
    (op : Word → Word → Word) :
    s₀.Keeps ex (s.zop h zd za zb z op) := by
  unfold State.zop
  simp [hs]

@[simp] theorem State.keeps_cmulOp {ex : Bool} {s₀ s : State} (hs : s₀.Keeps ex s) (h : Hdr) (d : Dst) (a b : Src)
    (z : BitVec 3) (rnd : Rnd) (conj : Bool) :
    s₀.Keeps ex (s.cmulOp h d a b z rnd conj) := by
  unfold State.cmulOp
  simp [hs]

@[simp] theorem State.keeps_cmaOp {ex : Bool} {s₀ s : State} (hs : s₀.Keeps ex s) (h : Hdr) (d : Dst) (a b c : Src)
    (z : BitVec 3) (rnd : Rnd) (conj : Bool) :
    s₀.Keeps ex (s.cmaOp h d a b c z rnd conj) := by
  unfold State.cmaOp
  simp [hs]

@[simp] theorem State.keeps_classStop {ex : Bool} {s₀ : State} (s : State) (n : Nat) :
    s₀.Keeps ex (s.classStop n) ↔ s₀.Keeps ex s := by
  unfold State.classStop
  simp

@[simp] theorem State.keeps_coreTurns {ex : Bool} {s₀ : State} (s : State) (n : Nat) : s₀.Keeps ex
    (s.coreTurns n).1 ↔ s₀.Keeps ex s := by
  simp only [State.coreTurns]
  split
  · simp
  · split
    · rfl
    · split
      · simp
      · split <;> simp

@[simp] theorem State.keeps_runTurns {ex : Bool} {s₀ : State} (s : State) (n : Nat) :
    s₀.Keeps ex (s.runTurns n) ↔ s₀.Keeps ex s := by
  unfold State.runTurns
  simp

@[simp] theorem State.keeps_runSettle {ex : Bool} {s₀ : State} (s : State) (cl : Nat) :
    s₀.Keeps ex (s.runSettle cl) ↔ s₀.Keeps ex s := by
  unfold State.runSettle
  simp

end Sys2Proof.Machine
end

section
/-! PROOF. The shared operations that write memory keep its canonical form; one lemma for each. -/

namespace Sys2Proof.Machine

/-! ## Parts of a step that write memory keep its canonical form -/

/-- A write of device memory that keeps its canonical form. -/
theorem State.keeps_mkMem {s₀ t : State} (h : s₀.Keeps false t) {m : Memory} (hm : t.mem.wf = true → m.wf = true) (cur : Cur)
    (agenda : List Act) (fresh now : Nat) (parts : Store Part) (slices : Slices) (mgmt : Mgmt) (fabric : Fabric) :
    s₀.Keeps false (State.mk cur agenda fresh now t.cores t.clusters parts m slices mgmt fabric) := by
  refine ⟨fun ho => ?_, fun he => nomatch he⟩
  obtain ⟨h1, h2, h3⟩ := h.1 ho
  exact ⟨hm h1, h2, h3⟩

/-- A core that is set with memories in canonical form. -/
theorem State.keeps_setCoreMem {s₀ t : State} (h : s₀.Keeps false t) (n : Nat) {c : Core}
    (hc : t.MemOk → c.spad.wf = true ∧ c.acc.wf = true) : s₀.Keeps false (t.setCore n c) :=
  ⟨fun ho => (h.1 ho).setCore n (hc (h.1 ho)), fun he => nomatch he⟩

/-- A change of a core that keeps its memories in canonical form. -/
theorem State.keeps_modCoreMem {s₀ t : State} (h : s₀.Keeps false t) (n : Nat) {f : Core → Core}
    (hf : ∀ c, c.spad.wf = true → c.acc.wf = true → (f c).spad.wf = true ∧ (f c).acc.wf = true) : s₀.Keeps false (t.modCore n f) :=
  State.keeps_setCoreMem h n fun ho => hf _ (ho.core n).1 (ho.core n).2

/-- A change of a cluster that keeps its weight buffer in canonical form. -/
theorem State.keeps_modClusterMem {s₀ t : State} (h : s₀.Keeps false t) (n : Nat) {f : Cluster → Cluster}
    (hf : ∀ c, c.wb.wf = true → (f c).wb.wf = true) : s₀.Keeps false (t.modCluster n f) :=
  ⟨fun ho => (h.1 ho).setCluster n (hf _ ((h.1 ho).cluster n)), fun he => nomatch he⟩

/-- A part that may fail, with the state when it does. -/
theorem State.keeps_getD {s₀ d : State} {o : Option State} (ho : ∀ t, o = some t → s₀.Keeps false t) (hd : s₀.Keeps false d) :
    s₀.Keeps false (o.getD d) := by
  cases o with
  | none => exact hd
  | some t => exact ho t rfl

/-! ## Results that carry a state -/

/-- What a translation of an engine's address keeps. -/
def Page.Keeps (ex : Bool) (s₀ : State) : Page → Prop
  | .wait t => s₀.Keeps ex t
  | .fail _ => True
  | .ok t _ _ => s₀.Keeps ex t

/-- What a read of the copy engine keeps. -/
def Elem.Keeps (ex : Bool) (s₀ : State) : Elem → Prop
  | .wait t => s₀.Keeps ex t
  | .fail _ => True
  | .bad _ => True
  | .ok t _ _ => s₀.Keeps ex t

/-- What the search for the places of a row keeps. -/
def Pieces.Keeps (ex : Bool) (s₀ : State) : Pieces → Prop
  | .wait t => s₀.Keeps ex t
  | .fail _ => True
  | .bad _ => True
  | .ok t _ => s₀.Keeps ex t

theorem State.keeps_copyPage {ex : Bool} {s₀ s : State} (hs : s₀.Keeps ex s) (k : Cmd) (dst : Bool) (prev : Option Nat) (va : Nat)
    (next : Option Nat) (out back : Nat) : (s.copyPage k dst prev va next out back).Keeps ex s₀ := by
  simp only [State.copyPage]
  repeat' split
  all_goals simp [Page.Keeps, hs]

theorem State.keeps_peerElem {ex : Bool} {s₀ s : State} (hs : s₀.Keeps ex s) (may : Bool) (free : BitVec 256) :
    (s.peerElem may free).Keeps ex s₀ := by
  unfold State.peerElem
  split <;> simp [Elem.Keeps, hs]

theorem State.keeps_placeRow {ex : Bool} {s₀ s : State} (hs : s₀.Keeps ex s) (k : Cmd) (first : Bool) (va : Nat)
    (es : List (Bool × List Byte)) : (s.placeRow k first va es).Keeps ex s₀ := by
  induction es generalizing s first va with
  | nil => exact hs
  | cons e es ih =>
    have put {t : State} (ht : s₀.Keeps ex t) (p : Piece) : (match t.placeRow k false (va + elemSpan e) es with
        | .ok u ps => Pieces.ok u (p :: ps)
        | r => r).Keeps ex s₀ := by
      have h := ih ht false (va + elemSpan e)
      split
      · next u ps hr => rwa [hr] at h
      · exact h
    unfold State.placeRow
    dsimp only
    split
    · exact put hs _
    · have hp (next : Option Nat) := State.keeps_copyPage hs k true (k.sectorBefore true first va) va next e.2.length 0
      split
      · next t ht => exact (congrArg (Page.Keeps ex s₀) ht).mp (hp _)
      · trivial
      · next t l p ht =>
        replace hp : s₀.Keeps ex t := (congrArg (Page.Keeps ex s₀) ht).mp (hp _)
        split
        · split
          · trivial
          · exact put hp _
        · exact put hp _

end Sys2Proof.Machine

namespace Sys2Proof.Machine

@[simp] theorem State.keeps_machineCheck {s₀ s : State} (hs : s₀.Keeps false s) (unit kind num part pa syn : Nat) :
    s₀.Keeps false (s.machineCheck unit kind num part pa syn) := by
  unfold State.machineCheck
  split
  · exact hs
  · exact (State.keeps_raiseMgmt _ _).2 (State.keeps_mkMem hs (Memory.writeN_wf _ _ _) _ _ _ _ _ _ _ _)

@[simp] theorem State.keeps_checkAt {s₀ s : State} (hs : s₀.Keeps false s) (t : Site) (part : Nat) :
    s₀.Keeps false (s.checkAt t part) := by
  unfold State.checkAt
  simp [hs]

@[simp] theorem State.keeps_integrityRecord {s₀ s : State} (hs : s₀.Keeps false s) (n : Nat) :
    s₀.Keeps false (s.integrityRecord n) := by
  simp only [State.integrityRecord]
  repeat' split
  all_goals simp [hs]

@[simp] theorem State.keeps_zeroFill {s₀ s : State} (hs : s₀.Keeps false s) (core : Nat) (dt : DomTy) (i : Nat) :
    s₀.Keeps false (s.zeroFill core dt i) := by
  simp only [State.zeroFill]
  split
  · simp [hs]
  · exact State.keeps_modCoreMem hs _ fun c h1 h2 => ⟨Memory.clear_wf _ _ _ h1, h2⟩
  · exact State.keeps_modCoreMem hs _ fun c h1 h2 => ⟨h1, Memory.clear_wf _ _ _ h2⟩
  · exact State.keeps_modClusterMem hs _ fun c h => Memory.clear_wf _ _ _ h
  · exact hs

@[simp] theorem State.keeps_sramFetched {s₀ s : State} (hs : s₀.Keeps false s) (unit num : Nat) (m : Memory) (bad : Store Flaw)
    (ks : List Nat) : s₀.Keeps false (s.sramFetched unit num m bad ks) := by
  unfold State.sramFetched
  split
  · exact hs
  · refine State.keeps_foldl_imp hs _ _ fun t k ht => ?_
    split <;> simp [ht]

@[simp] theorem State.keeps_countCorrected {s₀ s : State} (hs : s₀.Keeps false s) (k : Nat) : s₀.Keeps false
    (s.countCorrected k) := by
  unfold State.countCorrected
  extract_lets g unit day old n src t
  have ht : s₀.Keeps false t := by simp [t, hs]
  split
  · simp [ht]
  · exact ht

@[simp] theorem State.keeps_fetchedOf {s₀ s : State} (hs : s₀.Keeps false s) (ks : List Nat) : s₀.Keeps false
    (s.fetchedOf ks) := by
  unfold State.fetchedOf
  split
  · exact hs
  · refine State.keeps_foldl_imp hs _ _ fun t k ht => ?_
    split <;> simp [ht]

@[simp] theorem State.keeps_fetched {s₀ s : State} (hs : s₀.Keeps false s) (a n : Nat) : s₀.Keeps false (s.fetched a n) := by
  unfold State.fetched
  simp [hs]

theorem State.keeps_writeMarked {s₀ s : State} (hs : s₀.Keeps false s) (a : Nat) (v : List Byte) (t : State)
    (ht : s.writeMarked a v = some t) : s₀.Keeps false t := by
  have hm : s.mem.wf = true → ((s.mem.writeN (a / 256 * 256) (s.devRead true (a / 256 * 256) 4)).writeN a v).wf = true :=
    fun h => Memory.writeN_wf _ _ _ (Memory.writeN_wf _ _ _ h)
  simp only [State.writeMarked] at ht
  split at ht
  · split at ht
    · cases ht
    · cases ht
      exact State.keeps_mkMem hs (fun h => Memory.writeN_wf _ _ _ (hm h)) _ _ _ _ _ _ _ _
  · cases ht
    exact State.keeps_mkMem hs hm _ _ _ _ _ _ _ _

theorem State.keeps_devWrite {s₀ s : State} (hs : s₀.Keeps false s) (cpg : Bool) (a : Nat) (v : List Byte) (t : State)
    (ht : s.devWrite cpg a v = some t) : s₀.Keeps false t := by
  have hf : s₀.Keeps false ((s.fetchedOf (partSectors a v.length)).freshChecks a v.length) := by simp [hs]
  simp only [State.devWrite] at ht
  split at ht
  · cases ht
  · split at ht
    · exact State.keeps_writeMarked hf _ _ _ ht
    · cases ht
      exact State.keeps_mkMem hf (Memory.writeN_wf _ _ _) _ _ _ _ _ _ _ _

@[simp] theorem State.keeps_storeSlots {s₀ s : State} (hs : s₀.Keeps false s) (unit part : Nat) (reach : Nat → Bool) (cpg : Bool)
    (k a : Nat) (v : List Byte) : s₀.Keeps false (s.storeSlots unit part reach cpg k a v) := by
  induction k generalizing s a v with
  | zero => exact hs
  | succ k ih =>
    unfold State.storeSlots
    dsimp only
    split
    · exact hs
    · refine ih ?_ _ _
      split
      · exact hs
      · split
        · simp [hs]
        · exact State.keeps_getD (State.keeps_devWrite hs _ _ _) (by simp [hs])

@[simp] theorem State.keeps_devWritePacked {s₀ s : State} (hs : s₀.Keeps false s) (cpg : Bool) (a : Nat) (v : List Byte) :
    s₀.Keeps false (s.devWritePacked cpg a v) := by
  have hf : s₀.Keeps false (s.freshChecks a v.length) := by simp [hs]
  simp only [State.devWritePacked]
  split
  · exact State.keeps_mkMem hf (fun h => Memory.writeN_wf _ _ _ (Memory.writeN_wf _ _ _ h)) _ _ _ _ _ _ _ _
  · exact State.keeps_mkMem hf (Memory.writeN_wf _ _ _) _ _ _ _ _ _ _ _

@[simp] theorem State.keeps_ingress {s₀ s : State} (hs : s₀.Keeps false s) (unit part : Nat) (a : Nat) (v : List Byte) :
    s₀.Keeps false (s.ingress unit part a v) := by
  unfold State.ingress
  simp [hs]

@[simp] theorem State.keeps_storeFrom {s₀ s : State} (hs : s₀.Keeps false s) (r part : Nat) (cpg : Bool) (a : Nat)
    (v : List Byte) :
    s₀.Keeps false (s.storeFrom r part cpg a v) := by
  unfold State.storeFrom
  simp [hs]

@[simp] theorem State.keeps_store {s₀ s : State} (hs : s₀.Keeps false s) (part a : Nat) (v : List Byte) :
    s₀.Keeps false (s.store part a v) := by
  unfold State.store
  simp [hs]

@[simp] theorem State.keeps_commitBytes {s₀ s : State} (hs : s₀.Keeps false s) (p : Nat) (v : List Byte) :
    s₀.Keeps false (s.commitBytes p v) := by
  unfold State.commitBytes
  simp [hs]

@[simp] theorem State.keeps_syncBlock {s₀ s : State} (hs : s₀.Keeps false s) (p : Nat) (ovw : Bool) :
    s₀.Keeps false (s.syncBlock p ovw) := by
  unfold State.syncBlock
  simp [hs]

theorem State.keeps_fitRecord {s₀ s : State} (hs : s₀.Keeps false s) (p : Nat) (v : List Byte) (ovw : Bool) (t : State)
    (ht : s.fitRecord p v ovw = some t) : s₀.Keeps false t := by
  simp only [State.fitRecord] at ht
  generalize (if 4096 - (s.part p).twptr % 4096 < v.length then 4096 - (s.part p).twptr % 4096 else 0) = pad at ht
  split at ht
  · exact nomatch ht
  · split at ht
    · exact nomatch ht
    · obtain rfl := Option.some.inj ht
      refine State.keeps_commitBytes (State.keeps_syncBlock ?_ _ _) _ _
      split <;> simp [hs]

@[simp] theorem State.keeps_record {s₀ s : State} (hs : s₀.Keeps false s) (p : Nat) (v : List Byte) (drawn ovw : Bool) :
    s₀.Keeps false (s.record p v drawn ovw) := by
  have hf : s₀.Keeps false (s.modPart p (fun q => q.fund s.time)) := by simp [hs]
  simp only [State.record]
  split
  · simp [hs]
  · split
    · next t ht =>
      obtain ⟨u, hu, ht⟩ := Option.bind_eq_some_iff.1 ht
      refine State.keeps_fitRecord ?_ _ _ _ _ ht
      split at hu
      · cases hu
        exact hf
      · obtain ⟨w, hw, rfl⟩ := Option.map_eq_some_iff.1 hu
        exact (State.keeps_modPart _ _ _).2 (State.keeps_fitRecord hf _ _ _ _ hw)
    · simp [hs]

@[simp] theorem State.keeps_logReplay {s₀ s : State} (hs : s₀.Keeps false s) (n : Nat) (st : Strm) :
    s₀.Keeps false (s.logReplay n st) := by
  unfold State.logReplay
  simp [hs]

theorem State.keeps_raceCheck {s₀ s : State} (hs : s₀.Keeps false s) (c kind : Nat) (write : Bool) (va sector head intv : Nat)
    (scp : Scp) (t : State) (ht : s.raceCheck c kind write va sector head intv scp = some t) : s₀.Keeps false t := by
  simp only [State.raceCheck] at ht
  repeat' split at ht
  all_goals cases ht
  all_goals simp [hs]

@[simp] theorem State.keeps_badWrite {s₀ s : State} (hs : s₀.Keeps false s) (core off kind : Nat) :
    s₀.Keeps false (s.badWrite core off kind) := by
  unfold State.badWrite
  simp [hs]

@[simp] theorem State.keeps_spadStore {s₀ s : State} (hs : s₀.Keeps false s) (core off : Nat) (v : List Byte) :
    s₀.Keeps false (s.spadStore core off v) := by
  simp only [State.spadStore]
  split
  · simp [hs]
  · have hf : s₀.Keeps false (s.sramFetched 2 core (s.core core).spad (s.core core).badSpad (partSectors off v.length)) := by simp [hs]
    exact ⟨fun ho => (hf.1 ho).setCore _ ⟨Memory.writeN_wf _ _ _ ((hs.1 ho).core core).1,
    ((hs.1 ho).core core).2⟩, fun he => nomatch he⟩

@[simp] theorem State.keeps_spadWrite {s₀ s : State} (hs : s₀.Keeps false s) (core off : Nat) (v : List Byte) :
    s₀.Keeps false (s.spadWrite core off v) := by
  unfold State.spadWrite
  simp [hs]

@[simp] theorem State.keeps_spadPacked {s₀ s : State} (hs : s₀.Keeps false s) (core off : Nat) (v : List Byte) :
    s₀.Keeps false (s.spadPacked core off v) := by
  unfold State.spadPacked
  simp [hs]

@[simp] theorem State.keeps_accWrite {s₀ s : State} (hs : s₀.Keeps false s) (core off : Nat) (v : List Byte) :
    s₀.Keeps false (s.accWrite core off v) := by
  simp only [State.accWrite]
  split
  · simp [hs]
  · have hf : s₀.Keeps false (s.sramFetched 2 core (s.core core).acc (s.core core).badAcc (partSectors off v.length)) := by simp [hs]
    exact ⟨fun ho => (hf.1 ho).setCore _ ⟨((hs.1 ho).core core).1, Memory.writeN_wf _ _ _
    ((hs.1 ho).core core).2⟩, fun he => nomatch he⟩

@[simp] theorem State.keeps_wbWrite {s₀ s : State} (hs : s₀.Keeps false s) (cl off : Nat) (v : List Byte) (packed : Bool) :
    s₀.Keeps false (s.wbWrite cl off v packed) :=
  State.keeps_modClusterMem hs _ fun _ h => Memory.writeN_wf _ _ _ h

@[simp] theorem State.keeps_spadFetched {s₀ s : State} (hs : s₀.Keeps false s) (core off n : Nat) :
    s₀.Keeps false (s.spadFetched core off n) := by
  unfold State.spadFetched
  simp [hs]

@[simp] theorem State.keeps_rangeFetched {s₀ s : State} (hs : s₀.Keeps false s) (r : Range) : s₀.Keeps false
    (s.rangeFetched r) := by
  cases r <;> simp [State.rangeFetched, State.spadFetched, State.accFetched, hs]

@[simp] theorem State.keeps_opRecords {s₀ s : State} (hs : s₀.Keeps false s) (k : Cmd) : s₀.Keeps false (s.opRecords k) := by
  have hf : s₀.Keeps false ((upto 0 (s.soundRows k)).foldl (fun t i => (s.rowReads k i).foldl State.rangeFetched t) s) :=
    State.keeps_foldl_imp hs _ _ fun t i ht => State.keeps_foldl_imp ht _ _ fun u r hu => State.keeps_rangeFetched hu r
  simp only [State.opRecords]
  split <;> simp [hf]

/-- The work of a running command keeps what its rows keep. -/
theorem State.keeps_opDone {s₀ s : State} (hs : s₀.Keeps false s) (k : Cmd) {work : Nat → State → State}
    (hw : ∀ n t, s₀.Keeps false t → s₀.Keeps false (work n t)) : s₀.Keeps false (s.opDone k work) :=
  (State.keeps_modCtx _ _ _).2 (hw _ _ (State.keeps_opRecords hs k))

@[simp] theorem State.keeps_mma {s₀ s : State} (hs : s₀.Keeps false s) (k : Cmd) (done : Nat) : s₀.Keeps false
    (s.mma k done) := by
  simp only [State.mma]
  rw [State.keeps_ite]
  have hf (l : List (Nat × List Nat)) (f : Nat × List Nat → Nat) (g : Nat × List Nat → List Byte) :
      s₀.Keeps false (l.foldl (fun u r => u.accWrite k.core (f r) (g r)) s) :=
    State.keeps_foldl_imp hs _ _ fun u r hu => State.keeps_accWrite hu _ _ _
  split
  · exact (State.keeps_modCtx _ _ _).2 (hf _ _ _)
  · exact hf _ _ _

@[simp] theorem State.keeps_mmas {s₀ s : State} (hs : s₀.Keeps false s) (k : Cmd) (done : Nat) :
    s₀.Keeps false (s.mmas k done) := by
  unfold State.mmas
  exact State.keeps_foldl_imp hs _ _ fun u a hu => by simp [hu]

@[simp] theorem State.keeps_mzero {s₀ s : State} (hs : s₀.Keeps false s) (k : Cmd) : s₀.Keeps false (s.mzero k) := by
  unfold State.mzero
  exact State.keeps_foldl_imp hs _ _ fun u a hu => by simp [hu]

@[simp] theorem State.keeps_drainWrite {s₀ s : State} (hs : s₀.Keeps false s) (k : Cmd) (off : Nat) (bs : List Byte) :
    s₀.Keeps false (s.drainWrite k off bs) := by
  unfold State.drainWrite
  split
  · refine List.foldlRecOn (motive := fun p : State × Nat => s₀.Keeps false p.1) _ _ hs fun p hp slot _ => ?_
    dsimp only
    split <;> simp [hp]
  · simp [hs]

@[simp] theorem State.keeps_drainStep {s₀ s : State} {p : State × Nat} (hp : s₀.Keeps false p.1) (k : Cmd) (i : Nat) :
    s₀.Keeps false (s.drainStep k p i).1 := by
  have hu (off1 off2 : Nat) (b1 b2 : List Byte) :
      s₀.Keeps false ((if bitAt k.w0 34 then p.1.accWrite k.core off1 b1 else p.1).drainWrite k off2 b2) := by
    refine State.keeps_drainWrite ?_ _ _ _
    split <;> simp [hp]
  simp only [State.drainStep]
  split
  · split <;> simp [hu]
  · exact hu _ _ _ _

@[simp] theorem State.keeps_drain {s₀ s : State} (hs : s₀.Keeps false s) (k : Cmd) (done : Nat) : s₀.Keeps false
    (s.drain k done) :=
  (State.keeps_modCtx _ _ _).2 (List.foldlRecOn (motive := fun p : State × Nat => s₀.Keeps false p.1) _ _ hs
    fun _ hp i _ => State.keeps_drainStep hp k i)

@[simp] theorem State.keeps_placeFetched {s₀ t : State} (ht : s₀.Keeps false t) (s : State) (core : Nat) (p : Place) (cv : Cv)
    (n : Nat) :
    s₀.Keeps false (t.placeFetched s core p cv n) := by
  cases p <;> simp [State.placeFetched, State.spadFetched, State.accFetched, ht]

@[simp] theorem State.keeps_directRead {s₀ t : State} (ht : s₀.Keeps false t) (s : State) (core : Nat) (a : Acc) :
    s₀.Keeps false (s.directRead t core a) := by
  simp only [State.directRead]
  split
  · simp [ht]
  · split <;> simp [ht]
  · exact ht

@[simp] theorem State.keeps_directWrite {s₀ t : State} (ht : s₀.Keeps false t) (core : Nat) (a : Acc) :
    s₀.Keeps false (t.directWrite core a) := by
  have put (v : List Byte) : s₀.Keeps false (match a.place with
      | .spad c off => t.spadWrite c off v
      | .acc off => t.accWrite core off v
      | _ => t) := by
    split <;> simp [ht]
  have put? (v : Option (List Byte)) : s₀.Keeps false ((v.map fun v => match a.place with
      | .spad c off => t.spadWrite c off v
      | .acc off => t.accWrite core off v
      | _ => t).getD (t.placeFetched t core a.place .none a.kind.width)) := by
    cases v with
    | none => exact State.keeps_placeFetched ht _ _ _ _ _
    | some v => exact put v
  simp only [State.directWrite]
  split
  · exact put _
  · split
    · exact (State.keeps_modCtx _ _ _).2 (put? _)
    · exact put? _
    · exact ht

@[simp] theorem State.keeps_lineArrive {s₀ s : State} (hs : s₀.Keeps false s) (core : Nat) (a : Acc) (dst : LineDst) (one : Bool)
    (cv : Cv) : s₀.Keeps false (s.lineArrive core a dst one cv) := by
  simp only [State.lineArrive]
  split
  · simp [hs]
  · split <;> simp [hs]

theorem State.keeps_accRace {s₀ s : State} (hs : s₀.Keeps false s) (core : Nat) (a : Acc) (pa : Nat) (t : State)
    (ht : s.accRace core a pa = some t) : s₀.Keeps false t := by
  unfold State.accRace at ht
  split at ht
  · cases ht
    exact hs
  · split at ht
    · cases ht
      exact hs
    · exact State.keeps_raceCheck hs _ _ _ _ _ _ _ _ _ ht

theorem State.keeps_slicesAtom {s₀ s : State} (hs : s₀.Keeps false s) (core : Nat) (a : Acc) (pa : Nat) (r : State × Word)
    (hr : s.slicesAtom core a pa = some r) : s₀.Keeps false r.1 := by
  simp only [State.slicesAtom] at hr
  split at hr
  · cases hr
    exact hs
  · split at hr
    · obtain ⟨u, hu, rfl⟩ := Option.map_eq_some_iff.1 hr
      exact (State.keeps_tagPut _ _ _ _ _).2 (State.keeps_devWrite hs _ _ _ _ hu)
    · cases hr
      simp [hs]
    · cases hr

@[simp] theorem State.keeps_performDev {s₀ s : State} (hs : s₀.Keeps false s) (core : Nat) (a : Acc) (pa : Nat) :
    s₀.Keeps false (s.performDev core a pa) := by
  have hf : s₀.Keeps false (if a.kind.reads then s.fetched pa a.kind.width else s) := by simp [hs]
  simp only [State.performDev]
  split
  · simp [hs]
  split
  · simp [hs]
  split
  · simp [hs]
  split
  · simp [hs]
  · next t ht =>
    have hk := State.keeps_accRace hf _ _ _ _ ht
    split
    · simp [hk]
    · split
      · next u hu => simp [State.keeps_devWrite hk _ _ _ _ hu]
      · simp [hk]
    · simp [hk]
    · split
      · next u hu => simpa using State.keeps_slicesAtom hk _ _ _ _ hu
      · simp [hk]

@[simp] theorem State.keeps_performSpad {s₀ s : State} (hs : s₀.Keeps false s) (core : Nat) (a : Acc) (c off : Nat) :
    s₀.Keeps false (s.performSpad core a c off) := by
  simp only [State.performSpad]
  split
  · simp [hs]
  split
  · split <;> simp [hs]
  · simp [hs]
  · simp [hs]
  · split
    · split
      · next v old _ => cases v <;> simp [hs]
      · exact hs
    · simp [hs]

@[simp] theorem State.keeps_performAt {s₀ s : State} (hs : s₀.Keeps false s) (core : Nat) (a : Acc) :
    s₀.Keeps false (s.performAt core a) := by
  unfold State.performAt
  split <;> simp [hs]

/-- Race checks one after the other keep the canonical form. -/
theorem State.keeps_raceChecks {s₀ s : State} (hs : s₀.Keeps false s) (l : List Nat) (f : State → Nat → Option State)
    (hf : ∀ u sec v, s₀.Keeps false u → f u sec = some v → s₀.Keeps false v) (t : State)
    (ht : l.foldl (fun o sec => o.bind (fun t => f t sec)) (some s) = some t) : s₀.Keeps false t := by
  have h := List.foldlRecOn (motive := fun o : Option State => ∀ t, o = some t → s₀.Keeps false t) l
    (fun o sec => o.bind (fun t => f t sec)) (fun t ht => Option.some.inj ht ▸ hs) fun o ho sec _ t ht => by
      obtain ⟨u, hu, ht⟩ := Option.bind_eq_some_iff.1 ht
      exact hf u sec t (ho u hu) ht
  exact h t ht

theorem State.keeps_entryRace {s₀ s : State} (hs : s₀.Keeps false s) (e : SliceEntry) (t : State) (ht : s.entryRace e = some t) :
    s₀.Keeps false t := by
  unfold State.entryRace at ht
  split at ht
  · exact Option.some.inj ht ▸ hs
  · exact State.keeps_raceChecks hs _ _ (fun u sec v hu => State.keeps_raceCheck hu _ _ _ _ _ _ _ _ v) t ht

@[simp] theorem State.keeps_applyEntry {s₀ s : State} (hs : s₀.Keeps false s) (slice : Nat) (e : SliceEntry) :
    s₀.Keeps false (s.applyEntry slice e) := by
  unfold State.applyEntry
  split
  · simp [hs]
  · split
    · next u hu => exact State.keeps_devWrite hs _ _ _ _ hu
    · simp [hs]

@[simp] theorem State.keeps_readPte {s₀ s : State} (hs : s₀.Keeps false s) (cl : Nat) (k : Walk) :
    s₀.Keeps false (s.readPte cl k) := by
  simp only [State.readPte]
  repeat' split
  all_goals simp [hs]

@[simp] theorem State.keeps_writeRows {s₀ s : State} (hs : s₀.Keeps false s) (k : Cmd) (rows : List (List Byte)) :
    s₀.Keeps false (s.writeRows k rows) := by
  unfold State.writeRows
  exact State.keeps_foldl_imp hs _ _ fun u a hu => by simp [hu]

@[simp] theorem State.keeps_failAt {s₀ s : State} (hs : s₀.Keeps false s) (k : Cmd) (t : Site) :
    s₀.Keeps false (s.failAt k t) := by
  unfold State.failAt
  simp [hs]

theorem State.keeps_engineRace {s₀ s : State} (hs : s₀.Keeps false s) (k : Cmd) (e : Lease) (va pa n : Nat) (t : State)
    (ht : s.engineRace k e va pa n = some t) : s₀.Keeps false t := by
  unfold State.engineRace at ht
  split at ht
  · exact Option.some.inj ht ▸ hs
  · exact State.keeps_raceChecks hs _ _ (fun u sec v hu => State.keeps_raceCheck hu _ _ _ _ _ _ _ _ v) t ht

theorem State.keeps_readElem {s₀ s : State} (hs : s₀.Keeps false s) (k : Cmd) (va left : Nat) (whole : Bool) :
    (s.readElem k va left whole).Keeps false s₀ := by
  unfold State.readElem
  extract_lets may
  split
  · extract_lets o pk n
    split <;> simp [Elem.Keeps, hs]
  · have hp := State.keeps_copyPage hs k false (k.sectorBefore false (k.sect == 0) va) va (if 1 < left then some (va + 32) else none) 0 256
    split
    · next t ht => rwa [ht] at hp
    · trivial
    · next t e pa ht =>
      rw [ht] at hp
      have hp : s₀.Keeps false t := hp
      extract_lets pk n
      split
      · trivial
      · split
        · next u hu => exact State.keeps_engineRace (by simp [hp]) _ _ _ _ _ _ hu
        · trivial
    · next t e p _ ht =>
      rw [ht] at hp
      have hp : s₀.Keeps false t := hp
      exact State.keeps_peerElem (by simp [hp]) _ _

@[simp] theorem State.keeps_reduceAt {s₀ s : State} (hs : s₀.Keeps false s) (core : Nat) (ty : LaneTy) (cpg : Bool) (pa : Nat)
    (bytes : List Byte) : s₀.Keeps false (s.reduceAt core ty cpg pa bytes) :=
  State.keeps_foldl_imp hs _ _ fun t p ht => State.keeps_getD (State.keeps_devWrite ht _ _ _) (by simp [ht])

@[simp] theorem State.keeps_writePiece {s₀ s : State} (hs : s₀.Keeps false s) (k : Cmd) (p : Piece) : s₀.Keeps false
    (s.writePiece k p) := by
  simp only [State.writePiece]
  split
  · split <;> simp [hs]
  · split <;> simp [hs]
  · simp [hs]
  · exact hs

@[simp] theorem State.keeps_fillRow {s₀ s : State} (hs : s₀.Keeps false s) (k : Cmd) (off : Nat) (es : List (Bool × List Byte)) :
    s₀.Keeps false (s.fillRow k off es) := by
  induction es generalizing s off with
  | nil => exact hs
  | cons e es ih => exact ih (State.keeps_wbWrite hs _ _ _ _) _

@[simp] theorem State.keeps_writeRow {s₀ s : State} (hs : s₀.Keeps false s) (k : Cmd) (es : List (Bool × List Byte)) (idx : Nat) :
    s₀.Keeps false (s.writeRow k es idx).1 := by
  simp only [State.writeRow]
  split
  · simp [hs]
  · have hp := State.keeps_placeRow hs k true (k.rowTo k.row idx) es
    split
    · next t ht => rwa [ht] at hp
    · simp [hs]
    · simp [hs]
    · next t ps ht =>
      rw [ht] at hp
      exact (State.keeps_nextRow _ _ _ _).2 (State.keeps_foldl_imp hp _ _ fun u p hu => State.keeps_writePiece hu k p)

@[simp] theorem State.keeps_moveOn {s₀ s : State} (hs : s₀.Keeps false s) (k : Cmd) (budget : Nat) :
    s₀.Keeps false (s.moveOn k budget).1 := by
  have read {t : State} (ht : s₀.Keeps false t) :
      s₀.Keeps false (if k.indexed && k.sect == 0 then t.spadFetched k.core (k.indexAt k.row) 4 else t) := by
    split <;> simp [ht]
  simp only [State.moveOn]
  split
  · simp [hs]
  · simp [hs]
  · split
    · exact (State.keeps_nextRow _ _ _ _).2 (read hs)
    split
    · split
      · exact read (State.keeps_writeRow hs _ _ _)
      · exact State.keeps_writeRow hs _ _ _
    split
    · next idx _ _ _ _ =>
      have he := State.keeps_readElem hs k (k.rowFrom k.row idx + 32 * k.sect) (k.rowb / 32 - k.sect)
        (!(k.red && k.op == some .scat) && (k.rowTo k.row idx + 32 * k.sect) % 256 == 0)
      split
      · next t ht => rwa [ht] at he
      · simp [hs]
      · simp [hs]
      · next t pk bs ht =>
        rw [ht] at he
        split
        · exact hs
        · exact (State.keeps_modCopy _ _ _).2 (read he)
    · exact State.keeps_writeRow hs _ _ _

@[simp] theorem State.keeps_slotGo {s₀ s : State} (hs : s₀.Keeps false s) (core f b : Nat) : s₀.Keeps false
    (s.slotGo core f b) := by
  induction f generalizing s b with
  | zero => exact hs
  | succ f ih =>
    cases b with
    | zero => exact hs
    | succ b =>
      unfold State.slotGo
      split
      · exact hs
      · split
        · exact hs
        · exact ih (State.keeps_moveOn hs _ _) _

@[simp] theorem State.keeps_copySlot {s₀ s : State} (hs : s₀.Keeps false s) (core : Nat) (k : Cmd) :
    s₀.Keeps false (s.copySlot core k) := by
  unfold State.copySlot
  simp [hs]

@[simp] theorem State.keeps_flagWrite {s₀ s : State} (hs : s₀.Keeps false s) (k : Cmd) (c off : Nat) :
    s₀.Keeps false (s.flagWrite k c off) := by
  unfold State.flagWrite
  simp [hs]

@[simp] theorem State.keeps_completionFlag {s₀ s : State} (hs : s₀.Keeps false s) (k : Cmd) :
    s₀.Keeps false (s.completionFlag k) := by
  unfold State.completionFlag
  repeat' split
  all_goals simp [hs]

@[simp] theorem State.keeps_ownFetch {s₀ s : State} (hs : s₀.Keeps false s) (part : Nat) (c : Bool) (pa n : Nat) :
    s₀.Keeps false (s.ownFetch part c pa n) := by
  unfold State.ownFetch
  simp [hs]

@[simp] theorem State.keeps_walkFetched {s₀ s : State} (hs : s₀.Keeps false s) (part va : Nat) : s₀.Keeps false
    (s.walkFetched part va) := by
  simp only [State.walkFetched]
  split
  · exact hs
  · exact State.keeps_foldl_imp hs _ _ fun t pa ht => State.keeps_ownFetch ht _ _ _ _

@[simp] theorem State.keeps_fetchVirt {s₀ s : State} (hs : s₀.Keeps false s) (part : Nat) (host : HostPages) (x : Bool)
    (k va n : Nat) :
    s₀.Keeps false (State.fetchVirt part host x k s va n) := by
  induction k generalizing s va n with
  | zero => exact hs
  | succ k ih =>
    have hw := State.keeps_walkFetched hs part va
    simp only [State.fetchVirt]
    split
    · exact hs
    split
    · exact hw
    · split
      · split
        · exact State.keeps_ownFetch hw _ _ _ _
        · exact ih (State.keeps_ownFetch hw _ _ _ _) _ _
      · split
        · exact ih ((State.keeps_sendPeer _ _ _ _).2 hw) _ _
        · exact hw
      · exact hw

@[simp] theorem State.keeps_fetchAt {s₀ s : State} (hs : s₀.Keeps false s) (part : Nat) (host : HostPages) (va n : Nat) :
    s₀.Keeps false (s.fetchAt part host va n) := State.keeps_fetchVirt hs _ _ _ _ _ _

@[simp] theorem State.keeps_fetchOwn {s₀ s : State} (hs : s₀.Keeps false s) (part va n : Nat) : s₀.Keeps false
    (s.fetchOwn part va n) := by
  unfold State.fetchOwn
  split <;> simp [hs]

@[simp] theorem State.keeps_writeOwn {s₀ s : State} (hs : s₀.Keeps false s) (part va : Nat) (v : List Byte) :
    s₀.Keeps false (s.writeOwn part va v) := by
  simp only [State.writeOwn]
  split <;> simp [hs]

@[simp] theorem State.keeps_ownRead {s₀ s : State} (hs : s₀.Keeps false s) (a n : Nat) : s₀.Keeps false (s.ownRead a n) := by
  unfold State.ownRead
  simp [hs]

@[simp] theorem State.keeps_addTo {s₀ s : State} (hs : s₀.Keeps false s) (part a v : Nat) :
    s₀.Keeps false (s.addTo part a v) := by
  unfold State.addTo
  simp [hs]

@[simp] theorem State.keeps_startPacket {s₀ s : State} (hs : s₀.Keeps false s) (n : Nat) (first : Bool) :
    s₀.Keeps false (s.startPacket n first) := by
  simp only [State.startPacket]
  split
  · exact State.keeps_store ((State.keeps_modCtx _ _ _).2 hs) _ _ _
  · exact (State.keeps_modCtx _ _ _).2 hs

@[simp] theorem State.keeps_stopPacket {s₀ s : State} (hs : s₀.Keeps false s) (x : Ctx) : s₀.Keeps false (s.stopPacket x) := by
  simp only [State.stopPacket]
  split
  · exact State.keeps_addTo (State.keeps_foldl_imp hs _ _ fun t p ht => State.keeps_addTo ht _ _ _) _ _ _
  · exact hs

@[simp] theorem State.keeps_endCore {s₀ s : State} (hs : s₀.Keeps false s) (part order n : Nat) :
    s₀.Keeps false (s.endCore part order n) := by
  unfold State.endCore
  simp [hs]

@[simp] theorem State.keeps_endLaunch {s₀ s : State} (hs : s₀.Keeps false s) (core : Nat) (x : Ctx) (note : State)
    (hnote : s₀.Keeps false note) :
    s₀.Keeps false (s.endLaunch core x note) := by
  unfold State.endLaunch
  repeat' split
  all_goals simp [hs, hnote]

@[simp] theorem State.keeps_endResident {s₀ s : State} (hs : s₀.Keeps false s) (core : Nat) :
    s₀.Keeps false (s.endResident core) := by
  unfold State.endResident
  simp [hs]

@[simp] theorem State.keeps_endActive {s₀ s : State} (hs : s₀.Keeps false s) (core : Nat) :
    s₀.Keeps false (s.endActive core) := by
  simp only [State.endActive]
  repeat' split
  all_goals simp [hs]

@[simp] theorem State.keeps_writeEnd {s₀ s : State} (hs : s₀.Keeps false s) (part rcb err : Nat) : s₀.Keeps false
    (s.writeEnd part rcb err) :=
  (State.keeps_raisePart _ _ _).2
    (State.keeps_writeOwn (State.keeps_writeOwn (State.keeps_writeOwn hs _ _ _) _ _ _) _ _ _)

@[simp] theorem State.keeps_closeRegion {s₀ s : State} (hs : s₀.Keeps false s) (part : Nat) (r : Region) (err : Nat) :
    s₀.Keeps false (s.closeRegion part r err) := by
  unfold State.closeRegion
  simp [hs]

@[simp] theorem State.keeps_loadFetched {s₀ s : State} (hs : s₀.Keeps false s) (part : Nat) (r : Region) :
    s₀.Keeps false (s.loadFetched part r) := by
  simp only [State.loadFetched]
  split
  · exact State.keeps_fetchAt (State.keeps_fetchAt (State.keeps_fetchAt hs _ _ _ _) _ _ _ _) _ _ _ _
  · exact State.keeps_fetchAt hs _ _ _ _

@[simp] theorem State.keeps_loadDomain {s₀ s : State} (hs : s₀.Keeps false s) (n : Nat) (t : DomTy) (i : Nat) :
    s₀.Keeps false (s.loadDomain n t i) := by
  unfold State.loadDomain
  simp [hs]

@[simp] theorem State.keeps_loadAwake {s₀ s : State} (hs : s₀.Keeps false s) (k : Load) (n i : Nat) : s₀.Keeps false
    (s.loadAwake k n i) := by
  refine State.keeps_foldl_imp hs _ _ fun t r ht => ?_
  split
  · split
    · exact State.keeps_foldl_imp ht _ _ fun u b hu => State.keeps_loadDomain hu _ _ _
    · exact ht
  · exact ht

@[simp] theorem State.keeps_loadSpadRec {s₀ s : State} (hs : s₀.Keeps false s) (n : Nat) (r : SpadRec) :
    s₀.Keeps false (s.loadSpadRec n r) := by
  unfold State.loadSpadRec
  exact State.keeps_foldl_imp hs _ _ fun u a hu => by simp [hu]

@[simp] theorem State.keeps_loadSpad {s₀ s : State} (hs : s₀.Keeps false s) (k : Load) (n i : Nat) : s₀.Keeps false
    (s.loadSpad k n i) :=
  State.keeps_foldl_imp hs _ _ fun _ _ ht => State.keeps_loadSpadRec ht _ _

@[simp] theorem State.keeps_loadCore {s₀ s : State} (hs : s₀.Keeps false s) (k : Load) (part : Nat) (r : Region)
    (cores : List Nat)
    (text : List Byte) (n i : Nat) : s₀.Keeps false (s.loadCore k part r cores text n i) := by
  refine State.keeps_loadSpad (State.keeps_loadAwake ?_ _ _ _) _ _ _
  simp [hs]

@[simp] theorem State.keeps_storeRodata {s₀ s : State} (hs : s₀.Keeps false s) (part frame : Nat) (v : List Byte) :
    s₀.Keeps false (s.storeRodata part frame v) := by
  unfold State.storeRodata
  simp [hs]

@[simp] theorem State.keeps_loadRegion {s₀ s : State} (hs : s₀.Keeps false s) (part : Nat) (r0 : Region) (cls : List Nat)
    (k : Load)
    (text : List Byte) : s₀.Keeps false (s.loadRegion part r0 cls k text) := by
  have h3 (va : Nat) (v : List Byte) (f : Region → Region) (g : Part → Part) : s₀.Keeps false
      (cls.foldl (fun t c => t.modCluster c (fun c => { c with copyLeases := [] }))
        (((s.modEntry part r0.order f).modPart part g).storeRodata part va v)) := by
    refine (State.keeps_foldl _ _ fun u c => by simp).2 ?_
    simp [hs]
  have h6 {t : State} (ht : s₀.Keeps false t) (r : Region) (cores : List Nat) : s₀.Keeps false
      (((cores.zip (upto 0 cores.length)).foldl (fun t c => t.loadCore k part r cores text c.1 c.2) t).writeOwn part
    (r.rcb + 0x40)
        (leBytes 1 1)) :=
    State.keeps_writeOwn (State.keeps_foldl_imp ht _ _ fun u c hu => State.keeps_loadCore hu _ _ _ _ _ _ _) _ _ _
  unfold State.loadRegion
  extract_lets p cores ro place nest r s1 s2 s3 s5 s6
  have h : s₀.Keeps false s6 := h6 (h3 _ _ _ _) r cores
  split
  · exact (State.keeps_askWalk _ _ _ _).2 h
  · exact h

@[simp] theorem State.keeps_saveCtx {s₀ s : State} (hs : s₀.Keeps false s) (part order n : Nat) (active lead : Bool)
    (base : Nat) :
    s₀.Keeps false (s.saveCtx part order n active lead base) := by
  unfold State.saveCtx
  repeat' split
  all_goals simp [hs]

@[simp] theorem State.keeps_restoreRecord {s₀ s : State} (hs : s₀.Keeps false s) (n : Nat) (bank : Bool) (r : RegionRec) :
    s₀.Keeps false (s.restoreRecord n bank r) := by
  simp only [State.restoreRecord]
  split
  · split
    · exact State.keeps_modCoreMem hs _ fun c h1 h2 => ⟨Memory.writeN_wf _ _ _ h1, h2⟩
    · exact hs
  · split
    · exact State.keeps_modCoreMem hs _ fun c h1 h2 => ⟨h1, Memory.writeN_wf _ _ _ h2⟩
    · exact hs
  · split
    · exact State.keeps_modClusterMem hs _ fun c h => Memory.writeN_wf _ _ _ h
    · exact hs
  · exact hs

@[simp] theorem State.keeps_areaFetch {s₀ s : State} (hs : s₀.Keeps false s) (part core base n : Nat) :
    s₀.Keeps false (s.areaFetch part core base n) := by
  unfold State.areaFetch
  simp [hs]

@[simp] theorem State.keeps_restoreCore {s₀ s : State} (hs : s₀.Keeps false s) (part : Nat) (k : Saved) (n : Nat) (active : Bool)
    (base : Nat) : s₀.Keeps false (s.restoreCore part k n active base) := by
  unfold State.restoreCore
  extract_lets bank m recs x s1 s2 held s3 s4
  have h2 : s₀.Keeps false s2 :=
    State.keeps_foldl_imp ((State.keeps_retainArea _ _ _ _ _).2 (State.keeps_areaFetch hs _ _ _ _)) _ _
      fun t r ht => State.keeps_restoreRecord ht _ _ _
  have h4 : s₀.Keeps false s4 := by simp [s4, s3, h2]
  refine (State.keeps_modCore _ _ fun c => ?_).2 h4
  dsimp only
  split <;> exact ⟨rfl, rfl⟩

@[simp] theorem State.keeps_restart {s₀ s : State} (hs : s₀.Keeps false s) (n e : Nat) : s₀.Keeps false (s.restart n e) := by
  unfold State.restart
  simp [hs]

@[simp] theorem State.keeps_killRegion {s₀ s : State} (hs : s₀.Keeps false s) (part : Nat) (r : Region) (err : Nat) :
    s₀.Keeps false (s.killRegion part r err) :=
  State.keeps_foldl_imp ((State.keeps_modRegion _ _ _ _).2 hs) _ _ fun _ _ ht => State.keeps_endCore ht _ _ _

@[simp] theorem State.keeps_endRegionOp {s₀ s : State} (hs : s₀.Keeps false s) (part regid : Nat) :
    s₀.Keeps false (s.endRegionOp part regid) := by
  unfold State.endRegionOp
  split <;> simp [hs]

@[simp] theorem State.keeps_resumeOne {s₀ s : State} (hs : s₀.Keeps false s) (part regid lcore : Nat) :
    s₀.Keeps false (s.resumeOne part regid lcore) := by
  unfold State.resumeOne
  repeat' split
  all_goals simp [hs]

@[simp] theorem State.keeps_endOne {s₀ s : State} (hs : s₀.Keeps false s) (part regid lcore : Nat) :
    s₀.Keeps false (s.endOne part regid lcore) := by
  unfold State.endOne
  repeat' split
  all_goals simp [hs]

@[simp] theorem State.keeps_seal {s₀ s : State} (hs : s₀.Keeps false s) (part order n : Nat) :
    s₀.Keeps false (s.seal part order n) := by
  unfold State.seal
  simp [hs]

@[simp] theorem State.keeps_logsFetched {s₀ s : State} (hs : s₀.Keeps false s) (p : Part) : s₀.Keeps false (s.logsFetched p) := by
  unfold State.logsFetched
  exact State.keeps_foldl_imp hs _ _ fun u a hu => by simp [hu]

@[simp] theorem State.keeps_resumeCore {s₀ s : State} (hs : s₀.Keeps false s) (p : Part) (n : Nat) :
    s₀.Keeps false (s.resumeCore p n) := by
  unfold State.resumeCore
  simp [hs]

@[simp] theorem State.keeps_resumeHeld {s₀ s : State} (hs : s₀.Keeps false s) (part : Nat) (p : Part) (r : Region) :
    s₀.Keeps false (s.resumeHeld part p r) := by
  simp only [State.resumeHeld]
  split
  · exact hs
  split
  · exact (State.keeps_pctlDone _ _).2 (State.keeps_foldl_imp (by simp [hs]) _ _ fun t n ht => State.keeps_resumeCore ht _ _)
  · simp [hs]

@[simp] theorem State.keeps_areasFetched {s₀ s : State} (hs : s₀.Keeps false s) (part : Nat) (p : Part) (r : Region) :
    s₀.Keeps false (s.areasFetched part p r) := by
  unfold State.areasFetched
  exact State.keeps_foldl_imp hs _ _ fun u a hu => by simp [hu]

@[simp] theorem State.keeps_restoreRegion {s₀ s : State} (hs : s₀.Keeps false s) (part : Nat) (p : Part) (r : Region)
    (active : Bool) :
    s₀.Keeps false (s.restoreRegion part p r active) := by
  have hf : s₀.Keeps false ((p.savedOf r).foldl (fun t k => t.restoreCore part k.1 k.2 active (p.areaAt k.1.lcore)) s) :=
    State.keeps_foldl_imp hs _ _ fun t k ht => State.keeps_restoreCore ht _ _ _ _ _
  unfold State.restoreRegion
  simp [hf]

@[simp] theorem State.keeps_resumeAll {s₀ s : State} (hs : s₀.Keeps false s) (part : Nat) (p : Part) (r : Region) :
    s₀.Keeps false (s.resumeAll part p r) :=
  (State.keeps_modPart _ _ _).2 (State.keeps_foldl_imp (State.keeps_logsFetched (State.keeps_restoreRegion hs _ _ _ _) _) _ _
    fun _ _ ht => State.keeps_resumeCore ((State.keeps_modCtx _ _ _).2 ht) _ _)

@[simp] theorem State.keeps_placedNow {s₀ s : State} (hs : s₀.Keeps false s) (part : Nat) (p : Part) (r : Region) :
    s₀.Keeps false (s.placedNow part p r) := by
  unfold State.placedNow
  simp [hs]

@[simp] theorem State.keeps_loseLink {s₀ s : State} (hs : s₀.Keeps false s) (peer : Bool) (router port : Nat) :
    s₀.Keeps false (s.loseLink peer router port) := by
  unfold State.loseLink
  simp [hs]

@[simp] theorem State.keeps_installImage {s₀ s : State} (hs : s₀.Keeps false s) (a : Nat) :
    s₀.Keeps false (s.installImage a) := by
  unfold State.installImage
  simp [hs]

@[simp] theorem State.keeps_putBytes {s₀ s : State} (hs : s₀.Keeps false s) (a : Nat) (v : List Byte) :
    s₀.Keeps false (s.putBytes a v) := by
  unfold State.putBytes
  simp [hs]

@[simp] theorem State.keeps_reseal {s₀ s : State} (hs : s₀.Keeps false s) (lo len : Nat) (f : Nat → Byte → Byte) :
    s₀.Keeps false (s.reseal lo len f) :=
  State.keeps_mkMem hs (fun h => List.foldlRecOn (motive := fun m => Memory.wf m = true) _ _ h
    fun m hm a _ => Memory.write_wf m a _ hm) _ _ _ _ _ _ _ _

@[simp] theorem State.keeps_toCipher {s₀ s : State} (hs : s₀.Keeps false s) (n : Nat) : s₀.Keeps false (s.toCipher n) := by
  unfold State.toCipher
  simp [hs]

@[simp] theorem State.keeps_ofCipher {s₀ s : State} (hs : s₀.Keeps false s) (n : Nat) : s₀.Keeps false (s.ofCipher n) := by
  unfold State.ofCipher
  simp [hs]

@[simp] theorem State.keeps_wipeKeys {s₀ s : State} (hs : s₀.Keeps false s) : s₀.Keeps false s.wipeKeys := by
  unfold State.wipeKeys
  exact State.keeps_foldl_imp hs _ _ fun u a hu => by simp [hu]

@[simp] theorem State.keeps_lockdown {s₀ s : State} (hs : s₀.Keeps false s) : s₀.Keeps false s.lockdown := by
  have h1 : s₀.Keeps false (s.parts.foldl (fun t p =>
      (p.2.regions.filter (fun r => r.st == .running)).foldl (fun u r => u.killRegion p.1 r 0xFF) t) s).wipeKeys := by
    refine State.keeps_wipeKeys (State.keeps_foldl_imp hs _ _ fun t p ht => State.keeps_foldl_imp ht _ _ fun u r hu => ?_)
    simp [hu]
  refine ⟨fun ho => ?_, fun he => nomatch he⟩
  obtain ⟨hm, hc, hk⟩ := h1.1 ho
  refine ⟨hm, fun c hc' => ?_, fun c hk' => ?_⟩
  · obtain ⟨d, hd, rfl⟩ := List.mem_map.1 hc'
    exact hc d hd
  · obtain ⟨d, hd, rfl⟩ := List.mem_map.1 hk'
    exact hk d hd

@[simp] theorem State.keeps_writePctl {s₀ s : State} (hs : s₀.Keeps false s) (part : Nat) (v : Word) :
    s₀.Keeps false (s.writePctl part v) := by
  simp only [State.writePctl]
  split
  · exact hs
  · split <;> simp [hs]

@[simp] theorem State.keeps_outerRead {s₀ s : State} (hs : s₀.Keeps false s) (unit part a n : Nat) (v : List Byte) :
    s₀.Keeps false (s.outerRead unit part a n v) := by
  unfold State.outerRead
  simp [hs]

@[simp] theorem State.keeps_aperture {s₀ s : State} (hs : s₀.Keeps false s) (wr : Bool) (bar : Nat) (data : List Byte)
    (len : Nat) :
    s₀.Keeps false (s.aperture wr bar data len) := by
  simp only [State.aperture]
  repeat' split
  all_goals simp [hs]

@[simp] theorem State.keeps_saveWindow {s₀ s : State} (hs : s₀.Keeps false s) (part a n : Nat) :
    s₀.Keeps false (s.saveWindow part a n) := by
  unfold State.saveWindow
  simp [hs]

@[simp] theorem State.keeps_debugPort {s₀ s : State} (hs : s₀.Keeps false s) (core off n : Nat) :
    s₀.Keeps false (s.debugPort core off n) := by
  unfold State.debugPort
  simp [hs]

@[simp] theorem State.keeps_sapwoodRead {s₀ s : State} (hs : s₀.Keeps false s) (a n : Nat) :
    s₀.Keeps false (s.sapwoodRead a n) := by
  unfold State.sapwoodRead
  simp [hs]

@[simp] theorem State.keeps_replayRecords {s₀ s : State} (hs : s₀.Keeps false s) (n : Nat) : s₀.Keeps false
    (s.replayRecords n) := by
  simp only [State.replayRecords]
  split
  · exact State.keeps_foldl_imp hs _ _ fun t st ht => State.keeps_record ht _ _ _ _
  · exact hs

@[simp] theorem State.keeps_cycleRecords {s₀ s : State} (hs : s₀.Keeps false s) (n : Nat) : s₀.Keeps false
    (s.cycleRecords n) := by
  simp only [State.cycleRecords]
  split <;> simp [hs]

@[simp] theorem State.keeps_coreRecords {s₀ s : State} (hs : s₀.Keeps false s) (n : Nat) : s₀.Keeps false (s.coreRecords n) := by
  unfold State.coreRecords
  simp [hs]

@[simp] theorem State.keeps_tickCore {s₀ s : State} (hs : s₀.Keeps false s) (n : Nat) : s₀.Keeps false (s.tickCore n) := by
  unfold State.tickCore
  simp [hs]

@[simp] theorem State.keeps_tick {s₀ s : State} (hs : s₀.Keeps false s) (cl : Nat) : s₀.Keeps false (s.tick cl) := by
  have h : s₀.Keeps false ((coresOf cl).foldl State.tickCore s) := State.keeps_foldl_imp hs _ _ fun _ _ ht => State.keeps_tickCore ht _
  unfold State.tick
  simp [h]

end Sys2Proof.Machine
end

section
/-! PROOF. Every instruction and every step of the device keeps the canonical form of the memories (model form, log 3): O10. -/

namespace Sys2Proof.Machine

/-! ## Outcomes -/

/-- What an instruction or a step of the device keeps of the memories. -/
def State.KeepsNext (ex : Bool) (s₀ : State) (o : Host.Outcome State Fault Refusal) : Prop := ∀ t, o = .next t → s₀.Keeps ex t

@[simp] theorem State.keepsNext_next {ex : Bool} {s₀ t : State} : s₀.KeepsNext ex (.next t) ↔ s₀.Keeps ex t :=
  ⟨fun h => h t rfl, fun h _ ht => Host.Outcome.next.inj ht ▸ h⟩

/-- The state after an outcome. -/
@[simp] theorem State.keeps_after {ex : Bool} {s₀ s : State} (hs : s₀.Keeps ex s) {o : Host.Outcome State Fault Refusal}
    (ho : s₀.KeepsNext ex o) : s₀.Keeps ex (after o s) := by
  cases o with
  | next t => exact ho t rfl
  | _ => exact hs

end Sys2Proof.Machine

namespace Sys2Proof.Machine

theorem State.keeps_execCNop {s₀ s : State} (hs : s₀.Keeps false s) (h : Hdr) : s₀.KeepsNext false (execCNop h s) := by
  unfold execCNop
  simp [hs]

theorem State.keeps_execCAdd {s₀ s : State} (hs : s₀.Keeps false s) (h : Hdr) (d a b : BitVec 5) :
    s₀.KeepsNext false (execCAdd h d a b s) := by
  unfold execCAdd
  simp [hs]

theorem State.keeps_execCSub {s₀ s : State} (hs : s₀.Keeps false s) (h : Hdr) (d a b : BitVec 5) :
    s₀.KeepsNext false (execCSub h d a b s) := by
  unfold execCSub
  simp [hs]

theorem State.keeps_execCAnd {s₀ s : State} (hs : s₀.Keeps false s) (h : Hdr) (d a b : BitVec 5) :
    s₀.KeepsNext false (execCAnd h d a b s) := by
  unfold execCAnd
  simp [hs]

theorem State.keeps_execCOr {s₀ s : State} (hs : s₀.Keeps false s) (h : Hdr) (d a b : BitVec 5) :
    s₀.KeepsNext false (execCOr h d a b s) := by
  unfold execCOr
  simp [hs]

theorem State.keeps_execCXor {s₀ s : State} (hs : s₀.Keeps false s) (h : Hdr) (d a b : BitVec 5) :
    s₀.KeepsNext false (execCXor h d a b s) := by
  unfold execCXor
  simp [hs]

theorem State.keeps_execCAndn {s₀ s : State} (hs : s₀.Keeps false s) (h : Hdr) (d a b : BitVec 5) :
    s₀.KeepsNext false (execCAndn h d a b s) := by
  unfold execCAndn
  simp [hs]

theorem State.keeps_execCShl {s₀ s : State} (hs : s₀.Keeps false s) (h : Hdr) (d a b : BitVec 5) :
    s₀.KeepsNext false (execCShl h d a b s) := by
  unfold execCShl
  simp [hs]

theorem State.keeps_execCShr {s₀ s : State} (hs : s₀.Keeps false s) (h : Hdr) (d a b : BitVec 5) :
    s₀.KeepsNext false (execCShr h d a b s) := by
  unfold execCShr
  simp [hs]

theorem State.keeps_execCSra {s₀ s : State} (hs : s₀.Keeps false s) (h : Hdr) (d a b : BitVec 5) :
    s₀.KeepsNext false (execCSra h d a b s) := by
  unfold execCSra
  simp [hs]

theorem State.keeps_execCRol {s₀ s : State} (hs : s₀.Keeps false s) (h : Hdr) (d a b : BitVec 5) :
    s₀.KeepsNext false (execCRol h d a b s) := by
  unfold execCRol
  simp [hs]

theorem State.keeps_execCMul {s₀ s : State} (hs : s₀.Keeps false s) (h : Hdr) (d a b : BitVec 5) :
    s₀.KeepsNext false (execCMul h d a b s) := by
  unfold execCMul
  simp [hs]

theorem State.keeps_execCMulh {s₀ s : State} (hs : s₀.Keeps false s) (h : Hdr) (d a b : BitVec 5) :
    s₀.KeepsNext false (execCMulh h d a b s) := by
  unfold execCMulh
  simp [hs]

theorem State.keeps_execCMulhu {s₀ s : State} (hs : s₀.Keeps false s) (h : Hdr) (d a b : BitVec 5) :
    s₀.KeepsNext false (execCMulhu h d a b s) := by
  unfold execCMulhu
  simp [hs]

theorem State.keeps_execCDiv {s₀ s : State} (hs : s₀.Keeps false s) (h : Hdr) (d a b : BitVec 5) :
    s₀.KeepsNext false (execCDiv h d a b s) := by
  unfold execCDiv
  simp [hs]

theorem State.keeps_execCDivu {s₀ s : State} (hs : s₀.Keeps false s) (h : Hdr) (d a b : BitVec 5) :
    s₀.KeepsNext false (execCDivu h d a b s) := by
  unfold execCDivu
  simp [hs]

theorem State.keeps_execCRem {s₀ s : State} (hs : s₀.Keeps false s) (h : Hdr) (d a b : BitVec 5) :
    s₀.KeepsNext false (execCRem h d a b s) := by
  unfold execCRem
  simp [hs]

theorem State.keeps_execCRemu {s₀ s : State} (hs : s₀.Keeps false s) (h : Hdr) (d a b : BitVec 5) :
    s₀.KeepsNext false (execCRemu h d a b s) := by
  unfold execCRemu
  simp [hs]

theorem State.keeps_execCMin {s₀ s : State} (hs : s₀.Keeps false s) (h : Hdr) (d a b : BitVec 5) :
    s₀.KeepsNext false (execCMin h d a b s) := by
  unfold execCMin
  simp [hs]

theorem State.keeps_execCMax {s₀ s : State} (hs : s₀.Keeps false s) (h : Hdr) (d a b : BitVec 5) :
    s₀.KeepsNext false (execCMax h d a b s) := by
  unfold execCMax
  simp [hs]

theorem State.keeps_execCMinu {s₀ s : State} (hs : s₀.Keeps false s) (h : Hdr) (d a b : BitVec 5) :
    s₀.KeepsNext false (execCMinu h d a b s) := by
  unfold execCMinu
  simp [hs]

theorem State.keeps_execCMaxu {s₀ s : State} (hs : s₀.Keeps false s) (h : Hdr) (d a b : BitVec 5) :
    s₀.KeepsNext false (execCMaxu h d a b s) := by
  unfold execCMaxu
  simp [hs]

theorem State.keeps_execCSlt {s₀ s : State} (hs : s₀.Keeps false s) (h : Hdr) (d a b : BitVec 5) :
    s₀.KeepsNext false (execCSlt h d a b s) := by
  unfold execCSlt
  simp [hs]

theorem State.keeps_execCSltu {s₀ s : State} (hs : s₀.Keeps false s) (h : Hdr) (d a b : BitVec 5) :
    s₀.KeepsNext false (execCSltu h d a b s) := by
  unfold execCSltu
  simp [hs]

theorem State.keeps_execCSeq {s₀ s : State} (hs : s₀.Keeps false s) (h : Hdr) (d a b : BitVec 5) :
    s₀.KeepsNext false (execCSeq h d a b s) := by
  unfold execCSeq
  simp [hs]

theorem State.keeps_execCSne {s₀ s : State} (hs : s₀.Keeps false s) (h : Hdr) (d a b : BitVec 5) :
    s₀.KeepsNext false (execCSne h d a b s) := by
  unfold execCSne
  simp [hs]

theorem State.keeps_execCClz {s₀ s : State} (hs : s₀.Keeps false s) (h : Hdr) (d a : BitVec 5) :
    s₀.KeepsNext false (execCClz h d a s) := by
  unfold execCClz
  simp [hs]

theorem State.keeps_execCCtz {s₀ s : State} (hs : s₀.Keeps false s) (h : Hdr) (d a : BitVec 5) :
    s₀.KeepsNext false (execCCtz h d a s) := by
  unfold execCCtz
  simp [hs]

theorem State.keeps_execCPopc {s₀ s : State} (hs : s₀.Keeps false s) (h : Hdr) (d a : BitVec 5) :
    s₀.KeepsNext false (execCPopc h d a s) := by
  unfold execCPopc
  simp [hs]

theorem State.keeps_execCBswap {s₀ s : State} (hs : s₀.Keeps false s) (h : Hdr) (d a : BitVec 5) :
    s₀.KeepsNext false (execCBswap h d a s) := by
  unfold execCBswap
  simp [hs]

theorem State.keeps_execCAddi {s₀ s : State} (hs : s₀.Keeps false s) (h : Hdr) (d a : BitVec 5) (imm : BitVec 30) :
    s₀.KeepsNext false (execCAddi h d a imm s) := by
  unfold execCAddi
  simp [hs]

theorem State.keeps_execCAndi {s₀ s : State} (hs : s₀.Keeps false s) (h : Hdr) (d a : BitVec 5) (imm : BitVec 30) :
    s₀.KeepsNext false (execCAndi h d a imm s) := by
  unfold execCAndi
  simp [hs]

theorem State.keeps_execCOri {s₀ s : State} (hs : s₀.Keeps false s) (h : Hdr) (d a : BitVec 5) (imm : BitVec 30) :
    s₀.KeepsNext false (execCOri h d a imm s) := by
  unfold execCOri
  simp [hs]

theorem State.keeps_execCXori {s₀ s : State} (hs : s₀.Keeps false s) (h : Hdr) (d a : BitVec 5) (imm : BitVec 30) :
    s₀.KeepsNext false (execCXori h d a imm s) := by
  unfold execCXori
  simp [hs]

theorem State.keeps_execCSlti {s₀ s : State} (hs : s₀.Keeps false s) (h : Hdr) (d a : BitVec 5) (imm : BitVec 30) :
    s₀.KeepsNext false (execCSlti h d a imm s) := by
  unfold execCSlti
  simp [hs]

theorem State.keeps_execCSltui {s₀ s : State} (hs : s₀.Keeps false s) (h : Hdr) (d a : BitVec 5) (imm : BitVec 30) :
    s₀.KeepsNext false (execCSltui h d a imm s) := by
  unfold execCSltui
  simp [hs]

theorem State.keeps_execCShli {s₀ s : State} (hs : s₀.Keeps false s) (h : Hdr) (d a : BitVec 5) (amt : BitVec 6) :
    s₀.KeepsNext false (execCShli h d a amt s) := by
  unfold execCShli
  simp [hs]

theorem State.keeps_execCShri {s₀ s : State} (hs : s₀.Keeps false s) (h : Hdr) (d a : BitVec 5) (amt : BitVec 6) :
    s₀.KeepsNext false (execCShri h d a amt s) := by
  unfold execCShri
  simp [hs]

theorem State.keeps_execCSrai {s₀ s : State} (hs : s₀.Keeps false s) (h : Hdr) (d a : BitVec 5) (amt : BitVec 6) :
    s₀.KeepsNext false (execCSrai h d a amt s) := by
  unfold execCSrai
  simp [hs]

theorem State.keeps_execCLi {s₀ s : State} (hs : s₀.Keeps false s) (h : Hdr) (d : BitVec 5) (imm : BitVec 30) :
    s₀.KeepsNext false (execCLi h d imm s) := by
  unfold execCLi
  simp [hs]

theorem State.keeps_execCLih {s₀ s : State} (hs : s₀.Keeps false s) (h : Hdr) (d a : BitVec 5) (imm : BitVec 30) :
    s₀.KeepsNext false (execCLih h d a imm s) := by
  unfold execCLih
  simp [hs]

theorem State.keeps_execCAddpc {s₀ s : State} (hs : s₀.Keeps false s) (h : Hdr) (d : BitVec 5) (imm : BitVec 30) :
    s₀.KeepsNext false (execCAddpc h d imm s) := by
  unfold execCAddpc
  simp [hs]

theorem State.keeps_execIllegalWord {s₀ s : State} (hs : s₀.Keeps false s) (detail : Nat) :
    s₀.KeepsNext false (execIllegalWord detail s) := by
  unfold execIllegalWord
  simp [hs]

theorem State.keeps_execCB {s₀ s : State} (hs : s₀.Keeps false s) (h : Hdr) (a b : BitVec 5) (cnd : Cnd) (ofs : BitVec 27) :
    s₀.KeepsNext false (execCB h a b cnd ofs s) := by
  unfold execCB
  repeat' split
  all_goals simp [hs]

theorem State.keeps_execCJ {s₀ s : State} (hs : s₀.Keeps false s) (h : Hdr) (ofs : BitVec 35) :
    s₀.KeepsNext false (execCJ h ofs s) := by
  unfold execCJ
  repeat' split
  all_goals simp [hs]

theorem State.keeps_execCJal {s₀ s : State} (hs : s₀.Keeps false s) (h : Hdr) (d : BitVec 5) (ofs : BitVec 35) :
    s₀.KeepsNext false (execCJal h d ofs s) := by
  unfold execCJal
  repeat' split
  all_goals simp [hs]

theorem State.keeps_execCJr {s₀ s : State} (hs : s₀.Keeps false s) (h : Hdr) (d a : BitVec 5) :
    s₀.KeepsNext false (execCJr h d a s) := by
  unfold execCJr
  simp [hs]

theorem State.keeps_execInstructionFetch {s₀ s : State} (hs : s₀.Keeps false s) (core : Nat) (st : Strm) :
    s₀.KeepsNext false (execInstructionFetch core st s) := by
  unfold execInstructionFetch
  simp [hs]

theorem State.keeps_execAllNop {s₀ s : State} (hs : s₀.Keeps false s) (idle : BitVec 10) :
    s₀.KeepsNext false (execAllNop idle s) := by
  unfold execAllNop
  simp [hs]

theorem State.keeps_execAllStart {s₀ s : State} (hs : s₀.Keeps false s) (idle : BitVec 10) :
    s₀.KeepsNext false (execAllStart idle s) := by
  unfold execAllStart
  simp [hs]

theorem State.keeps_execAllRealign {s₀ s : State} (hs : s₀.Keeps false s) (idle : BitVec 10) :
    s₀.KeepsNext false (execAllRealign idle s) := by
  unfold execAllRealign
  simp [hs]

theorem State.keeps_execAllBrk {s₀ s : State} (hs : s₀.Keeps false s) (idle : BitVec 10) :
    s₀.KeepsNext false (execAllBrk idle s) := by
  unfold execAllBrk
  simp [hs]

theorem State.keeps_execAllEnd {s₀ s : State} (hs : s₀.Keeps false s) (idle : BitVec 10) :
    s₀.KeepsNext false (execAllEnd idle s) := by
  unfold execAllEnd
  simp [hs]

theorem State.keeps_execAllLoop {ex : Bool} {s₀ s : State} (hs : s₀.Keeps ex s) (idle : BitVec 10) (lp : BitVec 2) (src : Bool)
    (count : BitVec 17) (end20 : BitVec 20) : s₀.KeepsNext ex (execAllLoop idle lp src count end20 s) := by
  refine State.keepsNext_next.2 (State.keeps_allWord hs _ fun st => ?_)
  dsimp only
  split
  · simp [hs]
  · cases st
    · simp [hs]
    all_goals
      dsimp only
      split <;> simp [hs]

theorem State.keeps_execAllBr {ex : Bool} {s₀ s : State} (hs : s₀.Keeps ex s) (idle : BitVec 10) (a b : BitVec 5) (cnd : Cnd)
    (ofs : BitVec 27) : s₀.KeepsNext ex (execAllBr idle a b cnd ofs s) := by
  refine State.keepsNext_next.2 (State.keeps_allWord hs _ fun st => ?_)
  dsimp only
  split
  · simp [hs]
  · cases st
    · simp [hs]
    all_goals
      dsimp only
      split <;> simp [hs]

theorem State.keeps_execDomainWakeStart {s₀ s : State} (hs : s₀.Keeps false s) (lease : Bool) (n : Nat) :
    s₀.KeepsNext false (execDomainWakeStart lease n s) := by
  simp only [execDomainWakeStart, State.keepsNext_next]
  repeat' split
  all_goals simp [hs]

theorem State.keeps_execDomainAwake {s₀ s : State} (hs : s₀.Keeps false s) (dom : DomRef) :
    s₀.KeepsNext false (execDomainAwake dom s) := by
  unfold execDomainAwake
  simp [hs]

theorem State.keeps_execCWake {s₀ s : State} (hs : s₀.Keeps false s) (h : Hdr) (dt : DomTy) (mask : BitVec 32) :
    s₀.KeepsNext false (execCWake h dt mask s) := by
  unfold execCWake
  simp [hs]

theorem State.keeps_execCSleep {s₀ s : State} (hs : s₀.Keeps false s) (h : Hdr) (dt : DomTy) (ret : Bool) (mask : BitVec 32) :
    s₀.KeepsNext false (execCSleep h dt ret mask s) := by
  unfold execCSleep
  simp [hs]

theorem State.keeps_execCWstat {s₀ s : State} (hs : s₀.Keeps false s) (h : Hdr) (dt : DomTy) (mask : BitVec 32) :
    s₀.KeepsNext false (execCWstat h dt mask s) := by
  unfold execCWstat
  simp [hs]

theorem State.keeps_execLWake {s₀ s : State} (hs : s₀.Keeps false s) (h : Hdr) (dt : DomTy) (mask : BitVec 32) :
    s₀.KeepsNext false (execLWake h dt mask s) := by
  unfold execLWake
  simp [hs]

theorem State.keeps_execLSleep {s₀ s : State} (hs : s₀.Keeps false s) (h : Hdr) (dt : DomTy) (ret : Bool) (mask : BitVec 32) :
    s₀.KeepsNext false (execLSleep h dt ret mask s) := by
  unfold execLSleep
  simp [hs]

theorem State.keeps_execLWstat {s₀ s : State} (hs : s₀.Keeps false s) (h : Hdr) (dt : DomTy) (mask : BitVec 32) :
    s₀.KeepsNext false (execLWstat h dt mask s) := by
  unfold execLWstat
  simp [hs]

theorem State.keeps_execVWake {s₀ s : State} (hs : s₀.Keeps false s) (h : Hdr) (dt : DomTy) (mask : BitVec 32) :
    s₀.KeepsNext false (execVWake h dt mask s) := by
  unfold execVWake
  simp [hs]

theorem State.keeps_execVSleep {s₀ s : State} (hs : s₀.Keeps false s) (h : Hdr) (dt : DomTy) (ret : Bool) (mask : BitVec 32) :
    s₀.KeepsNext false (execVSleep h dt ret mask s) := by
  unfold execVSleep
  simp [hs]

theorem State.keeps_execVWstat {s₀ s : State} (hs : s₀.Keeps false s) (h : Hdr) (dt : DomTy) (mask : BitVec 32) :
    s₀.KeepsNext false (execVWstat h dt mask s) := by
  unfold execVWstat
  simp [hs]

theorem State.keeps_execSWake {s₀ s : State} (hs : s₀.Keeps false s) (h : Hdr) (dt : DomTy) (mask : BitVec 32) :
    s₀.KeepsNext false (execSWake h dt mask s) := by
  unfold execSWake
  simp [hs]

theorem State.keeps_execSSleep {s₀ s : State} (hs : s₀.Keeps false s) (h : Hdr) (dt : DomTy) (ret : Bool) (mask : BitVec 32) :
    s₀.KeepsNext false (execSSleep h dt ret mask s) := by
  unfold execSSleep
  simp [hs]

theorem State.keeps_execSWstat {s₀ s : State} (hs : s₀.Keeps false s) (h : Hdr) (dt : DomTy) (mask : BitVec 32) :
    s₀.KeepsNext false (execSWstat h dt mask s) := by
  unfold execSWstat
  simp [hs]

theorem State.keeps_execDomainPowerOff {s₀ s : State} (hs : s₀.Keeps false s) (dom : DomRef) :
    s₀.KeepsNext false (execDomainPowerOff dom s) := by
  simp only [execDomainPowerOff, State.keepsNext_next]
  repeat' split
  all_goals simp [hs]

theorem State.keeps_execGoPush {s₀ s : State} (hs : s₀.Keeps false s) (core : Nat) : s₀.KeepsNext false (execGoPush core s) := by
  unfold execGoPush
  repeat' split
  all_goals simp [hs]

theorem State.keeps_execResultLoad {s₀ s : State} (hs : s₀.Keeps false s) (core : Nat) :
    s₀.KeepsNext false (execResultLoad core s) := by
  simp only [execResultLoad, State.keepsNext_next]
  repeat' split
  all_goals simp [hs]

/-- A step of an engine on the command that runs, if one does. -/
theorem State.keeps_turnedRun {ex : Bool} {s₀ s : State} (hs : s₀.Keeps ex s) (cl : Nat) (eng : Eng) {run : State → Option Cmd}
    {f : State → Cmd → State} (hf : ∀ t k, s₀.Keeps ex t → s₀.Keeps ex (f t k)) :
    s₀.KeepsNext ex (.next (s.turned cl eng (fun t => match run t with
      | some k => f t k
      | none => t))) := by
  refine State.keepsNext_next.2 (State.keeps_turned hs _ _ fun t ht => ?_)
  split
  · exact hf _ _ ht
  · exact ht

theorem State.keeps_execArrayMma {s₀ s : State} (hs : s₀.Keeps false s) (cl : Nat) : s₀.KeepsNext false (execArrayMma cl s) :=
  State.keeps_turnedRun hs _ _ fun _ k ht => State.keeps_opDone ht k fun _ _ hu => State.keeps_mma hu _ _

theorem State.keeps_execArrayMmas {s₀ s : State} (hs : s₀.Keeps false s) (cl : Nat) : s₀.KeepsNext false (execArrayMmas cl s) :=
  State.keeps_turnedRun hs _ _ fun _ k ht => State.keeps_opDone ht k fun _ _ hu => State.keeps_mmas hu _ _

theorem State.keeps_execArrayMzero {s₀ s : State} (hs : s₀.Keeps false s) (cl : Nat) : s₀.KeepsNext false (execArrayMzero cl s) :=
  State.keeps_turnedRun hs _ _ fun _ k ht => State.keeps_opDone ht k fun _ _ hu => State.keeps_mzero hu _

theorem State.keeps_execArrayDrain {s₀ s : State} (hs : s₀.Keeps false s) (cl : Nat) : s₀.KeepsNext false (execArrayDrain cl s) :=
  State.keeps_turnedRun hs _ _ fun _ k ht => State.keeps_opDone ht k fun _ _ hu => State.keeps_drain hu _ _

theorem State.keeps_execCLd {s₀ s : State} (hs : s₀.Keeps false s) (h : Hdr) (d a : BitVec 5) (cls : BitVec 4) (scp : Scp)
    (sz : Sz) (sx : Bool) (ofs : BitVec 20) :
    s₀.KeepsNext false (execCLd h d a cls scp sz sx ofs s) := by
  unfold execCLd
  simp [hs]

theorem State.keeps_execCSt {s₀ s : State} (hs : s₀.Keeps false s) (h : Hdr) (d a : BitVec 5) (cls : BitVec 4) (scp : Scp)
    (sz : Sz) (ofs : BitVec 20) :
    s₀.KeepsNext false (execCSt h d a cls scp sz ofs s) := by
  unfold execCSt
  simp [hs]

theorem State.keeps_execCLdx {s₀ s : State} (hs : s₀.Keeps false s) (h : Hdr) (d a b : BitVec 5) (cls : BitVec 4) (scp : Scp)
    (sx : Bool) (sz : Sz) :
    s₀.KeepsNext false (execCLdx h d a b cls scp sx sz s) := by
  unfold execCLdx
  simp [hs]

theorem State.keeps_execCStx {s₀ s : State} (hs : s₀.Keeps false s) (h : Hdr) (d a b : BitVec 5) (cls : BitVec 4) (scp : Scp)
    (sz : Sz) :
    s₀.KeepsNext false (execCStx h d a b cls scp sz s) := by
  unfold execCStx
  simp [hs]

theorem State.keeps_execCAmo {s₀ s : State} (hs : s₀.Keeps false s) (h : Hdr) (d a b : BitVec 5) (cls : BitVec 4) (scp : Scp)
    (w32 : Bool) (opn : AmoOp) :
    s₀.KeepsNext false (execCAmo h d a b cls scp w32 opn s) := by
  unfold execCAmo
  simp [hs]

theorem State.keeps_execCCas {s₀ s : State} (hs : s₀.Keeps false s) (h : Hdr) (d a b e : BitVec 5) (cls : BitVec 4) (scp : Scp)
    (w32 : Bool) :
    s₀.KeepsNext false (execCCas h d a b e cls scp w32 s) := by
  unfold execCCas
  simp [hs]

theorem State.keeps_execCFence {s₀ s : State} (hs : s₀.Keeps false s) (h : Hdr) (scp : Scp) (mask : BitVec 16) :
    s₀.KeepsNext false (execCFence h scp mask s) := by
  unfold execCFence
  simp [hs]

theorem State.keeps_execFenceRelease {s₀ s : State} (hs : s₀.Keeps false s) (core : Nat) :
    s₀.KeepsNext false (execFenceRelease core s) := by
  unfold execFenceRelease
  repeat' split
  all_goals simp [hs]

theorem State.keeps_execCWaita {s₀ s : State} (hs : s₀.Keeps false s) (h : Hdr) (d a b : BitVec 5) (slot : BitVec 3)
    (cnd : ICnd) :
    s₀.KeepsNext false (execCWaita h d a b slot cnd s) := by
  simp only [execCWaita, State.keepsNext_next]
  repeat' split
  all_goals simp [hs]

theorem State.keeps_execWaitaRelease {s₀ s : State} (hs : s₀.Keeps false s) (core : Nat) :
    s₀.KeepsNext false (execWaitaRelease core s) := by
  unfold execWaitaRelease
  repeat' split
  all_goals simp [hs]

theorem State.keeps_execLNop {s₀ s : State} (hs : s₀.Keeps false s) (h : Hdr) : s₀.KeepsNext false (execLNop h s) := by
  unfold execLNop
  simp [hs]

theorem State.keeps_execLPset {s₀ s : State} (hs : s₀.Keeps false s) (h : Hdr) (p : BitVec 4) (imm : BitVec 36) :
    s₀.KeepsNext false (execLPset h p imm s) := by
  unfold execLPset
  simp [hs]

theorem State.keeps_execLPadd {s₀ s : State} (hs : s₀.Keeps false s) (h : Hdr) (p : BitVec 4) (imm : BitVec 36) :
    s₀.KeepsNext false (execLPadd h p imm s) := by
  unfold execLPadd
  simp [hs]

theorem State.keeps_execLLrs {s₀ s : State} (hs : s₀.Keeps false s) (h : Hdr) (p ring : BitVec 4) :
    s₀.KeepsNext false (execLLrs h p ring s) := by
  unfold execLLrs
  simp [hs]

theorem State.keeps_execSNop {s₀ s : State} (hs : s₀.Keeps false s) (h : Hdr) : s₀.KeepsNext false (execSNop h s) := by
  unfold execSNop
  simp [hs]

theorem State.keeps_execSPset {s₀ s : State} (hs : s₀.Keeps false s) (h : Hdr) (p : BitVec 4) (imm : BitVec 36) :
    s₀.KeepsNext false (execSPset h p imm s) := by
  unfold execSPset
  simp [hs]

theorem State.keeps_execSPadd {s₀ s : State} (hs : s₀.Keeps false s) (h : Hdr) (p : BitVec 4) (imm : BitVec 36) :
    s₀.KeepsNext false (execSPadd h p imm s) := by
  unfold execSPadd
  simp [hs]

theorem State.keeps_execSSrs {s₀ s : State} (hs : s₀.Keeps false s) (h : Hdr) (p ring : BitVec 4) :
    s₀.KeepsNext false (execSSrs h p ring s) := by
  unfold execSSrs
  simp [hs]

@[simp] theorem State.keeps_lineStore {ex : Bool} {s₀ s : State} (hs : s₀.Keeps ex s) (h : Hdr) (p : BitVec 4) (x : Lane2)
    (cv : Cv)
    (md : Md) (inc : BitVec 20) : s₀.Keeps ex (s.lineStore h p x cv md inc) := by
  simp only [State.lineStore]
  split
  · simp [hs]
  split
  · simp [hs]
  · split <;> simp [hs]

@[simp] theorem State.keeps_accStore {ex : Bool} {s₀ s : State} (hs : s₀.Keeps ex s) (h : Hdr) (p : BitVec 4) (x : Lane2)
    (md : Md)
    (inc : BitVec 20) : s₀.Keeps ex (s.accStore h p x md inc) := by
  simp only [State.accStore]
  split
  · simp [hs]
  · split <;> simp [hs]

theorem State.keeps_execLLdq {s₀ s : State} (hs : s₀.Keeps false s) (h : Hdr) (p : BitVec 4) (x : BitVec 3) (_ty : LaneTy)
    (cv : Cv) (md : Md) (inc : BitVec 20) :
    s₀.KeepsNext false (execLLdq h p x _ty cv md inc s) := by
  unfold execLLdq
  simp [hs]

theorem State.keeps_execLLdg {s₀ s : State} (hs : s₀.Keeps false s) (h : Hdr) (p : BitVec 4) (x : Line) (_ty : LaneTy) (cv : Cv)
    (md : Md) (inc : BitVec 20) :
    s₀.KeepsNext false (execLLdg h p x _ty cv md inc s) := by
  unfold execLLdg
  simp [hs]

theorem State.keeps_execLLdb {s₀ s : State} (hs : s₀.Keeps false s) (h : Hdr) (p : BitVec 4) (x : LqLine) (_ty : LaneTy)
    (cv : Cv) (md : Md) (inc : BitVec 20) :
    s₀.KeepsNext false (execLLdb h p x _ty cv md inc s) := by
  unfold execLLdb
  simp [hs]

theorem State.keeps_execLLda {s₀ s : State} (hs : s₀.Keeps false s) (h : Hdr) (p : BitVec 4) (x : LqLine) (_ty : LaneTy)
    (pk : Bool) (md : Md) (inc : BitVec 20) :
    s₀.KeepsNext false (execLLda h p x _ty pk md inc s) := by
  unfold execLLda
  simp [hs]

theorem State.keeps_execSStq {s₀ s : State} (hs : s₀.Keeps false s) (h : Hdr) (p : BitVec 4) (x : BitVec 3) (_ty : LaneTy)
    (cv : Cv) (md : Md) (inc : BitVec 20) :
    s₀.KeepsNext false (execSStq h p x _ty cv md inc s) := by
  unfold execSStq
  simp [hs]

theorem State.keeps_execSStg {s₀ s : State} (hs : s₀.Keeps false s) (h : Hdr) (p : BitVec 4) (x : Line) (_ty : LaneTy) (cv : Cv)
    (md : Md) (inc : BitVec 20) :
    s₀.KeepsNext false (execSStg h p x _ty cv md inc s) := by
  unfold execSStg
  simp [hs]

theorem State.keeps_execSSta {s₀ s : State} (hs : s₀.Keeps false s) (h : Hdr) (p : BitVec 4) (x : SqLine) (_ty : LaneTy)
    (md : Md) (inc : BitVec 20) :
    s₀.KeepsNext false (execSSta h p x _ty md inc s) := by
  unfold execSSta
  simp [hs]

theorem State.keeps_execLLdm {s₀ s : State} (hs : s₀.Keeps false s) (h : Hdr) (p : BitVec 4) (x : BitVec 3) (cls : BitVec 4)
    (scp : Scp) (stride : BitVec 18) :
    s₀.KeepsNext false (execLLdm h p x cls scp stride s) := by
  unfold execLLdm
  simp [hs]

theorem State.keeps_execLLdgx {s₀ s : State} (hs : s₀.Keeps false s) (h : Hdr) (p : BitVec 4) (x : BitVec 3) (cls : BitVec 4)
    (scp : Scp) (row : BitVec 6) :
    s₀.KeepsNext false (execLLdgx h p x cls scp row s) := by
  unfold execLLdgx
  simp [hs]

theorem State.keeps_execSStm {s₀ s : State} (hs : s₀.Keeps false s) (h : Hdr) (p : BitVec 4) (x : BitVec 3) (cls : BitVec 4)
    (scp : Scp) (stride : BitVec 18) :
    s₀.KeepsNext false (execSStm h p x cls scp stride s) := by
  unfold execSStm
  simp [hs]

theorem State.keeps_execSStsx {s₀ s : State} (hs : s₀.Keeps false s) (h : Hdr) (p : BitVec 4) (x : BitVec 3) (cls : BitVec 4)
    (scp : Scp) (row : BitVec 6) :
    s₀.KeepsNext false (execSStsx h p x cls scp row s) := by
  unfold execSStsx
  simp [hs]

theorem State.keeps_execSVamo {s₀ s : State} (hs : s₀.Keeps false s) (h : Hdr) (p : BitVec 4) (x : BitVec 3) (cls : BitVec 4)
    (scp : Scp) (ty : LaneTy) (stride : BitVec 18) :
    s₀.KeepsNext false (execSVamo h p x cls scp ty stride s) := by
  unfold execSVamo
  simp [hs]

theorem State.keeps_execVResultWrite {s₀ s : State} (hs : s₀.Keeps false s) (core : Nat) :
    s₀.KeepsNext false (execVResultWrite core s) := by
  unfold execVResultWrite
  repeat' split
  all_goals simp [hs]

theorem State.keeps_execSnapshotDeliver {s₀ s : State} (hs : s₀.Keeps false s) (core : Nat) :
    s₀.KeepsNext false (execSnapshotDeliver core s) := by
  unfold execSnapshotDeliver
  repeat' split
  all_goals simp [hs]

theorem State.keeps_execLqFill {s₀ s : State} (hs : s₀.Keeps false s) (core : Nat) : s₀.KeepsNext false (execLqFill core s) := by
  unfold execLqFill
  simp [hs]

theorem State.keeps_execDirectAccessPerform {s₀ s : State} (hs : s₀.Keeps false s) (core : Nat) :
    s₀.KeepsNext false (execDirectAccessPerform core s) := by
  unfold execDirectAccessPerform
  extract_lets due t1 t2
  have h1 : s₀.Keeps false t1 := by simp [t1, hs]
  have h2 : s₀.Keeps false t2 := State.keeps_foldl_imp h1 _ _ fun t a ht => State.keeps_directRead ht _ _ _
  exact State.keepsNext_next.2 (State.keeps_foldl_imp h2 _ _ fun t a ht => State.keeps_directWrite ht _ _)

theorem State.keeps_execPerform {s₀ s : State} (hs : s₀.Keeps false s) (core : Nat) (cls : BitVec 4) :
    s₀.KeepsNext false (execPerform core cls s) := by
  refine State.keepsNext_next.2 (State.keeps_onFifo hs _ _ fun t ht => ?_)
  split
  · split <;> simp [ht]
  · exact ht

theorem State.keeps_execCLoadReply {s₀ s : State} (hs : s₀.Keeps false s) (core : Nat) :
    s₀.KeepsNext false (execCLoadReply core s) := by
  simp only [execCLoadReply, State.keepsNext_next]
  repeat' split
  all_goals simp [hs]

theorem State.keeps_execGridLoadLand {s₀ s : State} (hs : s₀.Keeps false s) (core : Nat) :
    s₀.KeepsNext false (execGridLoadLand core s) := by
  unfold execGridLoadLand
  repeat' split
  all_goals simp [hs]

theorem State.keeps_execWstatRelease {s₀ s : State} (hs : s₀.Keeps false s) (core : Nat) (st : Strm) :
    s₀.KeepsNext false (execWstatRelease core st s) := by
  unfold execWstatRelease
  repeat' split
  all_goals simp [hs]

theorem State.keeps_execLeaseExpiry {ex : Bool} {s₀ s : State} (hs : s₀.Keeps ex s) (core : Nat) (cls : BitVec 4) :
    s₀.KeepsNext ex (execLeaseExpiry core cls s) := by
  refine State.keepsNext_next.2 (State.keeps_onFifo hs _ _ fun t ht => ?_)
  split
  · split <;> simp [ht]
  · exact ht

theorem State.keeps_execAtomicResend {ex : Bool} {s₀ s : State} (hs : s₀.Keeps ex s) (core : Nat) (cls : BitVec 4) :
    s₀.KeepsNext ex (execAtomicResend core cls s) := by
  refine State.keepsNext_next.2 (State.keeps_onFifo hs _ _ fun t ht => ?_)
  split
  · split <;> simp [ht]
  · exact ht

theorem State.keeps_execSliceEntryApply {s₀ s : State} (hs : s₀.Keeps false s) (slice : Nat) :
    s₀.KeepsNext false (execSliceEntryApply slice s) := by
  refine State.keepsNext_next.2 ?_
  dsimp only
  split
  · next e t _ =>
    have h1 : s₀.Keeps false (s.setQueue slice t) := by simp [hs]
    split
    · exact State.keeps_turned hs _ _ fun u hu => by simp [hu]
    split
    · exact State.keeps_turned h1 _ _ fun u hu => by simp [hu]
    · refine State.keeps_turned h1 _ _ fun u hu => ?_
      split
      · next v hv => exact State.keeps_applyEntry (State.keeps_entryRace hu _ _ hv) _ _
      · simp [hu]
  · exact hs

theorem State.keeps_execWalkReturn {s₀ s : State} (hs : s₀.Keeps false s) (cl : Nat) :
    s₀.KeepsNext false (execWalkReturn cl s) := by
  unfold execWalkReturn
  repeat' split
  all_goals simp [hs]

theorem State.keeps_execCouplingTransfer {s₀ s : State} (hs : s₀.Keeps false s) (core : Nat) (sq : BitVec 3) :
    s₀.KeepsNext false (execCouplingTransfer core sq s) := by
  simp only [execCouplingTransfer, State.keepsNext_next]
  repeat' split
  all_goals simp [hs]

theorem State.keeps_execXeFwd {s₀ s : State} (hs : s₀.Keeps false s) (core : Nat) : s₀.KeepsNext false (execXeFwd core s) :=
  State.keeps_turnedRun hs _ _ fun _ k ht => State.keeps_opDone ht k fun _ _ hu => State.keeps_writeRows hu _ _

theorem State.keeps_execXeInv {s₀ s : State} (hs : s₀.Keeps false s) (core : Nat) : s₀.KeepsNext false (execXeInv core s) :=
  State.keeps_turnedRun hs _ _ fun _ k ht => State.keeps_opDone ht k fun _ _ hu => by simp [hu]

theorem State.keeps_execXeTagset {s₀ s : State} (hs : s₀.Keeps false s) (core : Nat) : s₀.KeepsNext false (execXeTagset core s) :=
  State.keeps_turnedRun hs _ _ fun _ k ht => State.keeps_opDone ht k fun _ _ hu => hu

theorem State.keeps_execCeCopy {s₀ s : State} (hs : s₀.Keeps false s) (core : Nat) : s₀.KeepsNext false (execCeCopy core s) :=
  State.keeps_turnedRun hs _ _ fun _ _ ht => State.keeps_copySlot ht _ _

theorem State.keeps_execCeGath {s₀ s : State} (hs : s₀.Keeps false s) (core : Nat) : s₀.KeepsNext false (execCeGath core s) :=
  State.keeps_turnedRun hs _ _ fun _ _ ht => State.keeps_copySlot ht _ _

theorem State.keeps_execCeScat {s₀ s : State} (hs : s₀.Keeps false s) (core : Nat) : s₀.KeepsNext false (execCeScat core s) :=
  State.keeps_turnedRun hs _ _ fun _ _ ht => State.keeps_copySlot ht _ _

theorem State.keeps_execCeWfill {s₀ s : State} (hs : s₀.Keeps false s) (core : Nat) : s₀.KeepsNext false (execCeWfill core s) :=
  State.keeps_turnedRun hs _ _ fun _ _ ht => State.keeps_copySlot ht _ _

theorem State.keeps_execCopyEngineSlot {s₀ s : State} (hs : s₀.Keeps false s) (cl : Nat) :
    s₀.KeepsNext false (execCopyEngineSlot cl s) := by
  refine State.keeps_turnedRun hs _ _ fun t k ht => ?_
  split <;> simp [ht]

theorem State.keeps_execCeFlagw {s₀ s : State} (hs : s₀.Keeps false s) (core : Nat) : s₀.KeepsNext false
    (execCeFlagw core s) := by
  refine State.keepsNext_next.2 (State.keeps_turned hs _ _ fun s hs => ?_)
  split
  · exact hs
  · next k _ =>
    split
    · exact hs
    split
    · simp [hs]
    · have hp := State.keeps_copyPage hs k true none k.dst none 4 0
      split
      · next t ht => rwa [ht] at hp
      · simp [hs]
      · next t e pa ht =>
        rw [ht] at hp
        replace hp : s₀.Keeps false t := hp
        split
        · simp [hp]
        · split
          · next u hu => simp [State.keeps_devWrite hp _ _ _ _ hu]
          · simp [hp]
      · next t e pa ht =>
        rw [ht] at hp
        replace hp : s₀.Keeps false t := hp
        simp [hp]
      · next t e p _ _ ht =>
        rw [ht] at hp
        exact hp

theorem State.keeps_execCePref {ex : Bool} {s₀ s : State} (hs : s₀.Keeps ex s) (core : Nat) : s₀.KeepsNext ex
    (execCePref core s) := by
  refine State.keepsNext_next.2 (State.keeps_turned hs _ _ fun s hs => ?_)
  repeat' split
  all_goals simp [hs]

theorem State.keeps_execCommandStart {ex : Bool} {s₀ s : State} (hs : s₀.Keeps ex s) (core : Nat) (eng : Eng) :
    s₀.KeepsNext ex (execCommandStart core eng s) := by
  refine State.keeps_turnedRun hs _ _ fun t k ht => ?_
  split <;> simp [ht]

theorem State.keeps_execXeSiblingPull {ex : Bool} {s₀ s : State} (hs : s₀.Keeps ex s) (core : Nat) :
    s₀.KeepsNext ex (execXeSiblingPull core s) := by
  refine State.keepsNext_next.2 (State.keeps_turned hs _ _ fun s hs => ?_)
  repeat' split
  all_goals simp [hs]

theorem State.keeps_execCommandComplete {s₀ s : State} (hs : s₀.Keeps false s) (core : Nat) (eng : Eng) :
    s₀.KeepsNext false (execCommandComplete core eng s) := by
  refine State.keepsNext_next.2 (State.keeps_turned hs _ _ fun s hs => ?_)
  split <;> simp [hs]

theorem State.keeps_execBallastFadeStart {s₀ s : State} (hs : s₀.Keeps false s) (cl : Nat) :
    s₀.KeepsNext false (execBallastFadeStart cl s) := by
  simp only [execBallastFadeStart, State.keepsNext_next]
  repeat' split
  all_goals simp [hs]

theorem State.keeps_execBallastFadeEnd {s₀ s : State} (hs : s₀.Keeps false s) (cl : Nat) :
    s₀.KeepsNext false (execBallastFadeEnd cl s) := by
  simp only [execBallastFadeEnd, State.keepsNext_next]
  repeat' split
  all_goals simp [hs]

theorem State.keeps_execCRclaim {s₀ s : State} (hs : s₀.Keeps false s) (h : Hdr) (d : BitVec 5) (idx : BitVec 6) (scp : Scp) :
    s₀.KeepsNext false (execCRclaim h d idx scp s) := by
  unfold execCRclaim
  simp [hs]

theorem State.keeps_execCRpub {s₀ s : State} (hs : s₀.Keeps false s) (h : Hdr) (a : BitVec 5) (idx : BitVec 6) (scp : Scp)
    (mask : BitVec 16) :
    s₀.KeepsNext false (execCRpub h a idx scp mask s) := by
  unfold execCRpub
  simp [hs]

theorem State.keeps_execCRwaitf {s₀ s : State} (hs : s₀.Keeps false s) (h : Hdr) (d : BitVec 5) (idx : BitVec 6) (scp : Scp) :
    s₀.KeepsNext false (execCRwaitf h d idx scp s) := by
  unfold execCRwaitf
  simp [hs]

theorem State.keeps_execCRrel {s₀ s : State} (hs : s₀.Keeps false s) (h : Hdr) (a : BitVec 5) (idx : BitVec 6) (scp : Scp)
    (mask : BitVec 16) :
    s₀.KeepsNext false (execCRrel h a idx scp mask s) := by
  unfold execCRrel
  simp [hs]

theorem State.keeps_execCRwaite {s₀ s : State} (hs : s₀.Keeps false s) (h : Hdr) (idx : BitVec 6) (scp : Scp) :
    s₀.KeepsNext false (execCRwaite h idx scp s) := by
  unfold execCRwaite
  simp [hs]

theorem State.keeps_execCBar {s₀ s : State} (hs : s₀.Keeps false s) (h : Hdr) (d : BitVec 5) (idx : BitVec 6) (scp : Scp)
    (mask : BitVec 16) :
    s₀.KeepsNext false (execCBar h d idx scp mask s) := by
  simp only [execCBar, State.keepsNext_next]
  repeat' split
  all_goals simp [hs]

theorem State.keeps_execHomeApply {s₀ s : State} (hs : s₀.Keeps false s) (part : Nat) (bar : Bool) (n : Nat) :
    s₀.KeepsNext false (execHomeApply part bar n s) := by
  unfold execHomeApply
  simp [hs]

theorem State.keeps_execSyncRelease {s₀ s : State} (hs : s₀.Keeps false s) (core : Nat) :
    s₀.KeepsNext false (execSyncRelease core s) := by
  unfold execSyncRelease
  repeat' split
  all_goals simp [hs]

theorem State.keeps_execCMtk {s₀ s : State} (hs : s₀.Keeps false s) (h : Hdr) (a : BitVec 5) (k : BitVec 4) :
    s₀.KeepsNext false (execCMtk h a k s) := by
  unfold execCMtk
  simp [hs]

theorem State.keeps_execCMtp {s₀ s : State} (hs : s₀.Keeps false s) (h : Hdr) (a : BitVec 5) (inS : Bool) (p : BitVec 4) :
    s₀.KeepsNext false (execCMtp h a inS p s) := by
  unfold execCMtp
  simp [hs]

theorem State.keeps_execCRecv {s₀ s : State} (hs : s₀.Keeps false s) (h : Hdr) (d : BitVec 5) :
    s₀.KeepsNext false (execCRecv h d s) := by
  unfold execCRecv
  repeat' split
  all_goals simp [hs]

theorem State.keeps_execRecvRelease {s₀ s : State} (hs : s₀.Keeps false s) (core : Nat) :
    s₀.KeepsNext false (execRecvRelease core s) := by
  unfold execRecvRelease
  repeat' split
  all_goals simp [hs]

theorem State.keeps_execCMfsr {s₀ s : State} (hs : s₀.Keeps false s) (h : Hdr) (d : BitVec 5) (n : BitVec 16) :
    s₀.KeepsNext false (execCMfsr h d n s) := by
  unfold execCMfsr
  repeat' split
  all_goals simp [hs]

theorem State.keeps_execCMtsr {s₀ s : State} (hs : s₀.Keeps false s) (h : Hdr) (a : BitVec 5) (n : BitVec 16) :
    s₀.KeepsNext false (execCMtsr h a n s) := by
  simp only [execCMtsr, State.keepsNext_next]
  repeat' split
  all_goals simp [hs]

theorem State.keeps_execCRdtb {s₀ s : State} (hs : s₀.Keeps false s) (h : Hdr) (d : BitVec 5) :
    s₀.KeepsNext false (execCRdtb h d s) := by
  unfold execCRdtb
  simp [hs]

theorem State.keeps_execCMark {s₀ s : State} (hs : s₀.Keeps false s) (h : Hdr) (code : BitVec 16) :
    s₀.KeepsNext false (execCMark h code s) := by
  unfold execCMark
  simp [hs]

theorem State.keeps_execCTrap {s₀ s : State} (hs : s₀.Keeps false s) (h : Hdr) (code : BitVec 16) :
    s₀.KeepsNext false (execCTrap h code s) := by
  unfold execCTrap
  simp [hs]

theorem State.keeps_execCEret {s₀ s : State} (hs : s₀.Keeps false s) (h : Hdr) : s₀.KeepsNext false (execCEret h s) := by
  unfold execCEret
  simp [hs]

theorem State.keeps_execCIter {s₀ s : State} (hs : s₀.Keeps false s) (h : Hdr) : s₀.KeepsNext false (execCIter h s) := by
  unfold execCIter
  simp [hs]

theorem State.keeps_execIterAnswer {s₀ s : State} (hs : s₀.Keeps false s) (core : Nat) :
    s₀.KeepsNext false (execIterAnswer core s) := by
  unfold execIterAnswer
  repeat' split
  all_goals simp [hs]

theorem State.keeps_execCTcfg {s₀ s : State} (hs : s₀.Keeps false s) (h : Hdr) (a b : BitVec 5) (idx : BitVec 6) :
    s₀.KeepsNext false (execCTcfg h a b idx s) := by
  unfold execCTcfg
  simp [hs]

theorem State.keeps_execCTrel {s₀ s : State} (hs : s₀.Keeps false s) (h : Hdr) (idx : BitVec 6) :
    s₀.KeepsNext false (execCTrel h idx s) := by
  unfold execCTrel
  simp [hs]

theorem State.keeps_execCFtset {s₀ s : State} (hs : s₀.Keeps false s) (h : Hdr) (a idx : BitVec 5) :
    s₀.KeepsNext false (execCFtset h a idx s) := by
  unfold execCFtset
  simp [hs]

theorem State.keeps_execCLease {s₀ s : State} (hs : s₀.Keeps false s) (h : Hdr) (d : BitVec 5) (n1 : BitVec 6) :
    s₀.KeepsNext false (execCLease h d n1 s) := by
  unfold execCLease
  simp [hs]

theorem State.keeps_execCUlease {s₀ s : State} (hs : s₀.Keeps false s) (h : Hdr) : s₀.KeepsNext false (execCUlease h s) := by
  unfold execCUlease
  simp [hs]

theorem State.keeps_execLeaseGrant {s₀ s : State} (hs : s₀.Keeps false s) (cl : Nat) :
    s₀.KeepsNext false (execLeaseGrant cl s) := by
  simp only [execLeaseGrant, State.keepsNext_next]
  repeat' split
  all_goals simp [hs]

theorem State.keeps_execLeaseTimeout {s₀ s : State} (hs : s₀.Keeps false s) (cl : Nat) :
    s₀.KeepsNext false (execLeaseTimeout cl s) := by
  unfold execLeaseTimeout
  repeat' split
  all_goals simp [hs]

theorem State.keeps_execCCbatch {s₀ s : State} (hs : s₀.Keeps false s) (h : Hdr) (d : BitVec 5) (eng : Eng) :
    s₀.KeepsNext false (execCCbatch h d eng s) := by
  unfold execCCbatch
  simp [hs]

theorem State.keeps_execCWaitb {s₀ s : State} (hs : s₀.Keeps false s) (h : Hdr) (a : BitVec 5) (eng : Eng) :
    s₀.KeepsNext false (execCWaitb h a eng s) := by
  unfold execCWaitb
  simp [hs]

theorem State.keeps_execWaitbRelease {s₀ s : State} (hs : s₀.Keeps false s) (core : Nat) :
    s₀.KeepsNext false (execWaitbRelease core s) := by
  unfold execWaitbRelease
  repeat' split
  all_goals simp [hs]

theorem State.keeps_execCLpf {s₀ s : State} (hs : s₀.Keeps false s) (h : Hdr) (a b : BitVec 5) :
    s₀.KeepsNext false (execCLpf h a b s) := by
  unfold execCLpf
  simp [hs]

theorem State.keeps_execLaunchEnd {s₀ s : State} (hs : s₀.Keeps false s) (core : Nat) :
    s₀.KeepsNext false (execLaunchEnd core s) := by
  unfold execLaunchEnd
  simp [hs]

theorem State.keeps_execDoorbell {s₀ s : State} (hs : s₀.Keeps false s) (part : Nat) (tail : BitVec 16) :
    s₀.KeepsNext false (execDoorbell part tail s) := by
  unfold execDoorbell
  simp [hs]

theorem State.keeps_execRcbAccept {s₀ s : State} (hs : s₀.Keeps false s) (part : Nat) : s₀.KeepsNext false
    (execRcbAccept part s) := by
  have fetched {t : State} (ht : s₀.Keeps false t) (l : List Nat) :
      s₀.Keeps false (l.foldl (fun t a => t.fetchOwn part a 128) t) :=
    State.keeps_foldl_imp ht _ _ fun u a hu => State.keeps_fetchOwn hu _ _ _
  refine State.keepsNext_next.2 ?_
  dsimp only
  split
  · exact hs
  split
  · simp [hs]
  · next e _ =>
    split
    · simp [hs]
    · have h1 := fetched (t := (s.modPart part (fun p => { p with head := p.head + 1 })).fetchOwn part
        (bits (s.part part).sqcfg 12 44 * 4096 + 8 * ((s.part part).head.toNat % (s.part part).queueSize)) 8) (by simp [hs])
        (State.chainReads s part 8 (leNat e))
      split
      · exact h1
      · exact State.keeps_writeEnd h1 _ _ _
      · split
        · exact State.keeps_writeEnd h1 _ _ _
        · exact State.keeps_writeOwn ((State.keeps_modPart _ _ _).2 h1) _ _ _

theorem State.keeps_execRegionDispatch {s₀ s : State} (hs : s₀.Keeps false s) (part : Nat) :
    s₀.KeepsNext false (execRegionDispatch part s) := by
  simp only [execRegionDispatch, State.keepsNext_next]
  repeat' split
  all_goals simp [hs]

theorem State.keeps_execLaunchStart {s₀ s : State} (hs : s₀.Keeps false s) (part order : Nat) :
    s₀.KeepsNext false (execLaunchStart part order s) := by
  refine State.keepsNext_next.2 ?_
  dsimp only
  split
  · exact hs
  · split
    · simp [hs]
    · refine State.keeps_writeOwn (State.keeps_writeOwn ((State.keeps_modRegion _ _ _ _).2
        ((State.keeps_foldl _ _ fun u c => by simp).2 (State.keeps_foldl_imp hs _ _ fun t n ht => ?_))) _ _ _) _ _ _
      simp [ht]

theorem State.keeps_execRegionEnd {s₀ s : State} (hs : s₀.Keeps false s) (part order : Nat) :
    s₀.KeepsNext false (execRegionEnd part order s) := by
  unfold execRegionEnd
  repeat' split
  all_goals simp [hs]

theorem State.keeps_execDbghalt {s₀ s : State} (hs : s₀.Keeps false s) (part : Nat) :
    s₀.KeepsNext false (execDbghalt part s) := by
  unfold execDbghalt
  simp [hs]

theorem State.keeps_execFaultStop {s₀ s : State} (hs : s₀.Keeps false s) (core : Nat) :
    s₀.KeepsNext false (execFaultStop core s) := by
  unfold execFaultStop
  simp [hs]

theorem State.keeps_execFwd {s₀ s : State} (hs : s₀.Keeps false s) (core : Nat) : s₀.KeepsNext false (execFwd core s) := by
  simp only [execFwd, State.keepsNext_next]
  repeat' split
  all_goals simp [hs]

theorem State.keeps_execPctlPreempt {s₀ s : State} (hs : s₀.Keeps false s) (part regid : Nat) :
    s₀.KeepsNext false (execPctlPreempt part regid s) := by
  unfold execPctlPreempt
  simp [hs]

theorem State.keeps_execPctlResume {s₀ s : State} (hs : s₀.Keeps false s) (part regid : Nat) :
    s₀.KeepsNext false (execPctlResume part regid s) := by
  unfold execPctlResume
  simp [hs]

theorem State.keeps_execPctlEnd {s₀ s : State} (hs : s₀.Keeps false s) (part regid : Nat) :
    s₀.KeepsNext false (execPctlEnd part regid s) := by
  unfold execPctlEnd
  simp [hs]

theorem State.keeps_execPctlOneResume {s₀ s : State} (hs : s₀.Keeps false s) (part regid lcore : Nat) :
    s₀.KeepsNext false (execPctlOneResume part regid lcore s) := by
  unfold execPctlOneResume
  simp [hs]

theorem State.keeps_execPctlOneEnd {s₀ s : State} (hs : s₀.Keeps false s) (part regid lcore : Nat) :
    s₀.KeepsNext false (execPctlOneEnd part regid lcore s) := by
  unfold execPctlOneEnd
  simp [hs]

theorem State.keeps_execPreemptDone {s₀ s : State} (hs : s₀.Keeps false s) (part : Nat) : s₀.KeepsNext false
    (execPreemptDone part s) := by
  refine State.keepsNext_next.2 ?_
  dsimp only
  split
  · split
    · simp [hs]
    · next _ order _ _ _ r _ =>
      have hu : s₀.Keeps false (r.left.foldl (fun t n => t.seal part order n) s) :=
        State.keeps_foldl_imp hs _ _ fun t n ht => State.keeps_seal ht _ _ _
      split
      · refine (State.keeps_pctlDone _ _).2 ((State.keeps_modRegion _ _ _ _).2 (State.keeps_foldl_imp hu _ _ fun t n ht => ?_))
        exact State.keeps_saveCtx ht _ _ _ _ _ _
      · exact hu
  · exact hs

theorem State.keeps_execResumeRestart {s₀ s : State} (hs : s₀.Keeps false s) (part : Nat) :
    s₀.KeepsNext false (execResumeRestart part s) := by
  simp only [execResumeRestart, State.keepsNext_next]
  repeat' split
  all_goals simp [hs]

theorem State.keeps_execBsharePlace {s₀ s : State} (hs : s₀.Keeps false s) (part : Nat) (slice : BitVec 16) (regid : Nat) :
    s₀.KeepsNext false (execBsharePlace part slice regid s) := by
  unfold execBsharePlace
  simp [hs]

theorem State.keeps_execBshareStop {s₀ s : State} (hs : s₀.Keeps false s) (part : Nat) (slice : BitVec 16) :
    s₀.KeepsNext false (execBshareStop part slice s) := by
  unfold execBshareStop
  simp [hs]

theorem State.keeps_execPlacementDone {s₀ s : State} (hs : s₀.Keeps false s) (part : Nat) :
    s₀.KeepsNext false (execPlacementDone part s) := by
  simp only [execPlacementDone, State.keepsNext_next]
  repeat' split
  all_goals simp [hs]

theorem State.keeps_execSliceExpiry {s₀ s : State} (hs : s₀.Keeps false s) (core : Nat) :
    s₀.KeepsNext false (execSliceExpiry core s) := by
  unfold execSliceExpiry
  simp [hs]

theorem State.keeps_execBankRestart {s₀ s : State} (hs : s₀.Keeps false s) (core : Nat) :
    s₀.KeepsNext false (execBankRestart core s) := by
  unfold execBankRestart
  repeat' split
  all_goals simp [hs]

theorem State.keeps_execTimeBeacon {s₀ s : State} (hs : s₀.Keeps false s) (cl : Nat) (drift : Int) :
    s₀.KeepsNext false (execTimeBeacon cl drift s) := by
  unfold execTimeBeacon
  repeat' split
  all_goals simp [hs]

theorem State.keeps_execBeaconTimeout {s₀ s : State} (hs : s₀.Keeps false s) (cl : Nat) :
    s₀.KeepsNext false (execBeaconTimeout cl s) := by
  unfold execBeaconTimeout
  simp [hs]

theorem State.keeps_execPtmExchange {s₀ s : State} (hs : s₀.Keeps false s) (ahead : Int) :
    s₀.KeepsNext false (execPtmExchange ahead s) := by
  unfold execPtmExchange
  repeat' split
  all_goals simp [hs]

theorem State.keeps_execTbstatRead {s₀ s : State} (hs : s₀.Keeps false s) (cl : Nat) :
    s₀.KeepsNext false (execTbstatRead cl s) := by
  unfold execTbstatRead
  simp [hs]

theorem State.keeps_execRailWindow {s₀ s : State} (hs : s₀.Keeps false s) (cl watts : Nat) :
    s₀.KeepsNext false (execRailWindow cl watts s) := by
  unfold execRailWindow
  simp [hs]

theorem State.keeps_execRailSwitchEnd {ex : Bool} {s₀ s : State} (hs : s₀.Keeps ex s) (cl : Nat) :
    s₀.KeepsNext ex (execRailSwitchEnd cl s) := by
  refine State.keepsNext_next.2 ((State.keeps_modCluster _ _ fun c => ?_).2 hs)
  split <;> rfl

/-- A device whose memories list nothing. -/
theorem State.memOk_of_nil {s : State} (hm : s.mem = []) (hc : s.cores = []) (hk : s.clusters = []) : s.MemOk := by
  refine ⟨?_, ?_, ?_⟩
  · rw [hm]
    rfl
  · rw [hc]
    exact fun _ h => absurd h List.not_mem_nil
  · rw [hk]
    exact fun _ h => absurd h List.not_mem_nil

theorem State.keeps_execThermalTrip (s₀ s : State) (code : BitVec 8) (sensor : Nat) :
    s₀.KeepsNext false (execThermalTrip code sensor s) :=
  State.keepsNext_next.2 ⟨fun _ => State.memOk_of_nil rfl rfl rfl, fun he => nomatch he⟩

theorem State.keeps_execSample {s₀ s : State} (hs : s₀.Keeps false s) (core : Nat) : s₀.KeepsNext false (execSample core s) := by
  unfold execSample
  simp [hs]

theorem State.keeps_execTlostRead {s₀ s : State} (hs : s₀.Keeps false s) (part : Nat) :
    s₀.KeepsNext false (execTlostRead part s) := by
  unfold execTlostRead
  simp [hs]

theorem State.keeps_execReplayRelease {s₀ s : State} (hs : s₀.Keeps false s) (core : Nat) (st : Strm) :
    s₀.KeepsNext false (execReplayRelease core st s) := by
  simp only [execReplayRelease, State.keepsNext_next]
  repeat' split
  all_goals simp [hs]

theorem State.keeps_execFlitReceive {s₀ s : State} (hs : s₀.Keeps false s) (peer : Bool) (router port : Nat) (seq : BitVec 8)
    (crcOk : Bool) :
    s₀.KeepsNext false (execFlitReceive peer router port seq crcOk s) := by
  unfold execFlitReceive
  simp [hs]

theorem State.keeps_execLinkRetrain {s₀ s : State} (hs : s₀.Keeps false s) (peer : Bool) (router port : Nat) :
    s₀.KeepsNext false (execLinkRetrain peer router port s) := by
  unfold execLinkRetrain
  simp [hs]

theorem State.keeps_execRetrainEnd {s₀ s : State} (hs : s₀.Keeps false s) (peer : Bool) (router port : Nat) (bad : BitVec 32) :
    s₀.KeepsNext false (execRetrainEnd peer router port bad s) := by
  unfold execRetrainEnd
  simp [hs]

theorem State.keeps_execLinkLoss {s₀ s : State} (hs : s₀.Keeps false s) (peer : Bool) (router port : Nat) :
    s₀.KeepsNext false (execLinkLoss peer router port s) := by
  unfold execLinkLoss
  simp [hs]

theorem State.keeps_execRouteTableApply {s₀ s : State} (hs : s₀.Keeps false s) (router dest : Nat) :
    s₀.KeepsNext false (execRouteTableApply router dest s) := by
  unfold execRouteTableApply
  simp [hs]

@[simp] theorem State.keeps_linkArrive {s₀ s : State} (hs : s₀.Keeps false s) (k : Nat) (l : Link) : s₀.Keeps false
    (s.linkArrive k l) := by
  have ht : s₀.Keeps false (l.unacked.foldl (fun t f =>
      after (execFlitReceive false (farEnd (k / 16) (k % 16)).1 (farEnd (k / 16) (k % 16)).2 f.seq true t) t) s) :=
    State.keeps_foldl_imp hs _ _ fun t f ht => State.keeps_after ht (State.keeps_execFlitReceive ht _ _ _ _ _)
  simp only [State.linkArrive]
  split
  · exact State.keeps_after ht (State.keeps_execRetrainEnd ht _ _ _ _)
  · exact ht

@[simp] theorem State.keeps_peerArrive {s₀ s : State} (hs : s₀.Keeps false s) (q : Nat) (l : Link) : s₀.Keeps false
    (s.peerArrive q l) := by
  unfold State.peerArrive
  extract_lets t
  have ht : s₀.Keeps false t := by
    unfold t
    split
    · exact hs
    split
    · simp [hs]
    · exact State.keeps_after hs (State.keeps_execFlitReceive hs _ _ _ _ _)
  split
  · exact State.keeps_after ht (State.keeps_execRetrainEnd ht _ _ _ _)
  · exact ht

@[simp] theorem State.keeps_updateRoutes {s₀ s : State} (hs : s₀.Keeps false s) : s₀.Keeps false s.updateRoutes := by
  unfold State.updateRoutes
  split
  · exact State.keeps_foldl_imp hs _ _ fun t r ht => State.keeps_foldl_imp ht _ _ fun u d hu =>
      State.keeps_after hu (State.keeps_execRouteTableApply hu _ _)
  · exact hs

@[simp] theorem State.keeps_exchangeTime {s₀ s : State} (hs : s₀.Keeps false s) : s₀.Keeps false s.exchangeTime := by
  unfold State.exchangeTime
  split
  · exact State.keeps_after hs (State.keeps_execPtmExchange hs _)
  · exact hs

@[simp] theorem State.keeps_linkCycle {s₀ s : State} (hs : s₀.Keeps false s) : s₀.Keeps false s.linkCycle :=
  State.keeps_exchangeTime (State.keeps_updateRoutes
    (State.keeps_foldl_imp (State.keeps_foldl_imp hs _ _ fun _ _ ht => State.keeps_linkArrive ht _ _) _ _
      fun _ _ ht => State.keeps_peerArrive ht _ _))

theorem State.keeps_execLinkStatusRead {s₀ s : State} (hs : s₀.Keeps false s) (peer : Bool) (router port : Nat) :
    s₀.KeepsNext false (execLinkStatusRead peer router port s) := by
  unfold execLinkStatusRead
  simp [hs]

theorem State.keeps_execSliceStopsAnswering {s₀ s : State} (hs : s₀.Keeps false s) (slice : Nat) :
    s₀.KeepsNext false (execSliceStopsAnswering slice s) := by
  unfold execSliceStopsAnswering
  simp [hs]

theorem State.keeps_execHostLinkDown {s₀ s : State} (hs : s₀.Keeps false s) : s₀.KeepsNext false (execHostLinkDown s) := by
  unfold execHostLinkDown
  simp [hs]

theorem State.keeps_execHostLinkUp {s₀ s : State} (hs : s₀.Keeps false s) (link : BitVec 1) (width : Nat) :
    s₀.KeepsNext false (execHostLinkUp link width s) := by
  unfold execHostLinkUp
  simp [hs]

theorem State.keeps_execAtsCompletion {s₀ s : State} (hs : s₀.Keeps false s) (cl page log2 pa : Nat) (r w : Bool) :
    s₀.KeepsNext false (execAtsCompletion cl page log2 pa r w s) := by
  simp only [execAtsCompletion, State.keepsNext_next]
  repeat' split
  all_goals simp [hs]

theorem State.keeps_execAtsInvalidationRequest {s₀ s : State} (hs : s₀.Keeps false s) (part tag : Nat) :
    s₀.KeepsNext false (execAtsInvalidationRequest part tag s) := by
  unfold execAtsInvalidationRequest
  simp [hs]

theorem State.keeps_execInvalidationCompletion {s₀ s : State} (hs : s₀.Keeps false s) (tag : Nat) :
    s₀.KeepsNext false (execInvalidationCompletion tag s) := by
  unfold execInvalidationCompletion
  repeat' split
  all_goals simp [hs]

theorem State.keeps_execColdReset (s₀ s : State) (hwOk swOk : Bool) : s₀.KeepsNext false (execColdReset hwOk swOk s) :=
  State.keepsNext_next.2 ⟨fun _ => State.memOk_of_nil rfl rfl rfl, fun he => nomatch he⟩

theorem State.keeps_execMbNonce {s₀ s : State} (hs : s₀.Keeps false s) (who : Party) :
    s₀.KeepsNext false (execMbNonce who s) := by
  unfold execMbNonce
  simp [hs]

theorem State.keeps_execMbUnlock {s₀ s : State} (hs : s₀.Keeps false s) (who : Party) :
    s₀.KeepsNext false (execMbUnlock who s) := by
  unfold execMbUnlock
  simp [hs]

theorem State.keeps_execMbQuote {s₀ s : State} (hs : s₀.Keeps false s) (who : Party) :
    s₀.KeepsNext false (execMbQuote who s) := by
  unfold execMbQuote
  simp [hs]

theorem State.keeps_execMbExtend {s₀ s : State} (hs : s₀.Keeps false s) (who : Party) :
    s₀.KeepsNext false (execMbExtend who s) := by
  unfold execMbExtend
  simp [hs]

theorem State.keeps_execMbIdent {s₀ s : State} (hs : s₀.Keeps false s) (who : Party) :
    s₀.KeepsNext false (execMbIdent who s) := by
  unfold execMbIdent
  simp [hs]

theorem State.keeps_execMbPsetup {s₀ s : State} (hs : s₀.Keeps false s) (who : Party) :
    s₀.KeepsNext false (execMbPsetup who s) := by
  unfold execMbPsetup
  simp [hs]

theorem State.keeps_opNonce {s₀ s : State} (hs : s₀.Keeps false s) (a : Nat) : s₀.Keeps false (s.opNonce a).2 := by
  simp [State.opNonce, hs]

theorem State.keeps_opQuote {s₀ s : State} (hs : s₀.Keeps false s) (a : Nat) : s₀.Keeps false (s.opQuote a).2 := by
  unfold State.opQuote
  dsimp only
  split <;> simp [hs]

theorem State.keeps_opExtend {s₀ s : State} (hs : s₀.Keeps false s) (a : Nat) : s₀.Keeps false (s.opExtend a).2 := by
  unfold State.opExtend
  dsimp only
  split <;> simp [hs]

theorem State.keeps_opIdent {s₀ s : State} (hs : s₀.Keeps false s) (a : Nat) : s₀.Keeps false
    (s.opIdent a).2 := State.keeps_putBytes hs _ _

theorem State.keeps_opPsetup {s₀ s : State} (hs : s₀.Keeps false s) (a : Nat) : s₀.Keeps false (s.opPsetup a).2 := by
  unfold State.opPsetup
  extract_lets r n c busy
  have hc : s₀.Keeps false c := by simp [c, hs]
  split
  · refine State.keeps_ofCipher ((State.keeps_modPart _ _ _).2 (State.keeps_toCipher ?_ _)) _
    simp [hc]
  · exact hs

theorem State.keeps_opUnlock {s₀ s : State} (hs : s₀.Keeps false s) (a : Nat) : s₀.Keeps false (s.opUnlock a).2 := by
  unfold State.opUnlock
  extract_lets t m used u
  have hu : s₀.Keeps false used := by simp [used, hs]
  have hl : s₀.Keeps false u := State.keeps_lockdown hu
  repeat' split
  all_goals simp [hu, hl]

theorem State.keeps_opAt {s₀ s : State} (hs : s₀.Keeps false s) (op : MbOp) (a : Nat) : s₀.Keeps false (s.opAt op a).2 := by
  cases op
  · exact State.keeps_opNonce hs a
  · exact State.keeps_opUnlock hs a
  · exact State.keeps_opQuote hs a
  · exact State.keeps_opExtend hs a
  · exact State.keeps_opIdent hs a
  · exact State.keeps_opPsetup hs a

theorem State.keeps_mailOp {s₀ s : State} (hs : s₀.Keeps false s) (who : Party) (op : MbOp) : s₀.Keeps false
    (s.mailOp who op).2 := by
  unfold State.mailOp
  split
  · exact hs
  · split
    · exact State.keeps_opAt hs _ _
    · dsimp only
      split
      · exact State.keeps_ownRead hs _ _
      · exact State.keeps_opAt (State.keeps_ownRead hs _ _) _ _

theorem State.keeps_execMailboxComplete {s₀ s : State} (hs : s₀.Keeps false s) : s₀.KeepsNext false (execMailboxComplete s) := by
  refine State.keepsNext_next.2 ?_
  split
  · exact hs
  · extract_lets r src
    have hr : s₀.Keeps false r.2 := by
      unfold r
      split
      · exact State.keeps_mailOp hs _ _
      · exact hs
    simpa [src] using hr

@[simp] theorem State.keeps_writePart {s₀ s : State} (hs : s₀.Keeps false s) (who : Party) (part off : Nat) (v : Word) :
    s₀.Keeps false (s.writePart who part off v) := by
  have hd := State.keeps_execDoorbell hs part (v.setWidth 16)
  have hg := State.keeps_execDbghalt hs part
  unfold State.writePart
  dsimp only
  split
  case h_2 =>
    split
    · next t ht => exact hd t ht
    · exact hs
  case h_16 =>
    split
    · split
      · next t ht => exact hg t ht
      · exact hs
    · exact hs
  all_goals simp [hs]

@[simp] theorem State.keeps_writeReg {s₀ s : State} (hs : s₀.Keeps false s) (who : Party) (off : Nat) (v : Word) :
    s₀.Keeps false (s.writeReg who off v) := by
  unfold State.writeReg
  simp [hs]

theorem State.keeps_execRegWrite {s₀ s : State} (hs : s₀.Keeps false s) (who : Party) (off : Nat) (val : BitVec 64) :
    s₀.KeepsNext false (execRegWrite who off val s) := by
  unfold execRegWrite
  simp [hs]

theorem State.keeps_execSqcfgWrite {s₀ s : State} (hs : s₀.Keeps false s) (part : Nat) (val : BitVec 64) :
    s₀.KeepsNext false (execSqcfgWrite part val s) := by
  unfold execSqcfgWrite
  simp [hs]

theorem State.keeps_execHostAccess {s₀ s : State} (hs : s₀.Keeps false s) (part : Nat) (wr : Bool) (pa : Nat) (data : List
    (BitVec 8)) (len : Nat) :
    s₀.KeepsNext false (execHostAccess part wr pa data len s) := by
  unfold execHostAccess
  simp [hs]

theorem State.keeps_execPeerAccess {s₀ s : State} (hs : s₀.Keeps false s) (wr : Bool) (pa : Nat) (data : List (BitVec 8))
    (len : Nat) :
    s₀.KeepsNext false (execPeerAccess wr pa data len s) := by
  unfold execPeerAccess
  repeat' split
  all_goals simp [hs]

theorem State.keeps_execManagementCoreAccess {s₀ s : State} (hs : s₀.Keeps false s) (pa : Nat) (val : BitVec 64) :
    s₀.KeepsNext false (execManagementCoreAccess pa val s) := by
  unfold execManagementCoreAccess
  simp [hs]

theorem State.keeps_execVNop {s₀ s : State} (hs : s₀.Keeps false s) (h : Hdr) : s₀.KeepsNext false (execVNop h s) := by
  unfold execVNop
  simp [hs]

theorem State.keeps_execVFadd {s₀ s : State} (hs : s₀.Keeps false s) (h : Hdr) (d : Dst) (a b : Src) (ty : FTy) (z : BitVec 3)
    (rnd : Rnd) :
    s₀.KeepsNext false (execVFadd h d a b ty z rnd s) := by
  unfold execVFadd
  simp [hs]

theorem State.keeps_execVFsub {s₀ s : State} (hs : s₀.Keeps false s) (h : Hdr) (d : Dst) (a b : Src) (ty : FTy) (z : BitVec 3)
    (rnd : Rnd) :
    s₀.KeepsNext false (execVFsub h d a b ty z rnd s) := by
  unfold execVFsub
  simp [hs]

theorem State.keeps_execVFmul {s₀ s : State} (hs : s₀.Keeps false s) (h : Hdr) (d : Dst) (a b : Src) (ty : FTy) (z : BitVec 3)
    (rnd : Rnd) :
    s₀.KeepsNext false (execVFmul h d a b ty z rnd s) := by
  unfold execVFmul
  simp [hs]

theorem State.keeps_execVFma {s₀ s : State} (hs : s₀.Keeps false s) (h : Hdr) (d : Dst) (a b c : Src) (ty : FTy) (z : BitVec 3)
    (rnd : Rnd) :
    s₀.KeepsNext false (execVFma h d a b c ty z rnd s) := by
  unfold execVFma
  simp [hs]

theorem State.keeps_execVFms {s₀ s : State} (hs : s₀.Keeps false s) (h : Hdr) (d : Dst) (a b c : Src) (ty : FTy) (z : BitVec 3)
    (rnd : Rnd) :
    s₀.KeepsNext false (execVFms h d a b c ty z rnd s) := by
  unfold execVFms
  simp [hs]

theorem State.keeps_execVFnma {s₀ s : State} (hs : s₀.Keeps false s) (h : Hdr) (d : Dst) (a b c : Src) (ty : FTy) (z : BitVec 3)
    (rnd : Rnd) :
    s₀.KeepsNext false (execVFnma h d a b c ty z rnd s) := by
  unfold execVFnma
  simp [hs]

theorem State.keeps_execVFmin {s₀ s : State} (hs : s₀.Keeps false s) (h : Hdr) (d : Dst) (a b : Src) (ty : FTy) (z : BitVec 3) :
    s₀.KeepsNext false (execVFmin h d a b ty z s) := by
  unfold execVFmin
  simp [hs]

theorem State.keeps_execVFmax {s₀ s : State} (hs : s₀.Keeps false s) (h : Hdr) (d : Dst) (a b : Src) (ty : FTy) (z : BitVec 3) :
    s₀.KeepsNext false (execVFmax h d a b ty z s) := by
  unfold execVFmax
  simp [hs]

theorem State.keeps_execVFcmp {s₀ s : State} (hs : s₀.Keeps false s) (h : Hdr) (d : Dst) (a b : Src) (zt : BitVec 3)
    (cnd : FCnd) (z : BitVec 3) :
    s₀.KeepsNext false (execVFcmp h d a b zt cnd z s) := by
  unfold execVFcmp
  simp [hs]

theorem State.keeps_execVFabs {s₀ s : State} (hs : s₀.Keeps false s) (h : Hdr) (d : Dst) (a : Src) (ty : FTy) (z : BitVec 3) :
    s₀.KeepsNext false (execVFabs h d a ty z s) := by
  unfold execVFabs
  simp [hs]

theorem State.keeps_execVFneg {s₀ s : State} (hs : s₀.Keeps false s) (h : Hdr) (d : Dst) (a : Src) (ty : FTy) (z : BitVec 3) :
    s₀.KeepsNext false (execVFneg h d a ty z s) := by
  unfold execVFneg
  simp [hs]

theorem State.keeps_execVExp2 {s₀ s : State} (hs : s₀.Keeps false s) (h : Hdr) (d : Dst) (a : Src) (z : BitVec 3) (rnd : Rnd) :
    s₀.KeepsNext false (execVExp2 h d a z rnd s) := by
  unfold execVExp2
  simp [hs]

theorem State.keeps_execVLog2 {s₀ s : State} (hs : s₀.Keeps false s) (h : Hdr) (d : Dst) (a : Src) (z : BitVec 3) (rnd : Rnd) :
    s₀.KeepsNext false (execVLog2 h d a z rnd s) := by
  unfold execVLog2
  simp [hs]

theorem State.keeps_execVRcp {s₀ s : State} (hs : s₀.Keeps false s) (h : Hdr) (d : Dst) (a : Src) (z : BitVec 3) (rnd : Rnd) :
    s₀.KeepsNext false (execVRcp h d a z rnd s) := by
  unfold execVRcp
  simp [hs]

theorem State.keeps_execVRsq {s₀ s : State} (hs : s₀.Keeps false s) (h : Hdr) (d : Dst) (a : Src) (z : BitVec 3) (rnd : Rnd) :
    s₀.KeepsNext false (execVRsq h d a z rnd s) := by
  unfold execVRsq
  simp [hs]

theorem State.keeps_execVIadd {s₀ s : State} (hs : s₀.Keeps false s) (h : Hdr) (d : Dst) (a b : Src) (ty : WTy) (z : BitVec 3) :
    s₀.KeepsNext false (execVIadd h d a b ty z s) := by
  unfold execVIadd
  simp [hs]

theorem State.keeps_execVIsub {s₀ s : State} (hs : s₀.Keeps false s) (h : Hdr) (d : Dst) (a b : Src) (ty : WTy) (z : BitVec 3) :
    s₀.KeepsNext false (execVIsub h d a b ty z s) := by
  unfold execVIsub
  simp [hs]

theorem State.keeps_execVImul {s₀ s : State} (hs : s₀.Keeps false s) (h : Hdr) (d : Dst) (a b : Src) (ty : WTy) (z : BitVec 3) :
    s₀.KeepsNext false (execVImul h d a b ty z s) := by
  unfold execVImul
  simp [hs]

theorem State.keeps_execVImulh {s₀ s : State} (hs : s₀.Keeps false s) (h : Hdr) (d : Dst) (a b : Src) (ty : WTy) (z : BitVec 3) :
    s₀.KeepsNext false (execVImulh h d a b ty z s) := by
  unfold execVImulh
  simp [hs]

theorem State.keeps_execVImulhu {s₀ s : State} (hs : s₀.Keeps false s) (h : Hdr) (d : Dst) (a b : Src) (ty : WTy) (z : BitVec 3) :
    s₀.KeepsNext false (execVImulhu h d a b ty z s) := by
  unfold execVImulhu
  simp [hs]

theorem State.keeps_execVIshl {s₀ s : State} (hs : s₀.Keeps false s) (h : Hdr) (d : Dst) (a b : Src) (ty : WTy) (z : BitVec 3) :
    s₀.KeepsNext false (execVIshl h d a b ty z s) := by
  unfold execVIshl
  simp [hs]

theorem State.keeps_execVIshr {s₀ s : State} (hs : s₀.Keeps false s) (h : Hdr) (d : Dst) (a b : Src) (ty : WTy) (z : BitVec 3) :
    s₀.KeepsNext false (execVIshr h d a b ty z s) := by
  unfold execVIshr
  simp [hs]

theorem State.keeps_execVIsra {s₀ s : State} (hs : s₀.Keeps false s) (h : Hdr) (d : Dst) (a b : Src) (ty : WTy) (z : BitVec 3) :
    s₀.KeepsNext false (execVIsra h d a b ty z s) := by
  unfold execVIsra
  simp [hs]

theorem State.keeps_execVImin {s₀ s : State} (hs : s₀.Keeps false s) (h : Hdr) (d : Dst) (a b : Src) (ty : WTy) (z : BitVec 3) :
    s₀.KeepsNext false (execVImin h d a b ty z s) := by
  unfold execVImin
  simp [hs]

theorem State.keeps_execVImax {s₀ s : State} (hs : s₀.Keeps false s) (h : Hdr) (d : Dst) (a b : Src) (ty : WTy) (z : BitVec 3) :
    s₀.KeepsNext false (execVImax h d a b ty z s) := by
  unfold execVImax
  simp [hs]

theorem State.keeps_execVIminu {s₀ s : State} (hs : s₀.Keeps false s) (h : Hdr) (d : Dst) (a b : Src) (ty : WTy) (z : BitVec 3) :
    s₀.KeepsNext false (execVIminu h d a b ty z s) := by
  unfold execVIminu
  simp [hs]

theorem State.keeps_execVImaxu {s₀ s : State} (hs : s₀.Keeps false s) (h : Hdr) (d : Dst) (a b : Src) (ty : WTy) (z : BitVec 3) :
    s₀.KeepsNext false (execVImaxu h d a b ty z s) := by
  unfold execVImaxu
  simp [hs]

theorem State.keeps_execVIand {s₀ s : State} (hs : s₀.Keeps false s) (h : Hdr) (d : Dst) (a b : Src) (z : BitVec 3) :
    s₀.KeepsNext false (execVIand h d a b z s) := by
  unfold execVIand
  simp [hs]

theorem State.keeps_execVIor {s₀ s : State} (hs : s₀.Keeps false s) (h : Hdr) (d : Dst) (a b : Src) (z : BitVec 3) :
    s₀.KeepsNext false (execVIor h d a b z s) := by
  unfold execVIor
  simp [hs]

theorem State.keeps_execVIxor {s₀ s : State} (hs : s₀.Keeps false s) (h : Hdr) (d : Dst) (a b : Src) (z : BitVec 3) :
    s₀.KeepsNext false (execVIxor h d a b z s) := by
  unfold execVIxor
  simp [hs]

theorem State.keeps_execVIandn {s₀ s : State} (hs : s₀.Keeps false s) (h : Hdr) (d : Dst) (a b : Src) (z : BitVec 3) :
    s₀.KeepsNext false (execVIandn h d a b z s) := by
  unfold execVIandn
  simp [hs]

theorem State.keeps_execVIpopc {s₀ s : State} (hs : s₀.Keeps false s) (h : Hdr) (d : Dst) (a : Src) (z : BitVec 3) :
    s₀.KeepsNext false (execVIpopc h d a z s) := by
  unfold execVIpopc
  simp [hs]

theorem State.keeps_execVIclz {s₀ s : State} (hs : s₀.Keeps false s) (h : Hdr) (d : Dst) (a : Src) (z : BitVec 3) :
    s₀.KeepsNext false (execVIclz h d a z s) := by
  unfold execVIclz
  simp [hs]

theorem State.keeps_execVIcmp {s₀ s : State} (hs : s₀.Keeps false s) (h : Hdr) (d : Dst) (a b : Src) (zt : BitVec 3)
    (cnd : ICnd) (z : BitVec 3) :
    s₀.KeepsNext false (execVIcmp h d a b zt cnd z s) := by
  unfold execVIcmp
  simp [hs]

theorem State.keeps_execVIabs {s₀ s : State} (hs : s₀.Keeps false s) (h : Hdr) (d : Dst) (a : Src) (ty : WTy) (z : BitVec 3) :
    s₀.KeepsNext false (execVIabs h d a ty z s) := by
  unfold execVIabs
  simp [hs]

theorem State.keeps_execVClmul {s₀ s : State} (hs : s₀.Keeps false s) (h : Hdr) (d : Dst) (a b : Src) (z : BitVec 3) :
    s₀.KeepsNext false (execVClmul h d a b z s) := by
  unfold execVClmul
  simp [hs]

theorem State.keeps_execVBcmp8 {s₀ s : State} (hs : s₀.Keeps false s) (h : Hdr) (d : Dst) (a : Src) (byte : BitVec 8)
    (z : BitVec 3) :
    s₀.KeepsNext false (execVBcmp8 h d a byte z s) := by
  unfold execVBcmp8
  simp [hs]

theorem State.keeps_execVBpack {s₀ s : State} (hs : s₀.Keeps false s) (h : Hdr) (d : Dst) (a : Src) (z : BitVec 3) :
    s₀.KeepsNext false (execVBpack h d a z s) := by
  unfold execVBpack
  simp [hs]

theorem State.keeps_execVCvt {s₀ s : State} (hs : s₀.Keeps false s) (h : Hdr) (d : Dst) (a b : Src) (el : Bool)
    (src ty : LaneTy) (z : BitVec 3) (rnd : Rnd) :
    s₀.KeepsNext false (execVCvt h d a b el src ty z rnd s) := by
  unfold execVCvt
  simp [hs]

theorem State.keeps_execVQblk {s₀ s : State} (hs : s₀.Keeps false s) (h : Hdr) (d : Dst) (a : Src) (e5m2 : Bool) (z : BitVec 3)
    (rnd : Rnd) :
    s₀.KeepsNext false (execVQblk h d a e5m2 z rnd s) := by
  unfold execVQblk
  simp [hs]

theorem State.keeps_execVDqblk {s₀ s : State} (hs : s₀.Keeps false s) (h : Hdr) (d : Dst) (a : Src) (e5m2 : Bool) (z : BitVec 3)
    (rnd : Rnd) :
    s₀.KeepsNext false (execVDqblk h d a e5m2 z rnd s) := by
  unfold execVDqblk
  simp [hs]

theorem State.keeps_execVScan {s₀ s : State} (hs : s₀.Keeps false s) (h : Hdr) (d : Dst) (a : Src) (ex : Bool) (op : LaneOp)
    (ty : RTy) (z : BitVec 3) (rnd : Rnd) :
    s₀.KeepsNext false (execVScan h d a ex op ty z rnd s) := by
  unfold execVScan
  simp [hs]

theorem State.keeps_execVRed {s₀ s : State} (hs : s₀.Keeps false s) (h : Hdr) (d : Dst) (a : Src) (op : LaneOp) (ty : RTy)
    (z : BitVec 3) (rnd : Rnd) :
    s₀.KeepsNext false (execVRed h d a op ty z rnd s) := by
  unfold execVRed
  simp [hs]

theorem State.keeps_execVPerm {s₀ s : State} (hs : s₀.Keeps false s) (h : Hdr) (d : Dst) (a b : Src) (z : BitVec 3) :
    s₀.KeepsNext false (execVPerm h d a b z s) := by
  unfold execVPerm
  simp [hs]

theorem State.keeps_execVRot {s₀ s : State} (hs : s₀.Keeps false s) (h : Hdr) (d : Dst) (a : Src) (n : BitVec 6) :
    s₀.KeepsNext false (execVRot h d a n s) := by
  unfold execVRot
  simp [hs]

theorem State.keeps_execVBcast {s₀ s : State} (hs : s₀.Keeps false s) (h : Hdr) (d : Dst) (a : Src) (src : BitVec 6)
    (z : BitVec 3) :
    s₀.KeepsNext false (execVBcast h d a src z s) := by
  unfold execVBcast
  simp [hs]

theorem State.keeps_execVCmul {s₀ s : State} (hs : s₀.Keeps false s) (h : Hdr) (d : Dst) (a b : Src) (z : BitVec 3) (rnd : Rnd) :
    s₀.KeepsNext false (execVCmul h d a b z rnd s) := by
  unfold execVCmul
  simp [hs]

theorem State.keeps_execVCmulc {s₀ s : State} (hs : s₀.Keeps false s) (h : Hdr) (d : Dst) (a b : Src) (z : BitVec 3) (rnd : Rnd) :
    s₀.KeepsNext false (execVCmulc h d a b z rnd s) := by
  unfold execVCmulc
  simp [hs]

theorem State.keeps_execVCma {s₀ s : State} (hs : s₀.Keeps false s) (h : Hdr) (d : Dst) (a b c : Src) (z : BitVec 3) (rnd : Rnd) :
    s₀.KeepsNext false (execVCma h d a b c z rnd s) := by
  unfold execVCma
  simp [hs]

theorem State.keeps_execVCmac {s₀ s : State} (hs : s₀.Keeps false s) (h : Hdr) (d : Dst) (a b c : Src) (z : BitVec 3)
    (rnd : Rnd) :
    s₀.KeepsNext false (execVCmac h d a b c z rnd s) := by
  unfold execVCmac
  simp [hs]

theorem State.keeps_execVCabs2 {s₀ s : State} (hs : s₀.Keeps false s) (h : Hdr) (d : Dst) (a : Src) (z : BitVec 3) (rnd : Rnd) :
    s₀.KeepsNext false (execVCabs2 h d a z rnd s) := by
  unfold execVCabs2
  simp [hs]

theorem State.keeps_execVMov {s₀ s : State} (hs : s₀.Keeps false s) (h : Hdr) (d : Dst) (a : Src) (z : BitVec 3) :
    s₀.KeepsNext false (execVMov h d a z s) := by
  unfold execVMov
  simp [hs]

theorem State.keeps_execVSel {s₀ s : State} (hs : s₀.Keeps false s) (h : Hdr) (d : Dst) (a b c : Src) (z : BitVec 3) :
    s₀.KeepsNext false (execVSel h d a b c z s) := by
  unfold execVSel
  simp [hs]

theorem State.keeps_execVSetk {s₀ s : State} (hs : s₀.Keeps false s) (h : Hdr) (k : BitVec 4) (imm : BitVec 24) :
    s₀.KeepsNext false (execVSetk h k imm s) := by
  unfold execVSetk
  simp [hs]

theorem State.keeps_execVZand {s₀ s : State} (hs : s₀.Keeps false s) (h : Hdr) (zd za zb z : BitVec 3) :
    s₀.KeepsNext false (execVZand h zd za zb z s) := by
  unfold execVZand
  simp [hs]

theorem State.keeps_execVZor {s₀ s : State} (hs : s₀.Keeps false s) (h : Hdr) (zd za zb z : BitVec 3) :
    s₀.KeepsNext false (execVZor h zd za zb z s) := by
  unfold execVZor
  simp [hs]

theorem State.keeps_execVZxor {s₀ s : State} (hs : s₀.Keeps false s) (h : Hdr) (zd za zb z : BitVec 3) :
    s₀.KeepsNext false (execVZxor h zd za zb z s) := by
  unfold execVZxor
  simp [hs]

theorem State.keeps_execVZcnt {s₀ s : State} (hs : s₀.Keeps false s) (h : Hdr) (d : Dst) (za z : BitVec 3) :
    s₀.KeepsNext false (execVZcnt h d za z s) := by
  unfold execVZcnt
  simp [hs]

theorem State.keeps_execVSend {s₀ s : State} (hs : s₀.Keeps false s) (h : Hdr) (a : Src) :
    s₀.KeepsNext false (execVSend h a s) := by
  unfold execVSend
  simp [hs]

@[simp] theorem State.keeps_plan {s₀ s : State} (hs : s₀.Keeps false s) : s₀.Keeps false s.plan := by
  unfold State.plan
  simp [hs]

end Sys2Proof.Machine

namespace Sys2Proof.Machine

/-! ## Every step -/

/-- Every instruction and every step of the device keeps the canonical form of the memories. -/
theorem State.keeps_exec {s₀ s : State} (hs : s₀.Keeps false s) (i : Instr) : s₀.KeepsNext false (exec i s) := by
  cases i with
  | cNop h => exact State.keeps_execCNop hs h
  | cAdd h d a b => exact State.keeps_execCAdd hs h d a b
  | cSub h d a b => exact State.keeps_execCSub hs h d a b
  | cAnd h d a b => exact State.keeps_execCAnd hs h d a b
  | cOr h d a b => exact State.keeps_execCOr hs h d a b
  | cXor h d a b => exact State.keeps_execCXor hs h d a b
  | cAndn h d a b => exact State.keeps_execCAndn hs h d a b
  | cShl h d a b => exact State.keeps_execCShl hs h d a b
  | cShr h d a b => exact State.keeps_execCShr hs h d a b
  | cSra h d a b => exact State.keeps_execCSra hs h d a b
  | cRol h d a b => exact State.keeps_execCRol hs h d a b
  | cMul h d a b => exact State.keeps_execCMul hs h d a b
  | cMulh h d a b => exact State.keeps_execCMulh hs h d a b
  | cMulhu h d a b => exact State.keeps_execCMulhu hs h d a b
  | cDiv h d a b => exact State.keeps_execCDiv hs h d a b
  | cDivu h d a b => exact State.keeps_execCDivu hs h d a b
  | cRem h d a b => exact State.keeps_execCRem hs h d a b
  | cRemu h d a b => exact State.keeps_execCRemu hs h d a b
  | cMin h d a b => exact State.keeps_execCMin hs h d a b
  | cMax h d a b => exact State.keeps_execCMax hs h d a b
  | cMinu h d a b => exact State.keeps_execCMinu hs h d a b
  | cMaxu h d a b => exact State.keeps_execCMaxu hs h d a b
  | cSlt h d a b => exact State.keeps_execCSlt hs h d a b
  | cSltu h d a b => exact State.keeps_execCSltu hs h d a b
  | cSeq h d a b => exact State.keeps_execCSeq hs h d a b
  | cSne h d a b => exact State.keeps_execCSne hs h d a b
  | cClz h d a => exact State.keeps_execCClz hs h d a
  | cCtz h d a => exact State.keeps_execCCtz hs h d a
  | cPopc h d a => exact State.keeps_execCPopc hs h d a
  | cBswap h d a => exact State.keeps_execCBswap hs h d a
  | cAddi h d a imm => exact State.keeps_execCAddi hs h d a imm
  | cAndi h d a imm => exact State.keeps_execCAndi hs h d a imm
  | cOri h d a imm => exact State.keeps_execCOri hs h d a imm
  | cXori h d a imm => exact State.keeps_execCXori hs h d a imm
  | cShli h d a amt => exact State.keeps_execCShli hs h d a amt
  | cShri h d a amt => exact State.keeps_execCShri hs h d a amt
  | cSrai h d a amt => exact State.keeps_execCSrai hs h d a amt
  | cSlti h d a imm => exact State.keeps_execCSlti hs h d a imm
  | cSltui h d a imm => exact State.keeps_execCSltui hs h d a imm
  | cLi h d imm => exact State.keeps_execCLi hs h d imm
  | cLih h d a imm => exact State.keeps_execCLih hs h d a imm
  | cAddpc h d imm => exact State.keeps_execCAddpc hs h d imm
  | cMtk h a k => exact State.keeps_execCMtk hs h a k
  | cMtp h a inS p => exact State.keeps_execCMtp hs h a inS p
  | cLd h d a cls scp sz sx ofs => exact State.keeps_execCLd hs h d a cls scp sz sx ofs
  | cSt h d a cls scp sz ofs => exact State.keeps_execCSt hs h d a cls scp sz ofs
  | cLdx h d a b cls scp sx sz => exact State.keeps_execCLdx hs h d a b cls scp sx sz
  | cStx h d a b cls scp sz => exact State.keeps_execCStx hs h d a b cls scp sz
  | cAmo h d a b cls scp w32 opn => exact State.keeps_execCAmo hs h d a b cls scp w32 opn
  | cCas h d a b e cls scp w32 => exact State.keeps_execCCas hs h d a b e cls scp w32
  | cWaita h d a b slot cnd => exact State.keeps_execCWaita hs h d a b slot cnd
  | cFence h scp mask => exact State.keeps_execCFence hs h scp mask
  | cB h a b cnd ofs => exact State.keeps_execCB hs h a b cnd ofs
  | cJ h ofs => exact State.keeps_execCJ hs h ofs
  | cJal h d ofs => exact State.keeps_execCJal hs h d ofs
  | cJr h d a => exact State.keeps_execCJr hs h d a
  | cRclaim h d idx scp => exact State.keeps_execCRclaim hs h d idx scp
  | cRpub h a idx scp mask => exact State.keeps_execCRpub hs h a idx scp mask
  | cRwaitf h d idx scp => exact State.keeps_execCRwaitf hs h d idx scp
  | cRrel h a idx scp mask => exact State.keeps_execCRrel hs h a idx scp mask
  | cRwaite h idx scp => exact State.keeps_execCRwaite hs h idx scp
  | cBar h d idx scp mask => exact State.keeps_execCBar hs h d idx scp mask
  | cLease h d n1 => exact State.keeps_execCLease hs h d n1
  | cUlease h => exact State.keeps_execCUlease hs h
  | cCbatch h d eng => exact State.keeps_execCCbatch hs h d eng
  | cWaitb h a eng => exact State.keeps_execCWaitb hs h a eng
  | cLpf h a b => exact State.keeps_execCLpf hs h a b
  | cTcfg h a b idx => exact State.keeps_execCTcfg hs h a b idx
  | cTrel h idx => exact State.keeps_execCTrel hs h idx
  | cFtset h a idx => exact State.keeps_execCFtset hs h a idx
  | cWake h dt mask => exact State.keeps_execCWake hs h dt mask
  | cSleep h dt ret mask => exact State.keeps_execCSleep hs h dt ret mask
  | cWstat h dt mask => exact State.keeps_execCWstat hs h dt mask
  | cTrap h code => exact State.keeps_execCTrap hs h code
  | cEret h => exact State.keeps_execCEret hs h
  | cMfsr h d n => exact State.keeps_execCMfsr hs h d n
  | cMtsr h a n => exact State.keeps_execCMtsr hs h a n
  | cRdtb h d => exact State.keeps_execCRdtb hs h d
  | cMark h code => exact State.keeps_execCMark hs h code
  | cRecv h d => exact State.keeps_execCRecv hs h d
  | cIter h => exact State.keeps_execCIter hs h
  | lNop h => exact State.keeps_execLNop hs h
  | lPset h p imm => exact State.keeps_execLPset hs h p imm
  | lPadd h p imm => exact State.keeps_execLPadd hs h p imm
  | lLdq h p x ty cv md inc => exact State.keeps_execLLdq hs h p x ty cv md inc
  | lLdg h p x ty cv md inc => exact State.keeps_execLLdg hs h p x ty cv md inc
  | lLdb h p x ty cv md inc => exact State.keeps_execLLdb hs h p x ty cv md inc
  | lLda h p x ty pk md inc => exact State.keeps_execLLda hs h p x ty pk md inc
  | lLrs h p ring => exact State.keeps_execLLrs hs h p ring
  | lLdm h p x cls scp stride => exact State.keeps_execLLdm hs h p x cls scp stride
  | lLdgx h p x cls scp row => exact State.keeps_execLLdgx hs h p x cls scp row
  | lWake h dt mask => exact State.keeps_execLWake hs h dt mask
  | lSleep h dt ret mask => exact State.keeps_execLSleep hs h dt ret mask
  | lWstat h dt mask => exact State.keeps_execLWstat hs h dt mask
  | sNop h => exact State.keeps_execSNop hs h
  | sPset h p imm => exact State.keeps_execSPset hs h p imm
  | sPadd h p imm => exact State.keeps_execSPadd hs h p imm
  | sStq h p x ty cv md inc => exact State.keeps_execSStq hs h p x ty cv md inc
  | sStg h p x ty cv md inc => exact State.keeps_execSStg hs h p x ty cv md inc
  | sSta h p x ty md inc => exact State.keeps_execSSta hs h p x ty md inc
  | sSrs h p ring => exact State.keeps_execSSrs hs h p ring
  | sStm h p x cls scp stride => exact State.keeps_execSStm hs h p x cls scp stride
  | sStsx h p x cls scp row => exact State.keeps_execSStsx hs h p x cls scp row
  | sVamo h p x cls scp ty stride => exact State.keeps_execSVamo hs h p x cls scp ty stride
  | sWake h dt mask => exact State.keeps_execSWake hs h dt mask
  | sSleep h dt ret mask => exact State.keeps_execSSleep hs h dt ret mask
  | sWstat h dt mask => exact State.keeps_execSWstat hs h dt mask
  | vNop h => exact State.keeps_execVNop hs h
  | vFadd h d a b ty z rnd => exact State.keeps_execVFadd hs h d a b ty z rnd
  | vFsub h d a b ty z rnd => exact State.keeps_execVFsub hs h d a b ty z rnd
  | vFmul h d a b ty z rnd => exact State.keeps_execVFmul hs h d a b ty z rnd
  | vFma h d a b c ty z rnd => exact State.keeps_execVFma hs h d a b c ty z rnd
  | vFms h d a b c ty z rnd => exact State.keeps_execVFms hs h d a b c ty z rnd
  | vFnma h d a b c ty z rnd => exact State.keeps_execVFnma hs h d a b c ty z rnd
  | vFmin h d a b ty z => exact State.keeps_execVFmin hs h d a b ty z
  | vFmax h d a b ty z => exact State.keeps_execVFmax hs h d a b ty z
  | vFcmp h d a b zt cnd z => exact State.keeps_execVFcmp hs h d a b zt cnd z
  | vFabs h d a ty z => exact State.keeps_execVFabs hs h d a ty z
  | vFneg h d a ty z => exact State.keeps_execVFneg hs h d a ty z
  | vExp2 h d a z rnd => exact State.keeps_execVExp2 hs h d a z rnd
  | vLog2 h d a z rnd => exact State.keeps_execVLog2 hs h d a z rnd
  | vRcp h d a z rnd => exact State.keeps_execVRcp hs h d a z rnd
  | vRsq h d a z rnd => exact State.keeps_execVRsq hs h d a z rnd
  | vIadd h d a b ty z => exact State.keeps_execVIadd hs h d a b ty z
  | vIsub h d a b ty z => exact State.keeps_execVIsub hs h d a b ty z
  | vImul h d a b ty z => exact State.keeps_execVImul hs h d a b ty z
  | vImulh h d a b ty z => exact State.keeps_execVImulh hs h d a b ty z
  | vImulhu h d a b ty z => exact State.keeps_execVImulhu hs h d a b ty z
  | vIand h d a b z => exact State.keeps_execVIand hs h d a b z
  | vIor h d a b z => exact State.keeps_execVIor hs h d a b z
  | vIxor h d a b z => exact State.keeps_execVIxor hs h d a b z
  | vIandn h d a b z => exact State.keeps_execVIandn hs h d a b z
  | vIshl h d a b ty z => exact State.keeps_execVIshl hs h d a b ty z
  | vIshr h d a b ty z => exact State.keeps_execVIshr hs h d a b ty z
  | vIsra h d a b ty z => exact State.keeps_execVIsra hs h d a b ty z
  | vImin h d a b ty z => exact State.keeps_execVImin hs h d a b ty z
  | vImax h d a b ty z => exact State.keeps_execVImax hs h d a b ty z
  | vIminu h d a b ty z => exact State.keeps_execVIminu hs h d a b ty z
  | vImaxu h d a b ty z => exact State.keeps_execVImaxu hs h d a b ty z
  | vIpopc h d a z => exact State.keeps_execVIpopc hs h d a z
  | vIclz h d a z => exact State.keeps_execVIclz hs h d a z
  | vIcmp h d a b zt cnd z => exact State.keeps_execVIcmp hs h d a b zt cnd z
  | vIabs h d a ty z => exact State.keeps_execVIabs hs h d a ty z
  | vClmul h d a b z => exact State.keeps_execVClmul hs h d a b z
  | vBcmp8 h d a byte z => exact State.keeps_execVBcmp8 hs h d a byte z
  | vBpack h d a z => exact State.keeps_execVBpack hs h d a z
  | vCvt h d a b el src ty z rnd => exact State.keeps_execVCvt hs h d a b el src ty z rnd
  | vQblk h d a e5m2 z rnd => exact State.keeps_execVQblk hs h d a e5m2 z rnd
  | vDqblk h d a e5m2 z rnd => exact State.keeps_execVDqblk hs h d a e5m2 z rnd
  | vScan h d a ex op ty z rnd => exact State.keeps_execVScan hs h d a ex op ty z rnd
  | vRed h d a op ty z rnd => exact State.keeps_execVRed hs h d a op ty z rnd
  | vPerm h d a b z => exact State.keeps_execVPerm hs h d a b z
  | vRot h d a n => exact State.keeps_execVRot hs h d a n
  | vBcast h d a src z => exact State.keeps_execVBcast hs h d a src z
  | vCmul h d a b z rnd => exact State.keeps_execVCmul hs h d a b z rnd
  | vCmulc h d a b z rnd => exact State.keeps_execVCmulc hs h d a b z rnd
  | vCma h d a b c z rnd => exact State.keeps_execVCma hs h d a b c z rnd
  | vCmac h d a b c z rnd => exact State.keeps_execVCmac hs h d a b c z rnd
  | vCabs2 h d a z rnd => exact State.keeps_execVCabs2 hs h d a z rnd
  | vMov h d a z => exact State.keeps_execVMov hs h d a z
  | vSel h d a b c z => exact State.keeps_execVSel hs h d a b c z
  | vSetk h k imm => exact State.keeps_execVSetk hs h k imm
  | vZand h zd za zb z => exact State.keeps_execVZand hs h zd za zb z
  | vZor h zd za zb z => exact State.keeps_execVZor hs h zd za zb z
  | vZxor h zd za zb z => exact State.keeps_execVZxor hs h zd za zb z
  | vZcnt h d za z => exact State.keeps_execVZcnt hs h d za z
  | vSend h a => exact State.keeps_execVSend hs h a
  | vWake h dt mask => exact State.keeps_execVWake hs h dt mask
  | vSleep h dt ret mask => exact State.keeps_execVSleep hs h dt ret mask
  | vWstat h dt mask => exact State.keeps_execVWstat hs h dt mask
  | allNop idle => exact State.keeps_execAllNop hs idle
  | allStart idle => exact State.keeps_execAllStart hs idle
  | allEnd idle => exact State.keeps_execAllEnd hs idle
  | allLoop idle lp src count end20 => exact State.keeps_execAllLoop hs idle lp src count end20
  | allBr idle a b cnd ofs => exact State.keeps_execAllBr hs idle a b cnd ofs
  | allRealign idle => exact State.keeps_execAllRealign hs idle
  | allBrk idle => exact State.keeps_execAllBrk hs idle
  | illegalWord detail => exact State.keeps_execIllegalWord hs detail
  | arrayMma cl => exact State.keeps_execArrayMma hs cl
  | arrayMmas cl => exact State.keeps_execArrayMmas hs cl
  | arrayMzero cl => exact State.keeps_execArrayMzero hs cl
  | arrayDrain cl => exact State.keeps_execArrayDrain hs cl
  | ceCopy core => exact State.keeps_execCeCopy hs core
  | ceGath core => exact State.keeps_execCeGath hs core
  | ceScat core => exact State.keeps_execCeScat hs core
  | ceWfill core => exact State.keeps_execCeWfill hs core
  | ceFlagw core => exact State.keeps_execCeFlagw hs core
  | cePref core => exact State.keeps_execCePref hs core
  | xeFwd core => exact State.keeps_execXeFwd hs core
  | xeInv core => exact State.keeps_execXeInv hs core
  | xeTagset core => exact State.keeps_execXeTagset hs core
  | goPush core => exact State.keeps_execGoPush hs core
  | commandStart core eng => exact State.keeps_execCommandStart hs core eng
  | copyEngineSlot cl => exact State.keeps_execCopyEngineSlot hs cl
  | commandComplete core eng => exact State.keeps_execCommandComplete hs core eng
  | resultLoad core => exact State.keeps_execResultLoad hs core
  | cLoadReply core => exact State.keeps_execCLoadReply hs core
  | fenceRelease core => exact State.keeps_execFenceRelease hs core
  | waitaRelease core => exact State.keeps_execWaitaRelease hs core
  | homeApply part bar n => exact State.keeps_execHomeApply hs part bar n
  | syncRelease core => exact State.keeps_execSyncRelease hs core
  | leaseGrant cl => exact State.keeps_execLeaseGrant hs cl
  | leaseTimeout cl => exact State.keeps_execLeaseTimeout hs cl
  | waitbRelease core => exact State.keeps_execWaitbRelease hs core
  | recvRelease core => exact State.keeps_execRecvRelease hs core
  | iterAnswer core => exact State.keeps_execIterAnswer hs core
  | wstatRelease core st => exact State.keeps_execWstatRelease hs core st
  | vResultWrite core => exact State.keeps_execVResultWrite hs core
  | lqFill core => exact State.keeps_execLqFill hs core
  | gridLoadLand core => exact State.keeps_execGridLoadLand hs core
  | directAccessPerform core => exact State.keeps_execDirectAccessPerform hs core
  | couplingTransfer core sq => exact State.keeps_execCouplingTransfer hs core sq
  | perform core cls => exact State.keeps_execPerform hs core cls
  | sliceEntryApply slice => exact State.keeps_execSliceEntryApply hs slice
  | leaseExpiry core cls => exact State.keeps_execLeaseExpiry hs core cls
  | walkReturn cl => exact State.keeps_execWalkReturn hs cl
  | atomicResend core cls => exact State.keeps_execAtomicResend hs core cls
  | domainWakeStart lease n => exact State.keeps_execDomainWakeStart hs lease n
  | domainAwake dom => exact State.keeps_execDomainAwake hs dom
  | domainPowerOff dom => exact State.keeps_execDomainPowerOff hs dom
  | launchEnd core => exact State.keeps_execLaunchEnd hs core
  | ballastFadeStart cl => exact State.keeps_execBallastFadeStart hs cl
  | ballastFadeEnd cl => exact State.keeps_execBallastFadeEnd hs cl
  | faultStop core => exact State.keeps_execFaultStop hs core
  | snapshotDeliver core => exact State.keeps_execSnapshotDeliver hs core
  | fwd core => exact State.keeps_execFwd hs core
  | timeBeacon cl drift => exact State.keeps_execTimeBeacon hs cl drift
  | railWindow cl watts => exact State.keeps_execRailWindow hs cl watts
  | rcbAccept part => exact State.keeps_execRcbAccept hs part
  | regionDispatch part => exact State.keeps_execRegionDispatch hs part
  | launchStart part order => exact State.keeps_execLaunchStart hs part order
  | regionEnd part order => exact State.keeps_execRegionEnd hs part order
  | preemptDone part => exact State.keeps_execPreemptDone hs part
  | resumeRestart part => exact State.keeps_execResumeRestart hs part
  | placementDone part => exact State.keeps_execPlacementDone hs part
  | sliceExpiry core => exact State.keeps_execSliceExpiry hs core
  | bankRestart core => exact State.keeps_execBankRestart hs core
  | sample core => exact State.keeps_execSample hs core
  | replayRelease core st => exact State.keeps_execReplayRelease hs core st
  | mailboxComplete  => exact State.keeps_execMailboxComplete hs
  | invalidationCompletion tag => exact State.keeps_execInvalidationCompletion hs tag
  | instructionFetch core st => exact State.keeps_execInstructionFetch hs core st
  | railSwitchEnd cl => exact State.keeps_execRailSwitchEnd hs cl
  | xeSiblingPull core => exact State.keeps_execXeSiblingPull hs core
  | regWrite who off val => exact State.keeps_execRegWrite hs who off val
  | beaconTimeout cl => exact State.keeps_execBeaconTimeout hs cl
  | thermalTrip code sensor => exact State.keeps_execThermalTrip s₀ s code sensor
  | coldReset hwOk swOk => exact State.keeps_execColdReset s₀ s hwOk swOk
  | doorbell part tail => exact State.keeps_execDoorbell hs part tail
  | pctlPreempt part regid => exact State.keeps_execPctlPreempt hs part regid
  | pctlResume part regid => exact State.keeps_execPctlResume hs part regid
  | pctlEnd part regid => exact State.keeps_execPctlEnd hs part regid
  | pctlOneResume part regid lcore => exact State.keeps_execPctlOneResume hs part regid lcore
  | pctlOneEnd part regid lcore => exact State.keeps_execPctlOneEnd hs part regid lcore
  | bsharePlace part slice regid => exact State.keeps_execBsharePlace hs part slice regid
  | bshareStop part slice => exact State.keeps_execBshareStop hs part slice
  | dbghalt part => exact State.keeps_execDbghalt hs part
  | sqcfgWrite part val => exact State.keeps_execSqcfgWrite hs part val
  | tlostRead part => exact State.keeps_execTlostRead hs part
  | tbstatRead cl => exact State.keeps_execTbstatRead hs cl
  | linkStatusRead peer router port => exact State.keeps_execLinkStatusRead hs peer router port
  | mbNonce who => exact State.keeps_execMbNonce hs who
  | mbUnlock who => exact State.keeps_execMbUnlock hs who
  | mbQuote who => exact State.keeps_execMbQuote hs who
  | mbExtend who => exact State.keeps_execMbExtend hs who
  | mbIdent who => exact State.keeps_execMbIdent hs who
  | mbPsetup who => exact State.keeps_execMbPsetup hs who
  | flitReceive peer router port seq crcOk => exact State.keeps_execFlitReceive hs peer router port seq crcOk
  | linkRetrain peer router port => exact State.keeps_execLinkRetrain hs peer router port
  | retrainEnd peer router port bad => exact State.keeps_execRetrainEnd hs peer router port bad
  | linkLoss peer router port => exact State.keeps_execLinkLoss hs peer router port
  | routeTableApply router dest => exact State.keeps_execRouteTableApply hs router dest
  | atsCompletion cl page log2 pa r w => exact State.keeps_execAtsCompletion hs cl page log2 pa r w
  | atsInvalidationRequest part tag => exact State.keeps_execAtsInvalidationRequest hs part tag
  | ptmExchange ahead => exact State.keeps_execPtmExchange hs ahead
  | sliceStopsAnswering slice => exact State.keeps_execSliceStopsAnswering hs slice
  | hostLinkDown  => exact State.keeps_execHostLinkDown hs
  | hostLinkUp link width => exact State.keeps_execHostLinkUp hs link width
  | hostAccess part wr pa data len => exact State.keeps_execHostAccess hs part wr pa data len
  | peerAccess wr pa data len => exact State.keeps_execPeerAccess hs wr pa data len
  | managementCoreAccess pa val => exact State.keeps_execManagementCoreAccess hs pa val

/-- The turn of a stream keeps it. -/
theorem State.keeps_tryHead {s₀ s : State} (hs : s₀.Keeps false s) (n : Nat) (st : Strm) : s₀.KeepsNext false (s.tryHead n st) := by
  unfold State.tryHead
  dsimp only
  split
  · simp [hs]
  · exact State.keeps_exec ((State.keeps_mk ..).2 hs) _
  · simp [hs]

/-- A device without power keeps it. -/
theorem State.keeps_stand {s₀ s : State} (hs : s₀.Keeps false s) : s₀.KeepsNext false s.stand := by
  unfold State.stand
  split
  · exact State.keeps_exec ((State.keeps_mk ..).2 hs) _
  · split
    · exact State.keeps_exec ((State.keeps_mk ..).2 hs) _
    · simp [hs]
  · simp [hs]

/-- A device with power keeps it. -/
theorem State.keeps_act {s₀ s : State} (hs : s₀.Keeps false s) : s₀.KeepsNext false s.act := by
  unfold State.act
  split
  · simp [hs]
  · exact State.keeps_tryHead ((State.keeps_mk ..).2 hs) _ _
  · exact State.keeps_exec ((State.keeps_mk ..).2 hs) _
  · simp [hs]
  · simp [hs]
  · simp [hs]

/-- Settles O10: the parts of a step, and the parts of those, keep the canonical form; the few that write memory write it by
`Memory.writeN`, `Memory.write` and `Memory.clear`. -/
theorem stepKeepsMemory : Obligations.StepKeepsMemory := by
  unfold Obligations.StepKeepsMemory
  intro s t hs ht
  have h : s.KeepsNext false (step s) := by
    unfold step
    split
    · exact State.keeps_stand (State.Keeps.refl false s)
    · exact State.keeps_act (State.Keeps.refl false s)
  exact (h t ht).1 hs

end Sys2Proof.Machine
end

section
/-! PROOF. The loads of C (O19). -/

namespace Sys2Proof.Machine

/-! ## The loads of C -/

/-- `ld` and `ldx` are the load of C at their address. -/
theorem exec_cLoad {s : State} {h : Hdr} {d a b : BitVec 5} {cls : BitVec 4} {scp : Scp} {sz : Sz} {sx : Bool} {ofs : BitVec 20} {va : Nat}
    {i : Instr} (hi : i = .cLd h d a cls scp sz sx ofs ∧ va = (s.reg a + ofs.signExtend 64).toNat ∨
      i = .cLdx h d a b cls scp sx sz ∧ va = (s.reg a + s.reg b).toNat) : exec i s = .next (s.cLoad h d va cls scp sz sx) := by
  rcases hi with ⟨rfl, rfl⟩ | ⟨rfl, rfl⟩ <;> rfl

/-- An access that enters its class FIFO holds C until its reply (R81, R236). -/
theorem State.cRemote_ready {s : State} {h : Hdr} (hr : s.ready .c h) (units va : Nat) (p : Place) (k : AccKind) (cls : BitVec 4)
    (scp : Scp) (from_ : Nat) (e : Option Lease) (d : Option Reg) :
    s.cRemote h units va p k cls scp from_ e d =
      (((s.modCtx s.me (fun x => x.post (s.newAcc s.me .c va p k cls scp from_ e none))).waits .c h units
        (.reply (s.ctx s.me).nextId none none d)).useLeases s.me (if e.isSome then [va] else [])) :=
  State.issue_ready hr _

/-- A page without a translation is walked first (R298). -/
theorem State.cWalk_ready {s : State} {h : Hdr} (hr : s.ready .c h) (units va : Nat) (r w : Bool) :
    s.cWalk h units va r w = ((s.waits .c h units (.walk va r w)).dropLease s.me va).askWalk s.me va
      { core := s.me, why := .head .c, va := va, lane := none, r := r, w := w } :=
  State.issue_ready hr _

section Load
variable {s : State} {h : Hdr} (d : BitVec 5) {va : Nat} (cls : BitVec 4) (scp : Scp) (sz : Sz) (sx : Bool)

theorem State.cLoad_sibling {core off : Nat} (ht : s.cTarget va (szBytes sz) true false = .spad core off) (hc : core ≠ s.me) :
    s.cLoad h d va cls scp sz sx = s.cRemote h 24 va (.spad core off) (.load sz sx ((s.ctx s.me).regOf d)) cls scp 9 none
      (some ((s.ctx s.me).regOf d)) := by
  simp only [State.cLoad, ht, if_pos hc]

theorem State.cLoad_ext {e : Lease} {p : Place} (ht : s.cTarget va (szBytes sz) true false = .ext e p) :
    s.cLoad h d va cls scp sz sx = s.cRemote h 24 va p (.load sz sx ((s.ctx s.me).regOf d)) cls scp 1 (some e)
      (some ((s.ctx s.me).regOf d)) := by
  simp only [State.cLoad, ht]

theorem State.cLoad_walk (ht : s.cTarget va (szBytes sz) true false = .walk) :
    s.cLoad h d va cls scp sz sx = s.cWalk h 24 va true false := by
  simp only [State.cLoad, ht]

theorem State.cLoad_result {eng : Eng} {off : Nat} (ht : s.cTarget va (szBytes sz) true false = .cmd eng off) (h5 : off / 8 = 5) :
    s.cLoad h d va cls scp sz sx = s.cResult h eng ((s.ctx s.me).regOf d) := by
  simp only [State.cLoad, ht, h5]

variable (hr : s.ready .c h)
include hr

theorem State.cLoad_own {off : Nat} (ht : s.cTarget va (szBytes sz) true false = .spad s.me off)
    (hs : (s.core s.me).spadSound off (szBytes sz) = true) :
    s.cLoad h d va cls scp sz sx = (s.done .c h 4 24 id).direct s.me
      (s.newAcc s.me .c va (.spad s.me off) (.load sz sx ((s.ctx s.me).regOf d)) cls scp 3 none none) := by
  simp only [State.cLoad, ht, hs, ne_eq, not_true, if_false, if_true]
  exact State.issue_ready hr _

theorem State.cLoad_tiles {off : Nat} (ht : s.cTarget va (szBytes sz) true false = .tiles off) :
    s.cLoad h d va cls scp sz sx =
      s.done .c h 4 24 (fun x => x.putReg ((s.ctx s.me).regOf d) (extend sz sx (x.eng.imageBytes off (szBytes sz)))) := by
  simp only [State.cLoad, ht]
  exact State.issue_ready hr _

theorem State.cLoad_rings {off : Nat} (ht : s.cTarget va (szBytes sz) true false = .rings off) :
    s.cLoad h d va cls scp sz sx = s.done .c h 4 24 (fun x => x.putReg ((s.ctx s.me).regOf d) (s.ringLoad s.me off)) := by
  simp only [State.cLoad, ht]
  exact State.issue_ready hr _

theorem State.cLoad_status {eng : Eng} {off : Nat} (ht : s.cTarget va (szBytes sz) true false = .cmd eng off) (h6 : off / 8 = 6) :
    s.cLoad h d va cls scp sz sx = s.done .c h 4 24 (fun x => x.putReg ((s.ctx s.me).regOf d) (s.status s.me eng)) := by
  simp only [State.cLoad, ht, h6]
  exact State.issue_ready hr _

theorem State.cLoad_writeOnly {eng : Eng} {off : Nat} (ht : s.cTarget va (szBytes sz) true false = .cmd eng off) (h5 : off / 8 ≠ 5)
    (h6 : off / 8 ≠ 6) : s.cLoad h d va cls scp sz sx = s.done .c h 4 24 (fun x => x.putReg ((s.ctx s.me).regOf d) 0) := by
  simp only [State.cLoad, ht]
  exact State.issue_ready hr _

end Load

/-- A load of an engine's RESULT (R97). -/
theorem State.cResult_ready {s : State} {h : Hdr} (hr : s.ready .c h) (eng : Eng) (r : Reg) :
    (∀ w ws, (s.ctx s.me).recs eng = w :: ws →
      s.cResult h eng r = s.resultPop s.me eng w (s.done .c h 4 24 (fun x => (x.popRec eng).putReg r w))) ∧
    ((s.ctx s.me).recs eng = [] → (s.ctx s.me).liveOf eng = [] → s.cResult h eng r = s.done .c h 4 24 (fun x => x.putReg r 0)) ∧
    ((s.ctx s.me).recs eng = [] → (s.ctx s.me).liveOf eng ≠ [] → s.cResult h eng r = s.waits .c h 24 (.result eng r)) := by
  refine ⟨fun w ws hw => ?_, fun h0 hl => ?_, fun h0 hl => ?_⟩
  · simp only [State.cResult, hw]
    exact State.issue_ready hr _
  · simp only [State.cResult, h0, hl]
    exact State.issue_ready hr _
  · have hl' : ((s.ctx s.me).liveOf eng).isEmpty = false := by simpa using hl
    simp only [State.cResult, h0, hl']
    exact State.issue_ready hr _

/-- Settles O19: by the target of the address. -/
theorem cLoads : Obligations.CLoads := by
  unfold Obligations.CLoads
  refine ⟨fun s h d a b cls scp sz sx ofs va i hr hi => ?_, fun s h d a cls scp ofs eng off hr ht h5 => ?_⟩
  · rw [exec_cLoad hi]
    have next {t u : State} (e : t = u) : (.next t : Host.Outcome State Fault Refusal) = .next u := congrArg _ e
    exact ⟨fun off ht hs => next (State.cLoad_own d cls scp sz sx hr ht hs),
      fun core off ht hc => next ((State.cLoad_sibling d cls scp sz sx ht hc).trans (State.cRemote_ready hr ..)),
      fun e p ht => next ((State.cLoad_ext d cls scp sz sx ht).trans (State.cRemote_ready hr ..)),
      fun off ht => next (State.cLoad_tiles d cls scp sz sx hr ht),
      fun off ht => next (State.cLoad_rings d cls scp sz sx hr ht),
      fun eng off ht h6 => next (State.cLoad_status d cls scp sz sx hr ht h6),
      fun eng off ht h5 h6 => next (State.cLoad_writeOnly d cls scp sz sx hr ht h5 h6),
      fun ht => next ((State.cLoad_walk d cls scp sz sx ht).trans (State.cWalk_ready hr ..))⟩
  · have hx : exec (.cLd h d a cls scp .d false ofs) s = .next (s.cResult h eng ((s.ctx s.me).regOf d)) :=
      congrArg _ (State.cLoad_result d cls scp .d false ht h5)
    dsimp only
    rw [hx]
    obtain ⟨h1, h2, h3⟩ := State.cResult_ready hr eng ((s.ctx s.me).regOf d)
    exact ⟨fun w ws hw => congrArg _ (h1 w ws hw), fun h0 hl => congrArg _ (h2 h0 hl), fun h0 hl => congrArg _ (h3 h0 hl)⟩

end Sys2Proof.Machine
end

section
/-! PROOF. The stores of C, and the ring table (O20). -/

namespace Sys2Proof.Machine

/-! ## The stores of C -/

/-- A head that may issue takes the fault of its own conditions. -/
theorem State.issue_trap_ready {s : State} {st : Strm} {h : Hdr} (hr : s.ready st h) (t : Trap) (go : State) :
    s.issue st h (.trap t) go = s.raise s.me st t := by
  obtain ⟨ht, hf, -, -⟩ := hr
  exact State.issue_trap ht hf t go

/-- A head that may issue stays for a reason of its own. -/
theorem State.issue_hold_ready {s : State} {st : Strm} {h : Hdr} (hr : s.ready st h) (c : HeadClass) (go : State) :
    s.issue st h (.hold c) go = s.hold st c := by
  obtain ⟨ht, hf, -, -⟩ := hr
  simp [State.issue, ht, hf]

/-- `st` and `stx` are the store of C at their address. -/
theorem exec_cStore {s : State} {h : Hdr} {d a b : BitVec 5} {cls : BitVec 4} {scp : Scp} {sz : Sz} {ofs : BitVec 20} {va : Nat}
    {i : Instr} (hi : i = .cSt h d a cls scp sz ofs ∧ va = (s.reg a + ofs.signExtend 64).toNat ∨
      i = .cStx h d a b cls scp sz ∧ va = (s.reg a + s.reg b).toNat) : exec i s = .next (s.cStore h (s.reg d) va cls scp sz) := by
  rcases hi with ⟨rfl, rfl⟩ | ⟨rfl, rfl⟩ <;> rfl

section Store
variable {s : State} {h : Hdr} (hr : s.ready .c h) (v : Word) {va : Nat} (cls : BitVec 4) (scp : Scp) (sz : Sz)
include hr

theorem State.cStore_own {off : Nat} (ht : s.cTarget va (szBytes sz) false true = .spad s.me off) :
    s.cStore h v va cls scp sz = (s.done .c h 1 24 id).direct s.me
      (s.newAcc s.me .c va (.spad s.me off) (.store (leBytes (szBytes sz) v.toNat)) cls scp 2 none none) := by
  simp only [State.cStore, ht, ne_eq, not_true, if_false]
  exact State.issue_ready hr _

theorem State.cStore_sibling {core off : Nat} (ht : s.cTarget va (szBytes sz) false true = .spad core off) (hc : core ≠ s.me) :
    s.cStore h v va cls scp sz = (s.done .c h 1 24 id).modCtx s.me (fun x =>
      x.post (s.newAcc s.me .c va (.spad core off) (.store (leBytes (szBytes sz) v.toNat)) cls scp 8 none none)) := by
  simp only [State.cStore, ht, if_pos hc]
  exact State.issue_ready hr _

theorem State.cStore_ext {e : Lease} {p : Place} (ht : s.cTarget va (szBytes sz) false true = .ext e p)
    (hd : ¬ (e.d = true ∧ (s.ctx s.me).launch.raceMode = 2)) :
    s.cStore h v va cls scp sz = ((s.done .c h 1 24 id).modCtx s.me (fun x =>
      x.post (s.newAcc s.me .c va p (.store (leBytes (szBytes sz) v.toNat)) cls scp 1 (some e) none))).useLeases s.me [va] := by
  simp only [State.cStore, ht, if_neg hd]
  exact State.issue_ready hr _

/-- A store to a page marked D in trap mode holds C until its reply (log 63). -/
theorem State.cStore_race {e : Lease} {p : Place} (ht : s.cTarget va (szBytes sz) false true = .ext e p) (hd : e.d = true)
    (hm : (s.ctx s.me).launch.raceMode = 2) :
    s.cStore h v va cls scp sz = ((s.modCtx s.me (fun x =>
      x.post (s.newAcc s.me .c va p (.store (leBytes (szBytes sz) v.toNat)) cls scp 1 (some e) none))).waits .c h 24
        (.reply (s.ctx s.me).nextId none none none)).useLeases s.me [va] := by
  simp only [State.cStore, ht, if_pos (And.intro hd hm)]
  exact State.cRemote_ready hr ..

theorem State.cStore_walk (ht : s.cTarget va (szBytes sz) false true = .walk) :
    s.cStore h v va cls scp sz = ((s.waits .c h 24 (.walk va false true)).dropLease s.me va).askWalk s.me va
      { core := s.me, why := .head .c, va := va, lane := none, r := false, w := true } := by
  simp only [State.cStore, ht]
  exact State.cWalk_ready hr ..

theorem State.cStore_command {eng : Eng} {off : Nat} (ht : s.cTarget va (szBytes sz) false true = .cmd eng off) (ho : off / 8 < 4) :
    s.cStore h v va cls scp sz = s.done .c h 1 16 (fun x =>
      { x with eng := { x.eng with cmdw := x.eng.cmdw.set (4 * engNo eng + off / 8) v } }) := by
  simp only [State.cStore, ht, if_pos ho]
  exact State.issue_ready hr _

theorem State.cStore_ignored {eng : Eng} {off : Nat} (ht : s.cTarget va (szBytes sz) false true = .cmd eng off) (ho : 5 ≤ off / 8) :
    s.cStore h v va cls scp sz = s.done .c h 1 16 id := by
  simp only [State.cStore, ht, if_neg (by omega : ¬ off / 8 < 4), if_neg (by omega : ¬ off / 8 = 4)]
  exact State.issue_ready hr _

theorem State.cStore_ring {off : Nat} (ht : s.cTarget va (szBytes sz) false true = .rings off) :
    (∀ t, s.ringStore s.me off v = .inr t → s.cStore h v va cls scp sz = t.done .c h 1 24 id) ∧
    (∀ t, s.ringStore s.me off v = .inl t →
      s.cStore h v va cls scp sz = s.raise s.me .c { t with va := BitVec.ofNat 64 va }) := by
  refine ⟨fun t hs => ?_, fun t hs => ?_⟩ <;> simp only [State.cStore, ht, hs]
  · exact State.issue_ready hr _
  · exact State.issue_trap_ready hr _ _

theorem State.cStore_tiles {off : Nat} (ha : va % szBytes sz = 0) (hs : resolve s.me va (szBytes sz) = .win (.tiles off)) :
    s.cStore h v va cls scp sz = s.raise s.me .c { cause := .perm, va := BitVec.ofNat 64 va } := by
  have ht : s.cTarget va (szBytes sz) false true = .bad (addrTrap .perm va) := by simp [State.cTarget, ha, hs]
  simp only [State.cStore, ht]
  exact State.issue_trap_ready hr _ _

/-- A GO store (R76, R77, R96). -/
theorem State.cGo_ready (eng : Eng) (va : Nat) :
    let k := s.goCmd s.me eng
    let ids := (s.core s.me).maskIds k.rmask
    (s.goFault k va = none → s.mayPush s.me eng ids = true → s.cGo h eng va = (s.done .c h 1 16 id).push k) ∧
    (s.goFault k va = none → s.mayPush s.me eng ids = false → s.cGo h eng va = s.waits .c h 16 (.go k k.rmask ids)) ∧
    (∀ t, s.goFault k va = some t → s.cGo h eng va = s.raise s.me .c t) := by
  refine ⟨fun hg hm => ?_, fun hg hm => ?_, fun t hg => ?_⟩ <;> simp only [State.cGo, hg]
  · simp only [hm, if_true]
    exact State.issue_ready hr _
  · simp only [hm]
    exact State.issue_ready hr _
  · exact State.issue_trap_ready hr _ _

end Store

theorem State.cStore_go {s : State} (h : Hdr) (v : Word) {va : Nat} (cls : BitVec 4) (scp : Scp) (sz : Sz) {eng : Eng} {off : Nat}
    (ht : s.cTarget va (szBytes sz) false true = .cmd eng off) (ho : off / 8 = 4) : s.cStore h v va cls scp sz = s.cGo h eng va := by
  simp only [State.cStore, ht, if_neg (by omega : ¬ off / 8 < 4), if_pos ho]

/-- What the ring table takes of a store (R104, R106). -/
theorem State.ringStore_cases (s : State) (core off n : Nat) (v : Word) :
    let p := (s.ctx core).launch.part
    let r := (s.part p).ring n
    let put := fun (r' : Ring) => s.modPart p (fun p => { p with rings := p.rings.put n r' })
    off < 0x400 → (s.ctx core).ringNo (off / 64) = some n →
      (off / 8 % 8 = 0 → r.claim = r.head → s.ringStore core off v = .inr (put { r with base := v.setWidth 56 })) ∧
      (off / 8 % 8 = 0 → r.claim ≠ r.head → s.ringStore core off v = .inl { cause := .ringerr }) ∧
      (off / 8 % 8 = 1 → r.claim = r.head → bits v 20 7 ≤ 64 → bits v 0 20 % 32 = 0 → s.ringStore core off v = .inr (put
        { r with slots := BitVec.ofNat 7 (bits v 20 7), slotsize := BitVec.ofNat 20 (bits v 0 20), claim := 0, tail := 0, take := 0,
                 head := 0, pub := 0, rel := 0, pubPairs := [], relPairs := [] })) ∧
      (off / 8 % 8 = 1 → r.claim ≠ r.head ∨ 64 < bits v 20 7 ∨ bits v 0 20 % 32 ≠ 0 →
        s.ringStore core off v = .inl { cause := .ringerr }) ∧
      (2 ≤ off / 8 % 8 → s.ringStore core off v = .inr s) := by
  intro p r put ho hn
  have ho' : ¬ 0x400 ≤ off := by omega
  refine ⟨fun h0 hc => ?_, fun h0 hc => ?_, fun h1 hc hs hz => ?_, fun h1 hb => ?_, fun h2 => ?_⟩ <;>
    simp only [State.ringStore, if_neg ho', hn]
  · simp only [h0]
    exact if_pos hc
  · simp only [h0]
    exact if_neg hc
  · simp only [h1]
    refine if_neg ?_
    rintro (hb | hb | hb)
    · exact hb hc
    · omega
    · exact hb hz
  · simp only [h1]
    exact if_pos hb
  · split
    · omega
    · omega
    · rfl

/-- Settles O20: by the target of the address, the doubleword of the ring table, and the checks of the command. -/
theorem cStores : Obligations.CStores := by
  unfold Obligations.CStores
  have next {t u : State} (e : t = u) : (.next t : Host.Outcome State Fault Refusal) = .next u := congrArg _ e
  refine ⟨fun s h d a b cls scp sz ofs va i hr hi => ?_, fun s core off n v => ?_,
    fun s h d a b cls scp ofs eng off va i hr hi ht ho => ?_⟩
  · rw [exec_cStore hi]
    refine ⟨fun off ht => next (State.cStore_own hr _ cls scp sz ht),
      fun core off ht hc => next (State.cStore_sibling hr _ cls scp sz ht hc),
      fun e p ht hd => next (State.cStore_ext hr _ cls scp sz ht hd),
      fun eng off ht ho => next (State.cStore_command hr _ cls scp sz ht ho),
      fun eng off ht ho => next (State.cStore_ignored hr _ cls scp sz ht ho), fun off ht => ?_,
      fun off ha hs => next (State.cStore_tiles hr _ cls scp sz ha hs),
      fun ht => next (State.cStore_walk hr _ cls scp sz ht),
      fun e p ht hd hm => next (State.cStore_race hr _ cls scp sz ht hd hm), fun t ht _ _ => ?_⟩
    · obtain ⟨hput, hbad⟩ := State.cStore_ring hr (s.reg d) cls scp sz ht
      exact ⟨fun t hs => next (hput t hs), fun t hs => next (hbad t hs)⟩
    · cases ht
      exact (State.keeps_cStore (State.Keeps.refl true s) h _ va cls scp sz).sameBytes
  · refine ⟨fun ho => ?_, fun ho hn => ?_, fun ho hn => State.ringStore_cases s core off n v ho hn⟩
    · simp only [State.ringStore, if_pos ho]
    · simp only [State.ringStore, if_neg (by omega : ¬ 0x400 ≤ off), hn]
  · dsimp only
    rw [exec_cStore hi, State.cStore_go h _ cls scp .d ht ho]
    obtain ⟨hpush, hwait, hbad⟩ := State.cGo_ready hr eng va
    exact ⟨fun hg hm => next (hpush hg hm), fun hg hm => next (hwait hg hm), fun t hg => next (hbad t hg)⟩

end Sys2Proof.Machine
end

section
/-! PROOF. The atomics of C (O21). -/

namespace Sys2Proof.Machine

/-! ## The atomics of C -/

section Atomic
variable {s : State} {h : Hdr} (hr : s.ready .c h) {va : Nat} (cls : BitVec 4) (scp : Scp) (w32 : Bool) (k : AccKind) (d : Reg)

/-- An address that no access can reach has no other target. -/
theorem State.not_bad_of_cTarget {n : Nat} (ht : ∀ t, s.cTarget va n true true ≠ .bad t) :
    ¬ (va % n = 0 ∧ resolve s.me va n = .bad) := by
  rintro ⟨ha, hb⟩
  exact ht (addrTrap .xlate va) (by simp [State.cTarget, ha, hb])

include hr

theorem State.cAtomic_own {off : Nat} (ht : s.cTarget va (if w32 then 4 else 8) true true = .spad s.me off)
    (hs : (s.core s.me).spadSound off (if w32 then 4 else 8) = true) :
    s.cAtomic h va cls scp w32 k d =
      (s.done .c h 6 24 id).direct s.me (s.newAcc s.me .c va (.spad s.me off) k cls scp 5 none none) := by
  simp only [State.cAtomic, if_neg (State.not_bad_of_cTarget (fun t => by rw [ht]; nofun)), ht, hs, ne_eq, not_true, if_false, if_true]
  exact State.issue_ready hr _

theorem State.cAtomic_sibling {core off : Nat} (ht : s.cTarget va (if w32 then 4 else 8) true true = .spad core off) (hc : core ≠ s.me) :
    s.cAtomic h va cls scp w32 k d =
      (((s.modCtx s.me (fun x => x.post (s.newAcc s.me .c va (.spad core off) k cls scp 11 none none))).waits .c h 24
        (.reply (s.ctx s.me).nextId none none (some d))).useLeases s.me []) := by
  simp only [State.cAtomic, if_neg (State.not_bad_of_cTarget (fun t => by rw [ht]; nofun)), ht, if_pos hc]
  exact State.cRemote_ready hr ..

theorem State.cAtomic_ext {l : Lease} {p : Place} (ht : s.cTarget va (if w32 then 4 else 8) true true = .ext l p)
    (hn : (s.core s.me).atomsOut < 64) :
    s.cAtomic h va cls scp w32 k d =
      (((s.modCtx s.me (fun x => x.post (s.newAcc s.me .c va p k cls scp 1 (some l) none))).waits .c h 24
        (.reply (s.ctx s.me).nextId none none (some d))).useLeases s.me [va]) := by
  simp only [State.cAtomic, if_neg (State.not_bad_of_cTarget (fun t => by rw [ht]; nofun)), ht, if_neg (by omega : ¬ 64 ≤ (s.core s.me).atomsOut)]
  exact State.cRemote_ready hr ..

/-- With 64 atomics outstanding the head is held (R316). -/
theorem State.cAtomic_full {l : Lease} {p : Place} (ht : s.cTarget va (if w32 then 4 else 8) true true = .ext l p)
    (hn : 64 ≤ (s.core s.me).atomsOut) : s.cAtomic h va cls scp w32 k d = s.hold .c .busy := by
  simp only [State.cAtomic, if_neg (State.not_bad_of_cTarget (fun t => by rw [ht]; nofun)), ht, if_pos hn]
  exact State.issue_hold_ready hr _ _

/-- A target that takes PERM, or that is no place of an atomic (R92). -/
theorem State.cAtomic_perm {n : Nat} (hn : n = if w32 then 4 else 8) (ha : va % n = 0)
    (hs : resolve s.me va n = .bad ∨ (∃ off, resolve s.me va n = .win (.tiles off)) ∨
      n = 8 ∧ ((∃ eng off, resolve s.me va n = .win (.cmd eng off)) ∨ ∃ off, resolve s.me va n = .win (.rings off))) :
    s.cAtomic h va cls scp w32 k d = s.raise s.me .c { cause := .perm, va := BitVec.ofNat 64 va } := by
  subst hn
  rcases hs with hs | ⟨off, hs⟩ | ⟨h8, ⟨eng, off, hs⟩ | ⟨off, hs⟩⟩
  · simp only [State.cAtomic, ha, hs, and_self, if_true]
    exact State.issue_trap_ready hr _ _
  · simp only [State.cAtomic, State.cTarget, ha, hs, ne_eq, not_true, reduceCtorEq, and_false, if_false, if_true]
    exact State.issue_trap_ready hr _ _
  · rw [h8] at ha hs
    simp only [State.cAtomic, State.cTarget, ha, hs, h8, ne_eq, not_true, reduceCtorEq, and_false, if_false, if_true]
    exact State.issue_trap_ready hr _ _
  · rw [h8] at ha hs
    simp only [State.cAtomic, State.cTarget, ha, hs, h8, ne_eq, not_true, reduceCtorEq, and_false, if_false, if_true]
    exact State.issue_trap_ready hr _ _

end Atomic

/-- `amo` and `cas` are the atomic of C that writes their register. -/
theorem exec_cAtomic {s : State} {h : Hdr} {d a b e : BitVec 5} {cls : BitVec 4} {scp : Scp} {w32 : Bool} {op : AmoOp} {i : Instr}
    {k : AccKind} (hi : i = .cAmo h d a b cls scp w32 op ∧ k = .amo w32 op (s.reg b) ((s.ctx s.me).regOf d) ∨
      i = .cCas h d a b e cls scp w32 ∧ k = .cas w32 (s.reg b) (s.reg e) ((s.ctx s.me).regOf d)) :
    exec i s = .next (s.cAtomic h (s.reg a).toNat cls scp w32 k ((s.ctx s.me).regOf d)) := by
  rcases hi with ⟨rfl, rfl⟩ | ⟨rfl, rfl⟩ <;> rfl

/-! ## What an atomic writes and answers -/

/-- The bytes of a value are its digits, lowest first. -/
theorem leNat_leBytes (n v : Nat) : leNat (leBytes n v) = v % 256 ^ n := by
  induction n generalizing v with
  | zero => simp [leBytes, leNat, Nat.mod_one]
  | succ n ih =>
    have hb : leNat (leBytes (n + 1) v) = v % 256 + 256 * leNat (leBytes n (v / 256)) := by simp [leBytes, leNat]
    rw [hb, ih, Nat.pow_succ', Nat.mod_mul]

theorem ofNat_leNat_leBytes_8 (v : Word) : BitVec.ofNat 64 (leNat (leBytes 8 v.toNat)) = v := by
  apply BitVec.eq_of_toNat_eq
  simpa [leNat_leBytes] using v.isLt

theorem ofNat_leNat_leBytes_4 (v : Word) : BitVec.ofNat 64 (leNat (leBytes 4 v.toNat)) = (v.setWidth 32).setWidth 64 := by
  apply BitVec.eq_of_toNat_eq
  simp [leNat_leBytes]

theorem setWidth_64_inj {a b : Lane} : a.setWidth 64 = b.setWidth 64 ↔ a = b := by
  refine ⟨fun h => ?_, fun h => h ▸ rfl⟩
  simpa [BitVec.setWidth_setWidth_of_le] using congrArg (BitVec.setWidth 32) h

/-- The lesser of two, taken on ties from the other side. -/
theorem ite_lt_eq_ite_gt {α β : Type} [LinearOrder β] {f : α → β} (hf : Function.Injective f) (a b : α) :
    (if f a < f b then a else b) = if f b < f a then b else a := by
  rcases lt_trichotomy (f a) (f b) with h | h | h
  · rw [if_pos h, if_neg h.asymm]
  · rw [hf h, ite_self]
  · rw [if_neg h.asymm, if_pos h]

/-- The new value of a 64-bit atomic (R90). -/
theorem amoNew_64 (old b : Word) :
    amoNew false .add old b = old + b ∧ amoNew false .and old b = old &&& b ∧ amoNew false .or old b = old ||| b ∧
    amoNew false .xor old b = old ^^^ b ∧ amoNew false .swap old b = b ∧
    amoNew false .min old b = (if b.toInt < old.toInt then b else old) ∧
    amoNew false .max old b = (if old.toInt < b.toInt then b else old) ∧
    amoNew false .minu old b = (if b.toNat < old.toNat then b else old) ∧
    amoNew false .maxu old b = (if old.toNat < b.toNat then b else old) := by
  refine ⟨rfl, rfl, rfl, rfl, rfl, ?_, ?_, ?_, ?_⟩ <;>
    simp only [amoNew, BitVec.slt, BitVec.ult, Bool.false_eq_true, if_false, decide_eq_true_eq]
  · exact ite_lt_eq_ite_gt (fun _ _ => BitVec.eq_of_toInt_eq) old b
  · exact ite_lt_eq_ite_gt BitVec.toNat_injective old b

/-- The low half of the new value of a 32-bit atomic (R90). -/
theorem amoNew_32 (old b : Word) :
    let o : Lane := old.setWidth 32
    let c : Lane := b.setWidth 32
    let lo := fun (op : AmoOp) => ((amoNew true op old b).setWidth 32 : Lane)
    lo .add = o + c ∧ lo .and = o &&& c ∧ lo .or = o ||| c ∧ lo .xor = o ^^^ c ∧ lo .swap = c ∧
      lo .min = (if c.toInt < o.toInt then c else o) ∧ lo .max = (if o.toInt < c.toInt then c else o) ∧
      lo .minu = (if c.toNat < o.toNat then c else o) ∧ lo .maxu = (if o.toNat < c.toNat then c else o) := by
  intro o c lo
  refine ⟨?_, ?_, ?_, ?_, rfl, ?_, ?_, ?_, ?_⟩ <;>
    simp only [lo, o, c, amoNew, BitVec.slt, BitVec.ult, if_true, decide_eq_true_eq, apply_ite (BitVec.setWidth 32)]
  · exact BitVec.setWidth_add _ _ (by decide)
  · exact BitVec.setWidth_and ..
  · exact BitVec.setWidth_or ..
  · exact BitVec.setWidth_xor ..
  · exact ite_lt_eq_ite_gt (fun _ _ => BitVec.eq_of_toInt_eq) _ _
  · exact ite_lt_eq_ite_gt BitVec.toNat_injective _ _

/-- What an atomic writes and answers (R90, R91). -/
theorem AccKind.update_atomic (old b e : Word) (op : AmoOp) (d : Reg) :
    let o : Word := (old.setWidth 32).setWidth 64
    (AccKind.amo false op b d).update (leBytes 8 old.toNat) = some (some (leBytes 8 (amoNew false op old b).toNat), old) ∧
    (AccKind.amo true op b d).update (leBytes 4 old.toNat) = some (some (leBytes 4 (amoNew true op o b).toNat), o) ∧
    (old = b → (AccKind.cas false b e d).update (leBytes 8 old.toNat) = some (some (leBytes 8 e.toNat), old)) ∧
    (old ≠ b → (AccKind.cas false b e d).update (leBytes 8 old.toNat) = some (none, old)) ∧
    ((old.setWidth 32 : Lane) = b.setWidth 32 →
      (AccKind.cas true b e d).update (leBytes 4 old.toNat) = some (some (leBytes 4 e.toNat), o)) ∧
    ((old.setWidth 32 : Lane) ≠ b.setWidth 32 → (AccKind.cas true b e d).update (leBytes 4 old.toNat) = some (none, o)) := by
  intro o
  refine ⟨?_, ?_, fun h => ?_, fun h => ?_, fun h => ?_, fun h => ?_⟩ <;>
    simp only [AccKind.update, ofNat_leNat_leBytes_8, ofNat_leNat_leBytes_4, Bool.false_eq_true, if_false, if_true]
  · rfl
  · simp [h]
  · simp [h]
  · simp [h, o]
  · simp [setWidth_64_inj, h, o]

/-- Settles O21: by the target of the address, and by the operation. -/
theorem cAtomics : Obligations.CAtomics := by
  unfold Obligations.CAtomics
  have next {t u : State} (e : t = u) : (.next t : Host.Outcome State Fault Refusal) = .next u := congrArg _ e
  refine ⟨fun s h d a b e cls scp w32 op i k hr hi => ?_, fun old b => ?_⟩
  · rw [exec_cAtomic hi]
    exact ⟨fun off ht hs => next (State.cAtomic_own hr cls scp w32 k _ ht hs),
      fun core off ht hc => next (State.cAtomic_sibling hr cls scp w32 k _ ht hc),
      fun l p ht hn => next (State.cAtomic_ext hr cls scp w32 k _ ht hn),
      fun l p ht hn => next (State.cAtomic_full hr cls scp w32 k _ ht hn),
      fun ha hs => next (State.cAtomic_perm hr cls scp w32 k _ rfl ha hs)⟩
  · obtain ⟨h1, h2, h3, h4, h5, h6, h7, h8, h9⟩ := amoNew_64 old b
    exact ⟨amoNew_32 old b, h1, h2, h3, h4, h5, h6, h7, h8, h9, fun op d e => AccKind.update_atomic old b e op d⟩

end Sys2Proof.Machine
end

section
/-! PROOF. Accesses and instructions that are turned away (O22). -/

namespace Sys2Proof.Machine

/-! ## Accesses that are turned away -/

theorem State.cTarget_align {s : State} {va len : Nat} (ha : va % len ≠ 0) (r w : Bool) :
    s.cTarget va len r w = .bad { cause := .align, va := BitVec.ofNat 64 va } := if_pos ha

section Align
variable {s : State} {h : Hdr} (ht : (s.ctx s.me).tries .c = true) (hf : s.front .c h = none) {va : Nat} (cls : BitVec 4) (scp : Scp)
include ht hf

theorem State.cLoad_align (d : BitVec 5) {sz : Sz} (sx : Bool) (ha : va % szBytes sz ≠ 0) :
    s.cLoad h d va cls scp sz sx = s.raise s.me .c { cause := .align, va := BitVec.ofNat 64 va } := by
  simp only [State.cLoad, State.cTarget_align ha]
  exact State.issue_trap ht hf _ _

theorem State.cStore_align (v : Word) {sz : Sz} (ha : va % szBytes sz ≠ 0) :
    s.cStore h v va cls scp sz = s.raise s.me .c { cause := .align, va := BitVec.ofNat 64 va } := by
  simp only [State.cStore, State.cTarget_align ha]
  exact State.issue_trap ht hf _ _

theorem State.cAtomic_align {w32 : Bool} (k : AccKind) (d : Reg) (ha : va % (if w32 then 4 else 8) ≠ 0) :
    s.cAtomic h va cls scp w32 k d = s.raise s.me .c { cause := .align, va := BitVec.ofNat 64 va } := by
  simp only [State.cAtomic, ha, false_and, if_false, State.cTarget_align ha]
  exact State.issue_trap ht hf _ _

end Align

/-! ## Privilege -/

theorem Ctx.sysReg_of_le (x : Ctx) (core : Nat) {n : Nat} (hn : 9 ≤ n) :
    x.sysReg core n = if x.frame.handler then x.frameReg n else none := by
  obtain ⟨m, rfl⟩ := Nat.exists_eq_add_of_le' hn
  rfl

theorem Ctx.setSysReg_of_le (x : Ctx) (v : Word) {n : Nat} (hn : 9 ≤ n) :
    x.setSysReg n v = if x.frame.handler then x.setFrameReg n v else none := by
  obtain ⟨m, rfl⟩ := Nat.exists_eq_add_of_le' hn
  rfl

/-- Outside handler mode only the registers 0 to 3 are written (R113). -/
theorem Ctx.setSysReg_none {x : Ctx} (hh : x.frame.handler = false) (v : Word) {n : Nat} (hn : 4 ≤ n) : x.setSysReg n v = none := by
  rcases Nat.lt_or_ge n 9 with h9 | h9
  · have hk : n = 4 ∨ n = 5 ∨ n = 6 ∨ n = 7 ∨ n = 8 := by omega
    rcases hk with rfl | rfl | rfl | rfl | rfl <;> simp [Ctx.setSysReg, hh]
  · simp [Ctx.setSysReg_of_le x v h9, hh]

/-- SLOTSHARE and COREID are written by no program. -/
theorem Ctx.setSysReg_fixed (x : Ctx) (v : Word) {n : Nat} (hn : n = 5 ∨ n = 8) : x.setSysReg n v = none := by
  rcases hn with rfl | rfl <;> rfl

section Privilege
variable {s : State} {h : Hdr} (ht : (s.ctx s.me).tries .c = true) (hf : s.front .c h = none)
include ht hf

theorem exec_cMfsr_perm (d : BitVec 5) {n : BitVec 16} (hn : (s.ctx s.me).sysReg s.me n.toNat = none) :
    exec (.cMfsr h d n) s = .next (s.raise s.me .c { cause := .perm }) := by
  have hx : exec (.cMfsr h d n) s = execCMfsr h d n s := rfl
  rw [hx, execCMfsr, hn]
  exact congrArg _ (State.issue_trap ht hf _ _)

theorem exec_cMtsr_perm (a : BitVec 5) {n : BitVec 16} (hn : (s.ctx s.me).setSysReg n.toNat (s.reg a) = none) :
    exec (.cMtsr h a n) s = .next (s.raise s.me .c { cause := .perm }) := by
  have hx : exec (.cMtsr h a n) s = execCMtsr h a n s := rfl
  have hn' : (s.ctx s.me).setSysReg n.toNat ((s.ctx s.me).reg a) = none := hn
  simp only [hx, execCMtsr, hn']
  exact congrArg _ (State.issue_trap ht hf _ _)

theorem exec_cEret_privilege (hh : (s.ctx s.me).frame.handler = false) :
    exec (.cEret h) s = .next (s.raise s.me .c { cause := .perm }) := by
  rw [exec_cEret, if_neg (by simp [hh]), State.issue_trap ht hf]

end Privilege

/-! ## The lease rule of the power instructions -/

theorem State.leaseCheck_nolease {s : State} {dt : DomTy} {mask : BitVec 32} (hd : dt = .maq ∨ dt = .wbb) (hm : mask ≠ 0)
    (hl : (s.cluster (clusterOf s.me)).holder ≠ some s.me) : s.leaseCheck s.me dt mask = .trap { cause := .nolease } := by
  have hn : ¬ (mask = 0 ∨ s.holdsLease s.me = true) := by
    rintro (h | h)
    · exact hm h
    · exact hl (by simpa [State.holdsLease] using h)
  rcases hd with rfl | rfl <;> exact if_neg hn

/-- A wake or a sleep without the lease takes NOLEASE in its stream. -/
theorem State.wake_sleep_nolease {s : State} {h : Hdr} {dt : DomTy} (ret : Bool) {mask : BitVec 32}
    (hd : dt = .maq ∨ dt = .wbb) (hm : mask ≠ 0) (hl : (s.cluster (clusterOf s.me)).holder ≠ some s.me) (st : Strm)
    (hs : (s.ctx s.me).tries st = true ∧ s.front st h = none) :
    s.wake st h dt mask = s.raise s.me st { cause := .nolease } ∧
    s.sleep st h dt ret mask = s.raise s.me st { cause := .nolease } := by
  obtain ⟨ht, hf⟩ := hs
  rw [State.wake, State.sleep, State.leaseCheck_nolease hd hm hl]
  exact ⟨State.issue_trap ht hf _ _, State.issue_trap ht hf _ _⟩

/-- Settles O22: alignment is the first check of a target, and privilege and the lease rule are the checks of their instructions. -/
theorem cTurnedAway : Obligations.CTurnedAway := by
  unfold Obligations.CTurnedAway
  have next {t u : State} (e : t = u) : (.next t : Host.Outcome State Fault Refusal) = .next u := congrArg _ e
  refine ⟨fun s h d a b e cls scp sz sx w32 ofs op ht hf => ?_, fun s h d a n ht hf => ?_,
    fun s h dt ret mask hd hm hl => ?_⟩
  · exact ⟨fun ha => ⟨next (State.cLoad_align ht hf cls scp d sx ha), next (State.cStore_align ht hf cls scp _ ha)⟩,
      fun ha => ⟨next (State.cLoad_align ht hf cls scp d sx ha), next (State.cStore_align ht hf cls scp _ ha)⟩,
      fun ha => ⟨next (State.cAtomic_align ht hf cls scp _ _ ha), next (State.cAtomic_align ht hf cls scp _ _ ha)⟩⟩
  · refine ⟨fun hh => ⟨fun hn => exec_cMfsr_perm ht hf d ?_, fun hn => exec_cMtsr_perm ht hf a (Ctx.setSysReg_none hh _ hn),
      exec_cEret_privilege ht hf hh⟩, fun hn => exec_cMtsr_perm ht hf a (Ctx.setSysReg_fixed _ _ hn)⟩
    simp [Ctx.sysReg_of_le _ _ hn, hh]
  · have none_ (st : Strm) (hs) := State.wake_sleep_nolease (h := h) ret hd hm hl st hs
    exact ⟨fun hs => ⟨next (none_ .c hs).1, next (none_ .c hs).2⟩, fun hs => ⟨next (none_ .l hs).1, next (none_ .l hs).2⟩,
      fun hs => ⟨next (none_ .v hs).1, next (none_ .v hs).2⟩, fun hs => ⟨next (none_ .s hs).1, next (none_ .s hs).2⟩⟩

end Sys2Proof.Machine
end

section
/-! PROOF. waita and fence (O23). -/

namespace Sys2Proof.Machine

/-! ## `waita` -/

theorem resolve_ext {core va len : Nat} (h : 2 ^ 56 ≤ va) : resolve core va len = .ext := if_pos (.inr h)

/-- The faults of a scratchpad that may not be reached. -/
theorem State.spadTarget_bad {s : State} {me core off len va : Nat} {t : Trap} (ht : s.spadTarget me core off len va = .bad t) :
    t.cause = .winlost ∨ t.cause = .sleeping := by
  unfold State.spadTarget at ht
  split at ht
  · cases ht
    exact .inl rfl
  · split at ht
    · cases ht
      exact .inr rfl
    · cases ht

section Waita
variable {s : State} {h : Hdr} (hr : s.ready .c h) (d a b : BitVec 5) (slot : BitVec 3) (cnd : ICnd)
include hr

theorem exec_cWaita_align (ha : (s.reg a).toNat % 4 ≠ 0) :
    exec (.cWaita h d a b slot cnd) s = .next (s.raise s.me .c { cause := .align, va := BitVec.ofNat 64 (s.reg a).toNat }) := by
  have hx : exec (.cWaita h d a b slot cnd) s = execCWaita h d a b slot cnd s := rfl
  have ha' : ((s.ctx s.me).reg a).toNat % 4 ≠ 0 := ha
  simp only [hx, execCWaita, if_pos ha']
  exact congrArg _ (State.issue_trap_ready hr _ _)

theorem exec_cWaita_perm (ha : (s.reg a).toNat % 4 = 0) (hv : (s.reg a).toNat < 2 ^ 56)
    (hs : ∀ core off, resolve s.me (s.reg a).toNat 4 ≠ .win (.spad core off)) :
    exec (.cWaita h d a b slot cnd) s = .next (s.raise s.me .c { cause := .perm, va := BitVec.ofNat 64 (s.reg a).toNat }) := by
  have hx : exec (.cWaita h d a b slot cnd) s = execCWaita h d a b slot cnd s := rfl
  have ha' : ¬ ((s.ctx s.me).reg a).toNat % 4 ≠ 0 := not_not_intro ha
  have hv' : ¬ 2 ^ 56 ≤ ((s.ctx s.me).reg a).toNat := Nat.not_le.2 hv
  simp only [hx, execCWaita, if_neg ha', if_neg hv']
  split
  · next core off hw => exact absurd hw (hs core off)
  · exact congrArg _ (State.issue_trap_ready hr _ _)

variable {core off : Nat} (ha : (s.reg a).toNat % 4 = 0) (hs : resolve s.me (s.reg a).toNat 4 = .win (.spad core off))
include ha hs

theorem exec_cWaita_bad {t : Trap} (ht : s.spadTarget s.me core off 4 (s.reg a).toNat = .bad t) :
    exec (.cWaita h d a b slot cnd) s = .next (s.raise s.me .c t) := by
  have hx : exec (.cWaita h d a b slot cnd) s = execCWaita h d a b slot cnd s := rfl
  have ha' : ¬ ((s.ctx s.me).reg a).toNat % 4 ≠ 0 := not_not_intro ha
  have hs' : resolve s.me ((s.ctx s.me).reg a).toNat 4 = .win (.spad core off) := hs
  have ht' : s.spadTarget s.me core off 4 ((s.ctx s.me).reg a).toNat = .bad t := ht
  simp only [hx, execCWaita, if_neg ha', hs', ht']
  exact congrArg _ (State.issue_trap_ready hr _ _)

theorem exec_cWaita_spad (ht : s.spadTarget s.me core off 4 (s.reg a).toNat = .spad core off) :
    exec (.cWaita h d a b slot cnd) s = .next
      (if icndHolds cnd (s.watched core off) ((s.reg b).setWidth 32) then
        (s.acquire s.me (s.flagPair core off)).done .c h 1 24
          (fun x => x.putReg (x.regOf d) ((s.watched core off).setWidth 64))
       else s.waits .c h 24 (.waita core off slot cnd ((s.reg b).setWidth 32) ((s.ctx s.me).regOf d) none)) := by
  have hx : exec (.cWaita h d a b slot cnd) s = execCWaita h d a b slot cnd s := rfl
  have ha' : ¬ ((s.ctx s.me).reg a).toNat % 4 ≠ 0 := not_not_intro ha
  have hs' : resolve s.me ((s.ctx s.me).reg a).toNat 4 = .win (.spad core off) := hs
  have ht' : s.spadTarget s.me core off 4 ((s.ctx s.me).reg a).toNat = .spad core off := ht
  simp only [hx, execCWaita, if_neg ha', hs', ht']
  exact congrArg _ (State.issue_ready hr _)

end Waita

/-! ## `fence` -/

/-- A mask of no class names no access and no failure. -/
theorem State.fenceIds_zero (s : State) (core : Nat) (scp : Scp) : s.fenceIds core scp 0 = [] := by
  simp [State.fenceIds, Ctx.unposted, bitAt]

theorem Ctx.failOf_zero (x : Ctx) (scp : Scp) : x.failOf scp 0 = none := by
  simp [Ctx.failOf, bitAt]

theorem exec_cFence {s : State} {h : Hdr} (hr : s.ready .c h) (scp : Scp) (mask : BitVec 16) :
    exec (.cFence h scp mask) s = .next (if s.fenceIds s.me scp mask = [] then s.fenceEnd s.me scp mask (s.done .c h 1 8 id)
      else s.waits .c h 8 (.fence scp mask (s.fenceIds s.me scp mask) (s.ctx s.me).nextId)) :=
  congrArg _ (State.issue_ready hr _)

theorem State.fenceEnd_none {s : State} {core : Nat} {scp : Scp} {mask : BitVec 16} (hf : (s.ctx core).failOf scp mask = none)
    (go : State) : s.fenceEnd core scp mask go = go := by
  rw [State.fenceEnd, hf]

theorem State.fenceEnd_some {s : State} {core : Nat} {scp : Scp} {mask : BitVec 16} {f : BitVec 4 × Scp × Trap}
    (hf : (s.ctx core).failOf scp mask = some f) (hm : (s.ctx core).mode = .run) (go : State) :
    s.fenceEnd core scp mask go =
      (s.modCtx core (fun x => { x.modStrm .c Stream.cut with fails := x.fails.erase f })).raise core .c f.2.2 := by
  rw [State.fenceEnd, hf]
  exact if_pos hm

/-- Settles O23: by the place of the word, and by the accesses that the fence covers. -/
theorem cWaitaAndFence : Obligations.CWaitaAndFence := by
  unfold Obligations.CWaitaAndFence
  refine ⟨fun s h d a b slot cnd hr => ⟨fun ha => exec_cWaita_align hr d a b slot cnd ha,
      fun ha hv hs => exec_cWaita_perm hr d a b slot cnd ha hv hs, fun core off ha hs => ⟨fun t ht =>
        ⟨State.spadTarget_bad ht, exec_cWaita_bad hr d a b slot cnd ha hs ht⟩, fun ht => ?_⟩⟩,
    fun s h scp mask hr => ?_⟩
  · dsimp only
    rw [exec_cWaita_spad hr d a b slot cnd ha hs ht]
    exact ⟨fun hc => congrArg _ (if_pos hc), fun hc => congrArg _ (if_neg (ne_true_of_eq_false hc))⟩
  · dsimp only
    rw [exec_cFence hr]
    refine ⟨fun hi hf => ?_, fun f hi hf hm => ?_, fun hi => ?_, fun hm => ?_⟩
    · rw [if_pos hi, State.fenceEnd_none hf]
    · rw [if_pos hi, State.fenceEnd_some hf hm]
    · rw [if_neg hi]
    · subst hm
      rw [if_pos (s.fenceIds_zero s.me scp), State.fenceEnd_none (Ctx.failOf_zero _ scp)]

end Sys2Proof.Machine
end

section
/-! PROOF. Ring operations and barrier arrivals (O24). -/

namespace Sys2Proof.Machine

/-! ## The ring operations -/

/-- The five ring operations, by the operation, the mask, the slot and the register that takes the answer. -/
theorem exec_ringOp {s : State} {h : Hdr} {d a : BitVec 5} {idx : BitVec 6} {scp : Scp} {mask : BitVec 16} {i : Instr} {op : SyncOp}
    {m : BitVec 16} {slot : Nat} {r : Option Reg}
    (hi : i = .cRclaim h d idx scp ∧ op = .claim ∧ m = 0 ∧ slot = 0 ∧ r = some ((s.ctx s.me).regOf d) ∨
      i = .cRwaitf h d idx scp ∧ op = .waitf ∧ m = 0 ∧ slot = 0 ∧ r = some ((s.ctx s.me).regOf d) ∨
      i = .cRwaite h idx scp ∧ op = .waite ∧ m = 0 ∧ slot = 0 ∧ r = none ∨
      i = .cRpub h a idx scp mask ∧ op = .pub ∧ m = mask ∧ slot = (s.reg a).toNat ∧ r = none ∨
      i = .cRrel h a idx scp mask ∧ op = .rel ∧ m = mask ∧ slot = (s.reg a).toNat ∧ r = none) :
    exec i s = .next (s.ringOp h op idx scp m slot r) := by
  rcases hi with ⟨rfl, rfl, rfl, rfl, rfl⟩ | ⟨rfl, rfl, rfl, rfl, rfl⟩ | ⟨rfl, rfl, rfl, rfl, rfl⟩ | ⟨rfl, rfl, rfl, rfl, rfl⟩ |
    ⟨rfl, rfl, rfl, rfl, rfl⟩ <;> rfl

section Ring
variable {s : State} {h : Hdr} {idx : BitVec 6} (op : SyncOp) (scp : Scp) (m : BitVec 16) (slot : Nat) (r : Option Reg)

/-- An operation that releases nothing reaches its home at once. -/
theorem State.syncGo_now {n : Nat} (hm : s.fenceIds s.me scp m = []) :
    s.syncGo h op n scp m slot r = (s.waits .c h 8 (.sync op n scp m [] true slot none r noGen)).arriveHome
      (s.ctx s.me).launch.part n { core := s.me, op := op, slot := slot } := by
  simp only [State.syncGo, hm]
  rfl

/-- An operation that releases accesses waits for them first. -/
theorem State.syncGo_later {n : Nat} (hm : s.fenceIds s.me scp m ≠ []) :
    s.syncGo h op n scp m slot r = s.waits .c h 8 (.sync op n scp m (s.fenceIds s.me scp m) false slot none r noGen) := by
  have he : (s.fenceIds s.me scp m).isEmpty = false := by simpa using hm
  simp only [State.syncGo, he]
  rfl

theorem State.ringOp_ready {n : Nat} (hn : (s.ctx s.me).ringNo idx.toNat = some n)
    (hf : ((s.part (s.ctx s.me).launch.part).ring n).refuses op slot = false) (hr : s.ready .c h) :
    s.ringOp h op idx scp m slot r = s.syncGo h op n scp m slot r := by
  simp only [State.ringOp, hn, hf]
  exact State.issue_ready hr _

variable (ht : (s.ctx s.me).tries .c = true) (hf : s.front .c h = none)
include ht hf

theorem State.ringOp_refused {n : Nat} (hn : (s.ctx s.me).ringNo idx.toNat = some n)
    (hb : ((s.part (s.ctx s.me).launch.part).ring n).refuses op slot = true) :
    s.ringOp h op idx scp m slot r = s.raise s.me .c { cause := .ringerr } := by
  simp only [State.ringOp, hn, hb]
  exact State.issue_trap ht hf _ _

theorem State.ringOp_none (hn : (s.ctx s.me).ringNo idx.toNat = none) :
    s.ringOp h op idx scp m slot r = s.raise s.me .c { cause := .synclimit } := by
  simp only [State.ringOp, hn]
  exact State.issue_trap ht hf _ _

end Ring

/-! ## The barrier arrival -/

section Bar
variable {s : State} {h : Hdr} (hr : s.ready .c h) (d : BitVec 5) {idx : BitVec 6} (scp : Scp) (mask : BitVec 16) {n : Nat}
  (hn : (s.ctx s.me).barNo idx.toNat = some n)
include hr hn

/-- An arrival that no stop kept. -/
theorem exec_cBar_new (hk : (s.ctx s.me).c.kept = none) :
    exec (.cBar h d idx scp mask) s = .next (s.syncGo h .bar n scp mask 0 (some ((s.ctx s.me).regOf d))) := by
  have hx : exec (.cBar h d idx scp mask) s = execCBar h d idx scp mask s := rfl
  simp only [hx, execCBar, hn, hk]
  exact congrArg _ (State.issue_ready hr _)

/-- An arrival that a stop kept. -/
theorem exec_cBar_kept {m : Nat} {g : Nat} (hk : (s.ctx s.me).c.kept = some (m, g)) :
    exec (.cBar h d idx scp mask) s = .next
      (if ((s.part (s.ctx s.me).launch.part).barrier n).gen.toNat = g then
        s.waits .c h 8 (.sync .bar n scp mask [] true 0 none (some ((s.ctx s.me).regOf d)) g)
       else s.done .c h 1 8 (fun y => y.putReg ((s.ctx s.me).regOf d) (BitVec.ofNat 64 g))) := by
  have hx : exec (.cBar h d idx scp mask) s = execCBar h d idx scp mask s := rfl
  simp only [hx, execCBar, hn, hk]
  exact congrArg _ (State.issue_ready hr _)

end Bar

/-- Settles O24: by the ring and what it refuses, and by the arrival that a stop kept. -/
theorem ringsAndBarriers : Obligations.RingsAndBarriers := by
  unfold Obligations.RingsAndBarriers
  have next {t u : State} (e : t = u) : (.next t : Host.Outcome State Fault Refusal) = .next u := congrArg _ e
  refine ⟨fun s h d a idx scp mask i op m slot r hi => ?_, fun s h d idx scp mask n hr hn => ?_⟩
  · rw [exec_ringOp hi]
    refine ⟨fun n hn hf hr => ?_, fun n hn hb ht hf => next (State.ringOp_refused op scp m slot r ht hf hn hb),
      fun hn ht hf => next (State.ringOp_none op scp m slot r ht hf hn)⟩
    rw [State.ringOp_ready op scp m slot r hn hf hr]
    exact ⟨fun hm => hm ▸ next (State.syncGo_now op scp m slot r hm), fun hm => next (State.syncGo_later op scp m slot r hm)⟩
  · refine ⟨fun hk hm => ?_, fun m g hk hg => ?_, fun m g hk hg => ?_⟩
    · rw [exec_cBar_new hr d scp mask hn hk, State.syncGo_now _ _ _ _ _ hm, hm]
    · rw [exec_cBar_kept hr d scp mask hn hk, if_pos hg]
    · rw [exec_cBar_kept hr d scp mask hn hk, if_neg hg]

end Sys2Proof.Machine
end

section
/-! PROOF. Tiles, formats and batches (O26). -/

namespace Sys2Proof.Machine

/-! ## Tiles and formats -/

/-- A number without its bit `p`: what lies below the bit, and what lies above it. -/
theorem sub_bit_eq (n p : Nat) : n - n / 2 ^ p % 2 * 2 ^ p = 2 ^ (p + 1) * (n / 2 ^ (p + 1)) + n % 2 ^ p := by
  have h1 : 2 ^ p * (n / 2 ^ p) + n % 2 ^ p = n := Nat.div_add_mod n (2 ^ p)
  have h2 : 2 * (n / 2 ^ p / 2) + n / 2 ^ p % 2 = n / 2 ^ p := Nat.div_add_mod _ 2
  rw [Nat.pow_succ, ← Nat.div_div_eq_div_mul]
  generalize n / 2 ^ p = q at *
  generalize 2 ^ p = b at *
  have h3 : b * q = b * 2 * (q / 2) + q % 2 * b := by
    calc b * q = b * (2 * (q / 2) + q % 2) := by rw [h2]
      _ = _ := by ring
  omega

/-- Clearing one bit of a tile image. -/
theorem setImage_clear (v : TileImage) {p : Nat} (hp : p < 128) : setImage v p 1 0 = v &&& ~~~ (BitVec.twoPow 128 p) := by
  apply BitVec.eq_of_getLsbD_eq
  intro i hi
  have hb : v.toNat % 2 ^ p < 2 ^ (p + 1) := lt_of_lt_of_le (Nat.mod_lt _ (by positivity)) (Nat.pow_le_pow_right (by decide) (by omega))
  have hz : setImage v p 1 0 = BitVec.ofNat 128 (2 ^ (p + 1) * (v.toNat / 2 ^ (p + 1)) + v.toNat % 2 ^ p) := by
    rw [← sub_bit_eq]
    simp [setImage]
  rw [hz, BitVec.getLsbD_ofNat, Nat.testBit_two_pow_mul_add _ hb]
  simp only [hi, decide_true, Bool.true_and, BitVec.getLsbD_and, BitVec.getLsbD_not, BitVec.getLsbD_twoPow, Nat.testBit_mod_two_pow,
    Nat.testBit_div_two_pow, BitVec.testBit_toNat]
  split
  · rcases Nat.lt_or_eq_of_le (by omega : i ≤ p) with h | rfl
    · simp [h, h.ne']
    · simp [hi]
  · next h =>
    have hpi : ¬ p = i := fun e => h (by omega)
    simp [hpi, Nat.sub_add_cancel (by omega : p + 1 ≤ i)]

/-- VALID and TAG are cleared, and the other bits stay (R109). -/
theorem releasedImage_valid {v : TileImage} (hv : bitAt v 125 = true) :
    releasedImage v = v &&& ~~~ (BitVec.ofNat 128 (2 ^ 125 + 2 ^ 123)) := by
  rw [releasedImage, if_pos hv, setImage_clear _ (by decide), setImage_clear _ (by decide), BitVec.and_assoc, ← BitVec.not_or]
  rfl

theorem releasedImage_invalid {v : TileImage} (hv : bitAt v 125 = false) : releasedImage v = v := by
  rw [releasedImage, if_neg (by simp [hv])]

theorem State.batchEnd_none {s : State} {core : Nat} {eng : Eng} {n : Nat} (he : (s.ctx core).batchError eng n = none) (go : State) :
    s.batchEnd core eng n go = go := by
  rw [State.batchEnd, he]

section Tiles
variable {s : State} {h : Hdr} (hr : s.ready .c h)
include hr

/-- A tile-table entry is written when its value passes its checks and no command uses the tile (R108). -/
theorem exec_cTcfg (a b : BitVec 5) (idx : BitVec 6) :
    let v := tileValue (s.reg a) (s.reg b)
    ((tileOf v).ok = true → (s.ctx s.me).eng.inUse idx.toNat = false → exec (.cTcfg h a b idx) s = .next (s.done .c h 1 8 (fun y =>
      { y with eng := { y.eng with tiles := y.eng.tiles.set idx.toNat v } }))) ∧
    ((tileOf v).ok = false → exec (.cTcfg h a b idx) s = .next (s.raise s.me .c { cause := .illegal, code := 4 })) ∧
    ((tileOf v).ok = true → (s.ctx s.me).eng.inUse idx.toNat = true →
      exec (.cTcfg h a b idx) s = .next (s.raise s.me .c { cause := .tilebusy })) := by
  intro v
  have hx : exec (.cTcfg h a b idx) s = .next (s.issue .c h
      (if (tileOf v).ok = false then .trap { cause := .illegal, code := 4 }
       else if (s.ctx s.me).eng.inUse idx.toNat then .trap { cause := .tilebusy } else .go)
      (s.done .c h 1 8 (fun y => { y with eng := { y.eng with tiles := y.eng.tiles.set idx.toNat v } }))) := rfl
  rw [hx]
  refine ⟨fun hv hu => ?_, fun hv => ?_, fun hv hu => ?_⟩
  · simp only [hv, hu, reduceCtorEq, Bool.false_eq_true, if_false]
    exact State.issue_next hr _
  · simp only [hv, if_true]
    exact congrArg _ (State.issue_trap_ready hr _ _)
  · simp only [hv, hu, reduceCtorEq, if_false, if_true]
    exact congrArg _ (State.issue_trap_ready hr _ _)

/-- A tile that no command uses is released (R109). -/
theorem exec_cTrel (idx : BitVec 6) :
    ((s.ctx s.me).eng.inUse idx.toNat = false → exec (.cTrel h idx) s = .next (s.done .c h 1 8 (fun y =>
      { y with eng := { y.eng with tiles := y.eng.tiles.set idx.toNat (releasedImage (y.eng.tiles.getD idx.toNat 0)) } }))) ∧
    ((s.ctx s.me).eng.inUse idx.toNat = true → exec (.cTrel h idx) s = .next (s.raise s.me .c { cause := .tilebusy })) := by
  have hx : exec (.cTrel h idx) s = execCTrel h idx s := rfl
  refine ⟨fun hu => ?_, fun hu => ?_⟩ <;> rw [hx, execCTrel, hu]
  · exact State.issue_next hr _
  · exact congrArg _ (State.issue_trap_ready hr _ _)

/-! ## Batches -/

/-- A wait for a batch, by how far its number is behind the open batch (R101, R172). -/
theorem exec_cWaitb (a : BitVec 5) (eng : Eng) :
    let x := s.ctx s.me
    let n := bits (s.reg a) 0 16
    let behind := (x.eng.openBatch.getD (engNo eng) 0 + 65536 - n) % 65536
    let close := fun (y : Ctx) => if behind = 0 then y.closeBatch eng else y
    (32768 ≤ behind → exec (.cWaitb h a eng) s = .next (s.done .c h 1 8 id)) ∧
    (behind < 32768 → x.batchDone eng n = true → x.batchError eng n = none →
      exec (.cWaitb h a eng) s = .next (s.done .c h 1 8 (fun y => (close y).dropBatch eng n))) ∧
    (behind < 32768 → x.batchDone eng n = false →
      exec (.cWaitb h a eng) s = .next ((s.waits .c h 8 (.waitb eng n)).modCtx s.me close)) := by
  intro x n behind close
  have hx : exec (.cWaitb h a eng) s = .next (if 32768 ≤ behind then s.done .c h 1 8 id
      else if x.batchDone eng n then s.batchEnd s.me eng n (s.done .c h 1 8 (fun y => (close y).dropBatch eng n))
      else (s.waits .c h 8 (.waitb eng n)).modCtx s.me close) := State.issue_next hr _
  rw [hx]
  refine ⟨fun hb => ?_, fun hb hd he => ?_, fun hb hd => ?_⟩
  · rw [if_pos hb]
  · rw [if_neg (Nat.not_le.2 hb), if_pos hd, State.batchEnd_none he]
  · rw [if_neg (Nat.not_le.2 hb), if_neg (ne_true_of_eq_false hd)]

end Tiles

/-- Settles O26: the checks of each instruction, and the bits that a release clears. -/
theorem tilesFormatsBatches : Obligations.TilesFormatsBatches := by
  unfold Obligations.TilesFormatsBatches
  refine ⟨fun s h a b f idx hr => ?_, fun v => ⟨releasedImage_invalid, releasedImage_valid⟩, fun s h d a eng hr => ?_⟩
  · obtain ⟨hset, hbad, hbusy⟩ := exec_cTcfg hr a b idx
    obtain ⟨hrel, hused⟩ := exec_cTrel hr idx
    exact ⟨hset, hbad, hbusy, hrel, hused, State.issue_next hr _⟩
  · exact ⟨State.issue_next hr _, exec_cWaitb hr a eng⟩

end Sys2Proof.Machine
end

section
/-! PROOF. Values, iterations and the prefetch hint (O27). -/

namespace Sys2Proof.Machine

/-! ## Walks that are under way -/

/-- A walk of a partition's page of `z` is under way in a cluster. -/
def State.Walking (s : State) (cl part z : Nat) : Prop :=
  ∃ k ∈ (s.cluster cl).walks, k.part = part ∧ k.va / 2 ^ walkPage z = z / 2 ^ walkPage z

/-- A request joins the walk of its page, or starts it. -/
theorem State.walking_askWalkOf (s : State) (part core va : Nat) (req : WalkReq) :
    (s.askWalkOf part core va req).Walking (clusterOf core) part va := by
  unfold State.askWalkOf
  dsimp only
  split
  · next k hk =>
    have hmem := List.mem_of_find?_eq_some hk
    have hp := List.find?_some hk
    simp only [Bool.and_eq_true, beq_iff_eq] at hp
    split
    · exact ⟨k, hmem, hp⟩
    · refine ⟨{ k with reqs := k.reqs ++ [req] }, ?_, hp⟩
      rw [State.cluster_setCluster_same]
      exact List.mem_map.2 ⟨k, hmem, by simp⟩
  · rw [State.Walking, State.cluster_setCluster_same]
    exact ⟨_, List.mem_append_right _ (List.mem_singleton_self _), rfl, rfl⟩

theorem State.cluster_askWalkOf_other {s : State} {part core va : Nat} {req : WalkReq} {cl : Nat} (hc : cl ≠ clusterOf core) :
    (s.askWalkOf part core va req).cluster cl = s.cluster cl := by
  unfold State.askWalkOf
  dsimp only
  split
  · split
    · rfl
    · exact State.cluster_setCluster_other s hc _
  · exact State.cluster_setCluster_other s hc _

/-- A request ends no walk. -/
theorem State.Walking.askWalkOf {s : State} {part core va : Nat} {req : WalkReq} {cl p z : Nat} (h : s.Walking cl p z) :
    (s.askWalkOf part core va req).Walking cl p z := by
  obtain ⟨k, hk, hp⟩ := h
  by_cases hc : cl = clusterOf core
  · subst hc
    unfold State.askWalkOf
    dsimp only
    split
    · next o ho =>
      split
      · exact ⟨k, hk, hp⟩
      · refine ⟨if k == o then { k with reqs := k.reqs ++ [req] } else k, ?_, ?_⟩
        · rw [State.cluster_setCluster_same]
          exact List.mem_map.2 ⟨k, hk, rfl⟩
        · split <;> exact hp
    · refine ⟨k, ?_, hp⟩
      rw [State.cluster_setCluster_same]
      exact List.mem_append_left _ hk
  · refine ⟨k, ?_, hp⟩
    rwa [State.cluster_askWalkOf_other hc]

/-- A request changes nothing but the walks of its cluster, of which it starts one at most. -/
theorem State.askWalkOf_walks (s : State) (part core va : Nat) (req : WalkReq) :
    s.askWalkOf part core va req = s ∨ ∃ ws : List Walk, ws.length ≤ (s.cluster (clusterOf core)).walks.length + 1 ∧
      s.askWalkOf part core va req = s.setCluster (clusterOf core) { s.cluster (clusterOf core) with walks := ws } := by
  unfold State.askWalkOf
  dsimp only
  split
  · split
    · exact .inl rfl
    · exact .inr ⟨_, by simp, rfl⟩
  · exact .inr ⟨_, by simp, rfl⟩

theorem State.core_askWalkOf (s : State) (part core va : Nat) (req : WalkReq) (n : Nat) :
    (s.askWalkOf part core va req).core n = s.core n := by
  obtain h | ⟨ws, -, h⟩ := s.askWalkOf_walks part core va req <;> rw [h]
  rfl

theorem State.askWalkOf_length (s : State) (part core va : Nat) (req : WalkReq) :
    ((s.askWalkOf part core va req).cluster (clusterOf core)).walks.length ≤ (s.cluster (clusterOf core)).walks.length + 1 := by
  obtain h | ⟨ws, hn, h⟩ := s.askWalkOf_walks part core va req <;> rw [h]
  · exact Nat.le_succ _
  · rw [State.cluster_setCluster_same]
    exact hn

/-- A page that a core may translate and of which it holds no translation. -/
def State.Unheld (s : State) (core part z : Nat) : Prop :=
  s.xlateCheck core part z = none ∧ leaseFind (s.core core).leases z (s.timeAt (clusterOf core)) = none

theorem State.Unheld.congr {s t : State} {core part z : Nat} (h : s.Unheld core part z)
    (hk : (t.cluster (clusterOf core)).skewed = (s.cluster (clusterOf core)).skewed)
    (ht : t.timeAt (clusterOf core) = s.timeAt (clusterOf core)) (hp : t.part part = s.part part)
    (hl : (t.core core).leases = (s.core core).leases) : t.Unheld core part z := by
  unfold State.Unheld State.xlateCheck at *
  rwa [hk, ht, hp, hl]

theorem State.Unheld.askWalkOf {s : State} {core part z p va : Nat} {req : WalkReq} (h : s.Unheld core part z) :
    (s.askWalkOf p core va req).Unheld core part z := by
  obtain e | ⟨ws, -, e⟩ := s.askWalkOf_walks p core va req <;> rw [e]
  · exact h
  · refine h.congr ?_ ?_ rfl rfl
    · rw [State.cluster_setCluster_same]
    · rw [State.timeAt, State.cluster_setCluster_same]
      rfl

/-! ## The prefetch hint -/

/-- The request that the hint makes for the page of `va`. -/
def State.askHint (s : State) (core va : Nat) : State :=
  s.askWalk core va { core := core, why := .lpf, va := va, lane := none, r := false, w := false }

theorem State.prefetch_empty (s : State) (core k va stop : Nat) (hs : stop ≤ va) : s.prefetch core k va stop = s := by
  cases k with
  | zero => rfl
  | succ k => rw [State.prefetch, if_pos (.inl hs)]

/-- The hint starts the walk of a page that is not held, and goes on with the next page. -/
theorem State.prefetch_unheld {s : State} {core k va stop : Nat} (hs : va < stop) (hw : va < windowBase)
    (hn : (s.cluster (clusterOf core)).walks.length < 16) (hu : s.Unheld core (s.ctx core).launch.part va) :
    s.prefetch core (k + 1) va stop =
      (s.askHint core va).prefetch core k
        ((va / 2 ^ walkPage va + 1) * 2 ^ walkPage va) stop := by
  obtain ⟨hx, hl⟩ := hu
  have hgo : ¬ (stop ≤ va ∨ windowBase ≤ va ∨ 16 ≤ (s.cluster (clusterOf core)).walks.length) := by omega
  simp only [State.prefetch, if_neg hgo, hx, hl, Option.isSome_none, Bool.false_eq_true, if_false]
  rfl

/-- The hint changes no core and ends no walk. -/
theorem State.prefetch_keeps (s : State) (core k va stop : Nat) :
    (∀ n, (s.prefetch core k va stop).core n = s.core n) ∧
    ∀ cl p z, s.Walking cl p z → (s.prefetch core k va stop).Walking cl p z := by
  induction k generalizing s va with
  | zero => exact ⟨fun _ => rfl, fun _ _ _ h => h⟩
  | succ k ih =>
    unfold State.prefetch
    dsimp only
    split
    · exact ⟨fun _ => rfl, fun _ _ _ h => h⟩
    · split
      · exact ih s _
      · split
        · exact ih s _
        · obtain ⟨hc, hw⟩ := ih (s.askHint core va)
            ((va / 2 ^ walkPage va + 1) * 2 ^ walkPage va)
          exact ⟨fun n => (hc n).trans (State.core_askWalkOf ..), fun cl p z h => hw cl p z h.askWalkOf⟩

/-- While a walker is free the walk of the first page is started, and then that of the next one. -/
theorem State.prefetch_walks {s : State} {core k va stop : Nat} :
    let part := (s.ctx core).launch.part
    let next := (va / 2 ^ walkPage va + 1) * 2 ^ walkPage va
    let open_ := fun (z : Nat) => z < stop ∧ z < windowBase ∧ s.Unheld core part z
    (open_ va → (s.cluster (clusterOf core)).walks.length < 16 → (s.prefetch core (k + 2) va stop).Walking (clusterOf core) part va) ∧
    (open_ va → open_ next → (s.cluster (clusterOf core)).walks.length < 15 →
      (s.prefetch core (k + 2) va stop).Walking (clusterOf core) part next) := by
  refine ⟨fun ⟨hs, hw, hu⟩ hn => ?_, fun ⟨hs, hw, hu⟩ ⟨hs', hw', hu'⟩ hn => ?_⟩
  · rw [State.prefetch_unheld hs hw hn hu]
    exact (State.prefetch_keeps ..).2 _ _ _ (State.walking_askWalkOf ..)
  · rw [State.prefetch_unheld hs hw (by omega) hu]
    have hlen : ((s.askHint core va).cluster (clusterOf core)).walks.length ≤ (s.cluster (clusterOf core)).walks.length + 1 :=
      State.askWalkOf_length ..
    have hp : ((s.askHint core va).ctx core).launch.part = (s.ctx core).launch.part :=
      congrArg (·.ctx.launch.part) (State.core_askWalkOf ..)
    have hu'' : (s.askHint core va).Unheld core ((s.askHint core va).ctx core).launch.part
        ((va / 2 ^ walkPage va + 1) * 2 ^ walkPage va) := by
      rw [hp]
      exact hu'.askWalkOf
    rw [State.prefetch_unheld hs' hw' (by omega) hu'', ← hp]
    exact (State.prefetch_keeps ..).2 _ _ _ (State.walking_askWalkOf ..)

theorem exec_cLpf {s : State} {h : Hdr} (hr : s.ready .c h) (a b : BitVec 5) :
    exec (.cLpf h a b) s =
      .next ((s.done .c h 1 8 id).prefetch s.me 512 (s.reg a).toNat ((s.reg a).toNat + (s.reg b).toNat)) :=
  State.issue_next hr _

/-- An issue leaves the translations that a core holds. -/
theorem State.unheld_done {s : State} {h : Hdr} {z part : Nat} (hu : s.Unheld s.me part z) :
    (s.done .c h 1 8 id).Unheld s.me part z := by
  refine hu.congr rfl rfl rfl ?_
  rw [State.done, State.modCtx, State.core_modCore_same]

/-- Settles O27: each instruction is its issue, and the hint starts the walks of its pages in order. -/
theorem valuesIterationsPrefetch : Obligations.ValuesIterationsPrefetch := by
  unfold Obligations.ValuesIterationsPrefetch
  refine ⟨fun s h d a k inS p hr => ⟨State.issue_next hr _, State.issue_next hr _, fun v hv => ?_, fun hv => ?_⟩,
    fun s h hr => State.issue_next hr _, fun s h a b hr => ?_⟩
  · have hx : exec (.cRecv h d) s = execCRecv h d s := rfl
    simp only [hx, execCRecv, hv]
    exact State.issue_next hr _
  · have hx : exec (.cRecv h d) s = execCRecv h d s := rfl
    simp only [hx, execCRecv, hv]
    exact State.issue_next hr _
  · refine ⟨_, exec_cLpf hr a b, ?_, (by simp : s.Keeps true _).sameBytes, fun hb => ?_, ?_⟩
    · rw [State.ctx, (State.prefetch_keeps ..).1]
      rfl
    · exact State.prefetch_empty _ _ _ _ _ (by simp [hb])
    · have hp : ((s.done .c h 1 8 id).ctx s.me).launch.part = (s.ctx s.me).launch.part := by simp
      obtain ⟨h1, h2⟩ := (s.done .c h 1 8 id).prefetch_walks (core := s.me) (k := 510) (va := (s.reg a).toNat)
        (stop := (s.reg a).toNat + (s.reg b).toNat)
      rw [hp] at h1 h2
      exact ⟨fun ⟨ha, hw, hu⟩ hn => h1 ⟨ha, hw, State.unheld_done hu⟩ hn,
        fun ⟨ha, hw, hu⟩ ⟨ha', hw', hu'⟩ hn => h2 ⟨ha, hw, State.unheld_done hu⟩ ⟨ha', hw', State.unheld_done hu'⟩ hn⟩

end Sys2Proof.Machine
end

section
/-! PROOF. The system registers (O28). -/

namespace Sys2Proof.Machine

/-! ## The system registers -/

/-- What an issue does is its effect at the context of its core. -/
theorem State.done_congr {s : State} {f g : Ctx → Ctx} (hf : f (s.ctx s.me) = g (s.ctx s.me)) (st : Strm) (h : Hdr) (o u : Nat) :
    s.done st h o u f = s.done st h o u g := by
  unfold State.done State.modCtx State.modCore
  unfold State.ctx at hf
  dsimp only
  rw [hf]

section Sys
variable {s : State} {h : Hdr} (hr : s.ready .c h)
include hr

theorem exec_cMfsr_some (d : BitVec 5) {n : BitVec 16} {v : Word} (hn : (s.ctx s.me).sysReg s.me n.toNat = some v) :
    exec (.cMfsr h d n) s = .next (s.cAfter h 1 d v) := by
  have hx : exec (.cMfsr h d n) s = execCMfsr h d n s := rfl
  rw [hx, execCMfsr, hn]
  exact State.issue_next hr _

/-- A write of a register other than FWD leaves the context that holds the value. -/
theorem exec_cMtsr_some (a : BitVec 5) {n : BitVec 16} {y : Ctx} (hn : (s.ctx s.me).setSysReg n.toNat (s.reg a) = some y)
    (hw : n.toNat ≠ 0x10F) : exec (.cMtsr h a n) s = .next (s.done .c h 1 8 (fun _ => y)) := by
  have hn' : (s.ctx s.me).setSysReg n.toNat ((s.ctx s.me).reg a) = some y := hn
  have hx : exec (.cMtsr h a n) s = execCMtsr h a n s := rfl
  simp only [hx, execCMtsr, hn', hw, false_and, if_false]
  refine (State.issue_next hr _).trans (congrArg _ (State.done_congr ?_ ..))
  simp [hn']

theorem exec_cMtsr_put (a : BitVec 5) {n : BitVec 16} {f : Ctx → Ctx}
    (hn : (s.ctx s.me).setSysReg n.toNat (s.reg a) = some (f (s.ctx s.me))) (hw : n.toNat ≠ 0x10F) :
    exec (.cMtsr h a n) s = .next (s.done .c h 1 8 f) :=
  (exec_cMtsr_some hr a hn hw).trans (congrArg _ (State.done_congr rfl ..))

/-- `mark` leaves a record to be made when MEN is set (R117). -/
theorem exec_cMark (code : BitVec 16) :
    exec (.cMark h code) s =
      .next (s.done .c h 1 8 (fun x => if bitAt x.launch.trc 62 then { x with mark := some code } else x)) :=
  State.issue_next hr _

variable (hh : (s.ctx s.me).frame.handler = true)
include hh

/-- In handler mode the frame registers read as they stand. -/
theorem exec_cMfsr_frame (d : BitVec 5) {n : BitVec 16} {v : Word} (h9 : 9 ≤ n.toNat) (hn : (s.ctx s.me).frameReg n.toNat = some v) :
    exec (.cMfsr h d n) s = .next (s.cAfter h 1 d v) :=
  exec_cMfsr_some hr d (by rw [Ctx.sysReg_of_le _ _ h9, if_pos hh, hn])

/-- In handler mode the frame registers are written. -/
theorem exec_cMtsr_frame (a : BitVec 5) {n : BitVec 16} {f : Ctx → Ctx} (h9 : 9 ≤ n.toNat) (hw : n.toNat ≠ 0x10F)
    (hn : (s.ctx s.me).setFrameReg n.toNat (s.reg a) = some (f (s.ctx s.me))) :
    exec (.cMtsr h a n) s = .next (s.done .c h 1 8 f) :=
  exec_cMtsr_put hr a (by rw [Ctx.setSysReg_of_le _ _ h9, if_pos hh, hn]) hw

/-- A write of 1 to FWD forwards the frame, and another value does nothing (R308, R313). -/
theorem exec_cMtsr_fwd (a : BitVec 5) :
    exec (.cMtsr h a 0x10F) s = .next (if s.reg a = 1 then (s.done .c h 1 8 id).forward s.me else s.done .c h 1 8 id) := by
  have hset (v : Word) : (s.ctx s.me).setSysReg (0x10F : BitVec 16).toNat v = some (s.ctx s.me) := by
    rw [Ctx.setSysReg_of_le _ _ (by decide), if_pos hh]
    rfl
  have hx : exec (.cMtsr h a 0x10F) s = execCMtsr h a 0x10F s := rfl
  have hdone : s.done .c h 1 8 (fun x => (x.setSysReg (0x10F : BitVec 16).toNat ((s.ctx s.me).reg a)).getD x) = s.done .c h 1 8 id :=
    State.done_congr (by simp only [hset]; rfl) ..
  simp only [hx, execCMtsr, hset, hdone]
  refine (State.issue_next hr _).trans (congrArg _ (if_congr ?_ rfl rfl))
  exact ⟨fun h => h.2, fun h => ⟨rfl, h⟩⟩

end Sys

/-- The registers that a program reads in every mode (R113). -/
theorem exec_cMfsr_nine {s : State} {h : Hdr} (hr : s.ready .c h) (d : BitVec 5) :
    let x := s.ctx s.me
    let get := fun (k : BitVec 16) (v : Word) => exec (.cMfsr h d k) s = .next (s.cAfter h 1 d v)
    get 0 (x.sys.window.setWidth 64) ∧ get 1 (x.sys.srseed.setWidth 64) ∧ get 2 (x.sys.srseq.setWidth 64) ∧
      get 3 (x.sys.ftbase.setWidth 64) ∧ get 4 (x.sys.syncwin.setWidth 64) ∧ get 5 (x.sys.slotshare.setWidth 64) ∧
      get 6 (x.sys.pwrset.setWidth 64) ∧ get 7 x.sys.energyWord ∧ get 8 (BitVec.ofNat 64 s.me) :=
  ⟨exec_cMfsr_some hr d rfl, exec_cMfsr_some hr d rfl, exec_cMfsr_some hr d rfl, exec_cMfsr_some hr d rfl,
    exec_cMfsr_some hr d rfl, exec_cMfsr_some hr d rfl, exec_cMfsr_some hr d rfl, exec_cMfsr_some hr d rfl,
    exec_cMfsr_some hr d rfl⟩

/-- The registers that a program writes in every mode (R113). -/
theorem exec_cMtsr_four {s : State} {h : Hdr} (hr : s.ready .c h) (a : BitVec 5) :
    let A := s.reg a
    let put := fun (k : BitVec 16) (f : Ctx → Ctx) => exec (.cMtsr h a k) s = .next (s.done .c h 1 8 f)
    put 0 (fun y => { y with sys := { y.sys with window := if bits A 0 12 < 16 then 16 else BitVec.ofNat 12 (bits A 0 12) } }) ∧
      put 1 (fun y => { y with sys := { y.sys with srseed := A.setWidth 32 } }) ∧
      put 2 (fun y => { y with sys := { y.sys with srseq := A.setWidth 32 } }) ∧
      put 3 (fun y => { y with sys := { y.sys with ftbase := A.setWidth 5 } }) :=
  ⟨exec_cMtsr_put hr a rfl (by decide), exec_cMtsr_put hr a rfl (by decide), exec_cMtsr_put hr a rfl (by decide),
    exec_cMtsr_put hr a rfl (by decide)⟩

section Handler
variable {s : State} {h : Hdr} (hr : s.ready .c h) (hh : (s.ctx s.me).frame.handler = true)
include hr hh

/-- The system registers that a handler writes (R375, R379). -/
theorem exec_cMtsr_handler (a : BitVec 5) :
    let A := s.reg a
    let put := fun (k : BitVec 16) (f : Ctx → Ctx) => exec (.cMtsr h a k) s = .next (s.done .c h 1 8 f)
    put 4 (fun y => { y with sys := { y.sys with syncwin := A.setWidth 32 } }) ∧
      put 6 (fun y => { y with sys := { y.sys with
        pwrNew := some (BitVec.ofNat 16 (bits A 4 12 * 16 + bits A 2 1 * 4 + (if bits A 0 2 = 1 then 1 else 0))) } }) ∧
      put 7 (fun y => { y with sys := { y.sys with energySat := bitAt A 63, energy := A.setWidth 48 } }) :=
  ⟨exec_cMtsr_put hr a (if_pos hh) (by decide), exec_cMtsr_put hr a (if_pos hh) (by decide),
    exec_cMtsr_put hr a (if_pos hh) (by decide)⟩

/-- The frame registers that a handler writes (R308). -/
theorem exec_cMtsr_frames (a : BitVec 5) :
    let A := s.reg a
    let frame := fun (k : BitVec 16) (f : Frame → Frame) =>
      exec (.cMtsr h a k) s = .next (s.done .c h 1 8 (fun y => { y with frame := f y.frame }))
    frame 0x100 (fun f => { f with fstat := A &&& 0xFFFFFF000000037F }) ∧
      (∀ i : Nat, i < 4 → frame (BitVec.ofNat 16 (0x101 + i)) (fun f => { f with heads := f.heads.set i (A.setWidth 15) })) ∧
      frame 0x105 (fun f => { f with fva := A }) ∧ frame 0x106 (fun f => { f with finfo := A &&& 0x000003FF00FF0FBF }) ∧
      frame 0x107 (fun f => { f with frec := A }) ∧ frame 0x108 (fun f => { f with ftime := A }) ∧
      exec (.cMtsr h a 0x109) s = .next (s.raise s.me .c { cause := .perm }) := by
  obtain ⟨ht, hf, -, -⟩ := id hr
  refine ⟨exec_cMtsr_frame hr hh a (by decide) (by decide) rfl, fun i hi => ?_,
    exec_cMtsr_frame hr hh a (by decide) (by decide) rfl, exec_cMtsr_frame hr hh a (by decide) (by decide) rfl,
    exec_cMtsr_frame hr hh a (by decide) (by decide) rfl, exec_cMtsr_frame hr hh a (by decide) (by decide) rfl,
    exec_cMtsr_perm ht hf a ?_⟩
  · interval_cases i <;> exact exec_cMtsr_frame hr hh a (by decide) (by decide) rfl
  · rw [Ctx.setSysReg_of_le _ _ (by decide), if_pos hh]
    rfl

/-- The frame registers that a handler reads (R308). -/
theorem exec_cMfsr_frames (d : BitVec 5) :
    let x := s.ctx s.me
    let get := fun (k : BitVec 16) (v : Word) => exec (.cMfsr h d k) s = .next (s.cAfter h 1 d v)
    get 0x100 x.frame.fstat ∧
      (∀ i : Nat, i < 4 → get (BitVec.ofNat 16 (0x101 + i)) ((x.frame.heads.getD i 0).setWidth 64)) ∧
      get 0x105 x.frame.fva ∧ get 0x106 x.frame.finfo ∧ get 0x107 x.frame.frec ∧ get 0x108 x.frame.ftime ∧
      get 0x109 (BitVec.ofNat 64 (x.pend.filter (·.captured)).length) ∧ get 0x10F 0 := by
  refine ⟨exec_cMfsr_frame hr hh d (by decide) rfl, fun i hi => ?_, exec_cMfsr_frame hr hh d (by decide) rfl,
    exec_cMfsr_frame hr hh d (by decide) rfl, exec_cMfsr_frame hr hh d (by decide) rfl,
    exec_cMfsr_frame hr hh d (by decide) rfl, exec_cMfsr_frame hr hh d (by decide) rfl,
    exec_cMfsr_frame hr hh d (by decide) rfl⟩
  interval_cases i <;> exact exec_cMfsr_frame hr hh d (by decide) rfl

end Handler

/-- Settles O28: by the number of the register, and the mode. -/
theorem systemRegisters : Obligations.SystemRegisters := by
  unfold Obligations.SystemRegisters
  refine ⟨fun s h d a n code hr => ⟨exec_cMfsr_nine hr d, exec_cMtsr_four hr a, fun v hv => exec_cMfsr_some hr d hv,
    fun y hy hw => exec_cMtsr_some hr a hy hw,
    fun hh => ⟨exec_cMtsr_handler hr hh a, exec_cMtsr_frames hr hh a, exec_cMfsr_frames hr hh d⟩, State.issue_next hr _,
    fun hm => ?_, fun hm => ?_⟩, fun s h a hr hh => ⟨fun ha => ?_, fun ha => ?_⟩⟩
  · exact (exec_cMark hr code).trans (congrArg _ (State.done_congr (by rw [if_pos hm]) ..))
  · exact (exec_cMark hr code).trans (congrArg _ (State.done_congr (by rw [if_neg (ne_true_of_eq_false hm)]; rfl) ..))
  · rw [exec_cMtsr_fwd hr hh, if_pos ha]
  · rw [exec_cMtsr_fwd hr hh, if_neg ha]

end Sys2Proof.Machine
end

section
/-! PROOF. Taking a fault, and a fault in handler mode (O31). -/

namespace Sys2Proof.Machine

/-! ## The stop cut of a context -/

theorem Stream.cut_wait (t : Stream) : t.cut.wait = none := by
  unfold Stream.cut
  split
  · rfl
  · assumption

theorem Stream.cut_anew {t : Stream} (ht : t.wait ≠ none) : t.cut.anew = true := by
  unfold Stream.cut
  split
  · rfl
  · next h => exact absurd h ht

theorem Stream.cut_head (t : Stream) : t.cut.head = t.head := by
  unfold Stream.cut
  split <;> rfl

/-- C has no answer of a ring operation that its home has applied. -/
def Ctx.unanswered (x : Ctx) : Prop :=
  ∀ op m scp mk ids z sl v d g, x.c.wait ≠ some (.sync op m scp mk ids z sl (some v) d g)

theorem Ctx.finishSync_unanswered {x : Ctx} (hx : x.unanswered) (f : Nat) : x.finishSync f = x := by
  unfold Ctx.finishSync
  split
  · next h => exact (hx _ _ _ _ _ _ _ _ _ _ h).elim
  · rfl

/-- Contexts that differ only in what ISSUED has counted (R325). -/
structure Ctx.Recounted (x y : Ctx) : Prop where
  mode : y.mode = x.mode
  frame : y.frame = x.frame
  launch : y.launch = x.launch
  regs : y.regs = x.regs
  tok : y.tok = x.tok
  pend : y.pend = x.pend
  wait : ∀ st, (y.strm st).wait = (x.strm st).wait
  head : ∀ st, (y.strm st).head = (x.strm st).head

theorem Ctx.recounted_uncount (x : Ctx) (st : Strm) : x.Recounted (x.uncount st) := by
  unfold Ctx.uncount
  split
  · cases st <;> exact ⟨rfl, rfl, rfl, rfl, rfl, rfl, fun k => by cases k <;> rfl, fun k => by cases k <;> rfl⟩
  · exact ⟨rfl, rfl, rfl, rfl, rfl, rfl, fun _ => rfl, fun _ => rfl⟩

theorem State.recounted_uncounted (s : State) (n : Nat) (st : Strm) (t : Trap) : (s.ctx n).Recounted ((s.uncounted n st t).ctx n) := by
  unfold State.uncounted
  split
  · exact ⟨rfl, rfl, rfl, rfl, rfl, rfl, fun _ => rfl, fun _ => rfl⟩
  · rw [State.ctx_modCtx_same]
    exact Ctx.recounted_uncount _ _

@[simp] theorem State.cluster_uncounted (s : State) (n : Nat) (st : Strm) (t : Trap) (k : Nat) :
    (s.uncounted n st t).cluster k = s.cluster k := by
  unfold State.uncounted
  split <;> rfl

@[simp] theorem State.uncounted_time (s : State) (n : Nat) (st : Strm) (t : Trap) : (s.uncounted n st t).time = s.time := by
  unfold State.uncounted
  split <;> rfl

@[simp] theorem State.part_uncounted (s : State) (n : Nat) (st : Strm) (t : Trap) (k : Nat) :
    (s.uncounted n st t).part k = s.part k := by
  unfold State.uncounted
  split <;> rfl

theorem State.core_uncounted_other (s : State) (n : Nat) (st : Strm) (t : Trap) {k : Nat} (hk : k ≠ n) :
    (s.uncounted n st t).core k = s.core k := by
  unfold State.uncounted
  split
  · rfl
  · exact State.core_modCtx_other s hk _

@[simp] theorem State.ctx_stopCut (s : State) (n : Nat) :
    (s.stopCut n).ctx n = (s.ctx n).cut (s.cyc n) (s.timeAt (clusterOf n)) := by
  rw [State.stopCut, State.ctx_modCtx_same]
  rfl

theorem State.core_stopCut_other (s : State) (n : Nat) {k : Nat} (hk : k ≠ n) : (s.stopCut n).core k = s.core k :=
  State.core_modCtx_other _ hk _

section Enter
variable {s : State} {n : Nat} (st : Strm) (t : Trap) (hm : (s.ctx n).mode = .run) (hh : (s.ctx n).frame.handler = false)
  (hw : (s.ctx n).stopWaits = false)
include hm hh hw

/-- The context that enters handler mode. -/
theorem State.ctx_raise_enter : (s.raise n st t).ctx n =
    (((s.uncounted n st t).ctx n).cut (s.cyc n) (s.timeAt (clusterOf n))).enterHandler t st (s.cyc n) := by
  rw [State.raise_now s n st t hm hh hw, State.ctx_modCtx_same, State.ctx_stopCut]
  simp [State.cyc, State.timeAt]

theorem State.core_raise_other {k : Nat} (hk : k ≠ n) : (s.raise n st t).core k = s.core k := by
  rw [State.raise_now s n st t hm hh hw, State.core_modCtx_other _ hk, State.core_stopCut_other _ n hk, State.core_uncounted_other s n st t hk]

end Enter

/-- The stop cut outside handler mode. -/
theorem Ctx.cut_user {x : Ctx} (hh : x.frame.handler = false) (hx : x.unanswered) (f time : Nat) :
    x.cut f time = { x with
      c := x.c.cut, l := { x.l.cut with undo := none }, v := x.v.cut, s := x.s.cut, pend := capture x.pend f
      frame := { x.frame with
        f := f, cstream := { x.c.cut with prev := x.c.lastClass }, ftime := BitVec.ofNat 64 time
        heads := [BitVec.ofNat 15 x.c.head, BitVec.ofNat 15 x.l.head, BitVec.ofNat 15 x.v.head, BitVec.ofNat 15 x.s.head] } } := by
  rw [Ctx.cut, Ctx.finishSync_unanswered hx, hh]
  rfl

/-- The context that enters handler mode, field by field. -/
theorem Ctx.enter_fields {x w : Ctx} (hw : x.Recounted w) (hh : x.frame.handler = false) (hx : x.unanswered) (t : Trap) (st : Strm)
    (f time : Nat) :
    let y := (w.cut f time).enterHandler t st f
    y.frame.handler = true ∧ y.mode = .run ∧
      y.frame.fstat = BitVec.ofNat 64 (t.code.toNat * 2 ^ 48 + strmCode st * 2 ^ 8 + t.cause.code) ∧
      y.frame.fva = t.va ∧ y.frame.finfo = t.finfo ∧ y.frame.frec = t.record ∧
      y.frame.ftime = BitVec.ofNat 64 time ∧ y.frame.f = f ∧
      y.frame.heads = [BitVec.ofNat 15 x.c.head, BitVec.ofNat 15 x.l.head, BitVec.ofNat 15 x.v.head, BitVec.ofNat 15 x.s.head] ∧
      y.c.fetch = 0x7000 + 8 * t.cause.code ∧ y.c.queue = [] ∧ y.c.notBefore = f + 2 ∧
      y.c.wait = none ∧ y.l.wait = none ∧ y.v.wait = none ∧ y.s.wait = none ∧
      (x.c.wait ≠ none → y.frame.cstream.wait = none ∧ y.frame.cstream.anew = true) ∧ y.frame.cstream.head = x.c.head ∧
      y.pend = x.pend.map (fun p => if f < p.due then { p with captured := true } else p) ∧
      y.regs = x.regs ∧ y.tok = x.tok := by
  intro y
  have hx' : w.unanswered := fun op m scp mk ids z sl v d g h => hx op m scp mk ids z sl v d g ((hw.wait .c).symm.trans h)
  have hy : y = (w.cut f time).enterHandler t st f := rfl
  rw [Ctx.cut_user (hw.frame ▸ hh) hx'] at hy
  rw [hy]
  have hc : w.c.head = x.c.head := hw.head .c
  have hl : w.l.head = x.l.head := hw.head .l
  have hv : w.v.head = x.v.head := hw.head .v
  have hs : w.s.head = x.s.head := hw.head .s
  refine ⟨rfl, rfl, rfl, rfl, rfl, rfl, rfl, rfl, ?_, rfl, rfl, rfl, rfl, Stream.cut_wait w.l, Stream.cut_wait w.v,
    Stream.cut_wait w.s, fun hc => ⟨Stream.cut_wait w.c, Stream.cut_anew fun h => hc ((hw.wait .c).symm.trans h)⟩, ?_, ?_, hw.regs,
    hw.tok⟩
  · rw [← hc, ← hl, ← hv, ← hs]
    rfl
  · rw [← hc]
    exact Stream.cut_head w.c
  · rw [← hw.pend]
    rfl


/-! ## A second fault, in handler mode -/

theorem mem_addOnce {α : Type} [BEq α] [LawfulBEq α] (l : List α) (a : α) : a ∈ addOnce l a := by
  unfold addOnce
  split
  · next h => exact List.contains_iff_mem.1 h
  · exact List.mem_cons_self

/-- The stop cut in handler mode leaves the frame, but for the cycle of the stop. -/
theorem Ctx.cut_handler {x : Ctx} (hh : x.frame.handler = true) (hx : x.unanswered) (f time : Nat) :
    x.cut f time = { x with c := x.c.cut, pend := capture x.pend f, frame := { x.frame with halted := f } } := by
  rw [Ctx.cut, Ctx.finishSync_unanswered hx, hh]
  rfl

/-- The partition to which a core's frame has been forwarded. -/
def Part.frameForwarded (p : Part) (x : Ctx) (n : Nat) : Part :=
  { p with
    posted := addOnce p.posted (x.launch.region, n), faults := (n, x.frame.record p.confidential) :: p.faults
    tenantFaults := if p.confidential then (n, x.frame.sealed p.key) :: p.tenantFaults else p.tenantFaults }

/-- With FDOM = 1 a forward stops its core and no other. -/
theorem State.forward_fdom {s : State} {n : Nat} (hf : ∀ r, s.regionOf n = some r → r.fdom = true) :
    s.forward n = ((s.modPart (s.ctx n).launch.part (fun p => p.frameForwarded (s.ctx n) n)).stopCut n).modCtx n
      (fun x => { x with mode := .stopped }) := by
  unfold State.forward
  dsimp only
  split
  · next r hr =>
    rw [if_pos (hf r hr)]
    rfl
  · rfl

theorem State.ctx_forward_fdom {s : State} {n : Nat} (hf : ∀ r, s.regionOf n = some r → r.fdom = true) :
    (s.forward n).ctx n = { (s.ctx n).cut (s.cyc n) (s.timeAt (clusterOf n)) with mode := .stopped } := by
  rw [State.forward_fdom hf, State.ctx_modCtx_same, State.ctx_stopCut]
  rfl

/-- The stop of a core withdraws its operations from the homes, and leaves what its partition has posted. -/
theorem State.posted_stopCut (s : State) (n p : Nat) : ((s.stopCut n).part p).posted = (s.part p).posted := by
  rw [State.stopCut, State.part_modCtx, State.withdraw]
  by_cases hp : p = (s.ctx n).launch.part
  · subst hp
    rw [State.part_modPart_same]
  · rw [State.part_modPart_other _ hp]

theorem State.posted_forward_fdom {s : State} {n : Nat} (hf : ∀ r, s.regionOf n = some r → r.fdom = true) :
    ((s.ctx n).launch.region, n) ∈ ((s.forward n).part (s.ctx n).launch.part).posted := by
  rw [State.forward_fdom hf, State.part_modCtx, State.posted_stopCut, State.part_modPart_same]
  exact mem_addOnce (s.part (s.ctx n).launch.part).posted ((s.ctx n).launch.region, n)

/-- A context whose FSTAT has another value. -/
def Ctx.withFstat (x : Ctx) (v : Word) : Ctx := { x with frame := { x.frame with fstat := v } }

theorem Ctx.launch_withFstat (x : Ctx) (v : Word) : (x.withFstat v).launch = x.launch := rfl

theorem Ctx.c_withFstat (x : Ctx) (v : Word) : (x.withFstat v).c = x.c := rfl

theorem Ctx.frame_withFstat (x : Ctx) (v : Word) : (x.withFstat v).frame = { x.frame with fstat := v } := rfl

/-- FSTAT with DBL set and DCAUSE the cause of a second fault (R309). -/
def Trap.second (t : Trap) (fstat : Word) : Word := setField (setField fstat 47 1 1) 40 7 t.cause.code

/-- A stopped frame is the one before but for FSTAT. -/
theorem Frame.second_fields (f : Frame) (v : Word) (h : Nat) :
    let g : Frame := { f with fstat := v, halted := h }
    g.fstat = v ∧ g.heads = f.heads ∧ g.fva = f.fva ∧ g.finfo = f.finfo ∧ g.frec = f.frec ∧ g.ftime = f.ftime :=
  ⟨rfl, rfl, rfl, rfl, rfl, rfl⟩

/-- In handler mode a fault leaves the frame but for DBL and DCAUSE, and the frame is forwarded. -/
theorem State.raise_second {s : State} {n : Nat} (hm : (s.ctx n).mode = .run) (hh : (s.ctx n).frame.handler = true)
    (hw : (s.ctx n).stopWaits = false) (st : Strm) (t : Trap) :
    s.raise n st t = ((s.uncounted n st t).modCtx n (fun x => x.withFstat (t.second x.frame.fstat))).forward n := by
  have hh' : ((s.uncounted n st t).ctx n).frame.handler = true := by rw [State.frame_uncounted, hh]
  simp only [State.raise, State.takeFault, hm, hw, hh', Ctx.withFstat, Trap.second, ne_eq, not_true, Bool.false_eq_true, if_false, if_true]

/-- The core whose handler faults stops, its frame the first fault's but for DBL and DCAUSE (R309). -/
theorem State.raise_second_fields {s : State} {n : Nat} (hm : (s.ctx n).mode = .run) (hh : (s.ctx n).frame.handler = true)
    (hw : (s.ctx n).stopWaits = false) (hx : (s.ctx n).unanswered) (hf : ∀ r, s.regionOf n = some r → r.fdom = true) (t : Trap) :
    ((s.raise n .c t).ctx n).mode = .stopped ∧
    ((s.raise n .c t).ctx n).frame = { (s.ctx n).frame with fstat := t.second (s.ctx n).frame.fstat, halted := s.cyc n } ∧
    ((s.ctx n).launch.region, n) ∈ ((s.raise n .c t).part (s.ctx n).launch.part).posted := by
  have hc := s.recounted_uncounted n .c t
  rw [State.raise_second hm hh hw]
  generalize hu : (s.uncounted n .c t).modCtx n (fun x => x.withFstat (t.second x.frame.fstat)) = u
  have hctx : u.ctx n = ((s.uncounted n .c t).ctx n).withFstat (t.second (s.ctx n).frame.fstat) := by
    rw [← hu, State.ctx_modCtx_same, hc.frame]
  have hcyc : u.cyc n = s.cyc n := by rw [← hu, State.cyc_modCtx, State.cyc_uncounted]
  have hl : (u.ctx n).launch = (s.ctx n).launch := by rw [hctx, Ctx.launch_withFstat, hc.launch]
  have hreg : ∀ r, u.regionOf n = some r → r.fdom = true := by
    intro r hr
    rw [State.regionOf, hl, ← hu, State.part_modCtx, State.part_uncounted] at hr
    exact hf r hr
  have hun : (u.ctx n).unanswered := by
    intro op m scp mk ids z sl v d g h
    rw [hctx, Ctx.c_withFstat] at h
    exact hx op m scp mk ids z sl v d g ((hc.wait .c).symm.trans h)
  have hframe : (u.ctx n).frame = { (s.ctx n).frame with fstat := t.second (s.ctx n).frame.fstat } := by
    rw [hctx, Ctx.frame_withFstat, hc.frame]
  have hhu : (u.ctx n).frame.handler = true := by
    rw [hframe]
    exact hh
  have hposted := State.posted_forward_fdom hreg
  rw [hl] at hposted
  rw [State.ctx_forward_fdom hreg, Ctx.cut_handler hhu hun, hframe, hcyc]
  exact ⟨rfl, rfl, hposted⟩

/-- Settles O31: the fields of the context that the stop cut and the entry leave. -/
theorem faultEntry : Obligations.FaultEntry := by
  unfold Obligations.FaultEntry
  refine ⟨fun s n st t hm hh hw hx => ?_, fun s n t hm hh hw hx hf => ?_⟩
  · dsimp only
    rw [State.ctx_raise_enter st t hm hh hw]
    obtain ⟨h1, h2, h3, h4, h5, h6, h7, h8, h9, h10, h11, h12, h13, h14, h15, h16, h17, h18, h19, h20, h21⟩ :=
      Ctx.enter_fields (s.recounted_uncounted n st t) hh hx t st (s.cyc n) (s.timeAt (clusterOf n))
    exact ⟨h1, h2, h3, h4, h5, h6, h7, h8, h9, h10, h11, h12, h13, h14, h15, h16, h17, h18, h19, h20, h21,
      (by simp : s.Keeps true (s.raise n st t)).sameBytes, fun k hk => State.core_raise_other st t hm hh hw hk⟩
  · obtain ⟨hstop, hframe, hposted⟩ := State.raise_second_fields hm hh hw hx hf t
    dsimp only
    rw [hframe]
    obtain ⟨h1, h2, h3, h4, h5, h6⟩ := Frame.second_fields (s.ctx n).frame (t.second (s.ctx n).frame.fstat) (s.cyc n)
    exact ⟨hstop, h1, h2, h3, h4, h5, h6, hposted⟩

end Sys2Proof.Machine
end

section
/-! PROOF. trap (O29). -/

namespace Sys2Proof.Machine

/-! ## `trap` -/

/-- At a word where no loop ends C goes past to the next address. -/
theorem Stream.past_head {t : Stream} {e : QEntry} {q : List QEntry} (hq : t.queue = e :: q)
    (hl : e.loops = [Loop.init, Loop.init, Loop.init, Loop.init]) : t.past.queue = [] ∧ t.past.fetch = e.addr + 1 := by
  have hn (b : Nat) : loopAt [Loop.init, Loop.init, Loop.init, Loop.init] e.addr b = none := rfl
  simp [Stream.past, hq, hl, hn, Stream.goto]

/-- The context after `trap` has issued: C stands at the next word. -/
def Ctx.trapped (x : Ctx) (h : Hdr) (cyc : Nat) : Ctx := ({ x with c := x.c.past } : Ctx).commit .c h 1 8 cyc

theorem Ctx.trapped_head {x : Ctx} {e : QEntry} {q : List QEntry} (hq : x.c.queue = e :: q)
    (hl : e.loops = [Loop.init, Loop.init, Loop.init, Loop.init]) (h : Hdr) (cyc : Nat) :
    (x.trapped h cyc).c.head = e.addr + 1 := by
  obtain ⟨hp, hf⟩ := Stream.past_head hq hl
  have hc : (x.trapped h cyc).c = x.c.past.retire cyc 1 := rfl
  rw [hc]
  simp [Stream.head, Stream.retire, hp, hf]

theorem Stream.past_wait (t : Stream) : t.past.wait = t.wait := by
  unfold Stream.past
  split <;> rfl

theorem Ctx.trapped_keeps (x : Ctx) (h : Hdr) (cyc : Nat) : (x.trapped h cyc).mode = x.mode ∧ (x.trapped h cyc).frame = x.frame ∧
    ∀ st, ((x.trapped h cyc).strm st).wait = (x.strm st).wait := by
  refine ⟨rfl, rfl, fun st => ?_⟩
  cases st
  · exact Stream.past_wait x.c
  all_goals rfl

theorem Ctx.stopWaits_congr {x y : Ctx} (h : ∀ st, (y.strm st).wait = (x.strm st).wait) : y.stopWaits = x.stopWaits := by
  simp only [Ctx.stopWaits, h]

theorem exec_cTrap {s : State} {h : Hdr} (hr : s.ready .c h) (code : BitVec 16) :
    exec (.cTrap h code) s =
      .next ((s.done .c h 1 8 (fun x => { x with c := x.c.past })).raise s.me .c { cause := .swtrap, code := code }) :=
  State.issue_next hr _

theorem State.mode_of_ready {s : State} {st : Strm} {h : Hdr} (hr : s.ready st h) : (s.ctx s.me).mode = .run := by
  obtain ⟨ht, -, -, -⟩ := hr
  simp only [Ctx.tries, Bool.and_eq_true, beq_iff_eq] at ht
  exact ht.1.1.1.1

/-- Settles O29, with the entry of handler mode from the word past the trap. -/
theorem trapInstruction : Obligations.TrapInstruction := by
  unfold Obligations.TrapInstruction
  intro s h code e q hr hh hw hc hq hl
  generalize hu : s.done .c h 1 8 (fun x => { x with c := x.c.past }) = u
  have hctx : u.ctx s.me = (s.ctx s.me).trapped h (s.cyc s.me) := by
    rw [← hu, State.ctx_done]
    rfl
  obtain ⟨hkm, hkf, hkw⟩ := (s.ctx s.me).trapped_keeps h (s.cyc s.me)
  rw [← hctx] at hkm hkf hkw
  have hun : (u.ctx s.me).unanswered := by
    intro op m scp mk ids z sl v d g hs
    cases ((hkw .c).trans hc).symm.trans hs
  have hm : (u.ctx s.me).mode = .run := hkm.trans (State.mode_of_ready hr)
  have hh' : (u.ctx s.me).frame.handler = false := hkf ▸ hh
  have hw' : (u.ctx s.me).stopWaits = false := (Ctx.stopWaits_congr hkw).trans hw
  refine ⟨u.raise s.me .c { cause := .swtrap, code := code }, by rw [exec_cTrap hr, hu], ?_⟩
  rw [State.ctx_raise_enter .c _ hm hh' hw']
  obtain ⟨hhand, -, hstat, -, -, -, -, -, hheads, hfetch, -⟩ :=
    Ctx.enter_fields (u.recounted_uncounted s.me .c { cause := .swtrap, code := code }) hh' hun { cause := .swtrap, code := code } .c
      (u.cyc s.me) (u.timeAt (clusterOf s.me))
  refine ⟨hhand, hfetch, hstat.trans (by simp [strmCode, Cause.code]), ?_⟩
  rw [hheads, hctx, Ctx.trapped_head hq hl]
  rfl

end Sys2Proof.Machine
end

section
/-! PROOF. The power instructions and the pointers (O32, O33). -/

namespace Sys2Proof.Machine

/-! ## The domains that an instruction names -/

theorem upto_eq_range' (lo n : Nat) : upto lo n = List.range' lo n := by
  induction n generalizing lo with
  | zero => rfl
  | succ n ih => rw [upto, ih, List.range'_succ]

/-- The domains are named in ascending index order. -/
theorem maskIxs_pairwise (dt : DomTy) (mask : BitVec 32) : (maskIxs dt mask).Pairwise (· < ·) := by
  rw [maskIxs, upto_eq_range']
  exact List.Pairwise.filter _ List.pairwise_lt_range'

/-- In a rising list a search finds the least element that it looks for. -/
theorem find?_eq_some_of_least {l : List Nat} (hl : l.Pairwise (· < ·)) {p : Nat → Bool} {i : Nat} (hi : i ∈ l) (hp : p i = true)
    (hn : ∀ j ∈ l, j < i → p j = false) : l.find? p = some i := by
  induction l with
  | nil => cases hi
  | cons a t ih =>
    obtain ⟨ha, ht⟩ := List.pairwise_cons.1 hl
    rcases List.mem_cons.1 hi with rfl | hit
    · rw [List.find?_cons_of_pos hp]
    · rw [List.find?_cons_of_neg (ne_true_of_eq_false (hn a List.mem_cons_self (ha i hit)))]
      exact ih ht hit fun j hj => hn j (List.mem_cons_of_mem a hj)

/-- The least of the domains that an instruction names with a property. -/
def State.Least (s : State) (dt : DomTy) (mask : BitVec 32) (p : Dom → Prop) (i : Nat) : Prop :=
  i ∈ maskIxs dt mask ∧ p (s.dom s.me dt i) ∧ ∀ j ∈ maskIxs dt mask, j < i → ¬ p (s.dom s.me dt j)

theorem State.Least.find? {s : State} {dt : DomTy} {mask : BitVec 32} {p : Dom → Prop} {i : Nat} (h : s.Least dt mask p i)
    {q : Nat → Bool} (hq : ∀ j, q j = true ↔ p (s.dom s.me dt j)) : (maskIxs dt mask).find? q = some i := by
  obtain ⟨hi, hp, hn⟩ := h
  exact find?_eq_some_of_least (maskIxs_pairwise dt mask) hi ((hq i).2 hp)
    fun j hj hji => eq_false_of_ne_true fun h => hn j hj hji ((hq j).1 h)

/-- A domain that the other bank holds has DSTATE 4 (R314). -/
theorem State.domState_eq_four {s : State} {dt : DomTy} (hb : recordsBank dt = true) (me core i : Nat) :
    s.domState me core dt i = 4 ↔ (s.dom core dt i).st ≠ .off ∧ (s.dom core dt i).owner ≠ (s.core me).bank := by
  rw [State.domState, hb]
  split
  · next h => simpa using h
  · next h =>
    refine iff_of_false ?_ (by simpa using h)
    cases (s.dom core dt i).st <;> decide

section Power
variable {s : State} {st : Strm} {h : Hdr} {dt : DomTy} {mask : BitVec 32} (hr : s.ready st h)
include hr

/-- A wake of a domain that the other bank holds. -/
theorem State.wake_other (hl : s.leaseCheck s.me dt mask = .go) (hb : recordsBank dt = true) {i : Nat}
    (hi : s.Least dt mask (fun d => d.st ≠ .off ∧ d.owner ≠ (s.core s.me).bank) i) :
    s.wake st h dt mask = s.raise s.me st { cause := .sleeping, core := s.me, dstate := 4, didx := i, dtype := domCode dt } := by
  have hf := hi.find? (q := fun i => s.domState s.me s.me dt i == 4) fun j => by rw [beq_iff_eq, State.domState_eq_four hb]
  have h4 : s.domState s.me s.me dt i = 4 := (State.domState_eq_four hb ..).2 hi.2.1
  rw [State.wake, hl, Verdict.andThen, State.otherBank, hf, State.issue_trap_ready hr, State.sleepTrap, h4]
  rfl

theorem State.wake_go (hl : s.leaseCheck s.me dt mask = .go) (ho : s.otherBank s.me dt mask = .go) :
    s.wake st h dt mask = (maskIxs dt mask).foldl (fun t i => t.wakeOne s.me dt i) (s.done st h 1 8 id) := by
  rw [State.wake, hl, ho]
  exact State.issue_ready hr _

theorem State.sleep_go (hl : s.leaseCheck s.me dt mask = .go) (ret : Bool) :
    s.sleep st h dt ret mask = (maskIxs dt mask).foldl (fun t i => t.sleepOne s.me dt ret i) (s.done st h 1 8 id) := by
  rw [State.sleep, hl]
  exact State.issue_ready hr _

/-- A `wstat` of a domain that is off or retained. -/
theorem State.wstat_asleep {i : Nat} (hi : s.Least dt mask (fun d => d.st = .off ∨ d.st = .retained) i) :
    s.wstat st h dt mask = s.raise s.me st
      { cause := .sleeping, core := s.me, dstate := if (s.dom s.me dt i).st = .off then 0 else 1, didx := i, dtype := domCode dt } := by
  have hf : s.wstatFault s.me dt mask = some i := hi.find? fun j => by simp
  have hk : (s.dom s.me dt i).st.code = if (s.dom s.me dt i).st = .off then 0 else 1 := by
    rcases hi.2.1 with h | h <;> rw [h] <;> rfl
  rw [State.wstat, hf, State.issue_trap_ready hr, State.wstatTrap, hk, State.sleepTrap]
  rfl

theorem State.wstat_go (hw : s.wstatFault s.me dt mask = none) :
    s.wstat st h dt mask = if s.allAwake s.me dt mask then s.done st h 1 8 id else s.waits st h 8 (.wstat dt mask) := by
  rw [State.wstat, hw]
  exact State.issue_ready hr _

end Power

/-- Settles O32: the four streams share one `wake`, `sleep` and `wstat`. -/
theorem powerInstructions : Obligations.PowerInstructions := by
  unfold Obligations.PowerInstructions
  have next {t u : State} (e : t = u) : (.next t : Host.Outcome State Fault Refusal) = .next u := congrArg _ e
  intro s h dt ret mask
  refine ⟨fun i hl hb hi => ?_, fun i hi => ?_, fun hl => ⟨fun ho => ?_, ?_⟩, fun hw => ?_⟩
  · exact ⟨fun hr => next (State.wake_other hr hl hb hi), fun hr => next (State.wake_other hr hl hb hi),
      fun hr => next (State.wake_other hr hl hb hi), fun hr => next (State.wake_other hr hl hb hi)⟩
  · exact ⟨fun hr => next (State.wstat_asleep hr hi), fun hr => next (State.wstat_asleep hr hi),
      fun hr => next (State.wstat_asleep hr hi), fun hr => next (State.wstat_asleep hr hi)⟩
  · exact ⟨fun hr => next (State.wake_go hr hl ho), fun hr => next (State.wake_go hr hl ho),
      fun hr => next (State.wake_go hr hl ho), fun hr => next (State.wake_go hr hl ho)⟩
  · exact ⟨fun hr => next (State.sleep_go hr hl ret), fun hr => next (State.sleep_go hr hl ret),
      fun hr => next (State.sleep_go hr hl ret), fun hr => next (State.sleep_go hr hl ret)⟩
  · exact ⟨fun hr => next (State.wstat_go hr hw), fun hr => next (State.wstat_go hr hw),
      fun hr => next (State.wstat_go hr hw), fun hr => next (State.wstat_go hr hw)⟩

/-! ## The pointers -/

/-- A pointer register takes the address of its ring's slot (R122). -/
theorem State.prs_ready {s : State} {st : Strm} {h : Hdr} (hr : s.ready st h) (p : BitVec 4) {ring : BitVec 4} {n : Nat}
    (hn : (s.ctx s.me).ringNo ring.toNat = some n) (hz : ((s.part (s.ctx s.me).launch.part).ring n).slots ≠ 0) :
    let r := (s.part (s.ctx s.me).launch.part).ring n
    s.prs st h p ring = s.done st h 1 8 (fun x => x.setP (isS st) p
      (BitVec.ofNat 64 (r.base.toNat + ((s.ctx s.me).regs.pget (isS st) p).toNat % r.slots.toNat * r.slotsize.toNat)) (s.cyc s.me)) := by
  intro r
  simp only [State.prs, hn, hz, if_false]
  exact State.issue_ready hr _

/-- Settles O33: each instruction is its issue, in its own stream's pointer set. -/
theorem pointers : Obligations.Pointers := by
  unfold Obligations.Pointers
  intro s h p ring imm
  exact ⟨fun hr => ⟨State.issue_next hr _, State.issue_next hr _⟩, fun hr => ⟨State.issue_next hr _, State.issue_next hr _⟩,
    fun n hn hz => ⟨fun hr => congrArg _ (State.prs_ready hr p hn hz), fun hr => congrArg _ (State.prs_ready hr p hn hz)⟩,
    fun x inS v cyc => rfl⟩

end Sys2Proof.Machine
end

section
/-! PROOF. The line loads and stores (O34). -/

namespace Sys2Proof.Machine

/-! ## The line loads -/

/-- The occupancy of a line load (R121). -/
def Lane2.loadOcc : Lane2 → Nat
  | .q _ => 1
  | .g _ => 4

/-- The address of a line access of L or S, and the value that its pointer takes (R49). -/
def Ctx.lineAddr (x : Ctx) (inS : Bool) (p : BitVec 4) (md : Md) (inc : BitVec 20) : Nat × Word := mdAddr md (x.regs.pget inS p) inc

/-- The move of the pointer of a line access. -/
def Ctx.lineMove (x : Ctx) (inS : Bool) (p : BitVec 4) (md : Md) (inc : BitVec 20) (cyc : Nat) (y : Ctx) : Ctx :=
  if md = .none then y else y.setP inS p (x.lineAddr inS p md inc).2 cyc

section LineLoad
variable {s : State} {h : Hdr} (hr : s.ready .l h) (p : BitVec 4) {x : Lane2} {cv : Cv} {one : Bool} (md : Md) (inc : BitVec 20)
  (hb : (s.ctx s.me).bound true x = false) (hl : (s.ctx s.me).lineReady true x = true)
include hr hb hl

theorem State.lineLoad_own {off : Nat} :
    let c := s.ctx s.me
    let va := (c.lineAddr false p md inc).1
    let k : AccKind := .lineLoad (x.dst c.nextId) one cv
    let e := rdEntry (c.nextId + 1) s.me off k.width (some (s.cyc s.me + 3))
    s.lineTarget va k.width one true cv = .spad s.me off → c.chkClear e (s.cyc s.me) = true →
    s.touch s.me (spadBanks s.me off k.width ++ x.touches s.me) va = .go →
    s.lineLoad h p x cv one md inc = ((s.done .l h x.loadOcc 160 (fun y =>
      { c.lineMove false p md inc (s.cyc s.me) ((y.lineClaim x).chkAdd e) with nextId := c.nextId + 2 })).direct s.me
        (s.newAcc s.me .l va (.spad s.me off) k 0 .core 3 none none)).gridIssued s c.nextId x
          (aqMove md p (c.regs.pget false p) (c.lineAddr false p md inc).2) := by
  intro c va k e ht hc hv
  simp only [State.lineLoad, hb, hl, Bool.false_eq_true, if_false, Bool.not_true]
  simp only [c, va, k, e, Ctx.lineAddr] at ht hc hv
  rw [ht]
  simp only [if_true, hc, hv, Bool.not_true, Bool.false_eq_true, if_false]
  rw [State.issue_ready hr]
  cases x <;> rfl

/-- A load from a sibling's scratchpad: the access goes through the FIFO of class 0. -/
theorem State.lineLoad_sibling {core off : Nat} (hne : core ≠ s.me) :
    let c := s.ctx s.me
    let va := (c.lineAddr false p md inc).1
    let k : AccKind := .lineLoad (x.dst c.nextId) one cv
    let e := rdEntry (c.nextId + 1) core off k.width none
    let far := s.newAcc s.me .l va (.spad core off) k 0 .core 20 none none
    s.lineTarget va k.width one true cv = .spad core off → c.chkClear e (s.cyc s.me) = true →
    s.touch s.me (spadBanks core off k.width ++ x.touches s.me) va = .go →
    (∀ q, x = .q q → s.lineLoad h p x cv one md inc = s.done .l h 1 160 (fun y =>
      ({ c.lineMove false p md inc (s.cyc s.me) ((y.lineClaim x).chkAdd e) with nextId := c.nextId + 1 } : Ctx).post far)) ∧
    (∀ g, x = .g g → s.lineLoad h p x cv one md inc = (s.modCtx s.me (fun y =>
      ({ y.chkAdd e with nextId := c.nextId + 1 } : Ctx).post far)).waits .l h 160
        (.gridLoad (c.nextId + 1) (if md = .none then none else some (p, (c.lineAddr false p md inc).2)))) := by
  intro c va k e far ht hc hv
  simp only [State.lineLoad, hb, hl, Bool.false_eq_true, if_false, Bool.not_true]
  simp only [c, va, k, e, Ctx.lineAddr] at ht hc hv
  rw [ht]
  simp only [if_neg hne, hc, hv, Bool.not_true, Bool.false_eq_true, if_false]
  refine ⟨fun q hx => ?_, fun g hx => ?_⟩ <;> subst hx
  · exact State.issue_ready hr _
  · exact State.issue_ready hr _

/-- A tile image is read at the issue (R235). -/
theorem State.lineLoad_tiles {off : Nat} :
    let c := s.ctx s.me
    let va := (c.lineAddr false p md inc).1
    let k : AccKind := .lineLoad (x.dst c.nextId) one cv
    s.lineTarget va k.width one true cv = .tiles off → s.touch s.me (x.touches s.me) va = .go →
    s.lineLoad h p x cv one md inc = s.done .l h x.loadOcc 160 (fun y =>
      ({ c.lineMove false p md inc (s.cyc s.me) (y.lineClaim x) with nextId := c.nextId + 1 } : Ctx).lineDue (x.dst c.nextId)
        (s.cyc s.me) (s.cyc s.me + 12) (cvLanes one cv (c.eng.imageBytes off k.width)) none false) := by
  intro c va k ht hv
  simp only [State.lineLoad, hb, hl, Bool.false_eq_true, if_false, Bool.not_true]
  simp only [c, va, k, Ctx.lineAddr] at ht hv
  rw [ht]
  simp only [hv]
  rw [State.issue_ready hr]
  cases x <;> rfl

/-- `lda` that passes its checks (R123). -/
theorem State.accLoad_go {pk : Bool} (hv : s.accVerdict ((s.ctx s.me).lineAddr false p md inc).1 pk x = .go) :
    let c := s.ctx s.me
    let va := (c.lineAddr false p md inc).1
    s.accLoad h p x pk md inc = ((s.done .l h x.loadOcc 160 (fun y =>
      { c.lineMove false p md inc (s.cyc s.me) (y.lineClaim x) with nextId := c.nextId + 1 })).direct s.me
        (s.newAcc s.me .l va (.acc va) (.lineLoad (x.dst c.nextId) false .none) 0 .core 3 none none)).gridIssued s c.nextId x
          (aqMove md p (c.regs.pget false p) (c.lineAddr false p md inc).2) := by
  intro c va
  simp only [Ctx.lineAddr] at hv
  simp only [State.accLoad, hb, hl, hv, Bool.false_eq_true, if_false, Bool.not_true]
  rw [State.issue_ready hr]
  cases x <;> rfl

end LineLoad

/-! ## The line stores -/

section LineStore
variable {s : State} {h : Hdr} (hr : s.ready .s h) (p : BitVec 4) {x : Lane2} {cv : Cv} (md : Md) (inc : BitVec 20)
  (hb : (s.ctx s.me).bound false x = false) (hl : (s.ctx s.me).lineReady false x = true)
include hr hb hl

theorem State.lineStore_own {off : Nat} :
    let c := s.ctx s.me
    let va := (c.lineAddr true p md inc).1
    let n := (AccKind.lineLoad (.lq 0 0) false cv).width
    let e := wrEntry c.nextId s.me off n (some (s.cyc s.me + 6))
    s.lineTarget va n false false cv = .spad s.me off → c.chkClear e (s.cyc s.me) = true →
    s.touch s.me (spadBanks s.me off n ++ x.touches s.me) va = .go →
    s.lineStore h p x cv md inc =
      (s.done .s h 1 160 (fun y => c.lineMove true p md inc (s.cyc s.me) ((y.storePop x).chkAdd e))).direct s.me
        (s.newAcc s.me .s va (.spad s.me off) (.store (cvStore cv (c.storeLanes x))) 0 .core 6 none none) := by
  intro c va n e ht hc hv
  simp only [State.lineStore, hb, hl, Bool.false_eq_true, if_false, Bool.not_true]
  simp only [c, va, n, e, Ctx.lineAddr] at ht hc hv
  rw [ht]
  simp only [if_true, hc, hv, Bool.not_true, Bool.false_eq_true, if_false]
  exact State.issue_ready hr _

theorem State.lineStore_sibling {core off : Nat} (hne : core ≠ s.me) :
    let c := s.ctx s.me
    let va := (c.lineAddr true p md inc).1
    let n := (AccKind.lineLoad (.lq 0 0) false cv).width
    let e := wrEntry c.nextId core off n none
    s.lineTarget va n false false cv = .spad core off → c.chkClear e (s.cyc s.me) = true →
    s.touch s.me (spadBanks core off n ++ x.touches s.me) va = .go →
    s.lineStore h p x cv md inc =
      s.done .s h 1 160 (fun y => (c.lineMove true p md inc (s.cyc s.me) ((y.storePop x).chkAdd e)).post
        (s.newAcc s.me .s va (.spad core off) (.store (cvStore cv (c.storeLanes x))) 0 .core 8 none none)) := by
  intro c va n e ht hc hv
  simp only [State.lineStore, hb, hl, Bool.false_eq_true, if_false, Bool.not_true]
  simp only [c, va, n, e, Ctx.lineAddr] at ht hc hv
  rw [ht]
  simp only [if_neg hne, hc, hv, Bool.not_true, Bool.false_eq_true, if_false]
  exact State.issue_ready hr _

/-- `sta` that passes its checks (R123). -/
theorem State.accStore_go (hv : s.accVerdict ((s.ctx s.me).lineAddr true p md inc).1 false x = .go) :
    let c := s.ctx s.me
    let va := (c.lineAddr true p md inc).1
    s.accStore h p x md inc =
      (s.done .s h 1 160 (fun y => c.lineMove true p md inc (s.cyc s.me) (y.storePop x))).direct s.me
        (s.newAcc s.me .s va (.acc va) (.store (bytesOfLanes (c.storeLanes x))) 0 .core 8 none none) := by
  intro c va
  simp only [Ctx.lineAddr] at hv
  simp only [State.accStore, hb, hl, hv, Bool.false_eq_true, if_false, Bool.not_true]
  exact State.issue_ready hr _

end LineStore

/-- `ldq`, `ldg` and `ldb` are the line load of their line. -/
theorem exec_lineLoad {s : State} {h : Hdr} {p : BitVec 4} {x : Lane2} {ty : LaneTy} {cv : Cv} {md : Md} {inc : BitVec 20} {i : Instr}
    {one : Bool} (hi : (∃ n, i = .lLdq h p n ty cv md inc ∧ x = .q n ∧ one = false) ∨
      (∃ g, i = .lLdg h p g ty cv md inc ∧ x = .g g ∧ one = false) ∨ (∃ l, i = .lLdb h p l ty cv md inc ∧ x = lqLine l ∧ one = true)) :
    exec i s = .next (s.lineLoad h p x cv one md inc) := by
  rcases hi with ⟨n, rfl, rfl, rfl⟩ | ⟨g, rfl, rfl, rfl⟩ | ⟨l, rfl, rfl, rfl⟩ <;> rfl

/-- `stq` and `stg` are the line store of their line. -/
theorem exec_lineStore {s : State} {h : Hdr} {p : BitVec 4} {x : Lane2} {ty : LaneTy} {cv : Cv} {md : Md} {inc : BitVec 20} {i : Instr}
    (hi : (∃ q, i = .sStq h p q ty cv md inc ∧ x = .q q) ∨ (∃ g, i = .sStg h p g ty cv md inc ∧ x = .g g)) :
    exec i s = .next (s.lineStore h p x cv md inc) := by
  rcases hi with ⟨q, rfl, rfl⟩ | ⟨g, rfl, rfl⟩ <;> rfl

/-- Settles O34: by the place of the line; no store changes a byte at its issue. -/
theorem lineAccesses : Obligations.LineAccesses := by
  unfold Obligations.LineAccesses
  have next {t u : State} (e : t = u) : (.next t : Host.Outcome State Fault Refusal) = .next u := congrArg _ e
  refine ⟨fun s h p x ty cv pk md inc i one => ?_, fun s h p x ty cv md inc i => ?_⟩
  · intro c va old move undo k occ acc far hr hb hl
    refine ⟨fun hi => ?_, fun l hi hx hv => ?_⟩
    · rw [exec_lineLoad hi]
      exact ⟨fun off ht hc hv => next (State.lineLoad_own hr p md inc hb hl ht hc hv),
        fun core off hne ht hc hv =>
          have hs := State.lineLoad_sibling hr p md inc hb hl hne ht hc hv
          ⟨fun q hx => next (hs.1 q hx), fun g hx => next (hs.2 g hx)⟩,
        fun off ht hv => next (State.lineLoad_tiles hr p md inc hb hl ht hv)⟩
    · subst hi hx
      exact next (State.accLoad_go hr p md inc hb hl hv)
  · intro c va move n acc hr hb hl
    refine ⟨fun hi => ?_, fun l hi hx hv => ?_⟩
    · rw [exec_lineStore hi]
      have hbytes : ∀ t, (.next (s.lineStore h p x cv md inc) : Host.Outcome State Fault Refusal) = .next t → s.sameBytes t := by
        rintro t ⟨⟩
        exact (State.keeps_lineStore (State.Keeps.refl true s) ..).sameBytes
      exact ⟨fun off ht hc hv => ⟨next (State.lineStore_own hr p md inc hb hl ht hc hv), hbytes⟩,
        fun core off hne ht hc hv => ⟨next (State.lineStore_sibling hr p md inc hb hl hne ht hc hv), hbytes⟩⟩
    · subst hi hx
      refine ⟨next (State.accStore_go hr p md inc hb hl hv), ?_⟩
      rintro t ⟨⟩
      exact (State.keeps_accStore (State.Keeps.refl true s) ..).sameBytes

end Sys2Proof.Machine
end

section
/-! PROOF. The vector accesses to device memory (O35). -/

namespace Sys2Proof.Machine

/-! ## The vector accesses to device memory -/

theorem Stream.laneAddrs_issue {t : Stream} (ht : t.lanes = none) (addrs : List (Option Nat)) : t.laneAddrs addrs = addrs := by
  rw [Stream.laneAddrs, ht]
  rfl

/-- What a vector load leaves in its context: the LQ entry that it claims, and an access for each lane (R129, R131). -/
def State.loadLanes (s : State) (x : BitVec 3) (cls : BitVec 4) (scp : Scp) (gs : List LaneGo) (y : Ctx) : Ctx :=
  gs.foldl (fun y l => y.postLane .l (s.newAcc s.me .l l.va l.p (.laneLoad x (s.ctx s.me).nextId l.lane) cls scp 1 (some l.e)
      (some (BitVec.ofNat 6 l.lane))) l.lane)
    ((y.claimLq x gs.length).mapLq x.toNat (s.ctx s.me).nextId (fun e => { e with lanes := lanes (fun _ => 0), filled := gs.isEmpty }))

theorem State.vecLoad_translated {s : State} {h : Hdr} (hr : s.ready .l h) {x : BitVec 3} (cls : BitVec 4) (scp : Scp)
    {row : Option (BitVec 6)} {addrs : List (Option Nat)} {q : List LaneGo} (hb : (s.ctx s.me).bound true (.q x) = false)
    (hn : (s.ctx s.me).l.lanes = none) (hv : s.amVerdict true x row addrs = .go)
    (hq : s.resolvePages .l true false 64 (numbered addrs) = (q, .none)) :
    s.vecLoad h x cls scp row addrs =
      (if (s.ctx s.me).raceHolds (laneOrder q) = true then
        (s.modCtx s.me (s.loadLanes x cls scp (laneOrder q))).waits .l h 400 (.lanes none)
       else s.done .l h 1 400 (s.loadLanes x cls scp (laneOrder q))).useLeases s.me ((laneOrder q).map (·.va)) := by
  simp only [State.vecLoad, Stream.laneAddrs_issue hn, hb, hv, hq, Bool.false_eq_true, if_false]
  exact State.issue_ready hr _

/-- The access of one lane of a vector store or an atomic add. -/
def laneKind (add : Option LaneTy) (v : List Lane) (l : LaneGo) : AccKind :=
  match add with
  | some ty => .laneAdd ty (laneAt v l.lane)
  | none => .store (leBytes 4 (laneAt v l.lane).toNat)

/-- What a vector store leaves in its context: an access for each lane (R129, R131). -/
def State.storeLanesOf (s : State) (x : BitVec 3) (cls : BitVec 4) (scp : Scp) (add : Option LaneTy) (gs : List LaneGo) (y : Ctx) : Ctx :=
  gs.foldl (fun y l => y.postLane .s (s.newAcc s.me .s l.va l.p (laneKind add ((s.ctx s.me).storeLanes (.q x)) l) cls scp 1 (some l.e)
    (some (BitVec.ofNat 6 l.lane))) l.lane) y

theorem State.vecStore_translated {s : State} {h : Hdr} (hr : s.ready .s h) {x : BitVec 3} (cls : BitVec 4) (scp : Scp)
    {row : Option (BitVec 6)} {addrs : List (Option Nat)} {add : Option LaneTy} {q : List LaneGo}
    (hb : (s.ctx s.me).bound false (.q x) = false) (hp : (s.ctx s.me).s.posted = []) (hn : (s.ctx s.me).s.lanes = none)
    (hv : s.amVerdict false x row addrs = .go)
    (hq : s.resolvePages .s add.isSome true 64 (numbered addrs) = (q, .none))
    (ha : add.isSome = true → (s.core s.me).atomsOut + (laneOrder q).length ≤ 64) :
    s.vecStore h x cls scp row addrs add =
      (if add = none ∧ (s.ctx s.me).raceHolds (laneOrder q) = true then
        (s.modCtx s.me (s.storeLanesOf x cls scp add (laneOrder q))).waits .s h 400 (.lanes (some x))
       else s.done .s h 1 400 (fun y => (s.storeLanesOf x cls scp add (laneOrder q) y).storePop (.q x))).useLeases s.me
        ((laneOrder q).map (·.va)) := by
  have hall : (numbered addrs).filter (fun l => !([] : List (Nat × Nat)).any (fun o => o.1 == l.1)) = numbered addrs := by simp
  have ha' : ¬ (add.isSome = true ∧ 64 < (s.core s.me).atomsOut + (laneOrder q).length) := by
    rintro ⟨h1, h2⟩
    exact absurd (ha h1) (Nat.not_le.2 h2)
  simp only [State.vecStore, Stream.laneAddrs_issue hn, hb, hv, hp, hall, hq, Bool.false_eq_true, if_false, if_neg ha']
  rw [State.issue_ready hr]
  cases add with
  | some ty =>
    simp only [Option.isSome_some, Bool.not_true, Bool.false_eq_true, false_and, if_false, reduceCtorEq]
    rfl
  | none =>
    simp only [Option.isSome_none, Bool.not_false, true_and, ne_eq, not_true, and_false, or_false]
    rfl

theorem getElem?_map_upto {α : Type} (f : Nat → α) {j n : Nat} (hj : j < n) : ((upto 0 n).map f)[j]? = some (f j) := by
  simp [upto_eq_range', hj]

/-- Settles O35: every lane is translated, and none has been posted before. -/
theorem vectorMemory : Obligations.VectorMemory := by
  unfold Obligations.VectorMemory
  refine ⟨fun s h p x cls scp stride row ty i g addrs add q => ?_, fun x P stride row j hj => ?_⟩
  · intro c P acc gs
    refine ⟨fun hr hb hn hv hq hi => ?_, fun hr hb hp hn hv hq ha hi => ?_⟩
    · have hx : exec i s = .next (s.vecLoad h x cls scp g addrs) := by
        rcases hi with ⟨rfl, rfl, rfl⟩ | ⟨rfl, rfl, rfl⟩ <;> rfl
      rw [hx]
      exact congrArg _ (State.vecLoad_translated hr cls scp hb hn hv hq)
    · have hx : exec i s = .next (s.vecStore h x cls scp g addrs add) := by
        rcases hi with ⟨rfl, rfl, rfl, rfl⟩ | ⟨rfl, rfl, rfl, rfl⟩ | ⟨rfl, rfl, rfl, rfl⟩ <;> rfl
      rw [hx]
      refine ⟨congrArg _ ((State.vecStore_translated hr cls scp hb hp hn hv hq ha).trans ?_), ?_⟩
      · cases add <;> rfl
      · rintro t ⟨⟩
        exact (State.keeps_vecStore (State.Keeps.refl true s) ..).sameBytes
  · refine ⟨fun h0 => ?_, fun h0 => ?_, getElem?_map_upto _ hj⟩ <;> rw [strided, getElem?_map_upto _ hj]
    · rw [if_pos h0]
    · rw [if_neg h0]
      rfl

end Sys2Proof.Machine
end

section
/-! PROOF. The V instructions at issue: floats and integers (O36, O37). -/

namespace Sys2Proof.Machine

/-! ## The vector instructions at issue -/

/-- With its queues ready, its domains awake and no marked entry, a V instruction may issue (R149). -/
theorem State.vVerdict_go {s : State} {d : Dst} {srcs : List Src} {mask : Word} {cross : Bool} (hg : s.vGo d srcs mask cross) :
    s.vVerdict d srcs (vTouches s.me d srcs mask cross) = .go := by
  obtain ⟨hq, hd, ha, hb⟩ := hg
  simp [State.vVerdict, State.touch, hq, hd, ha, hb, Verdict.andThen]

/-- The issue of a V instruction: its sources are read, and its result is on its way (R147). -/
theorem State.vec_ready {s : State} {h : Hdr} (hr : s.ready .v h) {d : Dst} {srcs : List Src} {mask : Word} {cross : Bool}
    (hg : s.vGo d srcs mask cross) (rnd : Rnd) (lat units : Nat) (zs : Ctx → List PendDst) (f : Ctx → List Lane) :
    s.vec h d srcs mask rnd lat units cross zs f =
      s.vAfter h d srcs mask rnd lat units (zs (s.ctx s.me)) (f (s.ctx s.me)) := by
  rw [State.vec, State.vVerdict_go hg, State.issue_ready hr]
  exact State.done_congr rfl ..

/-- The outcome of a V instruction. -/
theorem State.vec_next {s : State} {h : Hdr} (hr : s.ready .v h) {d : Dst} {srcs : List Src} {mask : Word} {cross : Bool}
    (hg : s.vGo d srcs mask cross) (rnd : Rnd) (lat units : Nat) (zs : Ctx → List PendDst) (f : Ctx → List Lane) :
    (.next (s.vec h d srcs mask rnd lat units cross zs f) : Host.Outcome State Fault Refusal) =
      .next (s.vAfter h d srcs mask rnd lat units (zs (s.ctx s.me)) (f (s.ctx s.me))) :=
  congrArg _ (State.vec_ready hr hg ..)

/-- Settles O36: each instruction is a V instruction with its element function, latency and energy. -/
theorem vectorFloat : Obligations.VectorFloat := by
  unfold Obligations.VectorFloat
  refine ⟨fun s h d a b c ty z rnd hr => ⟨fun hg => ?_, fun hg => ?_, fun hg => ?_⟩,
    fun s h d a b c z rnd hr => ⟨fun hg => ?_, fun hg => ?_, fun hg => ?_⟩⟩
  · exact ⟨State.vec_next hr hg .., State.vec_next hr hg .., State.vec_next hr hg .., State.vec_next hr hg ..,
      State.vec_next hr hg ..⟩
  · exact ⟨State.vec_next hr hg .., State.vec_next hr hg .., State.vec_next hr hg ..⟩
  · exact ⟨State.vec_next hr hg .., State.vec_next hr hg ..⟩
  · exact ⟨State.vec_next hr hg .., State.vec_next hr hg .., State.vec_next hr hg .., State.vec_next hr hg ..,
      State.vec_next hr hg ..⟩
  · exact ⟨State.vec_next hr hg .., State.vec_next hr hg ..⟩
  · exact ⟨State.vec_next hr hg .., State.vec_next hr hg ..⟩

/-! ## Digits -/

theorem upto_succ (lo n : Nat) : upto lo (n + 1) = upto lo n ++ [lo + n] := by
  rw [upto_eq_range', upto_eq_range', List.range'_concat]
  simp

/-- A number formed from its digits in a base, the lowest first. -/
def ofDigits (b : Nat) (d : Nat → Nat) (n : Nat) : Nat := (upto 0 n).foldl (fun v m => v + d m * b ^ m) 0

theorem ofDigits_succ (b : Nat) (d : Nat → Nat) (n : Nat) : ofDigits b d (n + 1) = ofDigits b d n + d n * b ^ n := by
  simp [ofDigits, upto_succ]

theorem ofDigits_lt {b : Nat} {d : Nat → Nat} (hd : ∀ m, d m < b) (n : Nat) : ofDigits b d n < b ^ n := by
  induction n with
  | zero => simp [ofDigits, upto]
  | succ n ih =>
    have hm : (d n + 1) * b ^ n ≤ b * b ^ n := Nat.mul_le_mul_right _ (hd n)
    rw [ofDigits_succ, Nat.pow_succ']
    linarith

theorem ofDigits_digit {b : Nat} {d : Nat → Nat} (hd : ∀ m, d m < b) {k n : Nat} (hk : k < n) : ofDigits b d n / b ^ k % b = d k := by
  have hb : 0 < b := lt_of_le_of_lt (Nat.zero_le _) (hd 0)
  induction n with
  | zero => cases hk
  | succ n ih =>
    rw [ofDigits_succ]
    rcases Nat.lt_succ_iff_lt_or_eq.1 hk with h | rfl
    · obtain ⟨e, rfl⟩ : ∃ e, n = k + 1 + e := ⟨n - (k + 1), by omega⟩
      have hp : d (k + 1 + e) * b ^ (k + 1 + e) = d (k + 1 + e) * b ^ e * b * b ^ k := by ring
      rw [hp, Nat.add_mul_div_right _ _ (by positivity), Nat.add_mul_mod_self_right]
      exact ih h
    · rw [Nat.add_mul_div_right _ _ (by positivity), Nat.div_eq_of_lt (ofDigits_lt hd k), Nat.zero_add, Nat.mod_eq_of_lt (hd k)]

/-! ## The carry-less product, the byte compare and the bit pack -/

theorem clmul32_zero (n a : Nat) : clmul32 n a 0 = 0 := by
  induction n generalizing a with
  | zero => rfl
  | succ n ih => simp [clmul32, ih]

theorem clmul32_xor (n a b c : Nat) : clmul32 n a (b ^^^ c) = clmul32 n a b ^^^ clmul32 n a c := by
  induction n generalizing a b c with
  | zero => simp [clmul32]
  | succ n ih =>
    have hm : (if (b ^^^ c) % 2 = 1 then a else 0) = (if b % 2 = 1 then a else 0) ^^^ (if c % 2 = 1 then a else 0) := by
      have hx : ((b ^^^ c) % 2 = 1) ↔ ¬ (b % 2 = 1 ↔ c % 2 = 1) := Nat.xor_mod_two_eq_one
      rw [if_congr hx rfl rfl]
      by_cases hb : b % 2 = 1 <;> by_cases hc : c % 2 = 1 <;> simp [hb, hc]
    rw [clmul32, clmul32, clmul32, hm, Nat.xor_div_two, ih]
    ac_rfl

theorem clmul32_two_pow {n e : Nat} (he : e < n) (a : Nat) : clmul32 n a (2 ^ e) = a * 2 ^ e := by
  induction e generalizing n a with
  | zero =>
    obtain ⟨m, rfl⟩ : ∃ m, n = m + 1 := ⟨n - 1, by omega⟩
    simp [clmul32, clmul32_zero]
  | succ e ih =>
    obtain ⟨m, rfl⟩ : ∃ m, n = m + 1 := ⟨n - 1, by omega⟩
    have h2 : 2 ^ (e + 1) / 2 = 2 ^ e := by rw [Nat.pow_succ, Nat.mul_div_cancel _ (by decide)]
    have hm : ¬ 2 ^ (e + 1) % 2 = 1 := by rw [Nat.pow_succ, Nat.mul_mod_left]; decide
    rw [clmul32, if_neg hm, h2, ih (by omega), Nat.zero_xor, Nat.pow_succ]
    ring

/-- Bit `e` says that byte `e` equals the byte (R158). -/
theorem bitAt_byteMask (c : BitVec 8) (A : Lane) {e : Nat} (he : e < 4) :
    bitAt (byteMask c A) e = decide (bits A (8 * e) 8 = c.toNat) := by
  have hd : ∀ m, (if bits A (8 * m) 8 = c.toNat then 1 else 0) < 2 := fun m => by split <;> decide
  have hm : byteMask c A = BitVec.ofNat 32 (ofDigits 2 (fun m => if bits A (8 * m) 8 = c.toNat then 1 else 0) 4) := by
    refine congrArg _ (congrArg (List.foldl · 0 (upto 0 4)) (funext fun n => funext fun m => ?_))
    split <;> simp [*]
  have hlt := ofDigits_lt hd 4
  rw [hm, bitAt, BitVec.toNat_ofNat, Nat.mod_eq_of_lt (hlt.trans (by decide)), ofDigits_digit hd he]
  split <;> simp [*]

theorem bitAt_bpackLane (L : List Lane) {k m e : Nat} (hk : k < 8) (hm : m < 8) (he : e < 4) :
    bitAt (bpackLane L k) (4 * m + e) = bitAt (laneAt L (8 * k + m)) e := by
  have hd : ∀ m, (laneAt L (8 * k + m)).toNat % 16 < 16 := fun m => Nat.mod_lt _ (by decide)
  have hb : bpackLane L k = BitVec.ofNat 32 (ofDigits 16 (fun m => (laneAt L (8 * k + m)).toNat % 16) 8) := by
    rw [bpackLane, if_pos hk]
    refine congrArg _ (congrArg (List.foldl · 0 (upto 0 8)) (funext fun n => funext fun m => ?_))
    rw [Nat.pow_mul]
  have hlt := ofDigits_lt hd 8
  have hdig := ofDigits_digit hd hm
  rw [hb, bitAt, bitAt, BitVec.toNat_ofNat, Nat.mod_eq_of_lt (hlt.trans_le (by decide)), Nat.pow_add, Nat.pow_mul,
    ← Nat.div_div_eq_div_mul]
  change ofDigits 16 (fun m => (laneAt L (8 * k + m)).toNat % 16) 8 / (2 ^ 4) ^ m % 16 = _ at hdig
  generalize ofDigits 16 (fun m => (laneAt L (8 * k + m)).toNat % 16) 8 / (2 ^ 4) ^ m = q at *
  refine decide_eq_decide.2 ?_
  interval_cases e <;> omega

/-- Settles O37: each instruction is a V instruction with its element function, latency and energy; the carry-less product, the
byte compare and the bit pack are known by their bits. -/
theorem vectorInteger : Obligations.VectorInteger := by
  unfold Obligations.VectorInteger
  refine ⟨fun s h d a b ty byte z hr => ⟨fun hg => ?_, fun hg => ?_, fun hg => State.vec_next hr hg ..⟩,
    fun a b c byte A L k m e => ⟨clmul32_zero 32 a, ?_, clmul32_xor 32 a b c, fun he => clmul32_two_pow (by omega) a,
      bitAt_byteMask byte A, fun he hm hk => bitAt_bpackLane L hk hm he, fun hk => if_neg (Nat.not_lt.2 hk)⟩⟩
  · exact ⟨State.vec_next hr hg .., State.vec_next hr hg .., State.vec_next hr hg .., State.vec_next hr hg ..,
      State.vec_next hr hg .., State.vec_next hr hg .., State.vec_next hr hg .., State.vec_next hr hg ..,
      State.vec_next hr hg .., State.vec_next hr hg .., State.vec_next hr hg .., State.vec_next hr hg ..,
      State.vec_next hr hg .., State.vec_next hr hg .., State.vec_next hr hg .., State.vec_next hr hg ..,
      State.vec_next hr hg ..⟩
  · exact ⟨State.vec_next hr hg .., State.vec_next hr hg .., State.vec_next hr hg .., State.vec_next hr hg ..⟩
  · simpa using clmul32_two_pow (n := 32) (e := 0) (by decide) a

end Sys2Proof.Machine
end

section
/-! PROOF. Conversions, blocks and cross-lane instructions (O38). -/

namespace Sys2Proof.Machine

/-! ## Elements of lanes -/

theorem laneAt_lanes (f : Nat → Lane) {j : Nat} (hj : j < 64) : laneAt (lanes f) j = f j := by
  rw [laneAt, lanes, List.getD_eq_getElem?_getD, getElem?_map_upto f hj]
  rfl

theorem bits_pack2_low (x y : Nat) : bits (pack2 x y) 0 16 = x % 2 ^ 16 := by
  simp only [bits, pack2, BitVec.toNat_ofNat]
  omega

theorem bits_pack2_high (x y : Nat) : bits (pack2 x y) 16 16 = y % 2 ^ 16 := by
  simp only [bits, pack2, BitVec.toNat_ofNat]
  omega

/-- The bytes of a lane of four. -/
theorem bits_pack4 (a b c d : Nat) {k : Nat} (hk : k < 4) :
    bits (pack4 a b c d) (8 * k) 8 = (if k = 0 then a else if k = 1 then b else if k = 2 then c else d) % 256 := by
  simp only [bits, pack4, BitVec.toNat_ofNat]
  interval_cases k <;> simp <;> omega

/-- A field read as a two's-complement number. -/
theorem signed_bits {w : Nat} (v : BitVec w) (p : Nat) {n : Nat} (hn : 0 < n) : signed n (bits v p n) = (v.extractLsb' p n).toInt := by
  have hb : bits v p n = (v.extractLsb' p n).toNat := by
    rw [BitVec.extractLsb'_toNat, Nat.shiftRight_eq_div_pow]
    rfl
  have hlt := (v.extractLsb' p n).isLt
  rw [hb, signed, Nat.mod_eq_of_lt hlt, BitVec.toInt_eq_toNat_cond]
  obtain ⟨m, rfl⟩ : ∃ m, n = m + 1 := ⟨n - 1, by omega⟩
  rw [Nat.add_sub_cancel, Nat.pow_succ]
  split <;> split <;> omega

theorem signed_toNat (v : Lane) : signed 32 v.toNat = v.toInt := by
  have h := signed_bits v 0 (n := 32) (by decide)
  have hb : bits v 0 32 = v.toNat := by
    rw [bits, Nat.pow_zero, Nat.div_one, Nat.mod_eq_of_lt v.isLt]
  rw [hb] at h
  rw [h, BitVec.extractLsb'_eq_self]

theorem clamp_eq {lo hi : Int} (h : lo ≤ hi) (v : Int) : clamp lo hi v = max lo (min v hi) := by
  unfold clamp
  split
  · omega
  · split <;> omega

/-- A value saturated to a signed 16-bit element. -/
theorem toInt_sat16 (v : Int) : (BitVec.ofNat 16 (sat 16 (-32768) 32767 v)).toInt = max (-32768) (min v 32767) := by
  rw [sat, clamp_eq (by decide), wrap, BitVec.toInt_ofNat', Int.bmod_def]
  omega

/-- A value saturated to a byte. -/
theorem sat8 (v : Int) : sat 8 0 255 v % 256 = (max 0 (min v 255)).toNat := by
  rw [sat, clamp_eq (by decide), wrap]
  omega

theorem extractLsb'_eq_ofNat_bits {w : Nat} (v : BitVec w) (p n : Nat) : v.extractLsb' p n = BitVec.ofNat n (bits v p n) := by
  apply BitVec.eq_of_toNat_eq
  rw [BitVec.extractLsb'_toNat, Nat.shiftRight_eq_div_pow, BitVec.toNat_ofNat, bits, Nat.mod_mod]

/-! ## What the conversions give -/

section Cvt
variable (rnd : Rnd) (r : Nat → Nat) (el j : Nat) (A B : Lane)

theorem cvtLane_i32_ui32 : cvtLane rnd r el j A B .i32 .ui32 = if A.toNat ≤ 0x7FFFFFFF then A else 0x7FFFFFFF := by
  have hx : cvtLane rnd r el j A B .i32 .ui32 = BitVec.ofNat 32 (min A.toNat 2147483647) := rfl
  rw [hx]
  split
  · next h => rw [Nat.min_eq_left h, BitVec.ofNat_toNat, BitVec.setWidth_eq]
  · next h =>
    rw [Nat.min_eq_right (Nat.le_of_not_le h)]
    rfl

theorem cvtLane_ui32_i32 : cvtLane rnd r el j A B .ui32 .i32 = if A.toInt < 0 then 0 else A := by
  have hx : cvtLane rnd r el j A B .ui32 .i32 = if bitAt A 31 then 0 else A := rfl
  have hs : bitAt A 31 = true ↔ A.toInt < 0 := by
    have := A.isLt
    rw [bitAt, decide_eq_true_iff, BitVec.toInt_eq_toNat_cond]
    split <;> omega
  rw [hx, if_congr hs rfl rfl]

theorem cvtLane_i32_i16x2 : cvtLane rnd r el j A B .i32 .i16x2 = (A.extractLsb' (16 * el) 16).signExtend 32 := by
  have hx : cvtLane rnd r el j A B .i32 .i16x2 = BitVec.ofInt 32 (signed 16 (half A el)) := rfl
  rw [hx, half, signed_bits A _ (by decide)]
  rfl

theorem cvtLane_i16x2_ui8x4 : bits (cvtLane rnd r el j A B .i16x2 .ui8x4) 0 16 = bits A (16 * el) 8 ∧
    bits (cvtLane rnd r el j A B .i16x2 .ui8x4) 16 16 = bits A (16 * el + 8) 8 := by
  have hx : cvtLane rnd r el j A B .i16x2 .ui8x4 = pack2 (bits A (16 * el) 8) (bits A (16 * el + 8) 8) := rfl
  have hlt (p : Nat) : bits A p 8 < 2 ^ 16 := lt_of_lt_of_le (Nat.mod_lt _ (by decide)) (by decide)
  rw [hx, bits_pack2_low, bits_pack2_high, Nat.mod_eq_of_lt (hlt _), Nat.mod_eq_of_lt (hlt _)]
  exact ⟨rfl, rfl⟩

theorem cvtLane_i16x2_i32 :
    ((cvtLane rnd r el j A B .i16x2 .i32).extractLsb' 0 16).toInt = max (-32768) (min A.toInt 32767) ∧
    ((cvtLane rnd r el j A B .i16x2 .i32).extractLsb' 16 16).toInt = max (-32768) (min B.toInt 32767) := by
  have hx : cvtLane rnd r el j A B .i16x2 .i32 =
    pack2 (sat 16 (-32768) 32767 (signed 32 A.toNat)) (sat 16 (-32768) 32767 (signed 32 B.toNat)) := rfl
  have hm (n : Nat) : BitVec.ofNat 16 (n % 2 ^ 16) = BitVec.ofNat 16 n := BitVec.eq_of_toNat_eq (by simp)
  rw [hx, extractLsb'_eq_ofNat_bits, extractLsb'_eq_ofNat_bits, bits_pack2_low, bits_pack2_high, hm, hm, toInt_sat16, toInt_sat16,
    signed_toNat, signed_toNat]
  exact ⟨rfl, rfl⟩

theorem cvtLane_ui8x4_i16x2 {k : Nat} (hk : k < 4) : bits (cvtLane rnd r el j A B .ui8x4 .i16x2) (8 * k) 8 =
    (max 0 (min (((if k < 2 then A else B).extractLsb' (16 * (k % 2)) 16).toInt) 255)).toNat := by
  have hx : cvtLane rnd r el j A B .ui8x4 .i16x2 = pack4 (sat 8 0 255 (signed 16 (half A 0))) (sat 8 0 255 (signed 16 (half A 1)))
      (sat 8 0 255 (signed 16 (half B 0))) (sat 8 0 255 (signed 16 (half B 1))) := rfl
  have hs (v : Lane) (e : Nat) : signed 16 (half v e) = (v.extractLsb' (16 * e) 16).toInt := signed_bits v _ (by decide)
  rw [hx, bits_pack4 _ _ _ _ hk]
  interval_cases k <;> simp only [hs] <;> exact sat8 _

end Cvt

/-! ## Block scales -/

/-- A pattern whose exponent is all ones is an infinity or a NaN. -/
theorem fp32_val_special {a : Lane} (he : bits a 23 8 = 255) :
    (bits a 0 23 = 0 → fp32.val a.toNat = .inf (bitAt a 31)) ∧ (bits a 0 23 ≠ 0 → fp32.val a.toNat = .nan) := by
  have hlt := a.isLt
  simp only [bits] at he ⊢
  have hmag : fp32.mag a.toNat = 255 * 2 ^ 23 + a.toNat % 2 ^ 23 := by
    simp only [Fmt.mag, fp32]
    omega
  have htop : fp32.top = 255 * 2 ^ 23 := rfl
  have hinf : fp32.inf = true := rfl
  refine ⟨fun h0 => ?_, fun h0 => ?_⟩
  · have hn : fp32.isNan a.toNat = false := by
      rw [Fmt.isNan, hinf, if_pos rfl]
      exact decide_eq_false (by omega)
    have hi : fp32.isInf a.toNat = true := by
      rw [Fmt.isInf, hinf, Bool.true_and, beq_iff_eq]
      omega
    rw [Fmt.val, hn, hi]
    rfl
  · have hn : fp32.isNan a.toNat = true := by
      rw [Fmt.isNan, hinf, if_pos rfl]
      exact decide_eq_true (by omega)
    rw [Fmt.val, hn]
    rfl

/-- A block without a finite element has no top. -/
theorem blockTop_none {vs : List FV} (h : ∀ v ∈ vs, ∀ n m e, v ≠ .num n m e) : blockTop vs = none := by
  induction vs with
  | nil => rfl
  | cons v t ih =>
    obtain ⟨hv, ht⟩ := List.forall_mem_cons.1 h
    cases v with
    | nan => exact ih ht
    | inf n => exact ih ht
    | num n m e => exact absurd rfl (hv n m e)

theorem blockScale_lt (two : Bool) (vs : List FV) : blockScale two vs < 256 := by
  unfold blockScale
  split
  · decide
  · rw [clamp_eq (by decide)]
    omega

/-! ## Quantised blocks -/

section Qblk
variable (two : Bool) (rnd : Rnd) (r : Nat → Nat) (L : List Lane)

/-- The value of an element of a block. -/
def blockVals (L : List Lane) : List FV := L.map (fun a => fp32.val a.toNat)

/-- The scale of one half of the lanes. -/
def halfScale (L : List Lane) (k : Nat) : Nat :=
  blockScale two (if k = 0 then (blockVals L).take 32 else (blockVals L).drop 32)

/-- The element that `qblk` writes for a lane (R160, R212). -/
def qblkElem (j : Nat) : Nat := (quantise two rnd (r j) (halfScale two L (j / 32)) ((blockVals L).getD j .nan)).1

theorem qblkLanes_eq {k : Nat} (hk : k < 64) : laneAt (qblkLanes two rnd r L) k =
    if k < 16 then pack4 (qblkElem two rnd r L (4 * k)) (qblkElem two rnd r L (4 * k + 1)) (qblkElem two rnd r L (4 * k + 2))
      (qblkElem two rnd r L (4 * k + 3))
    else if k = 16 then BitVec.ofNat 32 (halfScale two L 0)
    else if k = 17 then BitVec.ofNat 32 (halfScale two L 1)
    else 0 := by
  rw [qblkLanes, laneAt_lanes _ hk]
  by_cases h16 : k < 16
  · have hs (j : Nat) (hj : j < 64) :
        (if j < 32 then blockScale two ((blockVals L).take 32) else blockScale two ((blockVals L).drop 32)) =
          halfScale two L (j / 32) := by
      unfold halfScale
      by_cases h : j < 32
      · rw [if_pos h, if_pos (Nat.div_eq_of_lt h)]
      · rw [if_neg h, if_neg (by omega)]
    rw [if_pos h16, if_pos h16]
    simp only [qblkElem, ← hs _ (show 4 * k < 64 by omega), ← hs _ (show 4 * k + 1 < 64 by omega),
      ← hs _ (show 4 * k + 2 < 64 by omega), ← hs _ (show 4 * k + 3 < 64 by omega)]
    rfl
  · rw [if_neg h16, if_neg h16]
    rfl

/-- Element `j` of a quantised block lies in byte `j mod 4` of lane `j / 4`. -/
theorem bits_qblkLanes {j : Nat} (hj : j < 64) :
    bits (laneAt (qblkLanes two rnd r L) (j / 4)) (8 * (j % 4)) 8 = qblkElem two rnd r L j % 256 := by
  rw [qblkLanes_eq two rnd r L (by omega), if_pos (by omega : j / 4 < 16), bits_pack4 _ _ _ _ (Nat.mod_lt _ (by decide))]
  have hm : j % 4 = 0 ∨ j % 4 = 1 ∨ j % 4 = 2 ∨ j % 4 = 3 := by omega
  rcases hm with h | h | h | h <;> rw [h] <;> 
    simp only [if_true, if_false, Nat.one_ne_zero, OfNat.ofNat_ne_zero, OfNat.ofNat_ne_one, Nat.reduceEqDiff] <;> congr 2 <;> omega

theorem blockVals_getD (hL : L.length = 64) {j : Nat} (hj : j < 64) : (blockVals L).getD j .nan = fp32.val (laneAt L j).toNat := by
  have hlt : j < L.length := hL ▸ hj
  simp [blockVals, laneAt, List.getD_eq_getElem?_getD, List.getElem?_eq_getElem hlt]

/-- A half whose elements are all infinities or NaNs has scale 127. -/
theorem halfScale_special (hL : L.length = 64) {k : Nat} (hk : k < 2) (hs : ∀ i, i < 32 → bits (laneAt L (32 * k + i)) 23 8 = 255) :
    halfScale two L k = 127 := by
  have hv : ∀ i, i < 32 → ∀ n m e, (blockVals L).getD (32 * k + i) .nan ≠ .num n m e := by
    intro i hi n m e
    rw [blockVals_getD L hL (by omega)]
    obtain ⟨hinf, hnan⟩ := fp32_val_special (hs i hi)
    by_cases h0 : bits (laneAt L (32 * k + i)) 0 23 = 0
    · rw [hinf h0]
      nofun
    · rw [hnan h0]
      nofun
  have hlen : (blockVals L).length = 64 := by simp [blockVals, hL]
  have hnone : blockTop (if k = 0 then (blockVals L).take 32 else (blockVals L).drop 32) = none := by
    refine blockTop_none fun v hm n m e => ?_
    obtain ⟨i, hi, rfl⟩ : ∃ i, i < 32 ∧ v = (blockVals L).getD (32 * k + i) .nan := by
      obtain ⟨i, hi, rfl⟩ := List.mem_iff_getElem.1 hm
      have hk' : k = 0 ∨ k = 1 := by omega
      rcases hk' with rfl | rfl
      · simp only [if_true, List.length_take, hlen] at hi
        exact ⟨i, by omega, by simp [List.getD_eq_getElem?_getD, List.getElem?_eq_getElem (show i < (blockVals L).length by omega)]⟩
      · simp only [Nat.one_ne_zero, if_false, List.length_drop, hlen] at hi
        exact ⟨i, by omega, by
          simp [List.getD_eq_getElem?_getD, List.getElem?_eq_getElem (show 32 + i < (blockVals L).length by omega)]⟩
    exact hv i hi n m e
  rw [halfScale, blockScale, hnone]

end Qblk

theorem dqblkLanes_nan (two : Bool) (rnd : Rnd) (r : Nat → Nat) (L : List Lane) {j : Nat} (hj : j < 64)
    (hs : bits (laneAt L (16 + j / 32)) 0 8 = 255) : laneAt (dqblkLanes two rnd r L) j = 0x7FC00000 := by
  have hs' : (laneAt L (16 + j / 32)).toNat % 256 = 0xFF := by
    rw [bits, Nat.pow_zero, Nat.div_one] at hs
    exact hs
  rw [dqblkLanes, laneAt_lanes _ hj]
  simp only [hs', fp8Val, if_true]
  rfl

/-! ## The operations of `scan` and `red` -/

theorem ite_lt_top {α β : Type} [LinearOrder β] {f : α → β} (hf : Function.Injective f) {m a : α} (hm : f a ≤ f m) :
    (if f a < f m then a else m) = a := by
  split
  · rfl
  · next h => exact hf (le_antisymm (not_lt.1 h) hm)

theorem ite_bot_lt {α β : Type} [LinearOrder β] {f : α → β} (hf : Function.Injective f) {m a : α} (hm : f m ≤ f a) :
    (if f m < f a then a else m) = a := by
  split
  · rfl
  · next h => exact hf (le_antisymm hm (not_lt.1 h))

/-- The identity of an operation on integers leaves the other operand (R162). -/
theorem laneOp_laneId (op : LaneOp) {ty : RTy} (ht : ty ≠ .f32) (rnd : Rnd) (n : Nat) (A : Lane) :
    laneOp op ty rnd n (laneId op ty) A = A := by
  have hint : Function.Injective (BitVec.toInt : Lane → Int) := fun _ _ => BitVec.eq_of_toInt_eq
  have hnat : Function.Injective (BitVec.toNat : Lane → Nat) := fun _ _ => BitVec.eq_of_toNat_eq
  cases ty with
  | f32 => exact absurd rfl ht
  | i32 => cases op with
    | add => exact BitVec.zero_add A
    | min =>
      have hm : A.toInt ≤ (0x7FFFFFFF : Lane).toInt := Int.lt_add_one_iff.1 (BitVec.toInt_lt (x := A))
      exact (if_congr decide_eq_true_iff rfl rfl).trans (ite_lt_top hint hm)
    | max =>
      have hm : (0x80000000 : Lane).toInt ≤ A.toInt := BitVec.le_toInt A
      exact (if_congr decide_eq_true_iff rfl rfl).trans (ite_bot_lt hint hm)
    | xor => exact BitVec.zero_xor
    | or => exact BitVec.zero_or
    | and => exact BitVec.allOnes_and
  | ui32 => cases op with
    | add => exact BitVec.zero_add A
    | min =>
      have hm : A.toNat ≤ (0xFFFFFFFF : Lane).toNat := Nat.le_of_lt_succ A.isLt
      exact (if_congr decide_eq_true_iff rfl rfl).trans (ite_lt_top hnat hm)
    | max =>
      have hm : (0 : Lane).toNat ≤ A.toNat := Nat.zero_le _
      exact (if_congr decide_eq_true_iff rfl rfl).trans (ite_bot_lt hnat hm)
    | xor => exact BitVec.zero_xor
    | or => exact BitVec.zero_or
    | and => exact BitVec.allOnes_and

/-- The value before lane `j` of a scan that starts at lane `j₀`. -/
theorem laneAt_scanGo (ex : Bool) (mask : Word) (f : Nat → Lane → Lane → Lane) (F : Nat → Lane) (L : List Lane) (j₀ : Nat) (p : Lane)
    (hF : ∀ i, i < L.length → laneAt L i = F (j₀ + i)) {k : Nat} (hk : k < L.length) (hm : bitAt mask (j₀ + k) = true) :
    laneAt (scanGo ex mask f j₀ p L) k =
      (upto j₀ (if ex then k else k + 1)).foldl (fun p i => if bitAt mask i = true then f i p (F i) else p) p := by
  induction L generalizing j₀ p k with
  | nil => cases hk
  | cons a t ih =>
    have ha : a = F j₀ := hF 0 (by simp)
    have ht : ∀ i, i < t.length → laneAt t i = F (j₀ + 1 + i) := by
      intro i hi
      rw [show j₀ + 1 + i = j₀ + (i + 1) by omega]
      exact hF (i + 1) (by simpa using hi)
    cases k with
    | zero =>
      rw [Nat.add_zero] at hm
      rw [scanGo, if_pos hm, ha]
      cases ex
      · simp [upto, hm, laneAt]
      · simp [upto, laneAt]
    | succ k =>
      have hk' : k < t.length := by simpa using hk
      have hm' : bitAt mask (j₀ + 1 + k) = true := by rwa [show j₀ + 1 + k = j₀ + (k + 1) by omega]
      have hu : upto j₀ (if ex = true then k + 1 else k + 1 + 1) = j₀ :: upto (j₀ + 1) (if ex = true then k else k + 1) := by
        cases ex <;> rfl
      rw [scanGo, hu, List.foldl_cons]
      by_cases hb : bitAt mask j₀ = true
      · rw [if_pos hb, if_pos hb, ← ha]
        exact ih (j₀ + 1) (f j₀ p a) ht hk' hm'
      · rw [if_neg hb, if_neg hb]
        exact ih (j₀ + 1) p ht hk' hm'

theorem pairUp_level (g : Lane → Lane → Lane) (F : Nat → Lane) (m : Nat) (L : List Lane) (a : Nat) (hl : L.length = 2 * m)
    (hF : ∀ i, i < 2 * m → laneAt L i = F (2 * a + i)) :
    (pairUp g L).length = m ∧ ∀ i, i < m → laneAt (pairUp g L) i = g (F (2 * (a + i))) (F (2 * (a + i) + 1)) := by
  induction m generalizing L a with
  | zero =>
    rw [List.length_eq_zero_iff.1 hl]
    exact ⟨rfl, fun i hi => absurd hi (Nat.not_lt_zero i)⟩
  | succ m ih =>
    match L, hl, hF with
    | x :: y :: t, hl, hF =>
      have hx : x = F (2 * a) := hF 0 (by omega)
      have hy : y = F (2 * a + 1) := hF 1 (by omega)
      obtain ⟨hlen, hat⟩ := ih t (a + 1) (by simpa [Nat.mul_add] using hl) fun i hi => by
        rw [show 2 * (a + 1) + i = 2 * a + (i + 2) by omega]
        exact hF (i + 2) (by omega)
      refine ⟨by rw [pairUp, List.length_cons, hlen], fun i hi => ?_⟩
      cases i with
      | zero =>
        rw [pairUp, hx, hy]
        rfl
      | succ i =>
        rw [show a + (i + 1) = a + 1 + i by omega]
        exact hat i (by omega)

/-- The tree of a reduction over 2^n lanes (R162). -/
theorem redTree_eq (g : Lane → Lane → Lane) (S : Nat → Nat → Lane) (hS : ∀ l i, S (l + 1) i = g (S l (2 * i)) (S l (2 * i + 1))) (n l : Nat)
    (L : List Lane) (hl : L.length = 2 ^ n) (hL : ∀ i, i < 2 ^ n → laneAt L i = S l i) : redTree g n L = S (l + n) 0 := by
  induction n generalizing l L with
  | zero =>
    match L, hl with
    | [x], _ => exact hL 0 (by decide)
  | succ n ih =>
    obtain ⟨hlen, hat⟩ := pairUp_level g (S l) (2 ^ n) L 0 (by rw [hl, Nat.pow_succ']) fun i hi => by
      rw [Nat.mul_zero, Nat.zero_add]
      exact hL i (by rwa [Nat.pow_succ'])
    rw [redTree, ih (l + 1) (pairUp g L) hlen fun i hi => by rw [hat i hi, hS, Nat.zero_add], Nat.add_right_comm, Nat.add_assoc]

/-- The integer operations of OPN (R162). -/
theorem laneOp_int (rnd : Rnd) (n : Nat) (A B : Lane) :
    laneOp .add .i32 rnd n A B = A + B ∧ laneOp .add .ui32 rnd n A B = A + B ∧
    laneOp .min .i32 rnd n A B = (if B.toInt < A.toInt then B else A) ∧
    laneOp .max .i32 rnd n A B = (if A.toInt < B.toInt then B else A) ∧
    laneOp .min .ui32 rnd n A B = (if B.toNat < A.toNat then B else A) ∧
    laneOp .max .ui32 rnd n A B = (if A.toNat < B.toNat then B else A) ∧
    ∀ ty, laneOp .xor ty rnd n A B = A ^^^ B ∧ laneOp .or ty rnd n A B = A ||| B ∧ laneOp .and ty rnd n A B = A &&& B := by
  refine ⟨rfl, rfl, ?_, ?_, ?_, ?_, fun ty => by cases ty <;> exact ⟨rfl, rfl, rfl⟩⟩ <;>
    simp only [laneOp, BitVec.slt, BitVec.ult, decide_eq_true_eq]

/-- What a block quantised by `qblk` holds (R160, R211, R212). -/
theorem qblkLanes_fields (two : Bool) (rnd : Rnd) (r : Nat → Nat) {L : List Lane} (hL : L.length = 64) (j k : Nat) :
    let q := qblkLanes two rnd r L
    let elem := fun (M : List Lane) (j : Nat) => bits (laneAt M (j / 4)) (8 * (j % 4)) 8
    (18 ≤ k → k < 64 → laneAt q k = 0) ∧ (laneAt q 16).toNat < 256 ∧ (laneAt q 17).toNat < 256 ∧
      (k < 2 → (∀ i, i < 32 → bits (laneAt L (32 * k + i)) 23 8 = 255) → laneAt q (16 + k) = 127) ∧
      (j < 64 → bits (laneAt L j) 23 8 = 255 → bits (laneAt L j) 0 23 ≠ 0 → elem q j = if two then 0x7E else 0x7F) ∧
      (j < 64 → bits (laneAt L j) 23 8 = 255 → bits (laneAt L j) 0 23 = 0 →
        elem q j = if two then (if bitAt (laneAt L j) 31 then 0xFC else 0x7C) else 0x7F) := by
  intro q elem
  have hscale (k : Nat) (hk : k < 2) : laneAt q (16 + k) = BitVec.ofNat 32 (halfScale two L k) := by
    rw [qblkLanes_eq two rnd r L (by omega), if_neg (by omega)]
    have hk' : k = 0 ∨ k = 1 := by omega
    rcases hk' with rfl | rfl <;> rfl
  have hlt (k : Nat) (hk : k < 2) : (laneAt q (16 + k)).toNat < 256 := by
    rw [hscale k hk, BitVec.toNat_ofNat]
    exact lt_of_le_of_lt (Nat.mod_le _ _) (blockScale_lt _ _)
  refine ⟨fun h18 hk => ?_, hlt 0 (by decide), hlt 1 (by decide), fun hk hs => ?_, fun hj he hf => ?_, fun hj he hf => ?_⟩
  · rw [qblkLanes_eq two rnd r L hk, if_neg (by omega), if_neg (by omega), if_neg (by omega)]
  · rw [hscale k hk, halfScale_special two L hL hk hs]
    rfl
  · have hv := (fp32_val_special he).2 hf
    refine (bits_qblkLanes two rnd r L hj).trans ?_
    rw [qblkElem, blockVals_getD L hL hj, hv]
    cases two <;> rfl
  · have hv := (fp32_val_special he).1 hf
    refine (bits_qblkLanes two rnd r L hj).trans ?_
    rw [qblkElem, blockVals_getD L hL hj, hv]
    cases two
    · rfl
    · cases bitAt (laneAt L j) 31 <;> rfl

/-- Settles O38: each instruction is a V instruction with its lane function; the conversions, blocks, scans and reductions are
known by their lanes. -/
theorem vectorConvertAndCross : Obligations.VectorConvertAndCross := by
  unfold Obligations.VectorConvertAndCross
  refine ⟨fun s h d a b el ex two src ty op rt n z rnd hr => ⟨fun hg => State.vec_next hr hg .., fun hg => ?_,
      fun hg => State.vec_next hr hg .., fun hg => State.vec_next hr hg ..⟩,
    fun rnd r el j k A B L two ex mask p f g S => ⟨⟨cvtLane_i32_ui32 .., cvtLane_ui32_i32 ..⟩,
      fun _ => ⟨cvtLane_i32_i16x2 .., cvtLane_i16x2_ui8x4 ..⟩, cvtLane_i16x2_i32 .., fun hk => cvtLane_ui8x4_i16x2 _ _ _ _ _ _ hk,
      fun hL => qblkLanes_fields two rnd r hL j k, fun hj hs => dqblkLanes_nan two rnd r L hj hs, fun n => laneOp_int rnd n A B,
      fun op ty n ht => laneOp_laneId op ht rnd n A, rfl, rfl, rfl, fun hL hj hm => ?_, fun hL h0 hS => ?_⟩⟩
  · exact ⟨State.vec_next hr hg .., State.vec_next hr hg .., State.vec_next hr hg .., State.vec_next hr hg ..,
      State.vec_next hr hg ..⟩
  · exact laneAt_scanGo ex mask f (laneAt L) L 0 p (fun i _ => by rw [Nat.zero_add]) (hL ▸ hj) (by rwa [Nat.zero_add])
  · exact redTree_eq g S hS 6 0 L hL fun i _ => (h0 i).symm

end Sys2Proof.Machine
end

section
/-! PROOF. Compares, moves and predicates, and the frame of the V instructions (O39, O40). -/

namespace Sys2Proof.Machine

/-! ## Compares, moves and predicates -/

/-- A V instruction without a source, a destination or a lane meets no domain. -/
theorem State.vGo_void (s : State) : s.vGo .void [] 0 false := ⟨rfl, rfl, rfl, rfl⟩

theorem State.sendVerdict_next {s : State} {h : Hdr} (hr : s.ready .v h) {a : Src} (hv : s.sendVerdict a = .go) :
    exec (.vSend h a) s = .next (s.done .v h 1 64 (fun y =>
      ({ y.popLqs [a] with send := y.send ++ [QLine.claim y.nextId 0], nextId := y.nextId + 1 }).inFlight .v 1 (s.cyc s.me) 2
        (.send y.nextId (sendValue (s.lanesOf a))))) := by
  have hx : exec (.vSend h a) s = execVSend h a s := rfl
  rw [hx, execVSend, hv, State.issue_ready hr]
  exact congrArg _ (State.done_congr (by rw [State.lanesOf]) ..)

/-- The state after a predicate instruction (R166): the bits of Zd that `Z` enables are on their way. -/
theorem State.zop_ready {s : State} {h : Hdr} (hr : s.ready .v h) (zd za zb z : BitVec 3) (op : Word → Word → Word) :
    s.zop h zd za zb z op = s.vAfter h .void [] 0 .rne 1 64
      [.zreg zd (s.mask z) (op ((s.ctx s.me).regs.zget za) ((s.ctx s.me).regs.zget zb))] [] :=
  State.vec_ready hr s.vGo_void ..

/-- Settles O39: each instruction is a V instruction with its lane function, predicate writes, latency and energy. -/
theorem vectorMoves : Obligations.VectorMoves := by
  unfold Obligations.VectorMoves
  intro s h d a b c z zt zd za zb fc ic k imm hr
  exact ⟨fun hg => ⟨State.vec_next hr hg .., State.vec_next hr hg ..⟩, fun hg => State.vec_next hr hg ..,
    fun hg => State.vec_next hr hg .., State.vec_next hr s.vGo_void .., congrArg _ (State.zop_ready hr ..),
    congrArg _ (State.zop_ready hr ..), congrArg _ (State.zop_ready hr ..), fun hg => State.vec_next hr hg ..,
    fun hv => State.sendVerdict_next hr hv⟩


/-! ## The frame of the V instructions -/

/-- Every instruction with a vector destination is a V instruction. -/
theorem exec_of_vecDest {i : Instr} {h : Hdr} {d : Dst} {rnd : Rnd} (hi : i.vecDest = some (h, d, rnd)) (s : State) :
    ∃ srcs mask lat units cross zs f, exec i s = .next (s.vec h d srcs mask rnd lat units cross zs f) := by
  unfold Instr.vecDest at hi
  split at hi <;> cases hi <;> exact ⟨_, _, _, _, _, _, _, rfl⟩

/-- Predicate writes are results on their way. -/
theorem Ctx.foldl_inFlight (mask : Word) (cyc lat : Nat) (zs : List PendDst) (x : Ctx) :
    ∃ p, zs.foldl (fun y z => y.inFlight .v mask cyc lat z) x = { x with pend := p } := by
  induction zs generalizing x with
  | nil => exact ⟨x.pend, rfl⟩
  | cons z t ih => exact ih (x.inFlight .v mask cyc lat z)

/-- A result goes on its way, and claims the tail of its SQ. -/
theorem Ctx.sendTo_eq (x : Ctx) (d : Dst) (mask : Word) (v : List Lane) (cyc lat : Nat) :
    ∃ p sq n, x.sendTo d mask v cyc lat = { x with pend := p, sq := sq, nextId := n } ∧
      ∀ q : BitVec 3, d ≠ .sq q → sq.getD q.toNat [] = x.squeue q := by
  cases d with
  | sq q' =>
    refine ⟨_, _, _, rfl, fun q hq => ?_⟩
    have hne : q'.toNat ≠ q.toNat := fun h => hq (by rw [BitVec.eq_of_toNat_eq h])
    simp [Ctx.claimSq, Ctx.squeue, List.getD_eq_getElem?_getD, List.getElem?_set_ne hne]
  | row i => exact ⟨_, _, _, rfl, fun _ _ => rfl⟩
  | col i => exact ⟨_, _, _, rfl, fun _ _ => rfl⟩
  | dia i => exact ⟨_, _, _, rfl, fun _ _ => rfl⟩
  | void => exact ⟨_, _, _, rfl, fun _ _ => rfl⟩

theorem Ctx.stepSr_eq (x : Ctx) (rnd : Rnd) :
    x.stepSr rnd = { x with sys := { x.sys with srseq := x.sys.srseq + if rnd = .sr then 1 else 0 } } := by
  unfold Ctx.stepSr
  split
  · rfl
  · have h0 : x.sys.srseq + 0 = x.sys.srseq := BitVec.add_zero _
    rw [h0]

/-- The context of an issued V instruction: only the LQs, the tail of an SQ, the results on their way and SRSEQ differ. -/
theorem Ctx.vec_eq (x : Ctx) (d : Dst) (srcs : List Src) (mask : Word) (rnd : Rnd) (cyc lat : Nat) (zs : List PendDst) (v : List Lane) :
    ∃ lq p sq n, zs.foldl (fun y z => y.inFlight .v mask cyc lat z) (((x.popLqs srcs).sendTo d mask v cyc lat).stepSr rnd) =
        { x with lq := lq, pend := p, sq := sq, nextId := n, sys := { x.sys with srseq := x.sys.srseq + if rnd = .sr then 1 else 0 } } ∧
      ∀ q : BitVec 3, d ≠ .sq q → sq.getD q.toNat [] = x.squeue q := by
  obtain ⟨p, sq, n, hs, hq⟩ := (x.popLqs srcs).sendTo_eq d mask v cyc lat
  obtain ⟨p', hp⟩ := Ctx.foldl_inFlight mask cyc lat zs (((x.popLqs srcs).sendTo d mask v cyc lat).stepSr rnd)
  refine ⟨(x.popLqs srcs).lq, p', sq, n, ?_, hq⟩
  rw [hp, hs, Ctx.stepSr_eq]
  rfl

/-! ## A fault leaves V's head -/

theorem Ctx.v_finishSync (x : Ctx) (f : Nat) : (x.finishSync f).v = x.v := by
  unfold Ctx.finishSync
  split
  · split
    · rfl
    · dsimp only
      split <;> rfl
  · rfl

theorem Stream.queue_cut (t : Stream) : t.cut.queue = t.queue := by
  unfold Stream.cut
  split <;> rfl

theorem Ctx.v_queue_cut (x : Ctx) (f time : Nat) : (x.cut f time).v.queue = x.v.queue := by
  unfold Ctx.cut
  dsimp only
  split
  · exact congrArg _ (x.v_finishSync f)
  · exact (Stream.queue_cut _).trans (congrArg _ (x.v_finishSync f))

theorem Ctx.v_queue_freeze (x : Ctx) (d : Nat) : (x.freeze d).v.queue = x.v.queue := by
  have hf (t : Stream) : t.freeze.queue = t.queue := by
    unfold Stream.freeze
    split
    · rfl
    · exact t.queue_cut
  unfold Ctx.freeze
  dsimp only
  rw [hf]
  split
  · rfl
  · rw [Ctx.v_finishSync]

theorem Ctx.v_queue_uncount (x : Ctx) (st : Strm) : (x.uncount st).v.queue = x.v.queue := by
  unfold Ctx.uncount
  split
  · cases st <;> rfl
  · rfl

theorem State.v_queue_uncounted (s : State) (n : Nat) (st : Strm) (t : Trap) :
    ((s.uncounted n st t).ctx n).v.queue = (s.ctx n).v.queue := by
  unfold State.uncounted
  split
  · rfl
  · rw [State.ctx_modCtx_same, Ctx.v_queue_uncount]

/-- Outside handler mode a fault leaves V's head in its queue. -/
theorem State.v_queue_raise {s : State} {n : Nat} (hm : (s.ctx n).mode = .run) (hh : (s.ctx n).frame.handler = false) (st : Strm)
    (t : Trap) : ((s.raise n st t).ctx n).v.queue = (s.ctx n).v.queue := by
  cases hw : (s.ctx n).stopWaits with
  | false =>
    rw [State.ctx_raise_enter st t hm hh hw]
    exact (Ctx.v_queue_cut ..).trans (State.v_queue_uncounted ..)
  | true =>
    have hr : s.raise n st t = (s.uncounted n st t).stopWait n (some (t, st)) := by simp [State.raise, hm, hw]
    have hctx (u : State) : (u.withdraw n).ctx n = u.ctx n := rfl
    rw [hr, State.stopWait, State.ctx_modCtx_same]
    refine (Ctx.v_queue_freeze ..).trans ?_
    split
    · exact State.v_queue_uncounted ..
    · rw [hctx]
      exact State.v_queue_uncounted ..

theorem State.handler_of_ready_v {s : State} {h : Hdr} (hr : s.ready .v h) : (s.ctx s.me).frame.handler = false := by
  obtain ⟨ht, -, -, -⟩ := hr
  simp only [Ctx.tries, Bool.and_eq_true, Bool.or_eq_true, Bool.not_eq_true', beq_iff_eq, reduceCtorEq, or_false] at ht
  exact ht.2

/-- A V instruction whose head has left its queue has issued. -/
theorem State.vec_issued {s : State} {h : Hdr} (hr : s.ready .v h) {d : Dst} {srcs : List Src} {mask : Word} {rnd : Rnd}
    {lat units : Nat} {cross : Bool} {zs : Ctx → List PendDst} {f : Ctx → List Lane} (hq : (s.ctx s.me).v.queue ≠ [])
    (hq' : ((s.vec h d srcs mask rnd lat units cross zs f).ctx s.me).v.queue = (s.ctx s.me).v.queue.tail) :
    s.vec h d srcs mask rnd lat units cross zs f = s.vAfter h d srcs mask rnd lat units (zs (s.ctx s.me)) (f (s.ctx s.me)) := by
  have hstay : (s.ctx s.me).v.queue ≠ (s.ctx s.me).v.queue.tail := by
    intro he
    have hl := congrArg List.length he
    rw [List.length_tail] at hl
    exact hq (List.length_eq_zero_iff.1 (by omega))
  unfold State.vec at hq' ⊢
  cases hv : s.vVerdict d srcs (vTouches s.me d srcs mask cross) with
  | go =>
    rw [State.issue_ready hr]
    exact State.done_congr rfl ..
  | hold c =>
    rw [hv, State.issue_hold_ready hr, State.hold, State.ctx_modCtx_same] at hq'
    exact absurd hq' hstay
  | trap t =>
    rw [hv, State.issue_trap_ready hr, State.v_queue_raise (State.mode_of_ready hr) (State.handler_of_ready_v hr)] at hq'
    exact absurd hq' hstay

/-- Settles O40: the issue changes its own context only, and of that the LQs, one SQ's tail, the results on their way and SRSEQ. -/
theorem vectorFrame : Obligations.VectorFrame := by
  unfold Obligations.VectorFrame
  intro s t i h d rnd hi hr ht hq hq'
  obtain ⟨srcs, mask, lat, units, cross, zs, f, hx⟩ := exec_of_vecDest hi s
  rw [hx] at ht
  cases ht
  rw [State.vec_issued hr hq hq', State.vAfter]
  obtain ⟨lq, p, sq, n, hv, hsq⟩ := (s.ctx s.me).vec_eq d srcs mask rnd (s.cyc s.me) lat (zs (s.ctx s.me)) (f (s.ctx s.me))
  refine ⟨State.onlyCtx_done .., (by simp : s.Keeps true _).sameBytes, ?_⟩
  rw [State.ctx_done, hv]
  exact ⟨rfl, rfl, rfl, rfl, rfl, rfl, rfl, rfl, rfl, hsq, rfl, rfl⟩

end Sys2Proof.Machine
end

section
/-! PROOF. Results and fills land (O41). -/

namespace Sys2Proof.Machine

/-! ## The next result to land -/

/-- The earlier of a result chosen so far and another. -/
def Pend.choose (r : Option Pend) (p : Pend) : Option Pend :=
  match r with
  | none => some p
  | some q => if q.before p then some q else some p

theorem nextPend_eq (ps : List Pend) (cyc : Nat) :
    nextPend ps cyc = (ps.filter (fun p => p.due ≤ cyc && !p.captured)).foldl Pend.choose none := rfl

theorem Pend.foldl_choose_mem (l : List Pend) (r : Option Pend) {p : Pend} (hp : l.foldl Pend.choose r = some p) : p ∈ l ∨ r = some p := by
  induction l generalizing r with
  | nil => exact .inr hp
  | cons a t ih =>
    rcases ih (Pend.choose r a) hp with h | h
    · exact .inl (List.mem_cons_of_mem a h)
    · unfold Pend.choose at h
      split at h
      · cases h
        exact .inl List.mem_cons_self
      · split at h
        · exact .inr h
        · cases h
          exact .inl List.mem_cons_self

/-- The result that lands is due and not captured. -/
theorem nextPend_some {ps : List Pend} {cyc : Nat} {p : Pend} (hp : nextPend ps cyc = some p) :
    p.due ≤ cyc ∧ p.captured = false ∧ p ∈ ps := by
  rw [nextPend_eq] at hp
  rcases Pend.foldl_choose_mem _ _ hp with h | h
  · obtain ⟨hm, hd⟩ := List.mem_filter.1 h
    simp only [Bool.and_eq_true, decide_eq_true_eq, Bool.not_eq_true'] at hd
    exact ⟨hd.1, hd.2, hm⟩
  · cases h

/-! ## Fills of queue entries -/

theorem mem_mapEntry {q : List QLine} {e : QLine} (he : e ∈ q) (id : Nat) (f : QLine → QLine) :
    (if e.id = id then f e else e) ∈ mapEntry q id f := List.mem_map.2 ⟨e, he, rfl⟩

theorem getD_set_same {α : Type} (l : List (List α)) {i : Nat} {v : List α} {a : α} (ha : a ∈ l.getD i []) : (l.set i v).getD i [] = v := by
  have hi : i < l.length := by
    by_contra hn
    rw [List.getD_eq_getElem?_getD, List.getElem?_eq_none (Nat.le_of_not_lt hn)] at ha
    cases ha
  simp [List.getD_eq_getElem?_getD, hi]

theorem getD_set_other {α : Type} (l : List (List α)) {i k : Nat} (h : i ≠ k) (v : List α) : (l.set i v).getD k [] = l.getD k [] := by
  simp [List.getD_eq_getElem?_getD, List.getElem?_set_ne h]

/-- What the change of an LQ entry makes of an entry of any LQ. -/
theorem Ctx.mem_mapLq {x : Ctx} {q : BitVec 3} {e : QLine} (he : e ∈ x.lqueue q) (p : BitVec 3) (id : Nat) (f : QLine → QLine) :
    (if p = q ∧ e.id = id then f e else e) ∈ (x.mapLq p.toNat id f).lqueue q := by
  by_cases hp : p = q
  · subst hp
    rw [Ctx.lqueue, Ctx.mapLq, getD_set_same _ he]
    simp only [true_and]
    exact mem_mapEntry he id f
  · have hne : p.toNat ≠ q.toNat := fun h => hp (BitVec.eq_of_toNat_eq h)
    rw [Ctx.lqueue, Ctx.mapLq, getD_set_other _ hne, if_neg fun h => hp h.1]
    exact he

/-- A fill that reaches its entry (R126). -/
def Fill.into (f : Fill) (e : QLine) : QLine := { e with filled := true, lanes := f.lanes, bad := e.bad.or f.bad, left := 0 }

/-- What fills make of an entry of one LQ. -/
def fillsOn (q : BitVec 3) (fs : List Fill) (e : QLine) : QLine :=
  fs.foldl (fun e f => if f.q = q ∧ e.id = f.id then f.into e else e) e

/-- The context after fills have reached their entries. -/
def Ctx.fillAll (x : Ctx) (fs : List Fill) : Ctx := fs.foldl (fun y f => y.mapLq f.q.toNat f.id f.into) x

theorem Ctx.fillAll_eq (fs : List Fill) (x : Ctx) : ∃ lq, x.fillAll fs = { x with lq := lq } := by
  induction fs generalizing x with
  | nil => exact ⟨x.lq, rfl⟩
  | cons f t ih => exact ih (x.mapLq f.q.toNat f.id f.into)

theorem Ctx.mem_fillAll (fs : List Fill) {x : Ctx} {q : BitVec 3} {e : QLine} (he : e ∈ x.lqueue q) :
    fillsOn q fs e ∈ (x.fillAll fs).lqueue q := by
  induction fs generalizing x e with
  | nil => exact he
  | cons f t ih => exact ih (Ctx.mem_mapLq he f.q f.id f.into)

theorem fillsOn_none {q : BitVec 3} {fs : List Fill} {e : QLine} (h : ∀ f ∈ fs, ¬ (f.q = q ∧ f.id = e.id)) : fillsOn q fs e = e := by
  induction fs with
  | nil => rfl
  | cons f t ih =>
    obtain ⟨hf, ht⟩ := List.forall_mem_cons.1 h
    have hn : ¬ (f.q = q ∧ e.id = f.id) := fun hc => hf ⟨hc.1, hc.2.symm⟩
    rw [fillsOn, List.foldl_cons, if_neg hn]
    exact ih ht

/-- An entry that a fill has reached stays so under the same fill. -/
theorem fillsOn_filled {f : Fill} {fs : List Fill} (hu : ∀ g ∈ fs, g.q = f.q → g.id = f.id → g = f) {e : QLine} (hid : e.id = f.id)
    (hf : e.filled = true) (hl : e.lanes = f.lanes) (hb : e.bad.or f.bad = e.bad) :
    (fillsOn f.q fs e).id = f.id ∧ (fillsOn f.q fs e).filled = true ∧ (fillsOn f.q fs e).lanes = f.lanes ∧
      (fillsOn f.q fs e).bad = e.bad := by
  induction fs generalizing e with
  | nil => exact ⟨hid, hf, hl, rfl⟩
  | cons g t ih =>
    obtain ⟨hg, ht⟩ := List.forall_mem_cons.1 hu
    rw [fillsOn, List.foldl_cons]
    by_cases hk : g.q = f.q ∧ e.id = g.id
    · obtain rfl := hg hk.1 (hk.2.symm.trans hid)
      rw [if_pos hk]
      obtain ⟨h1, h2, h3, h4⟩ := ih ht (e := g.into e) hid rfl rfl (by rw [Fill.into, hb, hb])
      exact ⟨h1, h2, h3, h4.trans hb⟩
    · rw [if_neg hk]
      exact ih ht hid hf hl hb

/-- The only fill of an entry reaches it. -/
theorem fillsOn_one {f : Fill} {fs : List Fill} (hu : ∀ g ∈ fs, g.q = f.q → g.id = f.id → g = f) (hm : f ∈ fs) {e : QLine}
    (hid : e.id = f.id) :
    (fillsOn f.q fs e).id = f.id ∧ (fillsOn f.q fs e).filled = true ∧ (fillsOn f.q fs e).lanes = f.lanes ∧
      (fillsOn f.q fs e).bad = e.bad.or f.bad := by
  induction fs with
  | nil => cases hm
  | cons g t ih =>
    obtain ⟨hg, ht⟩ := List.forall_mem_cons.1 hu
    rw [fillsOn, List.foldl_cons]
    by_cases hk : g.q = f.q ∧ e.id = g.id
    · obtain rfl := hg hk.1 (hk.2.symm.trans hid)
      rw [if_pos hk]
      exact fillsOn_filled ht hid rfl rfl (by rw [Fill.into, Option.or_assoc, Option.or_self])
    · rw [if_neg hk]
      rcases List.mem_cons.1 hm with rfl | hm
      · exact absurd ⟨rfl, hid⟩ hk
      · exact ih ht hm

theorem exec_lqFill (core : Nat) (s : State) :
    exec (.lqFill core) s = .next (s.modCtx core (fun x =>
      ({ x with fills := x.fills.filter (fun f => !(f.due ≤ s.cyc core)) } : Ctx).fillAll
        (x.fills.filter (fun f => f.due ≤ s.cyc core)))) := rfl

/-! ## The grid after a landing -/

/-- The lanes of a line lie in different cells. -/
theorem lineCell_injective (l : Line) {j k : Nat} (h : lineCell l j = lineCell l k) : j = k := by
  cases l <;> simp only [lineCell] at h <;> omega

theorem Regs.cell_setCell (r : Regs) (c d : Nat) (v : Lane) : (r.setCell c v).cell d = if d = c then v else r.cell d := by
  unfold Regs.cell Regs.setCell
  by_cases hv : v = 0
  · by_cases hd : d = c
    · subst hd
      simp [hv, Store.get]
    · simp [hv, hd, Store.get, Store.find_del_other _ hd]
  · by_cases hd : d = c
    · subst hd
      rw [if_neg hv, if_pos rfl, Store.get_put_same]
    · rw [if_neg hv, if_neg hd, Store.get_put_other _ hd]

/-- The first `n` lanes of a landing. -/
def Regs.setLanes (r : Regs) (x : Line) (mask : Word) (v : List Lane) (n : Nat) : Regs :=
  (upto 0 n).foldl (fun r j => if bitAt mask j then r.setCell (lineCell x j) (laneAt v j) else r) r

theorem Regs.setLanes_succ (r : Regs) (x : Line) (mask : Word) (v : List Lane) (n : Nat) : r.setLanes x mask v (n + 1) =
    if bitAt mask n then (r.setLanes x mask v n).setCell (lineCell x n) (laneAt v n) else r.setLanes x mask v n := by
  simp [Regs.setLanes, upto_succ]

theorem Regs.setLanes_eq (r : Regs) (x : Line) (mask : Word) (v : List Lane) (n : Nat) : ∃ g, r.setLanes x mask v n = { r with grid := g } := by
  induction n with
  | zero => exact ⟨r.grid, rfl⟩
  | succ n ih =>
    obtain ⟨g, hg⟩ := ih
    rw [Regs.setLanes_succ, hg]
    split
    · exact ⟨_, rfl⟩
    · exact ⟨g, rfl⟩

theorem Regs.cell_setLanes (r : Regs) (x : Line) (mask : Word) (v : List Lane) {n j : Nat} :
    (r.setLanes x mask v n).cell (lineCell x j) = if j < n ∧ bitAt mask j = true then laneAt v j else r.cell (lineCell x j) := by
  induction n with
  | zero => simp [Regs.setLanes, upto]
  | succ n ih =>
    have hc : lineCell x j = lineCell x n ↔ j = n := ⟨lineCell_injective x, fun h => by rw [h]⟩
    have hlt : j < n + 1 ↔ j = n ∨ j < n := by omega
    rw [Regs.setLanes_succ]
    by_cases hb : bitAt mask n = true
    · rw [if_pos hb, Regs.cell_setCell, if_congr hc rfl rfl, ih]
      by_cases hjn : j = n
      · subst hjn
        simp [hb]
      · simp [hjn, hlt]
    · rw [if_neg hb, ih]
      by_cases hjn : j = n
      · subst hjn
        simp [hb]
      · simp [hjn, hlt]

theorem Regs.setLine_eq (r : Regs) (x : Line) (mask : Word) (v : List Lane) : r.setLine x mask v = r.setLanes x mask v 64 := rfl

/-- Settles O41: the result chosen, the entries that fills reach, and the lanes that a landing writes. -/
theorem resultsLand : Obligations.ResultsLand := by
  unfold Obligations.ResultsLand
  refine ⟨fun s core => ⟨fun p hp => ?_, fun hn => ?_, _, exec_lqFill core s, State.onlyCtx_modCtx .., ?_, ?_⟩,
    fun x l m v L k w inS z cyc j => ?_⟩
  · obtain ⟨hd, hc, hm⟩ := nextPend_some hp
    have h1 : exec (.vResultWrite core) s = execVResultWrite core s := rfl
    have h2 : exec (.snapshotDeliver core) s = execSnapshotDeliver core s := rfl
    simp only [h1, h2, execVResultWrite, execSnapshotDeliver, hp]
    exact ⟨trivial, trivial, hd, hc, hm⟩
  · have h1 : exec (.vResultWrite core) s = execVResultWrite core s := rfl
    have h2 : exec (.snapshotDeliver core) s = execSnapshotDeliver core s := rfl
    simp only [h1, h2, execVResultWrite, execSnapshotDeliver, hn]
    exact ⟨trivial, trivial⟩
  · exact (by simp : s.Keeps true _).sameBytes
  · rw [State.ctx_modCtx_same]
    obtain ⟨lq, hlq⟩ := Ctx.fillAll_eq ((s.ctx core).fills.filter (fun f => f.due ≤ s.cyc core))
      { s.ctx core with fills := (s.ctx core).fills.filter (fun f => !(f.due ≤ s.cyc core)) }
    have hdue : ∀ f, f ∈ (s.ctx core).fills.filter (fun f => f.due ≤ s.cyc core) ↔ f ∈ (s.ctx core).fills ∧ f.due ≤ s.cyc core :=
      fun f => by simp
    refine ⟨by rw [hlq], ?_, fun f e hf hd hu he hid => ?_, fun q e hn he => ?_⟩
    · rw [hlq]
      refine List.filter_congr fun f _ => ?_
      rw [← decide_not]
      exact decide_eq_decide.2 Nat.not_le
    · obtain ⟨h1, h2, h3, h4⟩ := fillsOn_one (fun g hg hq hi => hu g ((hdue g).1 hg).1 ((hdue g).1 hg).2 hq hi)
        ((hdue f).2 ⟨hf, hd⟩) hid
      exact ⟨_, Ctx.mem_fillAll _ he, h1, h2, h3, h4⟩
    · have hm := Ctx.mem_fillAll ((s.ctx core).fills.filter (fun f => f.due ≤ s.cyc core))
        (x := { s.ctx core with fills := (s.ctx core).fills.filter (fun f => !(f.due ≤ s.cyc core)) }) he
      rwa [fillsOn_none fun f hf => hn f ((hdue f).1 hf).1 ((hdue f).1 hf).2] at hm
  · obtain ⟨g, hg⟩ := Regs.setLanes_eq x.regs l m L 64
    have hline : (x.land cyc (.line l m L)).regs = x.regs.setLanes l m L 64 := rfl
    refine ⟨fun hj => ?_, ?_, ?_, ?_, ?_, ?_, ?_, rfl, rfl, rfl, fun q id e he hid => ?_⟩
    · rw [hline, Regs.line, Regs.line, laneAt_lanes _ hj, laneAt_lanes _ hj, Regs.cell_setLanes]
      simp [hj]
    · rw [hline, hg]
    · rw [hline, hg]
    · rw [hline, hg]
    · rw [hline, hg]
    · rw [hline, hg]
    · rw [hline, hg]
    · have hq : (x.land cyc (.sq q id L)).squeue q =
          mapEntry (x.squeue q) id (fun e => { e with filled := true, lanes := L, at_ := cyc }) := getD_set_same _ he
      have hm := mem_mapEntry he id (fun e => { e with filled := true, lanes := L, at_ := cyc })
      rw [if_pos hid] at hm
      exact ⟨{ e with filled := true, lanes := L, at_ := cyc }, hq ▸ hm, hid, rfl, rfl⟩

end Sys2Proof.Machine
end

section
/-! PROOF. The loops and branches of the bundle streams, and the words at which the streams meet (O42, O43). -/

namespace Sys2Proof.Machine

/-! ## The ALL words of loops and branches, at issue -/

section Words
variable {s : State} {idle : BitVec 10} {st : Strm}

/-- A loop word with SRC = 0 only issues. -/
theorem execAllLoop_known (hst : s.cur.st = st) (hh : (s.ctx s.me).frame.handler = false) (hr : s.ready st (allHdr idle))
    (lp : BitVec 2) (count : BitVec 17) (end20 : BitVec 20) :
    execAllLoop idle lp false count end20 s = .next (s.done st (allHdr idle) 1 8 id) := by
  rw [execAllLoop, State.allWord_run hh, hst]
  exact State.issue_next hr _

/-- At C a loop word with SRC = 1 pushes its count, when the broadcast queue has room. -/
theorem execAllLoop_c (hst : s.cur.st = .c) (hh : (s.ctx s.me).frame.handler = false) (lp : BitVec 2) (count : BitVec 17)
    (end20 : BitVec 20) :
    execAllLoop idle lp true count end20 s =
      .next (s.issue .c (allHdr idle) (if 8 ≤ (s.ctx s.me).bq.length then .hold .busy else .go)
        (s.done .c (allHdr idle) 1 8 (fun y =>
          { y with bq := bqPush y.bq (s.reg (count.setWidth 5)) (s.cyc s.me)
                   c := y.c.learn lp.toNat (((s.ctx s.me).strm .c).head + end20.toNat)
                     (min (s.reg (count.setWidth 5)).toNat 131071) }))) := by
  rw [execAllLoop, State.allWord_run hh, hst]
  rfl

/-- The other streams pop the count, when it is there. -/
theorem execAllLoop_pop (hst : s.cur.st = st) (hc : st ≠ .c) (hh : (s.ctx s.me).frame.handler = false)
    (hr : s.ready st (allHdr idle)) {v : Word} (hb : bqHead (s.ctx s.me).bq st (s.cyc s.me) = some v) (lp : BitVec 2)
    (count : BitVec 17) (end20 : BitVec 20) :
    execAllLoop idle lp true count end20 s = .next (s.done st (allHdr idle) 1 8 (fun y =>
      ({ y with bq := bqPop y.bq st }).modStrm st
        (fun t => t.learn lp.toNat (((s.ctx s.me).strm st).head + end20.toNat) (min v.toNat 131071)))) := by
  rw [execAllLoop, State.allWord_run hh, hst]
  cases st with
  | c => exact absurd rfl hc
  | l | v | s =>
    simp only [hb, loopCount]
    exact State.issue_next hr _

/-- They wait while the queue holds nothing for them. -/
theorem execAllLoop_wait (hst : s.cur.st = st) (hc : st ≠ .c) (hh : (s.ctx s.me).frame.handler = false)
    (hr : s.ready st (allHdr idle)) (hb : bqHead (s.ctx s.me).bq st (s.cyc s.me) = none) (lp : BitVec 2)
    (count : BitVec 17) (end20 : BitVec 20) : execAllLoop idle lp true count end20 s = .next (s.hold st .busy) := by
  rw [execAllLoop, State.allWord_run hh, hst]
  cases st with
  | c => exact absurd rfl hc
  | l | v | s =>
    simp only [hb]
    exact congrArg Host.Outcome.next (State.issue_hold_ready hr _ s)

variable {a b : BitVec 5} {cnd : Cnd} {ofs : BitVec 27} {tgt : Nat}

/-- At C a branch word pushes its outcome, when the broadcast queue has room. -/
theorem execAllBr_c (hst : s.cur.st = .c) (hh : (s.ctx s.me).frame.handler = false)
    (ht : (s.ctx s.me).target .c ofs.toInt = some tgt) :
    execAllBr idle a b cnd ofs s =
      .next (s.issue .c (allHdr idle) (if 8 ≤ (s.ctx s.me).bq.length then .hold .busy else .go)
        (s.done .c (allHdr idle) (if cndHolds cnd (s.reg a) (s.reg b) then 3 else 1) 8 (fun y =>
          { y with bq := bqPush y.bq (if cndHolds cnd (s.reg a) (s.reg b) then 1 else 0) (s.cyc s.me)
                   c := if cndHolds cnd (s.reg a) (s.reg b) then y.c.goto tgt else y.c }))) := by
  rw [execAllBr, State.allWord_run hh, hst]
  simp only [ht]
  rfl

/-- The other streams pop the outcome, when it is there. -/
theorem execAllBr_pop (hst : s.cur.st = st) (hc : st ≠ .c) (hh : (s.ctx s.me).frame.handler = false)
    (hr : s.ready st (allHdr idle)) (ht : (s.ctx s.me).target st ofs.toInt = some tgt) {v : Word}
    (hb : bqHead (s.ctx s.me).bq st (s.cyc s.me) = some v) :
    execAllBr idle a b cnd ofs s = .next (s.done st (allHdr idle) 1 8 (fun y =>
      ({ y with bq := bqPop y.bq st }).modStrm st (fun t => if v = 0 then t else t.goto tgt))) := by
  rw [execAllBr, State.allWord_run hh, hst]
  simp only [ht]
  cases st with
  | c => exact absurd rfl hc
  | l | v | s =>
    simp only [hb]
    exact State.issue_next hr _

/-- They wait while the queue holds nothing for them. -/
theorem execAllBr_wait (hst : s.cur.st = st) (hc : st ≠ .c) (hh : (s.ctx s.me).frame.handler = false)
    (hr : s.ready st (allHdr idle)) (ht : (s.ctx s.me).target st ofs.toInt = some tgt)
    (hb : bqHead (s.ctx s.me).bq st (s.cyc s.me) = none) : execAllBr idle a b cnd ofs s = .next (s.hold st .busy) := by
  rw [execAllBr, State.allWord_run hh, hst]
  simp only [ht]
  cases st with
  | c => exact absurd rfl hc
  | l | v | s =>
    simp only [hb]
    exact congrArg _ (State.issue_hold_ready hr _ _)

/-- A branch word without a target is an illegal word with detail 6. -/
theorem execAllBr_illegal (hst : s.cur.st = st) (hh : (s.ctx s.me).frame.handler = false)
    (ht : (s.ctx s.me).target st ofs.toInt = none) : execAllBr idle a b cnd ofs s = exec (.illegalWord 6) s := by
  rw [execAllBr, State.allWord_run hh, hst]
  simp only [ht]
  rw [← hst]
  rfl

end Words

/-! ## The loop that ends at an address -/

/-- The greatest of a list by an order, where all others lie below it: what the choice of the most recent loop gives. -/
theorem foldl_latest {f : Option Nat → Nat → Option Nat} {ord : Nat → Nat} (f_none : ∀ k, f none k = some k)
    (f_some : ∀ m k, f (some m) k = if ord m < ord k then some k else some m) {n : Nat} :
    ∀ (l : List Nat) (r : Option Nat), (∀ m, r = some m → m = n ∨ ord m < ord n) → (∀ k ∈ l, k = n ∨ ord k < ord n) →
      (r = some n ∨ n ∈ l) → l.foldl f r = some n
  | [], r, _, _, hn => by simpa using hn
  | k :: l, r, hr, hl, hn => by
    have step : f r k = some n ∨ f r k ≠ some n ∧ k ≠ n ∧ ∀ m, f r k = some m → ord m < ord n := by
      have hk := hl k (by simp)
      cases r with
      | none => rw [f_none]; grind
      | some m => rw [f_some]; have := hr m rfl; grind
    refine foldl_latest f_none f_some l _ (fun m hm => ?_) (fun j hj => hl j (by simp [hj])) ?_
    · rcases step with h | ⟨-, -, h⟩
      · exact .inl (by simpa using (hm.symm.trans h))
      · exact .inr (h m hm)
    · rcases step with h | ⟨h, hk, -⟩
      · exact .inl h
      · refine .inr ?_
        rcases hn with rfl | hn
        · rw [f_some] at h
          have := hl k (by simp)
          grind
        · simpa [Ne.symm hk] using hn

/-- The loop of number n ends at address a, as the choice of `loopAt` sees it. -/
def endsAt (ls : List Loop) (a n : Nat) : Prop :=
  n < 4 ∧ (ls.getD n Loop.init).active = true ∧ (ls.getD n Loop.init).last = a

/-- `loopAt` chooses among the loops that end at the address and were set up before the given order. -/
theorem mem_filter_endsAt {ls : List Loop} {a below k : Nat} :
    k ∈ (upto 0 4).filter (fun n => let l := ls.getD n Loop.init; l.active && l.last == a && l.order < below) ↔
      endsAt ls a k ∧ (ls.getD k Loop.init).order < below := by
  simp only [List.mem_filter, upto_eq_range', List.mem_range', Bool.and_eq_true, beq_iff_eq, decide_eq_true_eq, endsAt]
  constructor
  · rintro ⟨⟨i, hi, rfl⟩, ⟨ha, hl⟩, ho⟩
    exact ⟨⟨by omega, ha, hl⟩, ho⟩
  · rintro ⟨⟨hk, ha, hl⟩, ho⟩
    exact ⟨⟨k, hk, by omega⟩, ⟨ha, hl⟩, ho⟩

theorem loopAt_none {ls : List Loop} {a below : Nat} (h : ∀ k, ¬ endsAt ls a k) : loopAt ls a below = none := by
  rw [loopAt, List.eq_nil_iff_forall_not_mem.mpr (fun k hk => h k (mem_filter_endsAt.mp hk).1)]
  rfl

/-- The most recently set up of the loops that end at the address. -/
theorem loopAt_some {ls : List Loop} {a below n : Nat} (hn : endsAt ls a n) (ho : (ls.getD n Loop.init).order < below)
    (most : ∀ k, endsAt ls a k → k ≠ n → (ls.getD k Loop.init).order < (ls.getD n Loop.init).order) :
    loopAt ls a below = some n := by
  refine foldl_latest (ord := fun k => (ls.getD k Loop.init).order) (fun _ => rfl) (fun _ _ => rfl) _ _ (by simp)
    (fun k hk => ?_) (.inr (mem_filter_endsAt.mpr ⟨hn, ho⟩))
  by_cases hkn : k = n
  · exact .inl hkn
  · exact .inr (most k (mem_filter_endsAt.mp hk).1 hkn)

/-- No loop was set up after the most recent one. -/
theorem le_foldl_order : ∀ (ls : List Loop) (m : Nat), m ≤ ls.foldl (fun m l => max m l.order) m ∧
    ∀ l ∈ ls, l.order ≤ ls.foldl (fun m l => max m l.order) m
  | [], m => by simp
  | l :: ls, m => by
    obtain ⟨hm, hl⟩ := le_foldl_order ls (max m l.order)
    simp only [List.foldl_cons, List.mem_cons, forall_eq_or_imp]
    exact ⟨by omega, by omega, hl⟩

theorem order_lt_next {ls : List Loop} {l : Loop} (h : l ∈ ls) : l.order < 1 + ls.foldl (fun m l => max m l.order) 0 := by
  have := (le_foldl_order ls 0).2 l h
  omega

theorem lt_length_of_endsAt {ls : List Loop} {a n : Nat} (h : endsAt ls a n) : n < ls.length := by
  obtain ⟨-, ha, -⟩ := h
  by_contra hn
  rw [List.getD_eq_getElem?_getD, List.getElem?_eq_none (by omega)] at ha
  simp [Loop.init] at ha

theorem endsAt.order_lt {ls : List Loop} {a n : Nat} (h : endsAt ls a n) :
    (ls.getD n Loop.init).order < 1 + ls.foldl (fun m l => max m l.order) 0 := by
  have hn := lt_length_of_endsAt h
  rw [List.getD_eq_getElem?_getD, List.getElem?_eq_getElem hn]
  exact order_lt_next (List.getElem_mem hn)

theorem getD_set_lt {α : Type} {l : List α} {i : Nat} (h : i < l.length) (v d : α) : (l.set i v).getD i d = v := by
  simp [List.getD_eq_getElem?_getD, h]

theorem getD_set_ne {α : Type} {l : List α} {i k : Nat} (h : k ≠ i) (v d : α) : (l.set i v).getD k d = l.getD k d := by
  simp [List.getD_eq_getElem?_getD, List.getElem?_set_ne h.symm]

theorem endsAt_set_other {ls : List Loop} {a n k : Nat} (l : Loop) (h : k ≠ n) : endsAt (ls.set n l) a k ↔ endsAt ls a k := by
  rw [endsAt, endsAt, getD_set_ne h]

/-- A loop that is over, or that ends elsewhere, does not end at the address. -/
theorem not_endsAt_set_same {ls : List Loop} {a n : Nat} {l : Loop} (h : l.active = false ∨ l.last ≠ a) :
    ¬ endsAt (ls.set n l) a n := by
  intro he
  have hn : n < ls.length := by simpa using lt_length_of_endsAt he
  obtain ⟨-, ha, hl⟩ := he
  rw [getD_set_lt hn] at ha hl
  rcases h with h | h
  · rw [h] at ha; cases ha
  · exact h hl

/-! ## The fetch of one word -/

theorem passEnd_unknown {l : Loop} (h : l.unknown = true) : passEnd l = ({ l with iter := l.iter + 1 }, true) := by
  rw [passEnd, if_pos h]

theorem passEnd_back {l : Loop} (h : l.unknown = false) (hc : 1 < l.count) :
    passEnd l = ({ l with count := l.count - 1, iter := l.iter + 1 }, true) := by
  rw [passEnd, h, if_neg (by decide), if_pos hc]

theorem passEnd_over {l : Loop} (h : l.unknown = false) (hc : l.count ≤ 1) :
    passEnd l = ({ l with count := 0, iter := l.iter + 1, active := false }, false) := by
  rw [passEnd, h, if_neg (by decide), if_neg (by omega)]

section Pass
variable {ls : List Loop} {a below n : Nat} {l : Loop}

theorem passLoops_none (h : ∀ k, ¬ endsAt ls a k) : ∀ k, passLoops k ls a below = (ls, none)
  | 0 => rfl
  | k + 1 => by rw [passLoops, loopAt_none h]

/-- The most recent loop takes its back edge. -/
theorem passLoops_back (hat : loopAt ls a below = some n) (hp : passEnd (ls.getD n Loop.init) = (l, true)) (k : Nat) :
    passLoops (k + 1) ls a below = (ls.set n l, some ((ls.getD n Loop.init).back + 1)) := by
  simp only [passLoops, hat, hp, if_true]

/-- It is over, and the loops set up before it go on. -/
theorem passLoops_over (hat : loopAt ls a below = some n) (hp : passEnd (ls.getD n Loop.init) = (l, false)) (k : Nat) :
    passLoops (k + 1) ls a below = passLoops k (ls.set n l) a (ls.getD n Loop.init).order := by
  simp only [passLoops, hat, hp, Bool.false_eq_true, if_false]

end Pass

/-- The loops and the next address that a word gives its stream, before the loops that end at it count. -/
def Stream.entered (t : Stream) (st : Strm) (w : Word) : List Loop × Nat :=
  if takes st w then enterWord t.loops t.fetch w else (t.loops, t.fetch + 1)

/-- A word that is no loop word sets no counter up. -/
theorem Stream.entered_plain {t : Stream} {st : Strm} {w : Word}
    (h : ∀ idle lp src count end20, decode w ≠ .ok (.allLoop idle lp src count end20)) :
    t.entered st w = (t.loops, t.fetch + 1) := by
  rw [Stream.entered]
  split
  · rw [enterWord]
    split
    · next he =>
      exact (h _ _ _ _ _ he).elim
    · rfl
  · rfl

theorem Stream.entered_loop {t : Stream} {st : Strm} {w : Word} {idle : BitVec 10} {lp : BitVec 2} {src : Bool} {count : BitVec 17}
    {end20 : BitVec 20} (h : decode w = .ok (.allLoop idle lp src count end20)) (hw : takes st w = true) :
    t.entered st w = (setLoop t.loops lp.toNat (if src then 0 else count.toNat) src t.fetch (t.fetch + end20.toNat),
      if !src && count == 0 then t.fetch + end20.toNat + 1 else t.fetch + 1) := by
  rw [Stream.entered, if_pos hw, enterWord, h]

/-- The loops that end at the fetch address count after the word has set its own up. -/
def Stream.passed (t : Stream) (st : Strm) (w : Word) : List Loop × Option Nat :=
  passLoops 4 (t.entered st w).1 t.fetch (1 + (t.entered st w).1.foldl (fun m l => max m l.order) 0)

/-- The scan of one word outside handler mode: what it leaves of the stream. -/
theorem Stream.scanWord_user {text : Nat → Word} {st : Strm} {limit : Nat} {t : Stream} (he : t.ended = false)
    (ha : t.fetch < 0x8000) (hq : t.queue.length < 32) (hl : t.fetch ≤ limit) {ls : List Loop} {back : Option Nat} {next : Nat}
    (hp : t.passed st (text t.fetch) = (ls, back)) (hx : back.getD (t.entered st (text t.fetch)).2 = next) (hn : next ≤ limit) :
    ∃ u, t.scanWord text st false limit = some (u, back.isSome) ∧ u.loops = ls ∧ u.fetch = next ∧
      u.queue = if takes st (text t.fetch) = true then
        t.queue ++ [{ addr := t.fetch, word := text t.fetch, pre := t.loops, loops := ls }] else t.queue := by
  have hen : (if (takes st (text t.fetch) && !false) = true then enterWord t.loops t.fetch (text t.fetch)
      else (t.loops, t.fetch + 1)) = t.entered st (text t.fetch) := by
    rw [Bool.not_false, Bool.and_true]; rfl
  rw [Stream.passed] at hp
  rw [Stream.scanWord]
  simp only [he, hen, hp, Bool.false_eq_true, if_false, Bool.false_or, Bool.or_eq_true, decide_eq_true_eq, hx]
  rw [if_neg (by omega), if_neg (by simp; omega)]
  exact ⟨_, rfl, rfl, rfl, rfl⟩

/-- Beyond the bound of R13 a stream fetches nothing. -/
theorem Stream.scanWord_beyond {text : Nat → Word} {st : Strm} {limit : Nat} {t : Stream} (hl : limit < t.fetch) :
    t.scanWord text st false limit = none := by
  rw [Stream.scanWord]
  simp [hl]

section Scan
variable {text : Nat → Word} {st : Strm} {limit : Nat} {t : Stream} {n m : Nat}

/-- What `passed` answers for a word that sets no counter up. -/
theorem Stream.passed_plain {w : Word} (hw : t.entered st w = (t.loops, t.fetch + 1)) :
    t.passed st w = passLoops 4 t.loops t.fetch (1 + t.loops.foldl (fun m l => max m l.order) 0) := by
  rw [Stream.passed, hw]

/-- The most recent of the loops that end at the fetch address. -/
theorem loopAt_latest {ls : List Loop} {a : Nat} (hn : endsAt ls a n)
    (most : ∀ k, endsAt ls a k → k ≠ n → (ls.getD k Loop.init).order < (ls.getD n Loop.init).order) :
    loopAt ls a (1 + ls.foldl (fun m l => max m l.order) 0) = some n :=
  loopAt_some hn hn.order_lt most

/-- A loop that is over has no part in what follows. -/
theorem endsAt_set_over {ls : List Loop} {a : Nat} {l : Loop} (hl : l.active = false) {k : Nat} :
    endsAt (ls.set n l) a k ↔ k ≠ n ∧ endsAt ls a k := by
  by_cases hk : k = n
  · subst hk
    simp [not_endsAt_set_same (.inl hl)]
  · rw [endsAt_set_other _ hk]
    simp [hk]

/-- The next loop that ends at the address, once the most recent one is over. -/
theorem loopAt_next {ls : List Loop} {a : Nat} {l : Loop} (hl : l.active = false)
    (most : ∀ k, endsAt ls a k → k ≠ n → (ls.getD k Loop.init).order < (ls.getD n Loop.init).order)
    (hm : endsAt ls a m) (hmn : m ≠ n)
    (next : ∀ k, endsAt ls a k → k ≠ n → k ≠ m → (ls.getD k Loop.init).order < (ls.getD m Loop.init).order) :
    loopAt (ls.set n l) a (ls.getD n Loop.init).order = some m := by
  refine loopAt_some ((endsAt_set_over hl).mpr ⟨hmn, hm⟩) ?_ (fun k hk hkm => ?_)
  · rw [getD_set_ne hmn]
    exact most m hm hmn
  · obtain ⟨hkn, hk⟩ := (endsAt_set_over hl).mp hk
    rw [getD_set_ne hkn, getD_set_ne hmn]
    exact next k hk hkn hkm

end Scan

/-! ## A count that becomes known, and transfers -/

theorem Loop.init_learn (addr count : Nat) : Loop.init.learn addr count = Loop.init := rfl

theorem Loop.awaits_of {l : Loop} {addr : Nat} (hu : l.unknown = true) (hb : l.back = addr) : l.awaits addr = true := by
  simp only [Loop.awaits, hu, hb, beq_self_eq_true, Bool.and_self]

theorem getD_map_learn (ls : List Loop) (addr count n : Nat) :
    (ls.map (·.learn addr count)).getD n Loop.init = (ls.getD n Loop.init).learn addr count := by
  simp only [List.getD_eq_getElem?_getD, List.getElem?_map]
  cases ls[n]? <;> rfl

/-- The words of a queue stay as they are when a count becomes known. -/
theorem map_word_learn (q : List QEntry) (addr count : Nat) :
    (q.map (·.learn addr count)).map (fun e => (e.addr, e.word)) = q.map (fun e => (e.addr, e.word)) := by
  rw [List.map_map]
  rfl

section Learn
variable {t : Stream} {lp last count : Nat}

/-- A count beyond the passes made is taken over. -/
theorem Stream.learn_beyond (hu : (t.loops.getD lp Loop.init).unknown = true) (hb : (t.loops.getD lp Loop.init).back = t.head)
    (hi : (t.loops.getD lp Loop.init).iter < count) :
    t.learn lp last count = { t with loops := t.loops.map (·.learn t.head count), queue := t.queue.map (·.learn t.head count) } := by
  rw [Stream.learn]
  exact if_pos (by simp only [Stream.passes, Loop.awaits_of hu hb, if_true]; exact hi)

/-- A count of 0 leaves only the loop word. -/
theorem Stream.learn_zero : (t.learn lp last 0).queue = (t.queue.take 1).map (·.learn t.head 0) ∧
    (t.learn lp last 0).ended = false ∧ (t.learn lp last 0).fetch = last + 1 ∧
    ∀ e q, t.queue = e :: q → (t.learn lp last 0).loops = setLoop e.loops lp 0 false t.head last := by
  have hbody : t.bodyWords t.head lp 0 = [] := by
    rw [Stream.bodyWords]
    cases t.queue.drop 1 <;> simp
  rw [Stream.learn]
  simp only [hbody, Nat.not_lt_zero, if_false]
  exact ⟨rfl, rfl, rfl, fun e q hq => by simp only [hq]; rfl⟩

end Learn

theorem Stream.goto_loops {t : Stream} {e : QEntry} {q : List QEntry} (hq : t.queue = e :: q) (n : Nat) :
    (t.goto n).loops = e.loops := by
  rw [Stream.goto, hq]

/-- A loop word sets up a loop that does not end at the word itself. -/
theorem not_endsAt_setLoop {ls : List Loop} {a n last count : Nat} {unknown : Bool} (hl : last ≠ a)
    (h : ∀ k, k ≠ n → ¬ endsAt ls a k) (k : Nat) : ¬ endsAt (setLoop ls n count unknown a last) a k := by
  rw [setLoop]
  by_cases hk : k = n
  · subst hk
    exact not_endsAt_set_same (.inr hl)
  · rw [endsAt_set_other _ hk]
    exact h k hk

/-- The bits that a loop word's set-up is stated with. -/
theorem setLoop_active (src : Bool) (count : BitVec 17) :
    (src || (if src = true then 0 else count.toNat) != 0) = decide (¬ (src = false ∧ count = 0)) := by
  cases src with
  | true => rfl
  | false => simp [bne, ← BitVec.toNat_inj, beq_eq_decide]

theorem beq_skip (src : Bool) (count : BitVec 17) : ((!src && count == 0) = true) = (src = false ∧ count = 0) := by
  simp

/-- Settles O42: each word by its stream and its queue, the fetch of a word by the loops that end at it, and the counters that an
entry keeps. -/
theorem loopsAndBranches : Obligations.LoopsAndBranches := by
  unfold Obligations.LoopsAndBranches
  refine ⟨fun s idle lp count end20 a b cnd ofs st tgt v => ?_, fun text st t limit n m lp last => ?_⟩
  · intro h x last taken hst hh hr
    refine ⟨execAllLoop_known hst hh hr lp count end20, fun hc hq => ?_, fun hc hq => ?_,
      fun hc hb => execAllLoop_pop hst hc hh hr hb lp count end20, fun hc hb => execAllLoop_wait hst hc hh hr hb lp count end20,
      fun ht => ⟨fun hc hq => ?_, fun hc hb => execAllBr_pop hst hc hh hr ht hb, fun hc hq => ?_,
        fun hc hb => execAllBr_wait hst hc hh hr ht hb⟩, fun ht => execAllBr_illegal hst hh ht⟩
    · subst hc
      refine (execAllLoop_c hst hh lp count end20).trans ?_
      rw [if_neg (Nat.not_le.mpr hq)]
      exact State.issue_next hr _
    · subst hc
      refine (execAllLoop_c hst hh lp count end20).trans ?_
      rw [if_pos hq]
      exact congrArg Host.Outcome.next (State.issue_hold_ready hr _ _)
    · subst hc
      refine (execAllBr_c hst hh ht).trans ?_
      rw [if_neg (Nat.not_le.mpr hq)]
      exact State.issue_next hr _
    · subst hc
      refine (execAllBr_c hst hh ht).trans ?_
      rw [if_pos hq]
      exact congrArg Host.Outcome.next (State.issue_hold_ready hr _ _)
  · intro a w L ends counted done scans
    refine ⟨fun he ha hq hl => ⟨fun hw => ?_, fun idle lp src count end20 hw htk h20 hother => ?_⟩,
      fun hl => Stream.scanWord_beyond hl, fun count hu hb hi => ?_, ?_, fun e q hq => ⟨rfl, rfl, Stream.goto_loops hq n⟩⟩
    · have hen : t.entered st w = (t.loops, a + 1) := Stream.entered_plain hw
      have hpl := Stream.passed_plain hen
      refine ⟨fun hno hx => ?_, fun hends most => ?_⟩
      · exact Stream.scanWord_user he ha hq hl (hpl.trans (passLoops_none hno 4)) (congrArg Prod.snd hen) hx
      · have hat := loopAt_latest hends most
        refine ⟨fun hu hx => ?_, fun hu hc hx => ?_, fun hu hc only hx => ?_, fun hu hc hm hmn next hmu => ?_⟩
        · exact Stream.scanWord_user he ha hq hl (hpl.trans (passLoops_back hat (passEnd_unknown hu) 3)) rfl hx
        · exact Stream.scanWord_user he ha hq hl (hpl.trans (passLoops_back hat (passEnd_back hu hc) 3)) rfl hx
        · have hover := passLoops_over hat (passEnd_over hu hc) 3
          have hrest := passLoops_none (below := (L n).order) (ls := t.loops.set n (done (L n))) (a := a)
            (fun k hk => ((endsAt_set_over rfl).mp hk).1 (only k ((endsAt_set_over rfl).mp hk).2)) 3
          exact Stream.scanWord_user he ha hq hl (hpl.trans (hover.trans hrest)) (congrArg Prod.snd hen) hx
        · have hover := passLoops_over hat (passEnd_over hu hc) 3
          have hnext : loopAt (t.loops.set n (done (L n))) a (L n).order = some m := loopAt_next rfl most hm hmn next
          have hLm : (t.loops.set n (done (L n))).getD m Loop.init = L m := getD_set_ne hmn _ _
          refine ⟨fun hmc hx => ?_, fun hmc only hx => ?_⟩
          · have hb := passLoops_back hnext (by rw [hLm]; exact passEnd_back hmu hmc) 2
            rw [hLm] at hb
            exact Stream.scanWord_user he ha hq hl (hpl.trans (hover.trans hb)) rfl hx
          · have hb := passLoops_over hnext (by rw [hLm]; exact passEnd_over hmu hmc) 2
            have hrest := passLoops_none (below := (L m).order) (a := a)
              (ls := (t.loops.set n (done (L n))).set m (done (L m)))
              (fun k hk => by
                obtain ⟨hkm, hk⟩ := (endsAt_set_over rfl).mp hk
                obtain ⟨hkn, hk⟩ := (endsAt_set_over rfl).mp hk
                exact (only k hk).elim hkn hkm) 2
            rw [hLm] at hb
            exact Stream.scanWord_user he ha hq hl (hpl.trans (hover.trans (hb.trans hrest))) (congrArg Prod.snd hen) hx
    · intro skip next hn
      have hen : t.entered st w = _ := Stream.entered_loop hw htk
      have hlast : a + end20.toNat ≠ a := by
        have : end20.toNat ≠ 0 := fun h0 => h20 (BitVec.eq_of_toNat_eq h0)
        omega
      have hp : t.passed st w = (setLoop t.loops lp.toNat (if src then 0 else count.toNat) src a (a + end20.toNat), none) := by
        rw [Stream.passed, hen]
        exact passLoops_none (not_endsAt_setLoop hlast hother) 4
      refine ⟨1 + t.loops.foldl (fun m l => max m l.order) 0, fun l hm => order_lt_next hm, ?_⟩
      rw [setLoop, setLoop_active] at hp
      refine Stream.scanWord_user he ha hq hl hp ?_ hn
      rw [hen]
      simp only [Option.getD_none, beq_skip]
      rfl
    · intro u
      have hu' : u = _ := Stream.learn_beyond (last := last) hu hb hi
      rw [hu']
      refine ⟨?_, rfl, map_word_learn ..⟩
      rw [getD_map_learn, Loop.learn, if_pos (Loop.awaits_of hu hb)]
    · intro u
      obtain ⟨hqueue, hended, hfetch, hloops⟩ := Stream.learn_zero (t := t) (lp := lp) (last := last)
      refine ⟨hfetch, hended, ?_, fun e q hq hlp => ?_⟩
      · rw [hqueue]
        exact map_word_learn ..
      · rw [hloops e q hq, setLoop, getD_set_lt hlp]
        exact ⟨rfl, rfl, rfl⟩


/-! ## The words at which the four streams meet -/

section Stand
variable {s : State} {idle : BitVec 10} {st : Strm}

/-- A stream that may issue arrives at its barrier word. -/
theorem State.barrier_ready (hst : s.cur.st = st) (hh : (s.ctx s.me).frame.handler = false) (hr : s.ready st (allHdr idle))
    (k : StandAt) : Host.Outcome.next (σ := State) (φ := Fault) (ρ := Refusal) (s.barrier idle k) =
      .next (s.modCtx s.me (fun x => (x.arrive st (allHdr idle) k (s.cyc s.me)).meet (s.cyc s.me))) := by
  rw [State.barrier, State.allWord_run hh, hst]
  exact State.issue_next hr _

end Stand

theorem Ctx.stand_arrive (x : Ctx) (st : Strm) (h : Hdr) (k : StandAt) (cyc : Nat) :
    ((x.arrive st h k cyc).strm st).stand = some (cyc, k) := by
  rw [Ctx.arrive, Ctx.strm_modStrm_same]

theorem Ctx.charge_arrive (x : Ctx) (st : Strm) (h : Hdr) (k : StandAt) (cyc : Nat) :
    (x.arrive st h k cyc).sys.charge = x.sys.charge + if (x.strm st).anew then (x.strm st).owed else 8 := by
  rw [Ctx.arrive, Ctx.modStrm, Ctx.setStrm_sys]
  rfl

/-- Nothing changes while a stream does not stand at a barrier word. -/
theorem Ctx.meet_missing {x : Ctx} {st : Strm} (h : (x.strm st).barrierAt = none) (cyc : Nat) : x.meet cyc = x := by
  rw [Ctx.meet]
  cases st with
  | c | l | v | s =>
    simp only [Ctx.strm] at h
    split
    · simp_all
    · rfl

/-- The context in which all four streams have passed their barrier words, each first moved by `f`. -/
def Ctx.passed (x : Ctx) (f : Strm → Stream → Stream) (cyc : Nat) : Ctx :=
  { x with c := (f .c x.c).pass cyc, l := (f .l x.l).pass cyc, v := (f .v x.v).pass cyc, s := (f .s x.s).pass cyc }

theorem Ctx.strm_passed (x : Ctx) (f : Strm → Stream → Stream) (cyc : Nat) (st : Strm) :
    (x.passed f cyc).strm st = (f st (x.strm st)).pass cyc := by
  cases st <;> rfl

/-- Where a stream goes that passes `all.realign`: L, V and S to C's next word. -/
def Ctx.realigned (x : Ctx) (st : Strm) (t : Stream) : Stream := if st = .c then t else t.goto (x.c.head + 1)

section Meet
variable {x : Ctx} (all : ∀ st, (x.strm st).barrierAt ≠ none)
include all

theorem Ctx.meet_start (hk : x.c.barrierAt = some .start) (cyc : Nat) :
    x.meet cyc = { x.passed (fun _ t => t) cyc with launch := { x.launch with zero := cyc } } := by
  obtain ⟨l, hl⟩ := Option.ne_none_iff_exists'.mp (all .l)
  obtain ⟨v, hv⟩ := Option.ne_none_iff_exists'.mp (all .v)
  obtain ⟨s, hs⟩ := Option.ne_none_iff_exists'.mp (all .s)
  simp only [Ctx.strm] at hl hv hs
  simp only [Ctx.meet, hk, hl, hv, hs]
  rfl

theorem Ctx.meet_realign (hk : x.c.barrierAt = some .realign) (cyc : Nat) :
    x.meet cyc = { x.passed x.realigned cyc with bq := [] } := by
  obtain ⟨l, hl⟩ := Option.ne_none_iff_exists'.mp (all .l)
  obtain ⟨v, hv⟩ := Option.ne_none_iff_exists'.mp (all .v)
  obtain ⟨s, hs⟩ := Option.ne_none_iff_exists'.mp (all .s)
  simp only [Ctx.strm] at hl hv hs
  simp only [Ctx.meet, hk, hl, hv, hs]
  rfl

theorem Ctx.meet_brk (hk : x.c.barrierAt = some .brk) (hb : bitAt x.launch.trc 59 = true) (cyc : Nat) :
    x.meet cyc = { x.passed (fun _ t => t.past) cyc with frame := { x.frame with pending := some (breakTrap 2, .c) } } := by
  obtain ⟨l, hl⟩ := Option.ne_none_iff_exists'.mp (all .l)
  obtain ⟨v, hv⟩ := Option.ne_none_iff_exists'.mp (all .v)
  obtain ⟨s, hs⟩ := Option.ne_none_iff_exists'.mp (all .s)
  simp only [Ctx.strm] at hl hv hs
  simp only [Ctx.meet, hk, hl, hv, hs, hb, if_true]
  rfl

/-- With breakpoints disabled `all.brk` is a barrier and no more. -/
theorem Ctx.meet_brk_off (hk : x.c.barrierAt = some .brk) (hb : bitAt x.launch.trc 59 = false) (cyc : Nat) :
    x.meet cyc = x.passed (fun _ t => t) cyc := by
  obtain ⟨l, hl⟩ := Option.ne_none_iff_exists'.mp (all .l)
  obtain ⟨v, hv⟩ := Option.ne_none_iff_exists'.mp (all .v)
  obtain ⟨s, hs⟩ := Option.ne_none_iff_exists'.mp (all .s)
  simp only [Ctx.strm] at hl hv hs
  simp only [Ctx.meet, hk, hl, hv, hs, hb, Bool.false_eq_true, if_false]
  rfl

end Meet

theorem Stream.barrierAt_ne_fin (t : Stream) : t.barrierAt ≠ some .fin := by
  rw [Stream.barrierAt]
  split
  · nofun
  · next hne h =>
    rintro ⟨rfl⟩
    exact hne rfl
  · nofun

theorem Ctx.realigned_other {x : Ctx} {st : Strm} (h : st ≠ .c) (t : Stream) : x.realigned st t = t.goto (x.c.head + 1) := if_neg h

/-- Settles O43: the arrival at each word, and the meeting by the word at which C stands. -/
theorem streamBarriers : Obligations.StreamBarriers := by
  unfold Obligations.StreamBarriers
  refine ⟨fun s idle => ?_, ?_⟩
  · intro h st at_ hh hr
    refine ⟨State.barrier_ready rfl hh hr _, State.barrier_ready rfl hh hr _,
      State.barrier_ready rfl hh hr _, ?_, fun x k cyc => ⟨Ctx.stand_arrive x st h k cyc, Ctx.charge_arrive x st h k cyc⟩⟩
    exact (congrArg _ (State.allWord_run hh _)).trans (State.issue_next hr _)
  · intro x cyc y
    refine ⟨fun ⟨st, h⟩ => Ctx.meet_missing h cyc, fun all => ?_⟩
    obtain ⟨k, hk⟩ := Option.ne_none_iff_exists'.mp (all .c)
    rw [Ctx.strm] at hk
    cases k with
    | start =>
      have hy : y = _ := Ctx.meet_start all hk cyc
      rw [hy, hk]
      exact ⟨fun st => by cases st <;> exact ⟨rfl, rfl⟩, rfl, rfl, rfl, rfl, fun _ => ⟨rfl, rfl⟩, nofun, nofun, fun _ => rfl⟩
    | realign =>
      have hy : y = _ := Ctx.meet_realign all hk cyc
      rw [hy, hk]
      refine ⟨fun st => by cases st <;> exact ⟨rfl, rfl⟩, rfl, rfl, rfl, rfl, nofun, fun _ => ⟨rfl, fun st hst => ?_⟩, nofun,
        fun _ => rfl⟩
      have hs : ({ x.passed x.realigned cyc with bq := [] } : Ctx).strm st = ((x.strm st).goto (x.c.head + 1)).pass cyc :=
        (Ctx.strm_passed x _ cyc st).trans (by rw [Ctx.realigned_other hst])
      rw [hs]
      exact ⟨rfl, rfl, rfl⟩
    | brk =>
      cases hb : bitAt x.launch.trc 59 with
      | true =>
        have hy : y = _ := Ctx.meet_brk all hk hb cyc
        rw [hy, hk]
        exact ⟨fun st => by cases st <;> exact ⟨rfl, rfl⟩, rfl, rfl, rfl, rfl, nofun, nofun, fun _ _ => rfl,
          fun h => h.elim (fun h => (h rfl).elim) nofun⟩
      | false =>
        have hy : y = _ := Ctx.meet_brk_off all hk hb cyc
        rw [hy, hk]
        exact ⟨fun st => by cases st <;> exact ⟨rfl, rfl⟩, rfl, rfl, rfl, rfl, nofun, nofun, nofun, fun _ => rfl⟩
    | fin => exact absurd hk (Stream.barrierAt_ne_fin _)

end Sys2Proof.Machine
end

section
/-! PROOF. The queues of the engines (O47). -/

namespace Sys2Proof.Machine

/-! ## The queues of the engines -/

/-- A step of an engine works on the state that faces it. -/
theorem State.turned_congr {s : State} {cl : Nat} {eng : Eng} {f g : State → State}
    (h : f (s.faced cl eng) = g (s.faced cl eng)) : s.turned cl eng f = s.turned cl eng g :=
  congrArg (((coresOf cl).filter (fun n => s.residentFirst n eng)).foldl State.flip) h

/-- A step that leaves the facing state as it is given. -/
theorem State.next_turned {s : State} {cl : Nat} {eng : Eng} {f g : State → State} (h : f (s.faced cl eng) = g (s.faced cl eng)) :
    Host.Outcome.next (σ := State) (φ := Fault) (ρ := Refusal) (s.turned cl eng f) = .next (s.turned cl eng g) :=
  congrArg _ (State.turned_congr h)

/-- Settles O47: each step by its conditions, on the state that faces the engine. -/
theorem engineQueues : Obligations.EngineQueues := by
  unfold Obligations.EngineQueues
  intro s core n eng k cl u
  refine ⟨fun rm ids hw hb hp => ?_, fun hk he hc => ?_, fun he hk hr hc hx hn => ?_, fun hk => ?_,
    fun he hcore hk hw hp hs hf hpr => ?_, fun d w ws hw hb hrec he => ?_⟩
  · show execGoPush core s = _
    simp only [execGoPush, hw, hb, hp, Bool.false_eq_true, if_true, if_false]
  · refine State.next_turned ?_
    show _ = u.startCmd k core 0
    simp only [show (s.faced (clusterOf core) eng) = u from rfl, hk, he, hc, and_self, if_true]
  · subst he
    have hn' : (coresOf (clusterOf core)).find? (fun n => n != core && u.mayPull n) = some n := hn
    refine State.next_turned ?_
    simp only [show (s.faced (clusterOf core) .xe) = u from rfl, hk, hr, hc, hx, hn', and_self, if_true]
  · refine State.next_turned ?_
    simp only [show (s.faced (clusterOf core) eng) = u from rfl, hk]
  · subst he
    refine State.next_turned ?_
    simp only [show (s.faced cl .copy) = u from rfl, ← hcore, hk, hw, hp]
    exact if_pos ⟨trivial, trivial, hs, hf, hpr⟩
  · show execResultLoad core s = _
    simp only [execResultLoad, hw, hb, hrec, Bool.false_eq_true, if_false]
    exact congrArg Host.Outcome.next (if_pos he)

end Sys2Proof.Machine
end

section
/-! PROOF. The waits of C (O48). -/

namespace Sys2Proof.Machine

/-! ## The releases of a waiting C, and its faults -/

/-- A change of a context counts by what it makes of the context as it stands. -/
theorem State.modCtx_congr {s : State} {n : Nat} {f g : Ctx → Ctx} (h : f (s.ctx n) = g (s.ctx n)) : s.modCtx n f = s.modCtx n g := by
  show s.setCore n { s.core n with ctx := f (s.ctx n) } = s.setCore n { s.core n with ctx := g (s.ctx n) }
  rw [h]

/-- The withdrawal of a waiting instruction leaves the core's mode. -/
theorem State.mode_cut (s : State) (n : Nat) (st : Strm) :
    ((s.modCtx n (fun x => x.modStrm st Stream.cut)).ctx n).mode = (s.ctx n).mode := by
  rw [ctx_modCtx_same, Ctx.modStrm, Ctx.setStrm_mode]

/-- A write of the watched word that meets the condition is kept for the wait. -/
theorem Ctx.noteWrite_met {y : Ctx} {word : Nat → Lane} {c o off n : Nat} {pair : Option (Nat × Nat)} {slot : Nat} {cnd : ICnd}
    {b : Lane} {d : Reg} (hw : y.c.wait = some (.waita c o slot cnd b d none)) (h1 : o < off + n) (h2 : off < o + 4)
    (hc : icndHolds cnd (word o) b = true) :
    (y.noteWrite word c off n pair).c.wait = some (.waita c o slot cnd b d (some (word o, pair))) := by
  rw [Ctx.noteWrite, hw]
  simp only [h1, h2, hc, and_self, if_true]

/-- Settles O48: each release by what the wait holds. -/
theorem waitsOfC : Obligations.WaitsOfC := by
  unfold Obligations.WaitsOfC
  refine ⟨fun s core r v hb => ?_, fun s core hb hm => ?_⟩
  · intro x w
    refine ⟨fun id f hw => ?_, fun scp mask ids a hw hs hf => ?_, fun c off slot cnd b hw hfen hc => ?_,
      fun c off slot cnd b u pair hw hfen => ?_, fun y word c off n pair o cnd b d hw h1 h2 hc => Ctx.noteWrite_met hw h1 h2 hc,
      fun op n scp mask ids h slot g hw => ?_, fun eng b hw hd he => ?_, fun hw hv => ?_⟩
    · show execCLoadReply core s = _
      rw [execCLoadReply, show (s.ctx core).c.wait = _ from hw, hb]
      rfl
    · show execFenceRelease core s = _
      rw [execFenceRelease, show (s.ctx core).c.wait = _ from hw, hb]
      simp only [Bool.false_eq_true, if_false, hs, if_true]
      rw [State.fenceEnd_none hf]
    · show execWaitaRelease core s = _
      rw [execWaitaRelease, show (s.ctx core).c.wait = _ from hw, hb]
      simp only [Bool.false_eq_true, if_false, hfen, State.watched, hc, if_true]
    · show execWaitaRelease core s = _
      rw [execWaitaRelease, show (s.ctx core).c.wait = _ from hw, hb]
      simp only [Bool.false_eq_true, if_false, hfen]
    · show execSyncRelease core s = _
      rw [execSyncRelease, show (s.ctx core).c.wait = _ from hw, hb]
      rfl
    · show execWaitbRelease core s = _
      rw [execWaitbRelease, show (s.ctx core).c.wait = _ from hw, hb]
      simp only [Bool.false_eq_true, if_false, show (s.ctx core).batchDone eng b = true from hd, if_true]
      rw [State.batchEnd_none he]
    · show execRecvRelease core s = _
      rw [execRecvRelease, show (s.ctx core).c.wait = _ from hw, show (s.ctx core).sendHead = _ from hv, hb]
      rfl
  · intro x w cut
    refine ⟨fun k t r hw => ?_, fun scp mask ids a cls sc t hw hs hf => ?_, fun eng b e hw hd he => ?_,
      fun c off slot cnd b r hw hfen => ?_, fun st dt mask i hbs hw hf => ?_⟩
    · show execCLoadReply core s = _
      rw [execCLoadReply, show (s.ctx core).c.wait = _ from hw, hb]
      simp only [Bool.false_eq_true, if_false, State.mode_cut, hm]
      rfl
    · show execFenceRelease core s = _
      rw [execFenceRelease, show (s.ctx core).c.wait = _ from hw, hb]
      simp only [Bool.false_eq_true, if_false, hs, if_true]
      rw [State.fenceEnd_some hf hm]
      exact congrArg (fun u : State => Host.Outcome.next (u.raise core .c t)) (State.modCtx_congr rfl)
    · show execWaitbRelease core s = _
      rw [execWaitbRelease, show (s.ctx core).c.wait = _ from hw, hb]
      simp only [Bool.false_eq_true, if_false, show (s.ctx core).batchDone eng b = true from hd, if_true]
      rw [State.batchEnd, show (s.ctx core).batchError eng b = _ from he]
      rfl
    · refine ⟨BitVec.ofNat 64 (windowBase + 0x200000 * (1 + c % 4) + off), ?_⟩
      show execWaitaRelease core s = _
      rw [execWaitaRelease, show (s.ctx core).c.wait = _ from hw, hb]
      simp only [Bool.false_eq_true, if_false, hfen, if_true]
      rfl
    · refine ⟨s.wstatTrap core dt i, rfl, ?_⟩
      show execWstatRelease core st s = _
      rw [execWstatRelease, show ((s.ctx core).strm st).wait = _ from hw, hbs]
      simp only [Bool.false_eq_true, if_false, hf]

end Sys2Proof.Machine
end

section
/-! PROOF. The grants (O49). -/

namespace Sys2Proof.Machine

/-! ## A grid line of a sibling, and a pointer value in flight -/

/-- A state in which L waits for a sibling's grid line whose MD moves P0, while a value of `mtp` for P0 is in flight. -/
def gridLoadState : State :=
  State.reset.modCtx 0 (fun x => { x with
    l := { x.l with wait := some (.gridLoad 0 (some (0, 0))) }
    pend := [{ due := 0, issued := 0, st := .c, mask := 0, dst := .ptr false 0 0, captured := false }] })

/-- How many results are in flight to core 0 after a step. -/
def inFlightAfter (o : Host.Outcome State Fault Refusal) : Nat :=
  match o with
  | .next t => (t.ctx 0).pend.length
  | _ => 0

/-- Refutes O49: at the release of a grid load from a sibling, the model keeps the value of `mtp` that is on its way to the pointer,
which was issued later (R111); the statement lets the update by `setP` remove it. -/
theorem not_grantsAndHomes : ¬ Obligations.GrantsAndHomes := by
  unfold Obligations.GrantsAndHomes
  intro h
  obtain ⟨-, hgrid, -⟩ := h.1 gridLoadState 0 .l
  have hlands := congrArg inFlightAfter (hgrid 0 (some (0, 0)) (by decide) (by decide) (by decide))
  have kept : inFlightAfter (exec (.gridLoadLand 0) gridLoadState) = 1 := by decide
  rw [kept] at hlands
  exact absurd hlands (by decide)

end Sys2Proof.Machine
end

section
/-! PROOF. The power domains (O54). -/

namespace Sys2Proof.Machine

/-! ## Domains after a change of their core or cluster -/

/-- A change of a cluster that leaves its table of domains. -/
theorem State.dom_modCluster {s : State} {n core i : Nat} {dt : DomTy} {f : Cluster → Cluster} (hf : ∀ c, (f c).doms = c.doms) :
    (s.modCluster n f).dom core dt i = s.dom core dt i := by
  rw [State.dom, State.dom, State.core_modCluster]
  by_cases hn : clusterOf core = n
  · rw [hn, State.cluster_modCluster_same, hf]
  · rw [State.cluster_modCluster_other _ hn]

/-- A change of a core that leaves its table of domains. -/
theorem State.dom_modCore {s : State} {n core i : Nat} {dt : DomTy} {f : Core → Core} (hf : ∀ c, (f c).doms = c.doms) :
    (s.modCore n f).dom core dt i = s.dom core dt i := by
  rw [State.dom, State.dom, State.cluster_modCore]
  by_cases hn : core = n
  · rw [hn, State.core_modCore_same, hf]
  · rw [State.core_modCore_other _ hn]

theorem State.dom_setDom_same (s : State) (core i : Nat) (dt : DomTy) (d : Dom) : (s.setDom core dt i d).dom core dt i = d := by
  rw [State.dom, State.setDom]
  cases hc : ofCluster dt with
  | true => simp
  | false => simp

/-- The copy engine has a slot of its own in its cluster's table. -/
theorem domSlot_lt_ce {ty : DomTy} {j : Nat} (hc : ofCluster ty = true) (hce : ty ≠ .ce) (hj : j ≤ ty.last) : domSlot ty j ≠ 20 := by
  cases ty with
  | maq | wbb =>
    simp only [DomTy.last] at hj
    simp only [domSlot]
    omega
  | ce => exact absurd rfl hce
  | vlg | gfb | spb | acb | xe => exact absurd hc (by decide)

theorem State.dom_setDom_ce {s : State} {core j : Nat} {ty : DomTy} (hce : ty ≠ .ce) (hj : j ≤ ty.last) (d : Dom) :
    (s.setDom core .ce 0 d).dom core ty j = s.dom core ty j := by
  have hset : s.setDom core .ce 0 d = s.modCluster (clusterOf core) (fun c => { c with doms := c.doms.put 20 d }) := rfl
  rw [hset, State.dom, State.dom, State.cluster_modCluster_same, State.core_modCluster]
  cases hc : ofCluster ty with
  | true => simp only [if_true, Store.get_put_other _ (domSlot_lt_ce hc hce hj)]
  | false => simp only [Bool.false_eq_true, if_false]

/-! ## The wake of a domain -/

section Wake
variable {s : State} {core i : Nat} {bank : Bool} {dt : DomTy}

/-- A domain that is off or retained waits to wake. -/
def Dom.woken (d : Dom) (bank : Bool) : Dom :=
  { d with st := .waking, queued := true, cold := d.st == .off || (d.cold && d.sleptAt.isSome), sleepPend := none, owner := bank }

/-- The wake queue that a domain joins, and for CE the core whose queue it is. -/
def State.queueWake (s : State) (core : Nat) (dt : DomTy) (i : Nat) : State :=
  match dt with
  | .maq | .wbb => s.modCluster (clusterOf core) (fun c => { c with wakeQ := c.wakeQ ++ [domSlot dt i] })
  | .ce => (s.modCore core (fun c => { c with wakeQ := c.wakeQ ++ [65] })).modCluster (clusterOf core) (fun c => { c with ceBy := core })
  | _ => s.modCore core (fun c => { c with wakeQ := c.wakeQ ++ [domSlot dt i] })

theorem State.dom_queueWake {n j : Nat} {ty : DomTy} : (s.queueWake core dt i).dom n ty j = s.dom n ty j := by
  cases dt with
  | maq | wbb =>
    rw [State.queueWake]
    exact State.dom_modCluster (fun _ => rfl)
  | ce =>
    rw [State.queueWake]
    refine Eq.trans (State.dom_modCluster fun _ => rfl) ?_
    exact State.dom_modCore (fun _ => rfl)
  | vlg | gfb | spb | acb | xe =>
    rw [State.queueWake]
    · exact State.dom_modCore (fun _ => rfl)
    all_goals nofun

theorem State.joinWake_asleep (h : (s.dom core dt i).st = .off ∨ (s.dom core dt i).st = .retained) :
    s.joinWake core bank dt i = (s.setDom core dt i ((s.dom core dt i).woken bank)).queueWake core dt i := by
  rw [State.joinWake, Dom.woken]
  rcases h with h | h <;> simp only [h] <;> cases dt <;> rfl

theorem State.joinWake_awake (h : (s.dom core dt i).st = .awake) : s.joinWake core bank dt i = s := by
  rw [State.joinWake]
  simp only [h]

theorem State.joinWake_waking (h : (s.dom core dt i).st = .waking) :
    s.joinWake core bank dt i = if dt = .ce then s.setDom core dt i { s.dom core dt i with sleepPend := none } else s := by
  rw [State.joinWake]
  simp only [h]

theorem State.dom_joinWake_asleep (h : (s.dom core dt i).st = .off ∨ (s.dom core dt i).st = .retained) :
    (s.joinWake core bank dt i).dom core dt i = (s.dom core dt i).woken bank := by
  rw [State.joinWake_asleep h, State.dom_queueWake, State.dom_setDom_same]

/-- Whatever CE's state, its wake leaves the other domains and the reference bits. -/
theorem State.joinWake_ce_frame : ((s.joinWake core bank .ce 0).cluster (clusterOf core)).ceRefs = (s.cluster (clusterOf core)).ceRefs ∧
    ∀ (ty : DomTy) (j : Nat), ty ≠ .ce → j ≤ ty.last → (s.joinWake core bank .ce 0).dom core ty j = s.dom core ty j := by
  cases h : (s.dom core .ce 0).st with
  | off | retained =>
    rw [State.joinWake_asleep (by simp [h])]
    refine ⟨?_, fun ty j hce hj => State.dom_queueWake.trans (State.dom_setDom_ce hce hj _)⟩
    simp [State.queueWake, State.setDom, ofCluster]
  | waking =>
    rw [State.joinWake_waking h, if_pos rfl]
    exact ⟨by simp [State.setDom, ofCluster], fun ty j hce hj => State.dom_setDom_ce hce hj _⟩
  | awake =>
    rw [State.joinWake_awake h]
    exact ⟨rfl, fun _ _ _ _ => rfl⟩

end Wake

/-- The reference bit of a core and a bank changes no domain. -/
theorem State.dom_setCeRef {s : State} {core n j : Nat} {bank : Bool} {ty : DomTy} :
    (s.setCeRef core bank).dom n ty j = s.dom n ty j := State.dom_modCluster (fun _ => rfl)

theorem State.mem_setCeRef (s : State) (core : Nat) (bank : Bool) (k : Nat × Bool) :
    k ∈ ((s.setCeRef core bank).cluster (clusterOf core)).ceRefs ↔ k = (core, bank) ∨ k ∈ (s.cluster (clusterOf core)).ceRefs := by
  rw [State.setCeRef, State.cluster_modCluster_same]
  simp only [List.contains_iff_mem]
  split
  · next h => exact ⟨.inr, fun hk => hk.elim (fun e => e ▸ h) id⟩
  · exact List.mem_cons

/-! ## The sleep of the copy engine -/

/-- The reference bit of a core's bank is cleared. -/
def State.clearCeRef (s : State) (core : Nat) : State :=
  s.modCluster (clusterOf core) (fun c => { c with ceRefs := c.ceRefs.filter (fun r => r != (core, (s.core core).bank)) })

theorem State.dom_clearCeRef {s : State} {core n j : Nat} {ty : DomTy} : (s.clearCeRef core).dom n ty j = s.dom n ty j :=
  State.dom_modCluster (fun _ => rfl)

theorem State.mem_clearCeRef (s : State) (core : Nat) (k : Nat × Bool) :
    k ∈ ((s.clearCeRef core).cluster (clusterOf core)).ceRefs ↔
      k ≠ (core, (s.core core).bank) ∧ k ∈ (s.cluster (clusterOf core)).ceRefs := by
  rw [State.clearCeRef, State.cluster_modCluster_same, List.mem_filter, bne_iff_ne, and_comm]

section Sleep
variable {s : State} {core : Nat} {ret : Bool}

/-- The engine stays awake for the other reference bits. -/
theorem State.sleepOne_ce_held (h : ∃ k, k ≠ (core, (s.core core).bank) ∧ k ∈ (s.cluster (clusterOf core)).ceRefs) :
    s.sleepOne core .ce ret 0 = s.clearCeRef core := by
  obtain ⟨k, hk⟩ := h
  have hm := (State.mem_clearCeRef s core k).mpr hk
  have hheld : (s.clearCeRef core).ceHeld core = true := by
    rw [State.ceHeld, Bool.not_eq_true', List.isEmpty_eq_false_iff_exists_mem]
    exact ⟨k, hm⟩
  rw [State.sleepOne, if_pos rfl]
  exact if_pos hheld

/-- It sleeps with the last bit. -/
theorem State.sleepOne_ce_last (h : ∀ k, k ∈ (s.cluster (clusterOf core)).ceRefs → k = (core, (s.core core).bank)) :
    s.sleepOne core .ce ret 0 =
      (s.clearCeRef core).setDom core .ce 0 (((s.clearCeRef core).dom core .ce 0).sleep .ce false (s.cyc core)) := by
  have hheld : (s.clearCeRef core).ceHeld core = false := by
    have hnil : ((s.clearCeRef core).cluster (clusterOf core)).ceRefs = [] :=
      List.eq_nil_iff_forall_not_mem.mpr fun k hk =>
        ((State.mem_clearCeRef s core k).mp hk).1 (h k ((State.mem_clearCeRef s core k).mp hk).2)
    rw [State.ceHeld, hnil]
    rfl
  rw [State.sleepOne, if_pos rfl]
  exact if_neg (ne_true_of_eq_false hheld)

theorem State.ceRefs_setDom (d : Dom) (n : Nat) :
    ((s.setDom core .ce 0 d).cluster n).ceRefs = (s.cluster n).ceRefs := by
  have hset : s.setDom core .ce 0 d = s.modCluster (clusterOf core) (fun c => { c with doms := c.doms.put 20 d }) := rfl
  rw [hset]
  by_cases hn : n = clusterOf core
  · rw [hn, State.cluster_modCluster_same]
  · rw [State.cluster_modCluster_other _ hn]

/-- A core's sleep of CE leaves the other domains, and every reference bit but its own. -/
theorem State.sleepOne_ce_frame :
    (∀ k, k ∈ ((s.sleepOne core .ce ret 0).cluster (clusterOf core)).ceRefs ↔
      k ≠ (core, (s.core core).bank) ∧ k ∈ (s.cluster (clusterOf core)).ceRefs) ∧
    ∀ (ty : DomTy) (j : Nat), ty ≠ .ce → j ≤ ty.last → (s.sleepOne core .ce ret 0).dom core ty j = s.dom core ty j := by
  by_cases h : ∃ k, k ≠ (core, (s.core core).bank) ∧ k ∈ (s.cluster (clusterOf core)).ceRefs
  · rw [State.sleepOne_ce_held h]
    exact ⟨State.mem_clearCeRef s core, fun _ _ _ _ => State.dom_clearCeRef⟩
  · rw [State.sleepOne_ce_last (fun k hk => by_contra fun hne => h ⟨k, hne, hk⟩)]
    refine ⟨fun k => ?_, fun ty j hce hj => (State.dom_setDom_ce hce hj _).trans State.dom_clearCeRef⟩
    rw [State.ceRefs_setDom]
    exact State.mem_clearCeRef s core k

end Sleep

/-! ## What a sleep does to one domain -/

section DomSleep
variable {d : Dom} {dt : DomTy} {ret : Bool} {cyc : Nat}

theorem Dom.sleep_awake (h : d.st = .awake) :
    (d.sleep dt ret cyc).st = if ret = true ∧ (dt = .spb ∨ dt = .acb ∨ dt = .wbb) then .retained else .off := by
  rw [Dom.sleep]
  cases ret <;> cases dt <;> simp [h, retains]

theorem Dom.sleep_waking (h : d.st = .waking) :
    (d.sleep dt ret cyc).st = .waking ∧ (d.sleep dt ret cyc).sleepPend.isSome = true := by
  rw [Dom.sleep]
  simp only [h]
  exact ⟨trivial, rfl⟩

theorem Dom.sleep_off (h : d.st = .off) : d.sleep dt ret cyc = d := by
  rw [Dom.sleep]
  simp only [h]

theorem Dom.sleep_retained (h : d.st = .retained) (ht : dt = .spb ∨ dt = .acb ∨ dt = .wbb) :
    d.sleep dt true cyc = d ∧ (d.sleep dt false cyc).st = .off ∧ (d.sleep dt false cyc).cold = true := by
  rw [Dom.sleep, Dom.sleep]
  simp only [h]
  rcases ht with rfl | rfl | rfl <;> exact ⟨rfl, rfl, rfl⟩

end DomSleep

/-- A wake of another domain than CE. -/
theorem State.wakeOne_plain {s : State} {core i : Nat} {dt : DomTy} (h : dt ≠ .ce) :
    s.wakeOne core dt i = s.joinWake core (s.core core).bank dt i := by
  rw [State.wakeOne, if_neg h]

theorem State.wakeOne_ce (s : State) (core : Nat) :
    s.wakeOne core .ce 0 = (s.setCeRef core (s.core core).bank).joinWake core (s.core core).bank .ce 0 := rfl

/-- Settles O54: each step by its conditions, and the wakes and sleeps by the domain's state. -/
theorem domainSteps : Obligations.DomainSteps := by
  unfold Obligations.DomainSteps
  refine ⟨fun s n i k dt rest dom lease => ?_, fun s core i dt ret cyc d => ?_⟩
  · intro core q d
    refine ⟨fun hq hk hs hw => ?_, ⟨fun hst hqd hr hp => ?_, fun f hs ho hb => ?_, fun f e hs ho he => ?_⟩, fun m hd hf ha hb => ?_,
      fun m f hd hf he => ?_⟩
    · show execDomainWakeStart lease n s = _
      rw [execDomainWakeStart]
      simp only [show (if lease = true then (s.cluster n).wakeQ else (s.core n).wakeQ) = _ from hq, ← hk]
      rw [if_neg (by rw [show (s.dom (if lease = true then 4 * n else n) dt i).sleptAt = none from hs]; decide), if_neg (by omega)]
    · show execDomainAwake dom s = _
      rw [execDomainAwake]
      simp only [hst, hqd, hp]
      exact congrArg Host.Outcome.next (if_pos (by simpa using hr))
    · show execDomainPowerOff dom s = _
      rw [execDomainPowerOff]
      simp only [hs, ho, hb, Bool.false_eq_true, if_false]
    · show execDomainPowerOff dom s = _
      rw [execDomainPowerOff]
      simp only [hs, ho]
      exact congrArg Host.Outcome.next (if_neg (Nat.not_lt.mpr he))
    · show execBallastFadeStart n s = _
      rw [execBallastFadeStart]
      simp only [hd, hf, hb, if_true]
      exact congrArg Host.Outcome.next (if_neg (Nat.not_lt.mpr ha))
    · show execBallastFadeEnd n s = _
      rw [execBallastFadeEnd]
      simp only [hd, hf]
      exact congrArg Host.Outcome.next (if_pos (.inl he))
  · refine ⟨fun hce h => ?_, fun hce h => ?_, Dom.sleep_awake, Dom.sleep_waking, Dom.sleep_off, fun hce => ⟨fun h => ?_, fun h hc => ?_⟩,
      Dom.sleep_retained, ?_⟩
    · rw [State.wakeOne_plain hce, State.dom_joinWake_asleep h]
      exact ⟨rfl, rfl⟩
    · rw [State.wakeOne_plain hce]
      rcases h with h | h
      · rw [State.joinWake_waking h, if_neg hce]
      · exact State.joinWake_awake h
    · rw [State.wakeOne_plain hce, State.dom_joinWake_asleep (.inl h), Dom.woken, h]
      rfl
    · rw [State.wakeOne_plain hce, State.dom_joinWake_asleep (.inr h), Dom.woken, h, hc]
      rfl
    · intro me refs ce w z
      have hw : w = _ := State.wakeOne_ce s core
      have hceRef : (s.setCeRef core (s.core core).bank).dom core .ce 0 = ce s := State.dom_setCeRef
      obtain ⟨hrefs, hdoms⟩ := State.joinWake_ce_frame (s := s.setCeRef core (s.core core).bank) (core := core) (bank := (s.core core).bank)
      obtain ⟨zrefs, zdoms⟩ := State.sleepOne_ce_frame (s := s) (core := core) (ret := ret)
      refine ⟨fun k => ?_, zrefs, fun h => ?_, fun h => ?_, fun h => ?_, fun h => ?_, fun ty j hce hj => ⟨zdoms ty j hce hj, ?_⟩⟩
      · show k ∈ (w.cluster (clusterOf core)).ceRefs ↔ _
        rw [hw, hrefs]
        exact State.mem_setCeRef s core _ k
      · show (w.dom core .ce 0).st = _ ∧ (w.dom core .ce 0).queued = _ ∧ (w.dom core .ce 0).cold = _
        rw [hw, State.dom_joinWake_asleep (.inl (hceRef ▸ h)), hceRef, Dom.woken, h]
        exact ⟨rfl, rfl, rfl⟩
      · show (w.dom core .ce 0).st = _ ∧ (w.dom core .ce 0).ready = _
        rcases h with h | h
        · rw [hw, State.joinWake_waking (hceRef ▸ h), if_pos rfl, State.dom_setDom_same, hceRef]
          exact ⟨rfl, rfl⟩
        · rw [hw, State.joinWake_awake (hceRef ▸ h), hceRef]
          exact ⟨rfl, rfl⟩
      · show z.dom core .ce 0 = _
        rw [show z = _ from State.sleepOne_ce_held h]
        exact State.dom_clearCeRef
      · show z.dom core .ce 0 = _
        rw [show z = _ from State.sleepOne_ce_last h, State.dom_setDom_same]
        exact congrArg (fun d : Dom => d.sleep .ce false (s.cyc core)) State.dom_clearCeRef
      · rw [hw, hdoms ty j hce hj]
        exact State.dom_setCeRef

end Sys2Proof.Machine
end

section
/-! PROOF. The mailbox and the cold reset (O58). -/

namespace Sys2Proof.Machine

/-! ## Measurements -/

/-- An extend of one of the measurements (R341). -/
def measureInto (l : List (BitVec 256)) (i : Nat) (d : BitVec 256) : List (BitVec 256) :=
  l.set i (Config.sha256 (hashBytes (l.getD i 0) ++ hashBytes d))

theorem Mgmt.extend_ms (m : Mgmt) (i : Nat) (d : BitVec 256) : (m.extend i d).ms = measureInto m.ms i d := rfl

theorem length_measureInto (l : List (BitVec 256)) (i : Nat) (d : BitVec 256) : (measureInto l i d).length = l.length :=
  List.length_set

theorem getD_measureInto_same {l : List (BitVec 256)} {i : Nat} (h : i < l.length) (d : BitVec 256) :
    (measureInto l i d).getD i 0 = Config.sha256 (hashBytes (l.getD i 0) ++ hashBytes d) := getD_set_lt h _ _

theorem getD_measureInto_other {i k : Nat} (h : k ≠ i) (l : List (BitVec 256)) (d : BitVec 256) :
    (measureInto l i d).getD k 0 = l.getD k 0 := getD_set_ne h _ _

/-- The measurements that a boot leaves, by the outcome of Sapwood's check. -/
theorem Mgmt.boot_ms_fail (m : Mgmt) (x : Slices) (fresh : Nat) :
    (m.boot x fresh false).ms = measureInto (measureInto m.ms 2 (Config.sha256 fuseRecord)) 3 (Config.sha256 [0]) := rfl

theorem Mgmt.boot_ms_ok (m : Mgmt) (x : Slices) (fresh : Nat) :
    (m.boot x fresh true).ms = measureInto (measureInto (measureInto (measureInto m.ms 2 (Config.sha256 fuseRecord)) 3
      (Config.sha256 [0])) 1 (Config.imageHash 1)) 4 (Config.sha256 (imageBytes residentImage)) := rfl

/-- What a boot measures: the fuses and the debug state always, Sapwood and its resident image when its check passes; MS0 stays. -/
theorem Mgmt.boot_measures {m : Mgmt} (hl : m.ms.length = 8) (x : Slices) (fresh : Nat) (swOk : Bool) :
    (m.boot x fresh swOk).ms.getD 0 0 = m.ms.getD 0 0 ∧
    (m.boot x fresh swOk).ms.getD 2 0 = Config.sha256 (hashBytes (m.ms.getD 2 0) ++ hashBytes (Config.sha256 fuseRecord)) ∧
    (m.boot x fresh swOk).ms.getD 3 0 = Config.sha256 (hashBytes (m.ms.getD 3 0) ++ hashBytes (Config.sha256 [0])) ∧
    (swOk = true →
      (m.boot x fresh swOk).ms.getD 1 0 = Config.sha256 (hashBytes (m.ms.getD 1 0) ++ hashBytes (Config.imageHash 1)) ∧
      (m.boot x fresh swOk).ms.getD 4 0 =
        Config.sha256 (hashBytes (m.ms.getD 4 0) ++ hashBytes (Config.sha256 (imageBytes residentImage)))) := by
  have other := fun (l : List (BitVec 256)) (i k : Nat) (d : BitVec 256) (h : k ≠ i) => getD_measureInto_other h l d
  have same := fun (l : List (BitVec 256)) (i : Nat) (d : BitVec 256) (h : l.length = 8) (hi : i < 8) =>
    getD_measureInto_same (l := l) (i := i) (by omega) d
  cases swOk with
  | false =>
    rw [Mgmt.boot_ms_fail]
    refine ⟨?_, ?_, ?_, nofun⟩
    · rw [other _ 3 0 _ (by decide), other _ 2 0 _ (by decide)]
    · rw [other _ 3 2 _ (by decide), same _ 2 _ hl (by decide)]
    · rw [same _ 3 _ (by simp only [length_measureInto, hl]) (by decide), other _ 2 3 _ (by decide)]
  | true =>
    rw [Mgmt.boot_ms_ok]
    refine ⟨?_, ?_, ?_, fun _ => ⟨?_, ?_⟩⟩
    · rw [other _ 4 0 _ (by decide), other _ 1 0 _ (by decide), other _ 3 0 _ (by decide), other _ 2 0 _ (by decide)]
    · rw [other _ 4 2 _ (by decide), other _ 1 2 _ (by decide), other _ 3 2 _ (by decide), same _ 2 _ hl (by decide)]
    · rw [other _ 4 3 _ (by decide), other _ 1 3 _ (by decide), same _ 3 _ (by simp only [length_measureInto, hl]) (by decide),
        other _ 2 3 _ (by decide)]
    · rw [other _ 4 1 _ (by decide), same _ 1 _ (by simp only [length_measureInto, hl]) (by decide), other _ 3 1 _ (by decide),
        other _ 2 1 _ (by decide)]
    · rw [same _ 4 _ (by simp only [length_measureInto, hl]) (by decide), other _ 1 4 _ (by decide), other _ 3 4 _ (by decide),
        other _ 2 4 _ (by decide)]

/-- The state of Heartwood after step 1: MS0 holds the measurement of its own image, the others zero. -/
theorem getD_firstMeasure (d : BitVec 256) {i : Nat} (h : i ≠ 0) : (measureInto (List.replicate 8 0) 0 d).getD i 0 = 0 := by
  rw [getD_measureInto_other h, List.getD_eq_getElem?_getD, List.getElem?_getD_replicate_default_eq]

/-- Heartwood after step 1 of a cold reset. -/
def Mgmt.stepOne (m : Mgmt) (off : Bool) : Mgmt :=
  ({ Mgmt.init with trip := m.trip, tripCode := m.tripCode, tripSensor := m.tripSensor, off := off } : Mgmt).extend 0 (Config.imageHash 0)

theorem Mgmt.stepOne_ms (m : Mgmt) (off : Bool) :
    (m.stepOne off).ms = measureInto (List.replicate 8 0) 0 (Config.imageHash 0) := rfl

/-- What a boot measures, from the state after step 1. -/
theorem Mgmt.boot_stepOne (m : Mgmt) (x : Slices) (fresh : Nat) (swOk : Bool) :
    let b := (m.stepOne false).boot x fresh swOk
    let measured := fun (d : BitVec 256) => Config.sha256 (hashBytes 0 ++ hashBytes d)
    b.ms.getD 0 0 = measured (Config.imageHash 0) ∧ b.ms.getD 2 0 = measured (Config.sha256 fuseRecord) ∧
      b.ms.getD 3 0 = measured (Config.sha256 [0]) ∧
      (swOk = true → b.ms.getD 1 0 = measured (Config.imageHash 1) ∧
        b.ms.getD 4 0 = measured (Config.sha256 (imageBytes residentImage))) := by
  intro b measured
  have zero := fun (i : Nat) (h : i ≠ 0) => getD_firstMeasure (Config.imageHash 0) h
  obtain ⟨m0, m2, m3, m14⟩ := Mgmt.boot_measures (m := m.stepOne false) (length_measureInto ..) x fresh swOk
  rw [Mgmt.stepOne_ms] at m0 m2 m3 m14
  rw [zero 2 (by decide)] at m2
  rw [zero 3 (by decide)] at m3
  rw [zero 1 (by decide), zero 4 (by decide)] at m14
  exact ⟨m0.trans (getD_measureInto_same (by decide) _), m2, m3, m14⟩

/-- The flags of Heartwood that a boot leaves. -/
theorem Mgmt.boot_flags (m : Mgmt) (x : Slices) (fresh : Nat) (swOk : Bool) :
    (m.boot x fresh swOk).hwok = true ∧ (m.boot x fresh swOk).swok = (swOk || m.swok) ∧ (m.boot x fresh swOk).off = m.off ∧
      (m.boot x fresh swOk).swHeld = !swOk ∧ (m.boot x fresh swOk).trip = m.trip := by
  cases swOk <;> exact ⟨rfl, rfl, rfl, rfl, rfl⟩

/-- The marker that a boot draws. -/
theorem Mgmt.boot_marker (m : Mgmt) (x : Slices) (fresh : Nat) (swOk : Bool) : (m.boot x fresh swOk).marker = drawMarker fresh := by
  cases swOk <;> rfl

/-- The marker is neither zero nor all ones (R342). -/
theorem drawMarker_ne (n : Nat) : drawMarker n ≠ 0 ∧ drawMarker n ≠ BitVec.allOnes 32 := by
  have hlt : (Config.freeValue n).toNat % (2 ^ 32 - 2) < 2 ^ 32 - 2 := Nat.mod_lt _ (by decide)
  have hval : (drawMarker n).toNat = 1 + (Config.freeValue n).toNat % (2 ^ 32 - 2) := by
    rw [drawMarker, BitVec.toNat_ofNat, Nat.mod_eq_of_lt (by omega)]
  constructor
  · intro h
    have h0 : (0 : Lane).toNat = 0 := rfl
    rw [h, h0] at hval
    omega
  · intro h
    rw [h, BitVec.toNat_allOnes] at hval
    omega

/-! ## The mailbox -/

section Mailbox
variable {s : State} {who : Party}

/-- The mailbox takes an operation while it is free. -/
theorem State.startMailbox_free (hb : s.mgmt.busy = false) (hs : who = .sapwood → s.mgmt.swHeld = false) {code : Nat} (hc : code ≠ 0)
    (op : MbOp) : s.startMailbox who code (some op) =
      { s with mgmt := { s.mgmt with busy := true, op := BitVec.ofNat 8 code, running := some (who, op) } } := by
  have hno : (s.mgmt.busy || (who == .sapwood && s.mgmt.swHeld)) = false := by
    cases who with
    | sapwood => rw [hb, hs rfl]; rfl
    | host => rw [hb]; rfl
  rw [State.startMailbox, hno, if_neg (by decide), if_neg hc]
  rfl

/-- It ignores an operation otherwise. -/
theorem State.startMailbox_ignored (h : s.mgmt.busy = true ∨ (who = .sapwood ∧ s.mgmt.swHeld = true)) (code : Nat)
    (op : Option MbOp) : s.startMailbox who code op = s := by
  refine if_pos ?_
  rcases h with h | ⟨rfl, h⟩ <;> simp [h]

/-- An operation that may not be done, by its requester or by the state of the management cores. -/
theorem State.opBuffer_none {op : MbOp} (h : op.allowed who = false ∨ (s.mgmt.swHeld = true ∧ op ≠ .ident ∧ op ≠ .quote)) :
    s.opBuffer who op = none := by
  refine if_neg ?_
  rcases h with h | ⟨hs, hi, hq⟩ <;> simp_all [Mgmt.answers]

end Mailbox

/-- Settles O58: the mailbox by its state, and the cold reset by the outcomes of the two checks. -/
theorem heartwoodSteps : Obligations.HeartwoodSteps := by
  unfold Obligations.HeartwoodSteps
  intro s who hwOk swOk measured busy
  refine ⟨fun hb hs => ?_, fun h => ?_, fun op hb hr hm => ?_, fun op a ha hz hbar => ?_, fun op hb hr hm => ?_, fun op h => ?_, ?_⟩
  · have free := fun (code : Nat) (hc : code ≠ 0) (op : MbOp) =>
      congrArg (Host.Outcome.next (σ := State) (φ := Fault) (ρ := Refusal)) (State.startMailbox_free (who := who) hb hs hc op)
    exact ⟨free 1 (by decide) _, free 2 (by decide) _, free 3 (by decide) _, free 4 (by decide) _, free 5 (by decide) _,
      free 6 (by decide) _⟩
  · have ignored := fun (code : Nat) (op : Option MbOp) =>
      congrArg (Host.Outcome.next (σ := State) (φ := Fault) (ρ := Refusal)) (State.startMailbox_ignored h code op)
    exact ⟨ignored 1 _, ignored 2 _, ignored 3 _, ignored 4 _, ignored 5 _, ignored 6 _⟩
  · show execMailboxComplete s = _
    rw [execMailboxComplete, if_pos]
    simp [hr, hm]
  · rw [State.mailOp, ha]
    simp only [if_neg hz, hbar, if_true]
  · show execMailboxComplete s = _
    rw [execMailboxComplete, if_neg (by simp [hb, hr, hm])]
    simp only [hr]
  · rw [State.mailOp, State.opBuffer_none h]
  · refine ⟨_, rfl, ?_⟩
    cases hwOk with
    | false =>
      refine ⟨rfl, rfl, rfl, rfl, rfl, rfl, rfl, rfl, ?_, nofun, nofun⟩
      exact getD_measureInto_same (l := List.replicate 8 0) (by decide) _
    | true =>
      obtain ⟨hwok, swok, hoff, hheld, htrip⟩ := Mgmt.boot_flags (s.mgmt.stepOne false) s.bootSlices s.fresh swOk
      obtain ⟨m0, m2, m3, m14⟩ := Mgmt.boot_stepOne s.mgmt s.bootSlices s.fresh swOk
      obtain ⟨hzero, hones⟩ := drawMarker_ne s.fresh
      have hmark := Mgmt.boot_marker (s.mgmt.stepOne false) s.bootSlices s.fresh swOk
      exact ⟨hwok, swok.trans (Bool.or_false _), hoff, hheld, rfl, rfl, htrip, rfl, m0,
        fun _ => ⟨hmark ▸ hzero, hmark ▸ hones, m2, m3⟩, fun _ => m14⟩

end Sys2Proof.Machine
end

section
/-! PROOF. Links, routes, slices, host links and host translations (O59). -/

namespace Sys2Proof.Machine

/-! ## Links -/

/-- Only the fabric differs. -/
def State.onlyFabric (s t : State) : Prop := ∃ f : Fabric, t = { s with fabric := f }

theorem State.onlyFabric_foldl {α : Type} {f : State → α → State} (hf : ∀ (t : State) (a : α), t.onlyFabric (f t a)) :
    ∀ (l : List α) (s : State), s.onlyFabric (l.foldl f s)
  | [], s => ⟨s.fabric, rfl⟩
  | a :: l, s => by
    obtain ⟨g, hg⟩ := hf s a
    obtain ⟨h, hh⟩ := State.onlyFabric_foldl hf l (f s a)
    exact ⟨h, by rw [List.foldl_cons, hh, hg]⟩

/-- A flit that goes out changes the links alone. -/
theorem State.sendOn_onlyFabric (s : State) (r d pa : Nat) (data : List Byte) (packed : Bool) :
    s.onlyFabric (s.sendOn r d pa data packed) := State.onlyFabric_foldl (fun _ _ => ⟨_, rfl⟩) _ _

theorem State.sendOn_cluster (s : State) (r d pa : Nat) (data : List Byte) (packed : Bool) (n : Nat) :
    (s.sendOn r d pa data packed).cluster n = s.cluster n := by
  obtain ⟨f, hf⟩ := s.sendOn_onlyFabric r d pa data packed
  rw [hf]
  rfl

theorem State.sendOn_part (s : State) (r d pa : Nat) (data : List Byte) (packed : Bool) (n : Nat) :
    (s.sendOn r d pa data packed).part n = s.part n := by
  obtain ⟨f, hf⟩ := s.sendOn_onlyFabric r d pa data packed
  rw [hf]
  rfl

/-- The ends that may retrain are those of a peer port or of a link between dies. -/
theorem retrains_iff {peer : Bool} {r p : Nat} : retrains peer r p = true ↔ peer = true ∨ dieCrossing r p = true := by
  rw [retrains, Bool.or_eq_true]

/-- The new port has room for what was sent towards a destination, or none is left. -/
theorem State.rerouteRoom_iff {s : State} {r p dest : Nat} : s.rerouteRoom r p dest = true ↔
    (bitAt (routeFor s.linkLive r dest) 4 = true →
      (s.link r (bits (routeFor s.linkLive r dest) 0 4)).unacked.length + (s.sentTowards r p dest).length ≤ 128) := by
  rw [State.rerouteRoom]
  cases h : bitAt (routeFor s.linkLive r dest) 4 <;> simp

/-- When a router keeps the entry that it has. -/
theorem routeKept_iff {s : State} {r p dest : Nat} :
    (s.routeStands r dest || (!(s.link r p).lost && !(s.sentTowards r p dest).isEmpty) || !s.rerouteRoom r p dest) = true ↔
      s.routeStands r dest = true ∨ ((s.link r p).lost = false ∧ s.sentTowards r p dest ≠ []) ∨ s.rerouteRoom r p dest = false := by
  simp only [Bool.or_eq_true, Bool.and_eq_true, Bool.not_eq_true', List.isEmpty_eq_false_iff, or_assoc, ne_eq]

section Flit
variable {s : State} {peer crcOk : Bool} {router port : Nat} {seq : BitVec 8}

/-- A flit at a link end that is up. -/
theorem execFlitReceive_up (hu : (s.linkEnd peer router port).up = true) (hl : (s.linkEnd peer router port).lost = false) :
    execFlitReceive peer router port seq crcOk s = .next
      (if (s.arriving peer router port seq crcOk).sound = true ∧ seq = (s.linkEnd peer router port).nextSeq then
        (s.modLink peer router port (fun l => { l with nextSeq := l.nextSeq + 1 })).acknowledge peer router port seq
      else if (s.arriving peer router port seq crcOk).sound = true ∧ ((s.linkEnd peer router port).nextSeq - seq).toNat ≤ 128 then
        s.acknowledge peer router port seq
      else s.requestReplay peer router port) := by
  rw [execFlitReceive]
  simp only [hu, hl, Bool.not_true, Bool.or_self, Bool.false_eq_true, if_false, Bool.and_eq_true, beq_iff_eq, decide_eq_true_eq]

/-- A flit that is spoiled, or out of sequence. -/
theorem execFlitReceive_discards (hu : (s.linkEnd peer router port).up = true) (hl : (s.linkEnd peer router port).lost = false)
    (hf : (s.arriving peer router port seq crcOk).sound = false ∨ 128 < ((s.linkEnd peer router port).nextSeq - seq).toNat) :
    execFlitReceive peer router port seq crcOk s = .next (s.requestReplay peer router port) := by
  rw [execFlitReceive_up hu hl]
  rcases hf with hf | hf
  · rw [if_neg (by simp [hf]), if_neg (by simp [hf])]
  · rw [if_neg, if_neg (by omega)]
    rintro ⟨-, rfl⟩
    rw [BitVec.sub_self] at hf
    exact absurd hf (by decide)

end Flit

/-- A completion that answers the cluster's oldest request ends the walk that asked. -/
theorem execAtsCompletion_answers {s : State} {cl page log2 pa : Nat} {r w : Bool} {q : AtsReq} {k : Walk}
    (hm : s.routeMoves s.outerRouter (clusterRouter cl) 16 0 = true) (hh : s.hostLink ≠ none)
    (hq : s.fabric.ats.find? (fun q => q.cl == cl) = some q) (h12 : 12 ≤ log2) (hp : page % 2 ^ log2 = 0)
    (hv : q.va / 2 ^ log2 = page / 2 ^ log2)
    (hk : (s.cluster cl).walks.find? (fun k =>
      k.ats && k.va / 4096 * 4096 == q.va && bits (s.part k.part).xlcfg 32 20 == q.pasid) = some k) :
    let now := s.hostTime (s.hostLink.getD 0)
    let t := s.sendOn s.outerRouter (clusterRouter cl) page (leBytes 8 pa) false
    execAtsCompletion cl page log2 pa r w s = .next (State.endWalk { t with fabric := { t.fabric with
      ats := t.fabric.ats.erase q
      inval := t.fabric.inval.map (fun i =>
        if i.reqs.contains q then ({ i with last := max i.last now, reqs := i.reqs.erase q } : Inval) else i) } } cl k
      (if s.reachesRouter s.outerRouter (clusterRouter cl) = false then .fail .remote else if !r && !w then .fail .xlate
        else .lease (hostLease k.va page log2 pa r w (bits (s.part k.part).xlcfg 8 4) now) false)) := by
  intro now t
  have hlost : ((!s.reachesRouter s.outerRouter (clusterRouter cl)) = true) =
      (s.reachesRouter s.outerRouter (clusterRouter cl) = false) := by simp
  have hfits : ¬ (decide (log2 < 12) || page % 2 ^ log2 != 0 || q.va / 2 ^ log2 != page / 2 ^ log2 ||
      !s.routeMoves s.outerRouter (clusterRouter cl) 16 0) = true := by
    simp only [hp, hv, hm, bne_self_eq_false, Bool.not_true, Bool.or_false, decide_eq_true_eq]
    omega
  rw [execAtsCompletion, if_pos (Option.isSome_iff_ne_none.mpr hh), hq]
  simp only [if_neg hfits, hlost, State.sendOn_cluster, State.sendOn_part, hk]
  rfl

/-- Settles O59: each step by the link end, the route, the host link or the request it finds. -/
theorem fabricSteps : Obligations.FabricSteps := by
  unfold Obligations.FabricSteps
  intro s peer crcOk router port dest slice cl page log2 pa tag part width seq bad link r w now l f recent replay crosses lanes retrain
  refine ⟨fun hu hl => ⟨fun hf hq => ?_, fun hf hq hd => ?_, fun hf hn => ?_, fun hf hr hc => ?_, fun hc => ?_⟩,
    fun ht => ?_, fun hl => ?_, ?_, ?_, rfl, fun hs => ?_, ?_, rfl, fun hw => ?_, fun q k hm hh hq h12 hp hv hk => ?_, fun hm => ?_,
    fun hh hl ht => ?_, fun i hh hi hr ht => ?_⟩
  · exact (execFlitReceive_up hu hl).trans (congrArg Host.Outcome.next (if_pos ⟨hf, hq⟩))
  · refine (execFlitReceive_up hu hl).trans ?_
    rw [if_neg fun h => hq h.2, if_pos ⟨hf, hd⟩]
  · refine (execFlitReceive_discards hu hl hf).trans ?_
    rw [State.requestReplay]
    refine congrArg Host.Outcome.next (if_neg fun h => ?_)
    obtain ⟨hr, hc⟩ := Bool.and_eq_true_iff.mp h
    exact hn ⟨of_decide_eq_true hr, retrains_iff.mp hc⟩
  · refine (execFlitReceive_discards hu hl hf).trans ?_
    rw [State.requestReplay]
    exact congrArg Host.Outcome.next (if_pos (by rw [Bool.and_eq_true, retrains_iff]; exact ⟨decide_eq_true hr, hc⟩))
  · show execLinkRetrain peer router port s = _
    rw [execLinkRetrain]
    exact congrArg Host.Outcome.next (if_neg (by
      rw [show (s.linkEnd peer router port).up = true from hu, show (s.linkEnd peer router port).lost = false from hl,
        retrains_iff.mpr hc]
      decide))
  · have htrain : ¬ (!(s.linkEnd peer router port).training) = true := by
      rw [show (s.linkEnd peer router port).training = true from ht]; decide
    refine ⟨fun hb => ?_, fun hb hh => ?_, fun hb hh => ?_⟩
    · refine congrArg Host.Outcome.next ((if_neg htrain).trans ?_)
      exact if_pos hb
    · refine congrArg Host.Outcome.next ((if_neg htrain).trans ?_)
      exact (if_neg hb).trans (if_pos hh)
    · refine congrArg Host.Outcome.next ((if_neg htrain).trans ?_)
      refine (if_neg ?_).trans (if_neg fun h => h.elim hb hh)
      intro h0
      exact hb (by rw [show bits bad 0 (2 * halfLanes peer) = 0 from h0]; exact Nat.zero_mod _)
  · show execLinkLoss peer router port s = _
    rw [execLinkLoss, show (s.linkEnd peer router port).lost = false from hl]
    rfl
  · intro p e hs hp hroom
    show execRouteTableApply router dest s = _
    rw [execRouteTableApply]
    refine congrArg Host.Outcome.next (if_neg fun h => ?_)
    rcases routeKept_iff.mp h with h | ⟨hl, hne⟩ | h
    · rw [hs] at h
      cases h
    · exact hp.elim (fun hp => by rw [hl] at hp; cases hp) hne
    · rw [State.rerouteRoom_iff.mpr hroom] at h
      cases h
  · intro p e h
    show execRouteTableApply router dest s = _
    rw [execRouteTableApply]
    refine congrArg Host.Outcome.next (if_pos (routeKept_iff.mpr ?_))
    refine h.imp_right (Or.imp_right fun ⟨h4, hfull⟩ => Bool.eq_false_iff.mpr fun hroom => ?_)
    exact absurd (State.rerouteRoom_iff.mp hroom h4) (Nat.not_le.mpr hfull)
  · exact congrArg Host.Outcome.next (if_pos hs)
  · show execSliceStopsAnswering (96 + slice) s = _
    rw [execSliceStopsAnswering, if_neg (by omega), Nat.add_sub_cancel_left]
  · exact congrArg Host.Outcome.next (if_pos (by rcases hw with rfl | rfl | rfl <;> rfl))
  · exact execAtsCompletion_answers hm hh hq h12 hp hv hk
  · show execAtsCompletion cl page log2 pa r w s = _
    rw [execAtsCompletion]
    simp only [hm, Bool.not_false, Bool.or_true, if_true]
    split <;> rfl
  · show execAtsInvalidationRequest part tag s = _
    rw [execAtsInvalidationRequest]
    refine congrArg Host.Outcome.next (if_neg ?_)
    have := Option.isSome_iff_ne_none.mpr hh
    simp [ht, Option.isNone_eq_false_iff.mpr this, hl]
  · show execInvalidationCompletion tag s = _
    rw [execInvalidationCompletion]
    simp only [hi]
    refine congrArg Host.Outcome.next (if_pos ?_)
    have := Option.isSome_iff_ne_none.mpr hh
    simpa [this, hr] using ht

end Sys2Proof.Machine
end

section
/-! PROOF. Device registers, and accesses from outside (O60). -/

namespace Sys2Proof.Machine

/-! ## Registers at their offsets -/

section Registers
variable {s : State} {who : Party} {part off : Nat} {v : Word}

/-- A write in a partition's page. -/
theorem State.writeReg_part (hp : part < 64) (hw : ¬ (who = .sapwood ∧ s.mgmt.swHeld = true)) (ho : off < 0x10000) :
    s.writeReg who (0x100000 + 0x10000 * part + off) v = s.writePart who part off v := by
  have hheld : ¬ (who == .sapwood && s.mgmt.swHeld) = true := by simpa using hw
  have hpage : (0x100000 + 0x10000 * part + off - 0x100000) / 0x10000 = part := by omega
  have hoff : (0x100000 + 0x10000 * part + off) % 0x10000 = off := by omega
  rw [State.writeReg, if_neg hheld, if_neg (by omega), if_pos (by omega), hpage, hoff]

/-- The registers that are Sapwood's alone. -/
theorem State.writePart_sapwoods (hw : who ≠ .sapwood) (ho : off ∈ [0x10, 0x20, 0x28, 0x30, 0x38, 0x40, 0x48, 0x80, 0x88]) :
    s.writePart who part off v = s := by
  simp only [List.mem_cons, List.not_mem_nil, or_false] at ho
  rcases ho with rfl | rfl | rfl | rfl | rfl | rfl | rfl | rfl | rfl <;> simp [State.writePart, hw]

/-- Beyond the pages there is no register. -/
theorem State.writeReg_beyond (ho : 0x500000 ≤ off) : s.writeReg who off v = s := by
  rw [State.writeReg]
  split
  · rfl
  · rw [if_neg (by omega), if_neg (by omega)]

theorem State.writeReg_held (hs : s.mgmt.swHeld = true) : s.writeReg .sapwood off v = s := by
  rw [State.writeReg, hs]
  rfl

theorem State.writeSqcfg_idle (h : (s.part part).head = (s.part part).tail) : s.writeSqcfg part v =
    s.modPart part (fun p => { p with
      sqcfg := BitVec.ofNat 64 (bits v 12 44 * 4096 + (if 4 ≤ bits v 0 4 ∧ bits v 0 4 ≤ 12 then bits v 0 4 else 4)) }) :=
  if_neg (not_not.mpr h)

end Registers

/-! ## The host's requests -/

section Host
variable {s : State} {n pa len : Nat} {data : List Byte} {wr : Bool}

theorem execHostAccess_down (h : s.hostLink = none) (n : Nat) (wr : Bool) : execHostAccess n wr pa data len s = .next s := by
  rw [execHostAccess, h]
  rfl

theorem hostUp {s : State} (h : s.hostLink ≠ none) : ¬ s.hostLink.isNone = true := by
  simpa using h

/-- A request below 2^36 goes through an aperture. -/
theorem execHostAccess_aperture (h : s.hostLink ≠ none) (hp : pa < 2 ^ 36) :
    execHostAccess n wr pa data len s = .next (s.aperture wr pa data len) := by
  rw [execHostAccess]
  exact congrArg Host.Outcome.next ((if_neg (hostUp h)).trans ((if_pos (by omega)).trans (if_pos hp)))

/-- A read from 2^42 on meets the counter window. -/
theorem execHostAccess_counters (h : s.hostLink ≠ none) (hp : pa < 2 ^ 42) :
    execHostAccess n false (2 ^ 42 + pa) data len s =
      .next (s.emit (((leBytes 8 (s.counterWindow n (pa / 8 * 8))).drop ((2 ^ 42 + pa) % 8)).take len)) := by
  rw [execHostAccess]
  refine congrArg Host.Outcome.next ((if_neg (hostUp h)).trans ((if_neg (by omega)).trans ((if_pos (by omega)).trans ?_)))
  rw [if_neg (by decide), Nat.add_sub_cancel_left]

/-- A read from 2^46 on meets the save areas. -/
theorem execHostAccess_saves (h : s.hostLink ≠ none) :
    execHostAccess n false (2 ^ 46 + pa) data len s = .next (s.saveWindow n pa len) := by
  rw [execHostAccess]
  refine congrArg Host.Outcome.next ((if_neg (hostUp h)).trans ((if_neg (by omega)).trans ((if_neg (by omega)).trans
    ((if_neg (by omega)).trans ((if_neg (by omega)).trans ((if_neg (by decide)).trans ((if_neg (by omega)).trans ?_)))))))
  rw [Nat.add_sub_cancel_left]

theorem State.aperture_none (h : s.apertureAt pa (if wr then data.length else len) = none) : s.aperture wr pa data len = s := by
  rw [State.aperture]
  simp only [h]

/-- An access through an aperture that may go. -/
theorem State.aperture_some {part a : Nat} (h : s.apertureAt pa (if wr then data.length else len) = some (part, a))
    (hr : a + (if wr then data.length else len) ≤ (s.part part).memBase + (s.part part).memLen)
    (hm : s.outerMoves 4 a (if wr then data.length else len) wr = true) :
    s.aperture wr pa data len = if wr then s.ingress 4 part a (if (s.part part).confidential then
        (data.zip (upto a data.length)).map (fun b => Config.decrypt (s.part part).key b.2 b.1) else data)
      else s.outerRead 4 part a len (s.hostBytes (s.part part) a len) := by
  rw [State.aperture]
  simp only [h]
  rw [if_neg (by rw [hm]; simpa using hr)]
  cases wr <;> rfl

end Host

/-! ## What an outer reader is given -/

section Read
variable {s : State} {unit part a n : Nat} {v : List Byte}

theorem State.outerRead_sound (hr : s.outerReach unit a = true) (hs : s.physSound a n = true) :
    s.outerRead unit part a n v = ((s.outerCarry unit a n false).fetched a n).emit v := by
  rw [State.outerRead, hr, hs]
  rfl

theorem State.outerRead_flawed (hr : s.outerReach unit a = true) (hs : s.physSound a n = false) :
    s.outerRead unit part a n v =
      (((s.outerCarry unit a n false).fetched a n).machineCheck unit (s.devSite a n).kind 0 part a 0).emit [] := by
  rw [State.outerRead, hr, hs]
  rfl

theorem State.outerRead_unreached (hr : s.outerReach unit a = false) : s.outerRead unit part a n v = s.emit [] := by
  rw [State.outerRead, hr]
  rfl

/-- The bytes of a partition that the host meets. -/
theorem State.hostBytes_eq (s : State) (p : Part) (a n : Nat) : s.hostBytes p a n =
    if p.confidential then ((s.devRead true a n).zip (upto a n)).map (fun b => Config.encrypt p.key b.2 b.1) else s.devRead true a n :=
  rfl

end Read

/-! ## The counter window -/

/-- A doubleword of the window: the active bank of a core below 0x400, the resident one from there on. -/
theorem State.counterWindow_core {s : State} {part k n off : Nat} (hn : (s.part part).coreList[k]? = some n) (ho : off < 128)
    (alt : Bool) : s.counterWindow part (0x800 * k + (if alt then 0x400 else 0) + 8 * off) =
      (if alt then (s.core n).alt else (s.core n).ctx).windowWord (s.part part).confidential off := by
  have hk : (0x800 * k + (if alt then 0x400 else 0) + 8 * off) / 0x800 = k := by split <;> omega
  have hw : (0x800 * k + (if alt then 0x400 else 0) + 8 * off) % 0x400 / 8 = off := by split <;> omega
  have hb : ((0x800 * k + (if alt then 0x400 else 0) + 8 * off) % 0x800 < 0x400) = (alt = false) := by
    cases alt <;> simp <;> omega
  rw [State.counterWindow]
  simp only [hk, hn, hw, hb]
  cases alt <;> rfl

theorem length_leBytes : ∀ (n v : Nat), (leBytes n v).length = n
  | 0, _ => rfl
  | n + 1, v => congrArg (· + 1) (length_leBytes n (v / 256))

/-- The host reads a doubleword of the window. -/
theorem execHostAccess_counter {s : State} {part k n off : Nat} {data : List Byte} (hh : s.hostLink ≠ none)
    (hn : (s.part part).coreList[k]? = some n) (hk : k < 640) (ho : off < 128) (alt : Bool) :
    execHostAccess part false (2 ^ 42 + (0x800 * k + (if alt then 0x400 else 0) + 8 * off)) data 8 s = .next (s.emit
      (leBytes 8 ((if alt then (s.core n).alt else (s.core n).ctx).windowWord (s.part part).confidential off))) := by
  have hlt : 0x800 * k + (if alt then 0x400 else 0) + 8 * off < 2 ^ 42 := by split <;> omega
  have hdiv : (0x800 * k + (if alt then 0x400 else 0) + 8 * off) / 8 * 8 = 0x800 * k + (if alt then 0x400 else 0) + 8 * off := by
    split <;> omega
  have hmod : (2 ^ 42 + (0x800 * k + (if alt then 0x400 else 0) + 8 * off)) % 8 = 0 := by split <;> omega
  rw [execHostAccess_counters hh hlt, hdiv, hmod, State.counterWindow_core hn ho alt, List.drop_zero,
    List.take_of_length_le (Nat.le_of_eq (length_leBytes 8 _))]

/-! ## What Sapwood does -/

section Sapwood
variable {s : State} {a : Nat} {v : Word}

/-- Sapwood does nothing while the management cores are in reset (R342). -/
theorem execManagementCoreAccess_held (h : s.mgmt.swHeld = true) (pa : Nat) : execManagementCoreAccess pa v s = .next s := by
  rw [execManagementCoreAccess, if_pos h]

theorem execManagementCoreAccess_store (h : s.mgmt.swHeld = false) (hp : a < 2 ^ 51) (h8 : a % 8 = 0)
    (hc : a + 8 ≤ s.slices.capacity) :
    execManagementCoreAccess a v s = .next (s.ingress 0 (s.ownerOf a) a (leBytes 8 v.toNat)) := by
  rw [execManagementCoreAccess, h]
  refine congrArg Host.Outcome.next ((if_neg (by decide)).trans ((if_neg (by omega)).trans ((if_neg (by omega)).trans
    ((if_neg (by omega)).trans ((if_neg (by omega)).trans ((if_neg (by omega)).trans (if_neg (by omega))))))))

theorem execManagementCoreAccess_read (h : s.mgmt.swHeld = false) (ha : a < 2 ^ 51) :
    execManagementCoreAccess (2 ^ 51 + a) v s = .next (s.sapwoodRead a 8) := by
  rw [execManagementCoreAccess, h]
  refine congrArg Host.Outcome.next ((if_neg (by decide)).trans ((if_neg (by omega)).trans ((if_neg (by omega)).trans
    ((if_neg (by omega)).trans ((if_neg (by omega)).trans ((if_pos (by omega)).trans ?_))))))
  rw [Nat.add_sub_cancel_left]

theorem execManagementCoreAccess_install (h : s.mgmt.swHeld = false) :
    execManagementCoreAccess (2 ^ 55 + a) v s = .next (s.installImage a) := by
  rw [execManagementCoreAccess, h]
  refine congrArg Host.Outcome.next ((if_neg (by decide)).trans ((if_pos (by omega)).trans ?_))
  rw [Nat.add_sub_cancel_left]

/-- Within the installed capacity Sapwood reads the bytes, or the ciphertext of the confidential partition that they lie in. -/
theorem State.sapwoodRead_plain {n : Nat} (hc : a + n ≤ s.slices.capacity)
    (hp : s.parts.find? (fun p => p.2.confidential && !apart a n p.2.memBase p.2.memLen) = none) :
    s.sapwoodRead a n = s.outerRead 0 (s.ownerOf a) a n (s.devRead true a n) := by
  rw [State.sapwoodRead]
  simp only [if_neg (Nat.not_lt.mpr hc), hp]

theorem State.sapwoodRead_cipher {n k : Nat} {q : Part} (hc : a + n ≤ s.slices.capacity)
    (hp : s.parts.find? (fun p => p.2.confidential && !apart a n p.2.memBase p.2.memLen) = some (k, q)) :
    s.sapwoodRead a n = s.outerRead 0 (s.ownerOf a) a n
      (((s.devRead true a n).zip (upto a n)).map (fun b => Config.encrypt q.key b.2 b.1)) := by
  rw [State.sapwoodRead]
  simp only [if_neg (Nat.not_lt.mpr hc), hp]

/-- Above it the ring of the machine-check records alone. -/
theorem State.sapwoodRead_ring {n : Nat} (hc : s.slices.capacity < a + n) (hr : s.slices.carve ≠ 0)
    (hlo : bits s.mgmt.mcbase 0 42 ≤ a) (hhi : a + n ≤ bits s.mgmt.mcbase 0 42 + 65536) :
    s.sapwoodRead a n = s.outerRead 0 0xFFFFFFFF a n (s.devRead true a n) := by
  rw [State.sapwoodRead]
  simp only [if_pos hc, if_pos (show s.slices.carve ≠ 0 ∧ bits s.mgmt.mcbase 0 42 ≤ a ∧ a + n ≤ bits s.mgmt.mcbase 0 42 + 65536 from
    ⟨hr, hlo, hhi⟩)]

end Sapwood

/-! ## Reads of Heartwood's and Sapwood's own -/

/-- The flits of a request and its answer change the fabric alone. -/
theorem State.carry_onlyFabric (s : State) (r pa out back : Nat) : s.onlyFabric (s.carry r pa out back) := by
  obtain ⟨f, hf⟩ := State.onlyFabric_foldl (f := fun t p => t.passLink p (flitCount out)) (fun _ _ => ⟨_, rfl⟩)
    (s.path r (sliceRouter (s.sliceOf pa))) s
  obtain ⟨g, hg⟩ := State.onlyFabric_foldl (f := fun t p => t.passLink p (flitCount back)) (fun _ _ => ⟨_, rfl⟩)
    (({ s with fabric := f } : State).path (sliceRouter (s.sliceOf pa)) r) { s with fabric := f }
  refine ⟨g, ?_⟩
  rw [State.carry]
  simp only [hf]
  exact hg

/-- Whether bytes are sound is no matter of the fabric. -/
theorem State.linesSound_fabric (s : State) (f : Fabric) (c : Bool) (a n : Nat) :
    ({ s with fabric := f } : State).linesSound c a n = s.linesSound c a n := rfl

theorem State.outerCarry_onlyFabric (s : State) (unit a n : Nat) (wr : Bool) : s.onlyFabric (s.outerCarry unit a n wr) := by
  rw [State.outerCarry]
  split
  · exact ⟨s.fabric, rfl⟩
  · exact State.onlyFabric_foldl (fun t l => t.carry_onlyFabric ..) _ _

/-- Where no sector is flawed, a fetch changes nothing. -/
theorem State.fetched_clean {s : State} (h : s.slices.bad = []) (a n : Nat) : s.fetched a n = s := if_pos h

/-- A read of bytes that are sound, where no sector is flawed, leaves the memory and the management complex. -/
theorem State.ownRead_clean {s : State} {a n : Nat} (h : s.slices.bad = []) (hs : s.linesSound true a n = true) :
    s.onlyFabric (s.ownRead a n) := by
  obtain ⟨f, hf⟩ := s.outerCarry_onlyFabric 0 a n false
  rw [State.ownRead, State.ownFetch]
  split
  · exact ⟨s.fabric, rfl⟩
  · simp only [hf]
    rw [State.fetched_clean (s := { s with fabric := f }) h, State.linesSound_fabric, if_pos hs]
    exact ⟨f, rfl⟩

theorem State.ownBytes_sound {s : State} {a n : Nat} {v : List Byte} (h : s.ownBytes a n = some v) : s.linesSound true a n = true := by
  rw [State.ownBytes] at h
  split at h
  · next hc =>
    obtain ⟨-, hb⟩ := Bool.and_eq_true_iff.mp hc
    rw [Option.isNone_iff_eq_none, State.ownBar] at hb
    split at hb
    · cases hb
    · split at hb
      · cases hb
      · split at hb
        · cases hb
        · next hs => simpa using hs
  · cases h

/-- The words of a text section. -/
def imageWords (text : List Byte) : List Word := (upto 0 (text.length / 8)).map (fun i => BitVec.ofNat 64 (num text (8 * i) 8))

/-- A linked handler image that can be read and meets its header is installed. -/
theorem State.installImage_linked {s : State} {a : Nat} {text head table file : List Byte} (hh : s.ownBytes a 64 = some head)
    (ht : s.ownBytes a (num head 16 8 + 32 * num head 8 2) = some table) (hfile : s.ownBytes a (fileEnd table) = some file)
    (htx : sectBytes file 1 = text) (hm : num file 0 4 = 0x4F564C7F) (hver : num file 4 2 = 1) (hkind : num file 6 1 = 2)
    (hcrc : num file 28 4 = crc32c (file.drop 64)) (hlen : text.length ≤ 32768) :
    s.installImage a = { s.ownRead a (fileEnd table) with
      mgmt := ({ (s.ownRead a (fileEnd table)).mgmt with
        images := (s.ownRead a (fileEnd table)).mgmt.images ++ [imageWords text] } : Mgmt).extend 4
        (Config.sha256 (imageBytes (imageWords text))) } := by
  rw [State.installImage]
  simp only [hh, ht, hfile, htx, hm, hver, hkind, hcrc, Option.map_some, Option.bind_some, Option.getD_some]
  refine if_pos ?_
  simpa using hlen

/-- Settles O60: each access by its address and the checks it meets. -/
theorem outsideAccesses : Obligations.OutsideAccesses := by
  unfold Obligations.OutsideAccesses
  intro s who part off pa a len v data p cipher
  refine ⟨fun hp hw => ⟨?_, ?_, fun hne o ho => ?_⟩, fun ho => congrArg _ (State.writeReg_beyond ho), fun hs => ⟨?_, ?_, ?_⟩,
    fun hs hq => ?_, fun hs hq => ?_, fun hh => ⟨execHostAccess_down hh _ _, execHostAccess_down hh _ _⟩,
    fun hh hpa => ⟨fun ha => ?_, fun ha => ?_, fun ha hr hm n => ?_, fun ha hr hm => ?_⟩, fun hh n k hn hk ho => ⟨?_, ?_⟩,
    fun hh data => ⟨fun h => ?_, fun hsc hsv hm hr hs => ?_⟩, fun hp wr => ?_, fun q hq => ⟨fun hc hf => ?_, fun hc hf hs => ?_⟩,
    fun hs hp h8 hc => execManagementCoreAccess_store hs hp h8 hc, fun hs ha hl hr hsd => ?_,
    fun hs ha => execManagementCoreAccess_install hs, fun text head table file hh ht hfile htx hm hver hkind hcrc hlen => ?_⟩
  · exact congrArg Host.Outcome.next (State.writeReg_part hp hw (by decide))
  · exact congrArg Host.Outcome.next (State.writeReg_part hp hw (by decide))
  · have hoff : o < 0x10000 := by
      simp only [List.mem_cons, List.not_mem_nil, or_false] at ho
      omega
    exact congrArg Host.Outcome.next ((State.writeReg_part hp hw hoff).trans (State.writePart_sapwoods hne ho))
  · exact congrArg Host.Outcome.next (State.writeReg_held hs)
  · exact congrArg Host.Outcome.next (if_pos hs)
  · exact execManagementCoreAccess_held hs pa
  · exact congrArg Host.Outcome.next ((if_neg (ne_true_of_eq_false hs)).trans (State.writeSqcfg_idle hq))
  · exact congrArg Host.Outcome.next ((if_neg (ne_true_of_eq_false hs)).trans (if_pos hq))
  · exact (execHostAccess_aperture hh hpa).trans (congrArg Host.Outcome.next (State.aperture_none ha))
  · exact (execHostAccess_aperture hh hpa).trans (congrArg Host.Outcome.next (State.aperture_none ha))
  · exact (execHostAccess_aperture hh hpa).trans (congrArg Host.Outcome.next (State.aperture_some (wr := true) ha hr hm))
  · intro t n
    have hgo := fun n => (execHostAccess_aperture (n := n) (data := data) (wr := false) hh hpa).trans
      (congrArg Host.Outcome.next (State.aperture_some (wr := false) (data := data) ha hr hm))
    refine ⟨fun hre hs => ?_, fun hre hs => ⟨(s.devSite a len).kind, ?_⟩, fun hre => ?_⟩
    · exact (hgo n).trans (congrArg Host.Outcome.next (State.outerRead_sound hre hs))
    · exact (hgo n).trans (congrArg Host.Outcome.next (State.outerRead_flawed hre hs))
    · exact (hgo n).trans (congrArg Host.Outcome.next (State.outerRead_unreached hre))
  · have h := execHostAccess_counter (data := data) hh hn hk ho false
    rw [if_neg (by decide), if_neg (by decide), Nat.add_zero, ← Nat.add_assoc] at h
    exact h
  · have h := execHostAccess_counter (data := data) hh hn hk ho true
    rw [if_pos rfl, if_pos rfl, ← Nat.add_assoc, ← Nat.add_assoc] at h
    exact h
  · refine (execHostAccess_saves hh).trans (congrArg Host.Outcome.next (if_pos ?_))
    rcases h with h | h
    · rw [h]; rfl
    · rw [show s.inSave (s.part part) a len = false from h]; exact Bool.or_true _
  · refine (execHostAccess_saves hh).trans (congrArg Host.Outcome.next ?_)
    rw [State.saveWindow, hsc, show s.inSave (s.part part) a len = true from hsv, hm]
    exact State.outerRead_sound hr hs
  · show execPeerAccess wr pa data len s = _
    rw [execPeerAccess, hp]
  · show execPeerAccess true pa data len s = _
    rw [execPeerAccess, hq]
    refine congrArg Host.Outcome.next ((if_neg ?_).trans rfl)
    rw [show (s.peerLink q).free (flitCount (if true = true then 0 else if true = true then data.length else len)) = true from hf]
    simpa using hc
  · show execPeerAccess false pa data len s = _
    rw [execPeerAccess, hq]
    refine congrArg Host.Outcome.next ((if_neg ?_).trans ?_)
    · rw [show (s.peerLink q).free (flitCount (if false = true then 0 else if false = true then data.length else len)) = true from hf]
      simpa using hc
    · exact State.outerRead_sound (unit := 5) rfl hs
  · subst hl
    have read := execManagementCoreAccess_read (v := v) hs ha
    intro t
    refine ⟨fun hc => ⟨fun hn => ?_, fun k q hk => ?_⟩, fun hc hca hlo hhi => ?_⟩
    · rw [State.sapwoodRead_plain hc hn, State.outerRead_sound hr hsd] at read
      exact read
    · rw [State.sapwoodRead_cipher hc hk, State.outerRead_sound hr hsd] at read
      exact read
    · rw [State.sapwoodRead_ring hc hca hlo hhi, State.outerRead_sound hr hsd] at read
      exact read
  · intro ws t
    have hinst := State.installImage_linked hh ht hfile htx hm hver hkind hcrc hlen
    refine ⟨?_, ?_, ?_, fun hbad => ?_⟩
    · rw [hinst]; rfl
    · rw [hinst]; rfl
    · rw [hinst]
    · obtain ⟨f, hf⟩ := State.ownRead_clean hbad (State.ownBytes_sound hfile)
      rw [show t = _ from hf]
      exact ⟨rfl, rfl⟩

end Sys2Proof.Machine
end

section
/-! PROOF. Time, rails, traces and trips (O57). -/

namespace Sys2Proof.Machine

/-! ## Time -/

/-- A change of a cluster counts by what it makes of the cluster as it stands. -/
theorem State.modCluster_congr {s : State} {n : Nat} {f g : Cluster → Cluster} (h : f (s.cluster n) = g (s.cluster n)) :
    s.modCluster n f = s.modCluster n g := congrArg (s.setCluster n) h

theorem Clock.read_mono (k : Clock) {a b : Nat} (h : a ≤ b) : k.read a ≤ k.read b := by
  rw [Clock.read, Clock.read]
  omega

/-- A beacon at a copy in the middle of the fabric, by the offset that it finds. -/
theorem execTimeBeacon_cluster {s : State} {cl : Nat} (h : cl < 160) (drift : Int) :
    let found : Int := (s.timeAt cl : Int) - s.time
    let t := s.modCluster cl (fun c => { c with clock := c.clock.align s.time drift, offset := sat16 found })
    execTimeBeacon cl drift s = .next ((if 8 < found ∨ found < -8 then
        (t.markSkewed cl).modCluster cl (fun c => { c with goodBeacons := 0 })
      else t.modCluster cl (fun c =>
        let g := if decide (-2 ≤ found ∧ found ≤ 2) then c.goodBeacons + 1 else 0
        { c with goodBeacons := g, skewed := c.skewed && g < 2 })).rewalk cl) := by
  intro found t
  rw [execTimeBeacon, if_neg (by omega)]

/-- The beacon of a host link's router. -/
theorem execTimeBeacon_host {s : State} {l : Nat} (h : l < 2) (drift : Int) :
    execTimeBeacon (161 - l) drift s = .next (s.hostBeacon l drift) := by
  rw [execTimeBeacon, if_pos (by omega), show 161 - (161 - l) = l by omega]

/-- Just after an exchange the beacon stands where it stood. -/
theorem Mgmt.slewed_at {m : Mgmt} {now : Nat} (h : m.slewAt = now) : m.slewed now = m.adj := by
  rw [Mgmt.slewed, h]
  simp only [Nat.sub_self, Nat.zero_div]
  omega

/-- The state after a time exchange. -/
def State.exchanged (s : State) (ahead : Int) (l : Nat) : State :=
  { s with mgmt := { s.mgmt with
    adj := s.mgmt.slewed s.now, slew := 10 * ahead, slewAt := s.now, hold := s.time, ptmAt := s.time, ptmLink := l } }

theorem State.time_exchanged (s : State) (ahead : Int) (l : Nat) : (s.exchanged ahead l).time = s.time := by
  have hs : (s.exchanged ahead l).mgmt.slewed s.now = s.mgmt.slewed s.now := Mgmt.slewed_at rfl
  rw [State.time, show (s.exchanged ahead l).now = s.now from rfl, hs, show (s.exchanged ahead l).mgmt.hold = s.time from rfl]
  rw [State.time]
  omega

/-! ## Replayed heads -/

section Replay
variable {s : State} {core : Nat} {st : Strm}

theorem State.replayDue_none (h : s.replays core st = false) : s.replayDue core st = none := if_neg (ne_true_of_eq_false h)

theorem execReplayRelease_none (h : s.replays core st = false) : execReplayRelease core st s = .next s := by
  rw [execReplayRelease, State.replayDue_none h]
  split
  · next he => cases he
  · rfl

theorem State.replays_of (hc : s.classed core = true) (hm : (s.ctx core).mode = .run) (hp : (s.ctx core).frame.pending = none)
    (hh : (s.ctx core).frame.handler = false ∨ (st = .c ∧ s.inHandler core = true)) : s.replays core st = true := by
  rw [State.replays, hc, hm, hp]
  rcases hh with hh | ⟨rfl, hi⟩
  · rw [hh]; rfl
  · rw [hi]
    cases (s.ctx core).frame.handler <;> rfl

/-- The head that is due. -/
theorem State.replayDue_some {r : Strm × Nat × Nat × Nat} (hr : s.replays core st = true)
    (hn : (s.ctx core).replayNext st = some r) (hc : r.2.1 ≤ (s.ctx core).launchCycle (s.cyc core))
    (hh : 0x7000 ≤ r.2.2.1 ↔ (s.ctx core).frame.handler = true) : s.replayDue core st = some r := by
  rw [State.replayDue, if_pos hr, hn, Option.filter_some]
  refine if_pos ?_
  rw [Bool.and_eq_true, decide_eq_true_eq, beq_iff_eq]
  exact ⟨hc, by cases h : (s.ctx core).frame.handler <;> simp_all⟩

end Replay

/-- Settles O57: each step by its conditions. -/
theorem timeRailsTraces : Obligations.TimeRailsTraces := by
  unfold Obligations.TimeRailsTraces
  intro s cl core part watts sensor drift ahead st code c x offset b
  refine ⟨fun hcl h => ?_, fun hcl hlo hhi => ?_, fun k time later h => ⟨rfl, Clock.read_mono k h⟩, fun l hl => execTimeBeacon_host hl drift,
    fun h => congrArg _ (if_pos h), fun l hl => ⟨s.exchanged ahead l, ?_, State.time_exchanged s ahead l, rfl, rfl, fun _ _ => rfl⟩,
    rfl, rfl, ?_, fun low hs => ?_, fun hm hh => ?_, fun h63 hc hn => ?_, fun h => execReplayRelease_none ?_,
    fun log r hl hc hm hp hh h7 hn hr => ?_, _, rfl, rfl, rfl, rfl, rfl, rfl, rfl, rfl, rfl, rfl, rfl, rfl⟩
  · refine (execTimeBeacon_cluster hcl drift).trans ?_
    rw [if_pos h]
  · refine (execTimeBeacon_cluster hcl drift).trans ?_
    rw [if_neg (by omega)]
    simp only [decide_eq_true_eq]
    rfl
  · show execPtmExchange ahead s = _
    rw [execPtmExchange, hl]
    rfl
  · show execRailWindow cl watts s = _
    rw [execRailWindow]
    simp only [State.newWindow, decide_eq_true_eq]
    rfl
  · refine congrArg Host.Outcome.next (State.modCluster_congr ?_)
    simp only [show (s.cluster cl).switching = some low from hs]
  · refine congrArg Host.Outcome.next (if_pos ?_)
    rw [show (s.ctx core).mode = .run from hm]
    rcases hh with hh | rfl
    · rw [show (s.ctx core).frame.handler = false from hh]; rfl
    · simp
  · refine congrArg Host.Outcome.next (if_pos ?_)
    simp only [Bool.and_eq_true, decide_eq_true_eq]
    exact ⟨⟨h63, hc⟩, hn⟩
  · rw [State.replays]
    rcases h with h | h | ⟨h, hc⟩
    · simp [h]
    · simp [show ¬ (s.ctx core).mode = .run from h]
    · simp [show (s.ctx core).frame.handler = true from h, hc]
  · have hdue := State.replayDue_some (State.replays_of hc hm hp hh) hn hr h7
    intro t
    show execReplayRelease core st s = _
    rw [execReplayRelease]
    simp only [show (s.ctx core).launch.replay = some log from hl, hdue, State.diverges, Option.any_some, Bool.and_eq_true,
      Bool.not_eq_true']
    by_cases hk : ((s.ctx core).strm st).moved = true ∨ ((s.ctx core).strm st).named r.2.2.1 r.2.2.2 = false
    · rw [if_pos hk, if_neg]
      rintro ⟨hmv, hnm⟩
      rw [hmv, hnm] at hk
      exact hk.elim nofun nofun
    · obtain ⟨hmv, hnm⟩ := not_or.mp hk
      rw [if_neg hk, if_pos ⟨Bool.eq_false_iff.mpr hmv, Bool.of_not_eq_false hnm⟩]
      rfl

end Sys2Proof.Machine
end

section
/-! PROOF. The life of a region (O55). -/

namespace Sys2Proof.Machine

/-! ## The life of a region -/

section Region
variable {s : State} {part core : Nat} {r : Region}

/-- The acceptance of an entry whose chain of control blocks can be read. -/
theorem execRcbAccept_chain {e : List Byte} {chain : List Rcb} (hne : (s.part part).head ≠ (s.part part).tail)
    (he : s.readOwn part (bits (s.part part).sqcfg 12 44 * 4096 + 8 * ((s.part part).head.toNat % (s.part part).queueSize)) 8 = some e)
    (h128 : leNat e % 128 = 0) (hr : (s.readOwn part (leNat e) 128).isSome = true)
    (hc : s.rcbChain part 8 (leNat e) = some chain) (hreg : r = regionOfChain (leNat e) (s.part part).accepted chain) :
    let p := s.part part
    let u := (s.chainReads part 8 (leNat e)).foldl (fun t a => t.fetchOwn part a 128)
      ((s.modPart part (fun p => { p with head := p.head + 1 })).fetchOwn part
        (bits p.sqcfg 12 44 * 4096 + 8 * (p.head.toNat % p.queueSize)) 8)
    execRcbAccept part s = .next (if r.regid ≠ 0 ∧ chainOk chain p.clusters.length = true ∧ p.affords r = true then
      ((u.modPart part (fun q => q.enter { r with preds := r.preds.filterMap q.predecessor })).writeOwn part (leNat e + 0x40) (leBytes 2 0))
      else u.writeEnd part (leNat e) 0x0E) := by
  intro p u
  subst hreg
  rw [execRcbAccept]
  refine congrArg Host.Outcome.next ((if_neg hne).trans ?_)
  simp only [he, hr, hc, if_true]
  rw [if_neg (not_not.mpr h128)]
  by_cases h : (regionOfChain (leNat e) p.accepted chain).regid ≠ 0 ∧ chainOk chain p.clusters.length = true ∧
      p.affords (regionOfChain (leNat e) p.accepted chain) = true
  · rw [if_pos h]
    obtain ⟨h0, hok, haf⟩ := h
    refine if_neg ?_
    rw [show chainOk chain (s.part part).clusters.length = true from hok,
      show (s.part part).affords (regionOfChain (leNat e) (s.part part).accepted chain) = true from haf]
    simpa using h0
  · rw [if_neg h]
    refine if_pos ?_
    by_contra hno
    simp only [Bool.or_eq_true, decide_eq_true_eq, Bool.not_eq_true', not_or, Bool.not_eq_false] at hno
    exact h ⟨hno.1.1, hno.1.2, hno.2⟩

/-- The dispatch of the foremost region, where one fits and its files can be read. -/
theorem execRegionDispatch_fits {cls : List Nat} {k : Load} (hd : (s.part part).doomed = none)
    (hf : (s.part part).foremost = some r) (hroom : (s.part part).room r = true) (hpick : s.pick part (s.part part) r = some cls)
    (hin : s.loadInput part r (launchCores cls r.cmask).length = .inl k) :
    (∀ code, k.failure = some code →
      execRegionDispatch part s = .next ((s.loadFetched part r).closeRegion part r code)) ∧
    (∀ bs, k.failure = none →
      s.readAt part r.host true (r.prog + ((sectOf? k.file 1).getD (sectOf [])).off) ((sectOf? k.file 1).getD (sectOf [])).size = .ok bs →
      execRegionDispatch part s = .next ((s.loadFetched part r).loadRegion part r cls k (relocated k.file k.ro 1))) := by
  constructor
  · intro code hc
    rw [execRegionDispatch]
    simp only [hd, hf, hroom, hpick, hin, hc, if_true]
  · intro bs hc hb
    rw [execRegionDispatch]
    simp only [hd, hf, hroom, hpick, hin, hc, hb, if_true]

/-- While the resident context's launch goes on, a step of the end concerns the active one alone. -/
theorem execLaunchEnd_active (h : s.residentOver core = false) : execLaunchEnd core s = .next (s.endActive core) := by
  rw [execLaunchEnd, State.endResident, h]
  rfl

/-- The end of the active context's launch. -/
theorem State.endActive_over (h : s.launchOver core = true) :
    ((s.ctx core).undelivered = none → (s.ctx core).fails = [] → s.endActive core =
      s.endLaunch core (s.ctx core) (s.modCtx core (fun x => { x with ending := some (s.cyc core) }))) ∧
    (∀ e w, (s.ctx core).undelivered = some (e, w) → (s.ctx core).mode = .run → s.endActive core =
      (s.modCtx core (fun x => x.dropRec e w)).raise core .c (recTrap w)) ∧
    (∀ f t, (s.ctx core).undelivered = none → (s.ctx core).fails = f :: t → (s.ctx core).mode = .run → s.endActive core =
      (s.modCtx core (fun x => { x with fails := t })).raise core .c f.2.2) := by
  refine ⟨fun hu hf => ?_, fun e w hu hm => ?_, fun f t hu hf hm => ?_⟩
  · rw [State.endActive, if_pos h]
    simp only [hu, hf]
  · rw [State.endActive, if_pos h]
    simp only [hu, hm, if_true]
  · rw [State.endActive, if_pos h]
    simp only [hu, hf, hm, if_true]

theorem State.endActive_goes_on (h : s.launchOver core = false) : s.endActive core = s :=
  if_neg (ne_true_of_eq_false h)

/-- What is due of a launch that is over: first its end is noted, and in a later cycle it ends. -/
theorem State.endLaunch_noted {x : Ctx} (note : State) : (x.ending = none → s.endLaunch core x note = note) ∧
    (∀ e, x.ending = some e → e < s.cyc core → s.endLaunch core x note = s.endCore x.launch.part x.launch.region core) := by
  refine ⟨fun h => ?_, fun e h he => ?_⟩
  · rw [State.endLaunch, h]
  · rw [State.endLaunch, h]
    exact if_pos he

/-- The end of the resident context's launch. -/
theorem State.endResident_over (h : s.residentOver core = true) (hu : (s.core core).alt.undelivered = none)
    (hf : (s.core core).alt.fails = []) : s.endResident core = s.endLaunch core (s.core core).alt
      (s.modCore core (fun c => { c with alt := { (s.core core).alt with ending := some (s.cyc core) } })) := by
  rw [State.endResident]
  exact if_pos (by rw [h, hu, hf]; rfl)

/-- The note in the resident context leaves the active one's launch as it was. -/
theorem State.launchOver_modAlt (f : Core → Ctx) :
    (s.modCore core (fun c => { c with alt := f c })).launchOver core = s.launchOver core := by
  rw [State.launchOver, State.launchOver, State.ctx, State.core_modCore_same]
  rfl

theorem State.takeHalts_none (h : s.haltDue core = false) : s.takeHalts core = s := if_neg (ne_true_of_eq_false h)

/-- A stop for a fault whose accepted requests are released is taken. -/
theorem State.stopGo_fault {t : Trap} {st : Strm} (hm : (s.ctx core).mode = .stopping (some (t, st)))
    (hw : (s.ctx core).stopWaits = false) : s.stopGo core = s.takeFault core st t := by
  rw [State.stopGo]
  simp only [hm, hw, Bool.false_eq_true, if_false]

end Region

/-- Settles O55: each step by what it finds of the queue, of the region and of the launch. -/
theorem regionSteps : Obligations.RegionSteps := by
  unfold Obligations.RegionSteps
  intro s part core order tail r p x
  refine ⟨fun h => ?_, fun h => ?_, fun e chain hne he h128 hr hc hreg => execRcbAccept_chain hne he h128 hr hc hreg,
    fun cls k bs hd hf hroom hp hin hk hb => (execRegionDispatch_fits hd hf hroom hp hin).2 bs hk hb,
    fun cls k code hd hf hroom hp hin hk => (execRegionDispatch_fits hd hf hroom hp hin).1 code hk, fun hf he => ⟨_, ?_, rfl⟩,
    fun hres hover hu hf => ⟨fun hn => ?_, fun e hn he => ?_⟩, fun e w hres hover hu hm => ?_, fun f t hres hover hu hf hm => ?_, ?_,
    fun hf hall hs => ?_, fun t st hh hm hw => ?_⟩
  · exact congrArg Host.Outcome.next (if_neg (by
      show ¬ ((p.queueSize : Int) - ((p.tail - p.head).toNat : Int) < ((tail - p.tail).toNat : Int))
      omega))
  · exact congrArg Host.Outcome.next (if_pos (by
      show (p.queueSize : Int) - ((p.tail - p.head).toNat : Int) < ((tail - p.tail).toNat : Int)
      omega))
  · show execLaunchStart part order s = _
    rw [execLaunchStart]
    simp only [show (s.part part).regions.find? _ = some r from hf]
    rw [if_neg (not_not.mpr he)]
  · exact (execLaunchEnd_active hres).trans (congrArg Host.Outcome.next
      (((State.endActive_over hover).1 hu hf).trans ((State.endLaunch_noted _).1 hn)))
  · exact (execLaunchEnd_active hres).trans (congrArg Host.Outcome.next
      (((State.endActive_over hover).1 hu hf).trans ((State.endLaunch_noted _).2 e hn he)))
  · exact (execLaunchEnd_active hres).trans (congrArg Host.Outcome.next ((State.endActive_over hover).2.1 e w hu hm))
  · exact (execLaunchEnd_active hres).trans (congrArg Host.Outcome.next ((State.endActive_over hover).2.2 f t hu hf hm))
  · intro y hres hover hu hf
    have hend := State.endResident_over hres hu hf
    refine ⟨fun hn => ?_, fun e hn he => ⟨_, ?_, rfl⟩⟩
    · rw [(State.endLaunch_noted _).1 hn] at hend
      show Host.Outcome.next ((s.endResident core).endActive core) = _
      rw [hend, State.endActive_goes_on]
      exact (State.launchOver_modAlt _).trans hover
    · rw [(State.endLaunch_noted _).2 e hn he] at hend
      exact congrArg (fun t : State => Host.Outcome.next (t.endActive core)) hend
  · show execRegionEnd part order s = _
    rw [execRegionEnd]
    simp only [show (s.part part).regions.find? _ = some r from hf]
    rw [if_pos (by rw [hall, hs]; rfl)]
  · show execFaultStop core s = _
    rw [execFaultStop, State.takeHalts_none hh, State.stopGo_fault hm hw]

end Sys2Proof.Machine
end

section
/-! PROOF. Stops by Sapwood, and bank sharing (O56). -/

namespace Sys2Proof.Machine

/-! ## Operations of Sapwood -/

/-- A change of a partition counts by what it makes of the partition as it stands. -/
theorem State.modPart_congr {s : State} {n : Nat} {f g : Part → Part} (h : f (s.part n) = g (s.part n)) :
    s.modPart n f = s.modPart n g := congrArg (s.setPart n) h

/-- A step that Sapwood may ask for while the management cores are out of reset. -/
theorem next_unheld {s t u : State} (h : s.mgmt.swHeld = false) (ht : t = u) :
    Host.Outcome.next (σ := State) (φ := Fault) (ρ := Refusal) (if s.mgmt.swHeld then s else t) = .next u :=
  congrArg Host.Outcome.next ((if_neg (ne_true_of_eq_false h)).trans ht)

section Ops
variable {s : State} {part regid lcore : Nat} {r : Region}

theorem State.preempt_named (hn : (s.part part).named regid (fun r => r.st == .running) = some r)
    (ha : s.areasOk (s.part part) r.cores.length = true) : s.preempt part regid =
      r.left.foldl (fun t n => if (t.ctx n).belongs part r.order then t.stopFor n else t)
        (s.modPart part (fun p => { p with pctlBusy := true, pctlRegid := BitVec.ofNat 16 regid, pctlOp := some (1, r.order, false) })) := by
  rw [State.preempt]
  simp only [hn, ha, if_true]

theorem State.resumeRegion_named (hn : (s.part part).named regid (fun r => r.st == .preempted || r.held) = some r) :
    s.resumeRegion part regid = s.modPart part (fun p =>
      { p with pctlBusy := true, pctlRegid := BitVec.ofNat 16 regid, pctlOp := some (2, r.order, false) }) := by
  rw [State.resumeRegion]
  simp only [hn]

theorem State.endRegionOp_named (hn : (s.part part).named regid (fun r => r.st == .running || r.st == .preempted) = some r) :
    s.endRegionOp part regid =
      ((s.modPart part (fun p => { p with pctlRegid := BitVec.ofNat 16 regid })).killRegion part r (s.endCode part r)).pctlDone part := by
  rw [State.endRegionOp]
  simp only [hn]

theorem State.resumeOne_core {n : Nat} (hn : s.oneCore part regid lcore = some n) : s.resumeOne part regid lcore =
    ((s.modPart part (fun p => { p with
      pctlRegid := BitVec.ofNat 16 regid
      posted := p.posted.filter (fun k => k != ((s.ctx n).launch.region, n)) })).restart n (s.cyc n)).pctlDone part := by
  rw [State.resumeOne]
  simp only [hn]

theorem State.endOne_core {n : Nat} (hn : s.oneCore part regid lcore = some n) : s.endOne part regid lcore =
    (((s.modPart part (fun p => { p with pctlRegid := BitVec.ofNat 16 regid })).modRegion part (s.ctx n).launch.region (fun r =>
      { r with err := 0x80 + bits (s.ctx n).frame.fstat 0 7, fenced := addOnce r.fenced lcore })).endCore part
        (s.ctx n).launch.region n).pctlDone part := by
  rw [State.endOne]
  simp only [hn]

theorem State.place_found {slice : Nat} (hp : (s.part part).placing = none)
    (hf : (s.part part).regions.find? (fun r => r.regid == regid && r.st == .preempted) = some r)
    (hok : s.placeable part (s.part part) r = true) : s.place part slice regid = s.modPart part (fun p => { p with
      placing := some (r.order, false), slice := sliceValue slice, bshare := BitVec.ofNat 64 (regid % 2 ^ 16) }) := by
  have hfor : s.placeFor part regid = some r := by
    rw [State.placeFor]
    simp only [hf, Option.filter_some, hok, if_true]
  rw [State.place, hp]
  simp only [hfor, Option.isSome_none, Bool.false_eq_true, if_false]

end Ops

/-! ## What the operations come to -/

section Done
variable {s : State} {part : Nat} {r : Region}

/-- A pre-emption that is under way, on a region that runs. -/
theorem execPreemptDone_running {z : Bool} (hop : (s.part part).pctlOp = some (1, r.order, z))
    (hf : (s.part part).regions.find? (fun o => o.order == r.order && o.st == .running) = some r) :
    let u := r.left.foldl (fun t n => t.seal part r.order n) s
    execPreemptDone part s = .next (if r.left.all (fun n => u.mayShelve part r.order n &&
        u.areaMoves n ((s.part part).areaAt (r.cores.idxOf n)) 0x18000 true) then
      ((r.left.foldl (fun t n => t.saveCtx part r.order n ((t.ctx n).belongs part r.order)
        (!r.left.any (fun k => k < n && clusterOf k == clusterOf n)) ((s.part part).areaAt (r.cores.idxOf n))) u).modRegion part r.order
          (fun r => { r with st := .preempted, held := false })).pctlDone part
      else u) := by
  intro u
  rw [execPreemptDone]
  simp only [hop, hf]
  rfl

/-- A resume that is under way. -/
theorem execResumeRestart_region {woken : Bool} (hop : (s.part part).pctlOp = some (2, r.order, woken))
    (hr : (s.part part).region r.order = some r) : execResumeRestart part s = .next (
      if woken then (if s.areasAwake (s.part part) r true then (s.resumeAll part (s.part part) r).pctlDone part else s)
      else if r.held then s.resumeHeld part (s.part part) r
      else if r.st ≠ .preempted then s.pctlDone part
      else if (s.part part).placing.all (fun k => k.1 ≠ r.order) && s.coresFree part (s.part part) r then
        (((s.areasFetched part (s.part part) r).wakeSaved (s.areas (s.part part) r true)).modRegion part r.order
          (fun r => { r with st := .running })).modPart part (fun p => { p with pctlOp := some (2, r.order, true) })
      else s) := by
  rw [execResumeRestart]
  simp only [hop, hr]

/-- A placement that is under way. -/
theorem execPlacementDone_region {woken : Bool} (hp : (s.part part).placing = some (r.order, woken))
    (hf : (s.part part).regions.find? (fun o => o.order == r.order && o.st == .preempted) = some r) :
    execPlacementDone part s = .next (
      if woken then (if s.areasAwake (s.part part) r false then s.placedNow part (s.part part) r else s)
      else if s.placeable part (s.part part) r then
        ((s.areasFetched part (s.part part) r).wakeSaved (s.areas (s.part part) r false)).modPart part
          (fun p => { p with placing := some (r.order, true) })
      else s.dropPlacing part) := by
  rw [execPlacementDone]
  simp only [hp, hf]

end Done

/-! ## DBGHALT -/

/-- The launch cores of the running regions. -/
theorem State.mem_running {s : State} {part order n : Nat} : (order, n) ∈ s.running part ↔
    ∃ r ∈ (s.part part).regions, r.st = .running ∧ r.order = order ∧ n ∈ r.left := by
  simp only [State.running, List.mem_flatMap, List.mem_filter, List.mem_map, beq_iff_eq, Prod.mk.injEq]
  constructor
  · rintro ⟨r, ⟨hr, hst⟩, m, hm, ho, rfl⟩
    exact ⟨r, hr, hst, ho, hm⟩
  · rintro ⟨r, hr, hst, ho, hn⟩
    exact ⟨r, ⟨hr, hst⟩, n, hn, ho, rfl⟩

/-- The one halt that is due is taken. -/
theorem State.takeHalts_one {s : State} {part n time order : Nat} (hp : s.parts = [(part, s.part part)])
    (hh : (s.part part).halts = [(time, order, n)]) (ht : time ≤ s.timeAt (clusterOf n)) :
    s.takeHalts n = (s.modPart part (fun p => { p with halts := [] })).haltOne part order n := by
  have hdue : s.isDue n (time, order, n) = true := by
    rw [State.isDue, Bool.and_eq_true, decide_eq_true_eq]
    exact ⟨beq_self_eq_true n, ht⟩
  have hany : s.haltDue n = true := by
    rw [State.haltDue, hp]
    simp [hh, hdue]
  have hdrop : s.modPart part (fun q => { q with halts := q.halts.filter (fun k => !s.isDue n k) }) =
      s.modPart part (fun q => { q with halts := [] }) := State.modPart_congr (by simp [hh, hdue])
  rw [State.takeHalts, if_pos hany, hp]
  simp only [List.foldl_cons, List.foldl_nil, hh, List.filter_cons, hdue, if_true, List.filter_nil]
  rw [hdrop]

section Halt
variable {s : State} {part order n : Nat} (hb : (s.ctx n).belongs part order = true)
include hb

theorem State.haltOne_run (hm : (s.ctx n).mode = .run) : s.haltOne part order n =
    if (s.ctx n).frame.handler = false then s.raise n .c (breakTrap 4)
    else if (s.ctx n).stopWaits then s.stopWait n (some (breakTrap 4, .c)) else s.takeFault n .c (breakTrap 4) := by
  rw [State.haltOne]
  simp only [hb, hm, if_true, Bool.not_eq_true']

theorem State.haltOne_stopped (hm : (s.ctx n).mode = .stopped) :
    s.haltOne part order n = s.modCtx n (fun x => x.keepFault (breakTrap 4) .c) := by
  rw [State.haltOne]
  simp only [hb, hm, if_true]

theorem State.haltOne_stopping (hm : (s.ctx n).mode = .stopping none) (hd : (s.core n).exchangeDue = true) :
    s.haltOne part order n = (s.modCtx n (fun x => { x with mode := .stopping (some (breakTrap 4, .c)) })).modCore n
      (fun c => { c with exchangeDue := false }) := by
  rw [State.haltOne]
  simp only [hb, hm, hd, if_true]

end Halt

/-- Settles O56: each operation by the region that it names, and each step by what has become of it. -/
theorem stopsAndBanks : Obligations.StopsAndBanks := by
  unfold Obligations.StopsAndBanks
  intro s part regid lcore core n slice r p begun named done unpost restored resumed
  refine ⟨fun hs => ⟨fun hn ha => next_unheld hs (State.preempt_named hn ha), fun hn => next_unheld hs (State.resumeRegion_named hn),
      fun hn => next_unheld hs (State.endRegionOp_named hn), ?_, fun hp => ⟨next_unheld hs ?_, fun hf hok => next_unheld hs ?_⟩⟩,
    fun hs i hi => ?_, fun z hop hf => ?_, fun hop hr => ⟨fun hh hall => ⟨fun hb => ?_, fun hb => ?_⟩, fun hh hst hpl hfree => ?_⟩,
    fun hop hr haw => ?_, fun hf => ⟨fun hp hok => ?_, fun hp haw => ?_⟩, fun hs => ?_, fun e he hc => ⟨fun hm => ?_, fun hm hno halt => ?_⟩,
    fun hr => ?_, ?_, fun order n => State.mem_running, fun hh => ?_, fun time hp hh ht => ?_, ?_⟩
  · intro hn order
    exact ⟨next_unheld hs (State.resumeOne_core hn), next_unheld hs (State.endOne_core hn)⟩
  · refine if_neg ?_
    rw [show (s.part part).placing = none from hp]
    decide
  · exact State.place_found hp hf hok
  · simp only [List.mem_cons, List.not_mem_nil, or_false] at hi
    rcases hi with rfl | rfl | rfl | rfl | rfl | rfl | rfl <;> exact congrArg Host.Outcome.next (if_pos hs)
  · intro u may
    have h := execPreemptDone_running hop hf
    refine ⟨fun hm => h.trans (congrArg Host.Outcome.next (if_pos hm)),
      fun hm => h.trans (congrArg Host.Outcome.next (if_neg (ne_true_of_eq_false hm)))⟩
  · refine (execResumeRestart_region hop hr).trans (congrArg Host.Outcome.next ?_)
    rw [if_neg (by decide), if_pos hh]
    refine (if_neg (by rw [hall]; decide)).trans ((if_pos hb).trans rfl)
  · refine (execResumeRestart_region hop hr).trans (congrArg Host.Outcome.next ?_)
    rw [if_neg (by decide), if_pos hh]
    exact (if_neg (by rw [hall]; decide)).trans (if_neg (ne_true_of_eq_false hb))
  · refine (execResumeRestart_region hop hr).trans (congrArg Host.Outcome.next ?_)
    rw [if_neg (by decide), if_neg (ne_true_of_eq_false hh), if_neg (not_not.mpr hst)]
    refine if_pos ?_
    rw [show (s.part part).placing = none from hpl, show s.coresFree part (s.part part) r = true from hfree]
    rfl
  · refine (execResumeRestart_region hop hr).trans (congrArg Host.Outcome.next ?_)
    rw [if_pos rfl]
    exact (if_pos haw).trans rfl
  · refine (execPlacementDone_region hp hf).trans (congrArg Host.Outcome.next ?_)
    rw [if_neg (by decide)]
    exact if_pos hok
  · refine (execPlacementDone_region hp hf).trans (congrArg Host.Outcome.next ?_)
    rw [if_pos rfl]
    exact (if_pos haw).trans rfl
  · intro t hm hd hdir hal
    show execSliceExpiry core s = _
    rw [execSliceExpiry]
    simp only [hs, if_true]
    have hgo : ((t.core core).exchangeDue && (t.ctx core).mode == .stopped && (t.core core).direct.isEmpty) = true := by
      rw [hd, hm, hdir]; rfl
    exact congrArg Host.Outcome.next ((if_pos hgo).trans (if_pos hal))
  · show execBankRestart core s = _
    rw [execBankRestart, he]
    exact congrArg Host.Outcome.next ((if_neg (Nat.not_lt.mpr hc)).trans (if_pos hm))
  · show execBankRestart core s = _
    rw [execBankRestart, he]
    refine congrArg Host.Outcome.next ((if_neg (Nat.not_lt.mpr hc)).trans ((if_neg (ne_true_of_eq_false hno)).trans (if_pos ?_)))
    rw [hm, halt]
    rfl
  · intro q hpost hb hfd hh hpl hall
    show execFwd core s = _
    rw [execFwd, hr]
    refine congrArg Host.Outcome.next (if_pos ?_)
    simp only [Bool.and_eq_true, Bool.not_eq_true']
    exact ⟨⟨⟨⟨⟨hpost, hb⟩, hfd⟩, hh⟩, hpl⟩, hall⟩
  · show execDbghalt part s = _
    rw [execDbghalt]
    cases bitAt s.mgmt.scopes 1 <;> rfl
  · show execFaultStop n s = _
    rw [execFaultStop, State.takeHalts_none hh]
  · show execFaultStop n s = _
    rw [execFaultStop, State.takeHalts_one hp hh ht]
  · intro x brk hb
    refine ⟨fun hm hh => (State.haltOne_run hb hm).trans (if_pos hh), fun hm hh hw => ?_, fun hm => State.haltOne_stopped hb hm,
      fun hm hd => State.haltOne_stopping hb hm hd⟩
    refine (State.haltOne_run hb hm).trans ((if_neg ?_).trans (if_neg (ne_true_of_eq_false hw)))
    rw [show (s.ctx n).frame.handler = true from hh]
    decide

end Sys2Proof.Machine
end

section
/-! PROOF. Slices, walks and couplings (O53). -/

namespace Sys2Proof.Machine

/-! ## The write queues of the slices -/

section Entry
variable {s : State} {slice : Nat} {e : SliceEntry} {t : List SliceEntry}

/-- An entry whose lease has expired is translated again. -/
theorem execSliceEntryApply_stale (hq : s.slices.queues.get slice [] = e :: t) (hs : s.entryStale e = true) :
    execSliceEntryApply slice s = .next (s.turned (clusterOf e.core) .copy (fun s => s.askEntry e)) := by
  rw [execSliceEntryApply]
  simp only [hq, hs, if_true]

/-- One at a slice that does not answer. -/
theorem execSliceEntryApply_dead (hq : s.slices.queues.get slice [] = e :: t) (hs : s.entryStale e = false)
    (hd : (s.setQueue slice t).isDead e.pa = true) :
    execSliceEntryApply slice s = .next ((s.setQueue slice t).turned (clusterOf e.core) .copy (fun u =>
      (u.checkAt (u.devSite e.pa 32) (u.ctx e.core).launch.part).endCopy e.core e.seq .integrity)) := by
  rw [execSliceEntryApply]
  simp only [hq, hs, hd, Bool.false_eq_true, if_false, if_true]

/-- What becomes of an entry at a slice that answers: it is applied, or ends its command for its race. -/
def State.applyChecked (u : State) (slice : Nat) (e : SliceEntry) : State :=
  match u.entryRace e with
  | some v => v.applyEntry slice e
  | none => u.endCopy e.core e.seq .race

theorem execSliceEntryApply_alive (hq : s.slices.queues.get slice [] = e :: t) (hs : s.entryStale e = false)
    (hd : (s.setQueue slice t).isDead e.pa = false) :
    execSliceEntryApply slice s = .next ((s.setQueue slice t).turned (clusterOf e.core) .copy (fun u => u.applyChecked slice e)) := by
  rw [execSliceEntryApply]
  simp only [hq, hs, hd, Bool.false_eq_true, if_false]
  rfl

theorem State.entryStale_of_expired {x : Nat} (hx : e.expiry = some x) (h : x ≤ s.sliceTime e.pa) : s.entryStale e = true := by
  rw [State.entryStale, hx]
  simpa using h

theorem State.entryStale_of_live (h : ∀ x, e.expiry = some x → s.sliceTime e.pa < x) : s.entryStale e = false := by
  rw [State.entryStale]
  cases hx : e.expiry with
  | none => rfl
  | some x => simpa using h x hx

/-- An entry of one sector is checked as its one sector. -/
theorem State.entryRace_sector (hd : e.d = true) (hpa : e.pa % 32 = 0) (hl : e.bytes.length = 32) :
    s.entryRace e = s.raceCheck e.core 5 true e.va (e.pa / 32) e.head e.intv .device := by
  have hone : sectorsOf e.pa e.bytes.length = [e.pa / 32] := by
    rw [hl, sectorsOf, if_neg (by decide), show (e.pa + 32 - 1) / 32 + 1 - e.pa / 32 = 1 by omega]
    rfl
  rw [State.entryRace, hd, hone]
  simp only [List.foldl_cons, List.foldl_nil, Option.bind_some, Nat.sub_self, Nat.mul_zero, Nat.add_zero]
  rfl

end Entry

/-! ## Walks -/

section Walk
variable {s : State} {cl : Nat} {k : Walk}

/-- The oldest walk that waits for no host, of an address that is neither barred nor read-only data. -/
theorem execWalkReturn_oldest (hk : (s.cluster cl).running.find? (fun k => !k.ats) = some k)
    (hx : s.xlateCheck (4 * cl) k.part k.va = none) (hr : s.rodataLease k.part k.va s.time = none) :
    execWalkReturn cl s = .next (if k.va < 2 ^ 55 then s.askHost cl k else s.readPte cl k) := by
  rw [execWalkReturn]
  simp only [hk, hx, hr]

/-- The request of a host page, by the routes between the cluster and the host link. -/
theorem State.askHost_eq : s.askHost cl k =
    if s.reachesRouter (clusterRouter cl) s.outerRouter = false ∨ s.reachesRouter s.outerRouter (clusterRouter cl) = false then
      s.endWalk cl k (.fail .remote)
    else if s.routeMoves (clusterRouter cl) s.outerRouter 0 16 = false then s
    else
      let t := (s.setWalk cl k { k with ats := true }).sendOn (clusterRouter cl) s.outerRouter k.va [] false
      { t with fabric := { t.fabric with
        ats := t.fabric.ats ++ [{ cl := cl, va := k.va / 4096 * 4096, pasid := bits (s.part k.part).xlcfg 32 20 }] } } := by
  rw [State.askHost]
  simp only [Bool.or_eq_true, Bool.not_eq_true']

/-- The address of the entry that a walk reads next. -/
def Walk.entryAt (k : Walk) : Nat := k.table % 2 ^ 42 + 8 * pteIndex k.level k.va

/-- Where there is no memory, or the root lies in another device, a walk ends with XLATE. -/
theorem State.readPte_nowhere (h : ¬ k.entryAt < s.slices.capacity ∨ (s.isLocal k.table = false ∧ k.level = 3)) :
    s.readPte cl k = s.endWalk cl k (.fail .xlate) := by
  refine if_pos ?_
  rw [Bool.or_eq_true, Bool.and_eq_true, decide_eq_true_eq, Bool.not_eq_true', beq_iff_eq]
  exact h.imp_left Nat.not_lt.mp

/-- What a walk does with the entry that it has read. -/
def State.walkOn (u : State) (cl : Nat) (k : Walk) : Pte → State
  | .bad => u.endWalk cl k (.fail .xlate)
  | .table b => u.setWalk cl k { k with level := k.level - 1, table := b }
  | .leaf e m => u.endWalk cl k (.lease e m)

section Entry
variable (hroom : k.entryAt < s.slices.capacity) (hlocal : s.isLocal k.table = true ∨ k.level ≠ 3)
include hroom hlocal

theorem State.readPte_somewhere :
    ¬ (decide (s.slices.capacity ≤ k.entryAt) || !s.isLocal k.table && k.level == 3) = true := by
  rw [Bool.or_eq_true, Bool.and_eq_true, decide_eq_true_eq, Bool.not_eq_true', beq_iff_eq]
  rintro (h | ⟨h, h3⟩)
  · exact absurd hroom (Nat.not_lt.mpr h)
  · exact hlocal.elim (fun hl => by rw [h] at hl; cases hl) (fun hne => hne h3)

theorem State.readPte_unreached (hr : s.reachesFrom (clusterRouter cl) k.entryAt = false) :
    s.readPte cl k = s.endWalk cl k (.fail .remote) :=
  (if_neg (State.readPte_somewhere hroom hlocal)).trans (if_pos (congrArg not hr))

section Reached
variable (hr : s.reachesFrom (clusterRouter cl) k.entryAt = true)
include hr

/-- It is held while its flit cannot move. -/
theorem State.readPte_held (hm : s.moves (clusterRouter cl) k.entryAt 0 8 = false) : s.readPte cl k = s :=
  (if_neg (State.readPte_somewhere hroom hlocal)).trans
    ((if_neg (ne_true_of_eq_false (congrArg not hr))).trans (if_pos (congrArg not hm)))

variable (hm : s.moves (clusterRouter cl) k.entryAt 0 8 = true)
include hm

/-- An entry that cannot be read as it was stored. -/
theorem State.readPte_flawed (h : s.isDead k.entryAt = true ∨ s.slotSound true k.entryAt 8 = false) :
    s.readPte cl k = (s.checkAt (s.devSite k.entryAt 8) k.part).endWalk cl k (.fail .integrity) := by
  refine (if_neg (State.readPte_somewhere hroom hlocal)).trans ((if_neg (ne_true_of_eq_false (congrArg not hr))).trans
    ((if_neg (ne_true_of_eq_false (congrArg not hm))).trans (if_pos ?_)))
  rwa [Bool.or_eq_true, Bool.not_eq_true']

/-- An entry that is read. -/
theorem State.readPte_read (hd : s.isDead k.entryAt = false) (hs : s.slotSound true k.entryAt 8 = true) : s.readPte cl k =
    ((s.sendFlit (clusterRouter cl) k.entryAt [] (s.devRead true k.entryAt 8) false).fetched k.entryAt 8).walkOn cl k
      (s.pte (s.physWord k.entryAt) k.level k.va (s.sliceTime k.entryAt)) := by
  have hread : ¬ (s.isDead k.entryAt || !s.slotSound true k.entryAt 8) = true := by rw [hd, hs]; decide
  refine (if_neg (State.readPte_somewhere hroom hlocal)).trans ((if_neg (ne_true_of_eq_false (congrArg not hr))).trans
    ((if_neg (ne_true_of_eq_false (congrArg not hm))).trans ((if_neg hread).trans rfl)))

end Reached
end Entry
end Walk

/-! ## Couplings -/

section Coupling
variable {s : State} {core dst : Nat} {sq lq : BitVec 3} {e : QLine} {t : List QLine}

/-- The entry leaves its SQ and joins the LQ. -/
def State.transferred (s : State) (core dst : Nat) (sq lq : BitVec 3) (e : QLine) : State :=
  (s.modCtx core (fun x => x.storePop (.q sq))).modCtx dst (fun y => { y with
    lq := y.lq.set lq.toNat (y.lqueue lq ++ [{ e with id := y.nextId, at_ := 0 }]), nextId := y.nextId + 1 })

/-- A filled entry past its 24 cycles, between contexts that run: it goes when its route moves. -/
theorem execCouplingTransfer_filled (hc : (s.ctx core).launch.cplOut.find? (fun c => c.1 == sq) = some (sq, dst, lq))
    (hq : (s.ctx core).squeue sq = e :: t) (hf : e.filled = true) (h24 : e.at_ + 24 ≤ s.cyc core)
    (hroom : ((s.ctx dst).lqueue lq).length < 16) (h1 : (s.ctx core).stopped = false) (h2 : (s.ctx dst).stopped = false)
    (hs : (s.ctx core).sibling (s.ctx dst) = true) : execCouplingTransfer core sq s =
      .next (if s.couplingMoves (clusterOf core) (clusterOf dst) then
        (s.couplingSend (clusterOf core) (clusterOf dst) e.lanes).transferred core dst sq lq e else s) := by
  rw [execCouplingTransfer]
  simp only [hc, hq]
  refine congrArg Host.Outcome.next (if_congr ?_ rfl rfl)
  rw [hf, h1, h2, hs, decide_eq_true h24, decide_eq_true hroom]
  rfl

end Coupling

/-- Settles O53: each step by the entry, the walk or the coupling that it finds. -/
theorem slicesWalksCouplings : Obligations.SlicesWalksCouplings := by
  unfold Obligations.SlicesWalksCouplings
  intro s
  refine ⟨fun slice e t hq => ?_, fun slice e => ⟨fun hd => ?_, fun hd hpa hl => State.entryRace_sector hd hpa hl, fun hp => if_pos hp,
    fun w hp hw => ?_, fun hp hw => ?_⟩, fun cl k hk hx hr => ?_, fun core sq dst lq e t hc hq hf h24 hroom h1 h2 hs => ?_⟩
  · intro u
    refine ⟨fun x hx hle => ⟨execSliceEntryApply_stale hq (State.entryStale_of_expired hx hle), fun k hk hm => ?_⟩, fun hlive =>
      ⟨fun hd => execSliceEntryApply_dead hq (State.entryStale_of_live hlive) hd, fun hd => ?_⟩⟩
    · rw [State.askEntry, hk]
      exact if_neg (ne_true_of_eq_false hm)
    · refine (execSliceEntryApply_alive hq (State.entryStale_of_live hlive) hd).trans ?_
      rfl
  · rw [State.entryRace, hd]
    rfl
  · rw [State.applyEntry, hp, hw]
    rfl
  · rw [State.applyEntry, hp, hw]
    rfl
  · intro set pa r pte u room host
    have hgo := execWalkReturn_oldest hk hx hr
    have hroomIff : room = true ↔ k.entryAt < s.slices.capacity := decide_eq_true_iff
    refine ⟨fun hlo => ?_, fun hhi hno => ?_, fun hhi hin hloc => ⟨fun hre => ?_, fun hre hm => ?_, fun hre hm =>
      ⟨fun hbad => ?_, fun hd hsd => ?_⟩⟩⟩
    · rw [if_pos hlo, State.askHost_eq] at hgo
      refine ⟨fun h => hgo.trans (congrArg Host.Outcome.next (if_pos h)), fun h1 h2 hm => ?_, fun h1 h2 hm => ?_⟩
      · refine hgo.trans (congrArg Host.Outcome.next ((if_neg ?_).trans (if_pos hm)))
        rw [h1, h2]
        decide
      · refine hgo.trans (congrArg Host.Outcome.next ((if_neg ?_).trans (if_neg (by rw [hm]; decide))))
        rw [h1, h2]
        decide
    · refine hgo.trans (congrArg Host.Outcome.next ((if_neg (Nat.not_lt.mpr hhi)).trans (State.readPte_nowhere ?_)))
      exact hno.imp_left fun h hlt => by rw [hroomIff.mpr hlt] at h; cases h
    · exact hgo.trans (congrArg Host.Outcome.next ((if_neg (Nat.not_lt.mpr hhi)).trans
        (State.readPte_unreached (hroomIff.mp hin) hloc hre)))
    · exact hgo.trans (congrArg Host.Outcome.next ((if_neg (Nat.not_lt.mpr hhi)).trans
        (State.readPte_held (hroomIff.mp hin) hloc hre hm)))
    · exact hgo.trans (congrArg Host.Outcome.next ((if_neg (Nat.not_lt.mpr hhi)).trans
        (State.readPte_flawed (hroomIff.mp hin) hloc hre hm hbad)))
    · have hread := hgo.trans (congrArg Host.Outcome.next ((if_neg (Nat.not_lt.mpr hhi)).trans
        (State.readPte_read (hroomIff.mp hin) hloc hre hm hd hsd)))
      refine ⟨fun hp => hread.trans ?_, fun b hp => hread.trans ?_, fun e m hp => hread.trans ?_⟩ <;>
        exact congrArg (fun q : Pte => Host.Outcome.next (u.walkOn cl k q)) hp
  · intro a b go
    have hgo := execCouplingTransfer_filled hc hq hf h24 hroom h1 h2 hs
    refine ⟨fun hab => hgo.trans (congrArg Host.Outcome.next ?_), fun hab hr hm => hgo.trans (congrArg Host.Outcome.next ?_),
      fun hab hno => hgo.trans (congrArg Host.Outcome.next (if_neg ?_))⟩
    · rw [State.couplingMoves, State.couplingSend, if_pos (show clusterOf core = clusterOf dst from hab)]
      refine if_pos ?_
      rw [Bool.or_eq_true]
      exact .inl (beq_iff_eq.mpr hab)
    · rw [State.couplingMoves, State.couplingSend, if_neg (show ¬ clusterOf core = clusterOf dst from hab)]
      refine if_pos ?_
      rw [hr, hm]
      exact Bool.or_true _
    · rw [State.couplingMoves, Bool.or_eq_true, Bool.and_eq_true, beq_iff_eq]
      rintro (h | ⟨h1, h2⟩)
      · exact hab h
      · exact hno.elim (fun hn => by rw [h1] at hn; cases hn) (fun hn => by rw [h2] at hn; cases hn)

end Sys2Proof.Machine
end

section
/-! PROOF. The class FIFOs, and accesses at their places (O52). -/

namespace Sys2Proof.Machine

/-- Which of the two banks of a core a FIFO step acts on. -/
theorem State.onFifo_facing (s : State) (core : Nat) (cls : BitVec 4) :
    (s.facing core cls = s.flip core ∧ ∀ f : State → State, s.onFifo core cls f = (f (s.flip core)).flip core) ∨
      (s.facing core cls = s ∧ ∀ f : State → State, s.onFifo core cls f = f s) := by
  unfold State.facing State.onFifo
  cases (s.core core).alt.fifoOf cls.toNat with
  | nil => right; simp
  | cons a t =>
    cases (s.core core).ctx.fifoOf cls.toNat with
    | nil => left; simp
    | cons b u =>
      by_cases h : a.issued < b.issued
      · left; simp [h]
      · right; simp [h]

/-- A FIFO step depends only on what it does to the bank that it acts on. -/
theorem State.onFifo_congr {s : State} {core : Nat} {cls : BitVec 4} {f g : State → State}
    (h : f (s.facing core cls) = g (s.facing core cls)) : s.onFifo core cls f = s.onFifo core cls g := by
  obtain ⟨hu, hf⟩ | ⟨hu, hf⟩ := s.onFifo_facing core cls
  · rw [hf, hf, ← hu, h]
  · rw [hf, hf]; rwa [hu] at h

/-- An access whose lease has expired at its place does not live. -/
theorem State.leaseLives_expired {s : State} {a : Acc} {e : Nat} (he : a.expiry = some e) (hle : e ≤ s.placeTime a.place) :
    s.leaseLives a = false := by
  unfold State.leaseLives
  rw [he]
  simpa using hle

/-- An access to a page without D = 1 is not checked for a race (R246). -/
theorem State.accRace_unchecked (s : State) (core : Nat) {a : Acc} (pa : Nat) (hd : a.d = false) : s.accRace core a pa = some s := by
  unfold State.accRace
  simp [hd]

theorem State.performAt_dev (s : State) (core : Nat) {a : Acc} {pa : Nat} (h : a.place = .dev pa) :
    s.performAt core a = s.performDev core a pa := by
  unfold State.performAt; rw [h]

theorem State.performAt_spad (s : State) (core : Nat) {a : Acc} {c off : Nat} (h : a.place = .spad c off) :
    s.performAt core a = s.performSpad core a c off := by
  unfold State.performAt; rw [h]

/-- An access out of reach fails (R351). -/
theorem State.performDev_unreached {s : State} {core : Nat} {a : Acc} {pa : Nat} (h : s.reaches core pa = false) :
    s.performDev core a pa = s.accFail core a .remote := by
  unfold State.performDev; simp [h]

/-- An access that reads what does not match its check fails (R360). -/
theorem State.performDev_unsound {s : State} {core : Nat} {a : Acc} {pa : Nat} (h : s.reaches core pa = true)
    (hk : a.kind.answers = true) (hu : s.slotSound a.cpg pa a.kind.width = false) :
    s.performDev core a pa = s.accFail core a .integrity := by
  unfold State.performDev; simp [h, hk, hu]

/-- An access at a slice that does not answer fails (R358). -/
theorem State.performDev_dead {s : State} {core : Nat} {a : Acc} {pa : Nat} (h : s.reaches core pa = true)
    (hd : s.isDead pa = true) : s.performDev core a pa = s.accFail core a .integrity := by
  unfold State.performDev
  simp only [h, hd, Bool.not_true, Bool.false_eq_true, if_false, if_true, ite_self]

/-- A sound load in reach answers with its bytes. -/
theorem State.performDev_load {s : State} {core : Nat} {a : Acc} {pa : Nat} {sz : Sz} {sx : Bool} {d : Reg}
    (h : s.reaches core pa = true) (hd : a.d = false) (hk : a.kind = .load sz sx d) (hs : s.slotSound a.cpg pa (szBytes sz) = true)
    (hl : s.isDead pa = false) :
    s.performDev core a pa = (s.fetched pa (szBytes sz)).modCtx core (fun x =>
      x.reply a.id (some (extend sz sx ((s.fetched pa (szBytes sz)).devRead a.cpg pa (szBytes sz)))) none) := by
  unfold State.performDev
  simp only [h, hl, hk, hs, AccKind.width, AccKind.reads, AccKind.answers, State.accRace_unchecked _ _ _ hd, Bool.not_true,
    Bool.and_false, Bool.false_eq_true, if_false, if_true]


section
variable {s : State} {core : Nat} {a : Acc} {pa : Nat} (h : s.reaches core pa = true) (hl : s.isDead pa = false) (hd : a.d = false)
include h hl hd

/-- A store in reach leaves its bytes and answers. -/
theorem State.performDev_store {v : List Byte} {t : State} (hk : a.kind = .store v) (hw : s.devWrite a.cpg pa v = some t) :
    s.performDev core a pa = t.modCtx core (fun x => x.reply a.id (some 0) none) := by
  unfold State.performDev
  simp [h, hl, hk, hw, AccKind.reads, AccKind.answers, AccKind.isAtom, State.accRace_unchecked _ _ _ hd]

/-- A sound lane of a vector load in reach settles its lane of the LQ entry. -/
theorem State.performDev_laneLoad {q : BitVec 3} {id j : Nat} (hk : a.kind = .laneLoad q id j)
    (hs : s.slotSound a.cpg pa 4 = true) :
    s.performDev core a pa = (s.fetched pa 4).modCtx core (fun x => x.mapLq q.toNat id (fun e =>
      e.settle j (BitVec.ofNat 32 (leNat ((s.fetched pa 4).devRead a.cpg pa 4))) none)) := by
  unfold State.performDev
  simp only [h, hl, hk, hs, AccKind.width, AccKind.reads, AccKind.answers, State.accRace_unchecked _ _ _ hd, Bool.not_true,
    Bool.and_false, Bool.false_eq_true, if_false, if_true]

/-- A sound atomic that its slice applies, or has applied, answers with the old value. -/
theorem State.performDev_atom {u : State} {old : Word} (hk : a.kind.isAtom = true)
    (hs : s.slotSound a.cpg pa a.kind.width = true) (hu : s.slicesAtom core a pa = some (u, old)) :
    s.performDev core a pa = u.modCtx core (fun x => x.reply a.id (some old) none) := by
  unfold State.performDev
  cases hc : a.kind <;> simp only [hc, AccKind.isAtom, Bool.false_eq_true] at hk
  all_goals
    simp only [hc, AccKind.width] at hs
    simp [h, hl, hs, hu, AccKind.width, AccKind.reads, State.accRace_unchecked _ _ _ hd]

end

/-- A new atomic that writes (R242, R316). -/
theorem State.slicesAtom_writes {s u : State} {core : Nat} {a : Acc} {pa : Nat} {bs : List Byte} {old : Word}
    (hf : s.tagFind core (s.sliceOf pa) (a.tag.getD 0) = none)
    (hu : a.kind.update (s.devRead a.cpg pa a.kind.width) = some (some bs, old)) (hw : s.devWrite a.cpg pa bs = some u) :
    s.slicesAtom core a pa = some (u.tagPut core (s.sliceOf pa) (a.tag.getD 0) old, old) := by
  unfold State.slicesAtom
  simp [hf, hu, hw]

/-- A new atomic that writes nothing. -/
theorem State.slicesAtom_keeps {s : State} {core : Nat} {a : Acc} {pa : Nat} {old : Word}
    (hf : s.tagFind core (s.sliceOf pa) (a.tag.getD 0) = none)
    (hu : a.kind.update (s.devRead a.cpg pa a.kind.width) = some (none, old)) :
    s.slicesAtom core a pa = some ((s.fetched pa a.kind.width).tagPut core (s.sliceOf pa) (a.tag.getD 0) old, old) := by
  unfold State.slicesAtom
  simp [hf, hu]

/-- A lane of a load that cannot be given marks its LQ entry, when no stream waits for it. -/
theorem State.accFail_laneLoad {s : State} {core : Nat} {a : Acc} {q : BitVec 3} {id j : Nat} (hk : a.kind = .laneLoad q id j)
    (hw : (s.ctx core).awaits a.id = false) :
    ∃ t : Trap, t.cause = .integrity ∧ t.lane = a.lane ∧
      s.accFail core a .integrity = s.modCtx core (fun x => x.mapLq q.toNat id (fun e => e.settle j 0 (some t))) := by
  generalize hu : s.accFail core a .integrity = u
  unfold State.accFail at hu
  extract_lets site src t at hu
  refine ⟨t, rfl, rfl, hu.symm.trans (State.modCtx_congr ?_)⟩
  simp [hw, hk]

/-- An access at a fenced bank (R284). -/
theorem State.performSpad_fenced {s : State} {core : Nat} {a : Acc} {c off : Nat} (hf : s.isFenced core c = true)
    (hk : a.kind.fences = true) : s.performSpad core a c off = s.spadLost core a c := by
  unfold State.performSpad; simp [hf, hk]

section
variable {s : State} {core : Nat} {a : Acc} {c off : Nat} (hf : s.isFenced core c = false)
include hf

/-- A load from a sibling's scratchpad (R86). -/
theorem State.performSpad_load {sz : Sz} {sx : Bool} {d : Reg} (hk : a.kind = .load sz sx d) :
    s.performSpad core a c off = if (s.core c).spadSound off (szBytes sz) then
      (s.spadFetched c off (szBytes sz)).modCtx core (fun x =>
        x.reply a.id (some (extend sz sx ((s.core c).spad.readN off (szBytes sz)))) none)
      else s.accFail core a .integrity := by
  unfold State.performSpad
  simp only [hf, hk, Bool.false_eq_true, false_and, if_false, AccKind.width]

/-- A store into a sibling's scratchpad (R86). -/
theorem State.performSpad_store {v : List Byte} (hk : a.kind = .store v) :
    s.performSpad core a c off = ((s.spadWrite c off v).modCtx core (fun x => x.chkFree a.id (s.cyc core))).modCtx core
      (fun x => x.reply a.id (some 0) none) := by
  unfold State.performSpad
  simp only [hf, hk, Bool.false_eq_true, false_and, if_false]

/-- An atomic at a sibling's scratchpad (R90, R91). -/
theorem State.performSpad_atom {v : Option (List Byte)} {old : Word} (hk : a.kind.isAtom = true)
    (hu : a.kind.update ((s.core c).spad.readN off a.kind.width) = some (v, old)) :
    s.performSpad core a c off = if (s.core c).spadSound off a.kind.width then
      ((v.map (s.spadWrite c off)).getD (s.spadFetched c off a.kind.width)).modCtx core (fun x => x.reply a.id (some old) none)
      else s.accFail core a .integrity := by
  unfold State.performSpad
  cases hc : a.kind <;> simp only [hc, AccKind.isAtom, Bool.false_eq_true] at hk
  all_goals
    simp only [hc] at hu
    simp only [hf, hu, Bool.false_eq_true, false_and, if_false]

/-- A line load from a sibling's scratchpad (R126). -/
theorem State.performSpad_line {dst : LineDst} {one : Bool} {cv : Cv} (hk : a.kind = .lineLoad dst one cv) :
    s.performSpad core a c off = s.lineArrive core a dst one cv := by
  unfold State.performSpad
  simp only [hf, hk, Bool.false_eq_true, false_and, if_false]

end

/-- A line that is not packed is its bytes, converted (R124). -/
theorem State.lineLanes_spad (s : State) (core c off : Nat) (dst : LineDst) (one : Bool) {cv : Cv} (h : cv ≠ .pk) :
    s.lineLanes core (.spad c off) one cv =
      cvLanes one cv ((s.core c).spad.readN off (AccKind.lineLoad dst one cv).width) := by
  cases cv with
  | pk => exact absurd rfl h
  | _ => rfl

theorem State.lineSound_spad (s : State) (core c off n : Nat) {cv : Cv} (h : cv ≠ .pk) :
    s.lineSound core (.spad c off) cv n = (s.core c).spadSound off n := if_neg h

theorem State.placeFetched_spad (t s : State) (core c off n : Nat) {cv : Cv} (h : cv ≠ .pk) :
    t.placeFetched s core (.spad c off) cv n = t.spadFetched c off n := by
  unfold State.placeFetched State.lineFetch
  simp [h]


/-- The atomics of a scratchpad have the width that they name. -/
theorem AccKind.atom_width {k : AccKind} {n : Nat} (h : (∃ w op b d, k = .amo w op b d ∧ n = (if w then 4 else 8)) ∨
    ∃ w b e d, k = .cas w b e d ∧ n = (if w then 4 else 8)) : k.isAtom = true ∧ n = k.width := by
  obtain ⟨w, op, b, d, rfl, rfl⟩ | ⟨w, b, e, d, rfl, rfl⟩ := h <;> exact ⟨rfl, rfl⟩

/-- The atomics of device memory, the added lanes of a vector among them. -/
theorem AccKind.reducing_width {k : AccKind} {n : Nat} (h : (∃ w op b d, k = .amo w op b d ∧ n = (if w then 4 else 8)) ∨
    (∃ w b e d, k = .cas w b e d ∧ n = (if w then 4 else 8)) ∨ (n = 4 ∧ ∃ ty x, k = .laneAdd ty x)) :
    k.isAtom = true ∧ n = k.width := by
  obtain h | h | ⟨rfl, ty, x, rfl⟩ := h
  · exact AccKind.atom_width (.inl h)
  · exact AccKind.atom_width (.inr h)
  · exact ⟨rfl, rfl⟩

/-- An atomic answers with bytes. -/
theorem AccKind.answers_of_isAtom {k : AccKind} (h : k.isAtom = true) : k.answers = true := by
  unfold AccKind.answers
  rw [h, Bool.or_true]

/-- Only the load of an LQ entry passes a fence. -/
theorem AccKind.fences_of {k : AccKind} (h : ∀ q id one cv, k ≠ .lineLoad (.lq q id) one cv) : k.fences = true := by
  unfold AccKind.fences
  split
  · exact absurd rfl (h _ _ _ _)
  · rfl

/-- The steps of a class FIFO (R234, R243, R316). -/
theorem classFifos_steps (s : State) (core : Nat) (cls : BitVec 4) (a : Acc) (t : List Acc) :
    let u := s.facing core cls
    let put := fun (l : List Acc) => u.modCtx core (fun x => x.setFifo cls.toNat l)
    (u.ctx core).fifoOf cls.toNat = a :: t →
    (u.mayPerform core a = true → exec (.perform core cls) s = .next (s.onFifo core cls (fun _ =>
        ((put t).sendTo core (a.kind.sends.getD [])
          (if a.kind.answers then u.placeBytes core a.place a.kind.width a.cpg else []) false a.place).performAt core a))) ∧
      (u.mayPerform core a = false → exec (.perform core cls) s = .next (s.onFifo core cls (fun _ => u))) ∧
      (∀ e, a.expiry = some e → e ≤ u.placeTime a.place → a.parked = false →
        exec (.leaseExpiry core cls) s = .next (s.onFifo core cls (fun _ => u.askWalk core a.addr
          { core := core, why := .acc cls a.id, va := a.addr, lane := a.lane, r := a.kind.reads || a.kind.isAtom,
            w := !a.kind.reads }))) ∧
      (a.tag.isSome = true → a.sentAt + 20000 ≤ u.time →
        (a.resent < 3 → exec (.atomicResend core cls) s = .next (s.onFifo core cls (fun _ =>
          put ({ a with resent := a.resent + 1, sentAt := u.time } :: t)))) ∧
          (3 ≤ a.resent → exec (.atomicResend core cls) s =
            .next (s.onFifo core cls (fun _ => (put t).accFail core a .remote)))) := by
  intro u put hq
  refine ⟨fun hm => ?_, fun hm => ?_, fun e he hle hp => ?_, fun ht hs => ⟨fun hr => ?_, fun hr => ?_⟩⟩
  all_goals refine congrArg Host.Outcome.next (State.onFifo_congr ?_)
  · simp only [show s.facing core cls = u from rfl, hq, hm, if_true]
    rfl
  · simp only [show s.facing core cls = u from rfl, hq, hm, Bool.false_eq_true, if_false]
  · simp only [show s.facing core cls = u from rfl, hq, State.leaseLives_expired he hle, hp, Bool.not_false, Bool.and_self,
      if_true]
  · simp only [show s.facing core cls = u from rfl, hq, ht, hs, hr, decide_true, Bool.and_self, if_true]
    rfl
  · simp only [show s.facing core cls = u from rfl, hq, ht, hs, Nat.not_lt.mpr hr, decide_true, Bool.and_self, if_true, if_false]
    rfl

/-- A line from a sibling reaches its LQ entry (R126). -/
theorem State.lineArrive_lq (s : State) {core : Nat} {a : Acc} {c off : Nat} {q : BitVec 3} {id : Nat} {one : Bool} {cv : Cv}
    (hp : a.place = .spad c off) (hk : a.kind = .lineLoad (.lq q id) one cv) (hcv : cv ≠ .pk) :
    s.lineArrive core a (.lq q id) one cv =
      ((s.spadFetched c off a.kind.width).modCtx core (fun x => x.chkFree a.id (s.cyc core))).modCtx core (fun x =>
        x.mapLq q.toNat id (fun e => { e with
          filled := true, lanes := cvLanes one cv ((s.core c).spad.readN off a.kind.width), left := 0
          bad := e.bad.or (if (s.core c).spadSound off a.kind.width then none
            else some (s.lineTrap core a.place cv a.kind.width a.addr)) })) := by
  unfold State.lineArrive
  simp only [hp, hk, State.lineLanes_spad s core c off (.lq q id) one hcv, State.lineSound_spad s core c off _ hcv,
    State.placeFetched_spad s s core c off _ hcv]

/-- A line from a sibling reaches its grid line, or its mismatch L (R126). -/
theorem State.lineArrive_line (s : State) {core : Nat} {a : Acc} {c off : Nat} {l : Line} {one : Bool} {cv : Cv}
    (hp : a.place = .spad c off) (hk : a.kind = .lineLoad (.line l) one cv) (hcv : cv ≠ .pk) :
    s.lineArrive core a (.line l) one cv =
      if (s.core c).spadSound off a.kind.width then
        ((s.spadFetched c off a.kind.width).modCtx core (fun x => x.chkFree a.id (s.cyc core))).modCtx core (fun x => { x with
          pend := x.pend ++ [{ due := s.cyc core + 1, issued := a.issued, st := .l, mask := 0
                               dst := .line l (BitVec.allOnes 64) (cvLanes one cv ((s.core c).spad.readN off a.kind.width))
                               captured := false }] })
      else ((s.spadFetched c off a.kind.width).modCtx core (fun x => x.chkFree a.id (s.cyc core))).modCtx core (fun x =>
        x.modStrm .l (fun t => t.failed (s.lineTrap core a.place cv a.kind.width a.addr))) := by
  unfold State.lineArrive
  simp only [hp, hk, State.lineLanes_spad s core c off (.line l) one hcv, State.lineSound_spad s core c off _ hcv,
    State.placeFetched_spad s s core c off _ hcv]

/-- Settles O52: a FIFO step acts on the bank it faces; an access performs by its place and kind. -/
theorem classFifos : Obligations.ClassFifos := by
  unfold Obligations.ClassFifos
  refine ⟨classFifos_steps, fun s core a p hp hd => ⟨?_, ?_, ?_⟩⟩
  · rintro pa rfl
    rw [s.performAt_dev core hp]
    refine ⟨State.performDev_unreached, fun h => ⟨fun sz sx d hk hs hl => State.performDev_load h hd hk hs hl,
      fun sz sx d hk hs => ?_, State.performDev_dead h, fun v t hk hl hw => State.performDev_store h hl hd hk hw,
      fun q id j hk hl => ⟨State.performDev_laneLoad h hl hd hk, fun hs hw => ?_⟩, fun n v old hn hs hl hf hu => ?_⟩⟩
    · exact State.performDev_unsound h (by rw [hk]; rfl) (by rwa [hk])
    · rw [State.performDev_unsound h (by rw [hk]; rfl) (by rwa [hk])]
      exact State.accFail_laneLoad hk hw
    · obtain ⟨hk, rfl⟩ := AccKind.reducing_width hn
      refine ⟨fun bs u hv hw => ?_, fun hv => ?_⟩
      · rw [hv] at hu
        exact State.performDev_atom h hl hd hk hs (State.slicesAtom_writes hf hu hw)
      · rw [hv] at hu
        exact State.performDev_atom h hl hd hk hs (State.slicesAtom_keeps hf hu)
  · rintro c off rfl hf hk
    rw [s.performAt_spad core hp]
    exact State.performSpad_fenced hf (AccKind.fences_of hk)
  · rintro c off rfl hf
    intro rd
    rw [s.performAt_spad core hp]
    refine ⟨fun sz sx d hk => ⟨fun hs => ?_, fun hs => ?_⟩, fun v hk => State.performSpad_store hf hk, fun n v old hn hu => ?_,
      fun dst one cv hk hcv => ?_⟩
    · rw [State.performSpad_load hf hk, hs]
      rfl
    · rw [State.performSpad_load hf hk, hs]
      rfl
    · obtain ⟨hk, rfl⟩ := AccKind.atom_width hn
      rw [State.performSpad_atom hf hk hu]
      refine ⟨fun hs => ?_, fun hs => ⟨fun bs hv => ?_, fun hv => ?_⟩⟩
      · rw [hs]; rfl
      · rw [hs, hv]; rfl
      · rw [hs, hv]; rfl
    · refine ⟨s.lineTrap core a.place cv a.kind.width a.addr, by rw [hp]; rfl, fun q id hdst => ?_, fun l hdst => ?_⟩
      · rw [hdst] at hk
        rw [State.performSpad_line hf hk]
        exact s.lineArrive_lq hp hk hcv
      · rw [hdst] at hk
        rw [State.performSpad_line hf hk, s.lineArrive_line hp hk hcv]
        exact ⟨fun hs => if_pos hs, fun hs => if_neg (by simp [hs])⟩

end Sys2Proof.Machine
end

section
/-! PROOF. The work of the array, copy and transform commands (O44). -/

namespace Sys2Proof.Machine

/-- A command's work is done for all its rows when each of them matches its checks. -/
theorem State.soundRows_all {s : State} {k : Cmd} (h : ∀ i, i < k.opRows → s.rowSound k i = true) :
    s.soundRows k = k.opRows := by
  unfold State.soundRows
  have hall : (upto 0 k.opRows).takeWhile (s.rowSound k) = upto 0 k.opRows := by
    rw [List.takeWhile_eq_self_iff]
    intro i hi
    rw [upto_eq_range', List.mem_range'_1] at hi
    exact h i (by omega)
  rw [hall, upto_eq_range', List.length_range']

/-- No more elements are taken than stand before the first that fails. -/
theorem length_takeWhile_range' (p : Nat → Bool) {lo i : Nat} (n : Nat) (hi : lo + i < lo + n) (h : p (lo + i) = false) :
    ((List.range' lo n).takeWhile p).length ≤ i := by
  induction n generalizing lo i with
  | zero => omega
  | succ n ih =>
    rw [List.range'_succ, List.takeWhile_cons]
    cases hp : p lo with
    | false => simp
    | true =>
      obtain _ | j := i
      · rw [Nat.add_zero, hp] at h; exact absurd h (by decide)
      · simp only [if_true, List.length_cons]
        have hj : p (lo + 1 + j) = false := by rwa [show lo + 1 + j = lo + (j + 1) by omega]
        have := ih (lo := lo + 1) (i := j) (by omega) hj
        omega

/-- No row from the first that fails its checks on is done. -/
theorem State.soundRows_le {s : State} {k : Cmd} {i : Nat} (hi : i < k.opRows) (h : s.rowSound k i = false) :
    s.soundRows k ≤ i := by
  unfold State.soundRows
  rw [upto_eq_range']
  exact length_takeWhile_range' _ _ (by omega) (by rwa [Nat.zero_add])

/-- No sector of an SRAM of the device is flawed. -/
def State.sramsClean (s : State) : Prop :=
  (∀ c, (s.core c).badSpad = [] ∧ (s.core c).badAcc = []) ∧ ∀ c, (s.cluster c).wbBad = []

section
variable {s : State} (h : s.sramsClean)
include h

theorem State.rangeSound_clean (r : Range) : s.rangeSound r = true := by
  obtain ⟨hc, hw⟩ := h
  cases r with
  | spad c off n => simp [State.rangeSound, Core.spadSound, (hc c).1]
  | acc c off n => simp [State.rangeSound, Core.accSound, (hc c).2]
  | wb cl off n => simp [State.rangeSound, hw cl]

/-- A fetch of what is not flawed records nothing. -/
theorem State.rangeFetched_clean (r : Range) : s.rangeFetched r = s := by
  obtain ⟨hc, hw⟩ := h
  cases r with
  | spad c off n => exact if_pos (hc c).1
  | acc c off n => exact if_pos (hc c).2
  | wb cl off n => exact if_pos (hw cl)

theorem State.rangesFetched_clean (rs : List Range) : rs.foldl State.rangeFetched s = s := by
  induction rs with
  | nil => rfl
  | cons r rs ih => rw [List.foldl_cons, State.rangeFetched_clean h, ih]

theorem State.rowsFetched_clean (k : Cmd) (is : List Nat) :
    is.foldl (fun t i => (s.rowReads k i).foldl State.rangeFetched t) s = s := by
  induction is with
  | nil => rfl
  | cons i is ih => rw [List.foldl_cons, State.rangesFetched_clean h, ih]

/-- Where no sector is flawed, a command does every row. -/
theorem State.soundRows_clean (k : Cmd) : s.soundRows k = k.opRows :=
  State.soundRows_all fun i _ => by
    unfold State.rowSound
    rw [List.all_eq_true]
    exact fun r _ => State.rangeSound_clean h r

/-- Where no sector is flawed, a command records nothing. -/
theorem State.opRecords_clean (k : Cmd) : s.opRecords k = s := by
  unfold State.opRecords
  simp only [State.soundRows_clean h, Nat.lt_irrefl, if_false, State.rowsFetched_clean h]

end

/-- The array commands (R172, R177 to R181). -/
theorem engineWork_array (s : State) (cl : Nat) (k : Cmd) :
    let u := s.faced cl .array
    let n := u.soundRows k
    let v := u.opRecords k
    let rows := k.opRows
    let fin := fun (w : State) => Host.Outcome.next (σ := State) (φ := Fault) (ρ := Refusal) (s.turned cl .array (fun _ =>
      w.modCtx k.core (fun x => x.mapCmd k.eng k.seq (fun o =>
        { o with worked := true, err := if n < rows then some .integrity else o.err }))))
    (u.arrayRuns cl .mma = some k → exec (.arrayMma cl) s = fin (v.mma k n)) ∧
      (u.arrayRuns cl .mmas = some k → exec (.arrayMmas cl) s = fin (v.mmas k n)) ∧
      (u.arrayRuns cl .mzero = some k → exec (.arrayMzero cl) s = fin (v.mzero k)) ∧
      (u.arrayRuns cl .drain = some k → exec (.arrayDrain cl) s = fin (v.drain k n)) ∧
      ((∀ i, i < rows → u.rowSound k i = true) → n = rows) ∧
      (∀ i, i < rows → u.rowSound k i = false → n ≤ i) ∧
      ((∀ c, (u.core c).badSpad = [] ∧ (u.core c).badAcc = []) → (∀ c, (u.cluster c).wbBad = []) → n = rows ∧ v = u) := by
  intro u n v rows fin
  refine ⟨fun hk => ?_, fun hk => ?_, fun hk => ?_, fun hk => ?_, State.soundRows_all, fun i => State.soundRows_le,
    fun hc hw => ⟨State.soundRows_clean ⟨hc, hw⟩ k, State.opRecords_clean ⟨hc, hw⟩ k⟩⟩
  all_goals
    refine State.next_turned ?_
    rw [show s.faced cl .array = u from rfl, hk]
    rfl

/-- The copy and transform commands (R182 to R191, R215 to R218). -/
theorem engineWork_copy (s : State) (core c off : Nat) (k : Cmd) :
    let cl := clusterOf core
    let u := s.faced cl .copy
    let w := s.faced cl .xe
    let slot := Host.Outcome.next (σ := State) (φ := Fault) (ρ := Refusal) (s.turned cl .copy (fun _ => u.copySlot core k))
    let n := w.soundRows k
    let o := w.opRecords k
    let fin := fun (v : State) => Host.Outcome.next (σ := State) (φ := Fault) (ρ := Refusal) (s.turned cl .xe (fun _ =>
      v.modCtx k.core (fun x => x.mapCmd k.eng k.seq (fun p =>
        { p with worked := true, err := if n < k.opRows then some .integrity else p.err }))))
    (u.copyRuns core .copy = some k → exec (.ceCopy core) s = slot) ∧
      (u.copyRuns core .gath = some k → exec (.ceGath core) s = slot) ∧
      (u.copyRuns core .scat = some k → exec (.ceScat core) s = slot) ∧
      (u.copyRuns core .wfill = some k → exec (.ceWfill core) s = slot) ∧
      (u.copyRuns core .flagw = some k → k.doneAt = some off → off ≤ u.cyc core → ∀ b, spadAt k.core k.dst = some (c, b) →
        exec (.ceFlagw core) s = .next (s.turned cl .copy (fun _ =>
          (u.flagWrite k c b).modCopy k (fun o => { o with worked := true })))) ∧
      (u.copyRuns core .pref = some k → k.row < k.len → k.src + k.row < windowBase →
        u.xlateCheck core (u.ctx core).launch.part (k.src + k.row) = none → k.sect < 16 →
        exec (.cePref core) s = .next (s.turned cl .copy (fun _ =>
          (u.modCopy k (fun o => { o with
            row := ((k.src + k.row) / 2 ^ walkPage (k.src + k.row) + 1) * 2 ^ walkPage (k.src + k.row) - k.src,
            slot := some (u.cyc core), sect := o.sect + 1 })).askWalk core (k.src + k.row)
              { core := core, why := .pref k.seq k.alsoAcc, va := k.src + k.row, lane := none, r := false, w := false }))) ∧
      (w.xeRuns core .fwd = some k → exec (.xeFwd core) s = fin (o.writeRows k ((o.fwdRows k).take n))) ∧
      (w.xeRuns core .inv = some k → exec (.xeInv core) s =
        fin { o.writeRows k ((o.invRows k).take n) with fresh := o.fresh + k.invDraws }) ∧
      (w.xeRuns core .tagset = some k → exec (.xeTagset core) s = fin o) := by
  intro cl u w slot n o fin
  have hu : s.faced (clusterOf core) .copy = u := rfl
  have hw : s.faced (clusterOf core) .xe = w := rfl
  refine ⟨fun hk => ?_, fun hk => ?_, fun hk => ?_, fun hk => ?_, fun hk hd hle b hb => ?_, fun hk hl hwb hx hs => ?_,
    fun hk => ?_, fun hk => ?_, fun hk => ?_⟩
  all_goals refine State.next_turned ?_
  · simp only [hu, hk]
  · simp only [hu, hk]
  · simp only [hu, hk]
  · simp only [hu, hk]
  · simp only [hu, hk, hd, Option.all_some, decide_eq_true_eq, Nat.not_lt.mpr hle, if_false, hb]
  · simp only [hu, hk, Nat.not_le.mpr hl, Nat.not_le.mpr hwb, false_and, hx, Option.isSome_none, Bool.false_eq_true,
      Nat.not_le.mpr hs, if_false]
  · simp only [hw, hk]; rfl
  · simp only [hw, hk]; rfl
  · simp only [hw, hk]; rfl

/-- Settles O44: each command by its running operation, on the state that faces its engine. -/
theorem engineWork : Obligations.EngineWork := by
  unfold Obligations.EngineWork
  exact ⟨engineWork_array, engineWork_copy⟩

end Sys2Proof.Machine
end

section
/-! PROOF. What a write changes in memory, and what it leaves alone (O51). -/

namespace Sys2Proof.Machine

/-! ## Numbers as bytes -/

/-- The number of some bytes is written with the same bytes. -/
theorem leBytes_leNat : ∀ bs : List Byte, leBytes bs.length (leNat bs) = bs
  | [] => rfl
  | b :: bs => by
    have hb := b.isLt
    have hdiv : (b.toNat + 256 * leNat bs) / 256 = leNat bs := by omega
    have hbyte : BitVec.ofNat 8 (b.toNat + 256 * leNat bs) = b := BitVec.eq_of_toNat_eq (by rw [BitVec.toNat_ofNat]; omega)
    rw [List.length_cons, leBytes, leNat, hdiv, hbyte, leBytes_leNat bs]

/-- A byte of a number. -/
theorem getD_leBytes {i n : Nat} (h : i < n) (v : Nat) : (leBytes n v).getD i 0 = BitVec.ofNat 8 (v / 256 ^ i) := by
  induction n generalizing v i with
  | zero => omega
  | succ n ih =>
    cases i with
    | zero => simp [leBytes]
    | succ i => rw [leBytes, List.getD_cons_succ, ih (by omega), Nat.div_div_eq_div_mul, Nat.pow_succ, Nat.mul_comm 256]

theorem leNat_lt : ∀ bs : List Byte, leNat bs < 256 ^ bs.length
  | [] => Nat.one_pos
  | b :: bs => by
    have hb := b.isLt
    have := leNat_lt bs
    rw [leNat, List.length_cons, Nat.pow_succ]
    omega

/-! ## Runs of bytes of a memory -/

theorem Memory.readN_eq_map (m : Memory) (a n : Nat) : m.readN a n = (upto a n).map m.read := by
  induction n generalizing a with
  | zero => rfl
  | succ n ih => rw [Memory.readN, upto, List.map_cons, ih]

@[simp] theorem Memory.length_readN (m : Memory) (a n : Nat) : (m.readN a n).length = n := by
  rw [Memory.readN_eq_map, List.length_map, upto_eq_range', List.length_range']

/-- Equal bytes read equal. -/
theorem Memory.readN_congr {m m' : Memory} {a n : Nat} (h : ∀ b, a ≤ b → b < a + n → m.read b = m'.read b) :
    m.readN a n = m'.readN a n := by
  simp only [Memory.readN_eq_map, upto_eq_range']
  refine List.map_congr_left fun b hb => ?_
  rw [List.mem_range'_1] at hb
  exact h b hb.1 hb.2

theorem Memory.readN_add (m : Memory) (a n k : Nat) : m.readN a (n + k) = m.readN a n ++ m.readN (a + n) k := by
  simp only [Memory.readN_eq_map, upto_eq_range', ← List.range'_append, List.map_append]
  rw [Nat.one_mul]

theorem Memory.getD_readN (m : Memory) (a : Nat) {i n : Nat} (h : i < n) : (m.readN a n).getD i 0 = m.read (a + i) := by
  rw [Memory.readN_eq_map, upto_eq_range']
  simp [List.getD, h]

/-- A byte within those written. -/
theorem Memory.read_writeN_inside (m : Memory) (a : Nat) (v : List Byte) {i : Nat} (h : i < v.length) :
    (m.writeN a v).read (a + i) = v.getD i 0 := by
  rw [← Memory.getD_readN _ a h, Memory.readN_writeN]

/-- What a write leaves at an address. -/
theorem Memory.read_writeN (m : Memory) (a : Nat) (v : List Byte) (b : Nat) :
    (m.writeN a v).read b = if a ≤ b ∧ b < a + v.length then v.getD (b - a) 0 else m.read b := by
  split
  next h =>
    obtain ⟨ha, hb⟩ := h
    rw [← Memory.read_writeN_inside m a v (i := b - a) (by omega), Nat.add_sub_cancel' ha]
  next h => exact Memory.read_writeN_outside v m a b (by omega)

/-- The lane at an address is its four bytes. -/
theorem Memory.lane_eq_iff (m : Memory) (a : Nat) (w : Lane) : m.lane a = w ↔ m.readN a 4 = leBytes 4 w.toNat := by
  have hl : leNat (m.readN a 4) < 2 ^ 32 := by simpa using leNat_lt (m.readN a 4)
  constructor
  · rintro rfl
    have := leBytes_leNat (m.readN a 4)
    rw [Memory.length_readN] at this
    unfold Memory.lane
    rw [BitVec.toNat_ofNat, Nat.mod_eq_of_lt hl, this]
  · intro h
    unfold Memory.lane
    rw [h, leNat_leBytes]
    exact BitVec.eq_of_toNat_eq (by simpa using w.isLt)

/-- A byte of the lane at an address. -/
theorem Memory.read_of_lane {m : Memory} {a : Nat} {w : Lane} (h : m.lane a = w) {i : Nat} (hi : i < 4) :
    m.read (a + i) = BitVec.ofNat 8 (w.toNat / 256 ^ i) := by
  rw [Memory.lane_eq_iff] at h
  rw [← Memory.getD_readN m a hi, h, getD_leBytes hi]

/-- A lane written reads back. -/
theorem Memory.lane_writeN_same (m : Memory) (a : Nat) (w : Lane) : (m.writeN a (leBytes 4 w.toNat)).lane a = w := by
  have := Memory.readN_writeN (leBytes 4 w.toNat) m a
  rw [length_leBytes] at this
  exact (Memory.lane_eq_iff _ a w).2 this

theorem Memory.lane_congr {m m' : Memory} {a : Nat} (h : ∀ b, a ≤ b → b < a + 4 → m.read b = m'.read b) : m.lane a = m'.lane a := by
  unfold Memory.lane
  rw [Memory.readN_congr h]

/-! ## Sets of numbers -/

theorem contains_addOnce (l : List Nat) (a b : Nat) : (addOnce l a).contains b = (b == a || l.contains b) := by
  unfold addOnce
  by_cases h : l.contains a = true
  · rw [if_pos h]
    by_cases hb : b = a
    · subst hb; rw [h]; simp
    · simp [hb]
  · rw [if_neg h, List.contains_cons]

/-! ## What the records of a fetch leave -/

/-- What a fetch and its machine-check records leave (R358, R361, R362): the cores, the clusters, and every byte of device memory
outside the ring of the records, which is a ring of records of 32 bytes. -/
structure State.Records (s t : State) : Prop where
  cores : t.cores = s.cores
  clusters : t.clusters = s.clusters
  mcbase : t.mgmt.mcbase = s.mgmt.mcbase
  aligned : s.mgmt.mcwptr % 32 = 0 → t.mgmt.mcwptr % 32 = 0
  mem : s.mgmt.mcwptr % 32 = 0 → ∀ b, b < bits s.mgmt.mcbase 0 42 ∨ bits s.mgmt.mcbase 0 42 + 65536 ≤ b →
    t.mem.read b = s.mem.read b

theorem State.Records.refl (s : State) : s.Records s := ⟨rfl, rfl, rfl, id, fun _ _ _ => rfl⟩

theorem State.Records.trans {s t u : State} (h : s.Records t) (k : t.Records u) : s.Records u :=
  ⟨k.cores.trans h.cores, k.clusters.trans h.clusters, k.mcbase.trans h.mcbase, fun ha => k.aligned (h.aligned ha),
    fun ha b hb => (k.mem (h.aligned ha) b (by rwa [h.mcbase])).trans (h.mem ha b hb)⟩

theorem State.Records.ofSlices (s : State) (x : Slices) : s.Records { s with slices := x } :=
  ⟨rfl, rfl, rfl, id, fun _ _ _ => rfl⟩

theorem State.Records.foldl {α : Type} {f : State → α → State} (hf : ∀ (t : State) a, t.Records (f t a)) (l : List α) (s : State) :
    s.Records (l.foldl f s) := by
  induction l generalizing s with
  | nil => exact .refl s
  | cons a l ih => exact (hf s a).trans (ih _)

theorem State.records_message (s : State) (vec : Nat) : s.Records (s.message vec) := by
  unfold State.message
  split
  · split <;> exact ⟨rfl, rfl, rfl, id, fun _ _ _ => rfl⟩
  · exact ⟨rfl, rfl, rfl, id, fun _ _ _ => rfl⟩

theorem State.records_raiseMgmt (s : State) (i : Nat) : s.Records (s.raiseMgmt i) := by
  unfold State.raiseMgmt
  dsimp only
  split
  · exact .refl s
  · split
    · refine State.Records.trans ?_ (State.records_message _ 0)
      exact ⟨rfl, rfl, rfl, id, fun _ _ _ => rfl⟩
    · exact ⟨rfl, rfl, rfl, id, fun _ _ _ => rfl⟩

/-- A record has 32 bytes (R362). -/
theorem State.length_checkRecord (s : State) (unit kind num part pa syn : Nat) :
    (s.checkRecord unit kind num part pa syn).length = 32 := by
  unfold State.checkRecord
  simp only [List.length_append, length_leBytes]

theorem State.records_machineCheck (s : State) (unit kind num part pa syn : Nat) :
    s.Records (s.machineCheck unit kind num part pa syn) := by
  unfold State.machineCheck
  dsimp only
  split
  · exact .refl s
  · refine State.Records.trans ?_ (State.records_raiseMgmt _ 1)
    refine ⟨rfl, rfl, rfl, fun h => ?_, fun h b hb => ?_⟩
    · show (s.mgmt.mcwptr + 32) % 32 = 0
      omega
    · refine Memory.read_writeN_outside _ _ _ _ ?_
      rw [State.length_checkRecord]
      omega

theorem State.records_sramFetched (s : State) (unit num : Nat) (m : Memory) (bad : Store Flaw) (ks : List Nat) :
    s.Records (s.sramFetched unit num m bad ks) := by
  unfold State.sramFetched
  split
  · exact .refl s
  · refine State.Records.foldl (fun t k => ?_) ks s
    split
    · exact t.records_machineCheck _ _ _ _ _ _
    · exact .refl t

theorem State.records_countCorrected (s : State) (k : Nat) : s.Records (s.countCorrected k) := by
  unfold State.countCorrected
  extract_lets g unit day old n _ t
  have ht : s.Records t := (State.Records.ofSlices s _).trans (State.records_machineCheck _ _ _ _ _ _ _)
  split
  · exact (ht.trans (State.Records.ofSlices t _)).trans (State.records_machineCheck _ _ _ _ _ _ _)
  · exact ht

theorem State.records_fetchedOf (s : State) (ks : List Nat) : s.Records (s.fetchedOf ks) := by
  unfold State.fetchedOf
  split
  · exact .refl s
  · refine State.Records.foldl (fun t k => ?_) ks s
    split
    · exact t.records_countCorrected k
    · exact .refl t


/-! ## Writes to on-chip stores -/

/-- A change that leaves the stores of every core, the clusters and device memory. -/
structure State.SameStores (s t : State) : Prop where
  core : ∀ n, (t.core n).spad = (s.core n).spad ∧ (t.core n).acc = (s.core n).acc ∧ (t.core n).packed = (s.core n).packed
  clusters : t.clusters = s.clusters
  mem : t.mem = s.mem

theorem State.SameStores.refl (s : State) : s.SameStores s := ⟨fun _ => ⟨rfl, rfl, rfl⟩, rfl, rfl⟩

theorem State.SameStores.trans {s t u : State} (h : s.SameStores t) (k : t.SameStores u) : s.SameStores u :=
  ⟨fun n => ⟨(k.core n).1.trans (h.core n).1, (k.core n).2.1.trans (h.core n).2.1, (k.core n).2.2.trans (h.core n).2.2⟩,
    k.clusters.trans h.clusters, k.mem.trans h.mem⟩

/-- A change of a core that leaves its stores. -/
theorem State.sameStores_modCore (s : State) (n : Nat) {f : Core → Core}
    (hf : ∀ c, (f c).spad = c.spad ∧ (f c).acc = c.acc ∧ (f c).packed = c.packed) : s.SameStores (s.modCore n f) := by
  refine ⟨fun k => ?_, rfl, rfl⟩
  by_cases h : k = n
  · subst h
    rw [State.core_modCore_same]
    exact hf _
  · rw [State.core_modCore_other s h]
    exact ⟨rfl, rfl, rfl⟩

/-- A change of a core's context leaves its stores. -/
theorem State.sameStores_modCtx (s : State) (n : Nat) (f : Ctx → Ctx) : s.SameStores (s.modCtx n f) :=
  s.sameStores_modCore n fun _ => ⟨rfl, rfl, rfl⟩

theorem State.sameStores_tellWaiters (s : State) (core off n : Nat) (pair : Option (Nat × Nat)) :
    s.SameStores (s.tellWaiters core off n pair) :=
  List.foldlRecOn (motive := s.SameStores) _ _ (.refl s)
    fun t ht k _ => ht.trans (t.sameStores_modCore k fun _ => ⟨rfl, rfl, rfl⟩)

/-- Sectors of an SRAM without flaws are sound. -/
theorem all_sramSound_nil (m : Memory) (ks : List Nat) : ks.all (sramSound m []) = true := by
  rw [List.all_eq_true]
  exact fun k _ => rfl

/-- A run of sectors that is not sound has a flaw. -/
theorem flaws_ne_nil {m : Memory} {bad : Store Flaw} {ks : List Nat} (h : ks.all (sramSound m bad) = false) : bad ≠ [] := by
  rintro rfl
  rw [all_sramSound_nil] at h
  cases h

/-- What a write to a store of a core leaves of the state: the other cores, the other memories, and device memory outside the ring
of the machine-check records. -/
structure State.Stored (s t : State) (core : Nat) : Prop where
  other : ∀ n, n ≠ core → (t.core n).spad = (s.core n).spad ∧ (t.core n).acc = (s.core n).acc
  clusters : t.clusters = s.clusters
  mem : s.mgmt.mcwptr % 32 = 0 → ∀ b, b < bits s.mgmt.mcbase 0 42 ∨ bits s.mgmt.mcbase 0 42 + 65536 ≤ b →
    t.mem.read b = s.mem.read b

theorem State.core_of_cores {s t : State} (h : t.cores = s.cores) (n : Nat) : t.core n = s.core n := by
  unfold State.core
  rw [h]

/-- A core set after a fetch. -/
theorem State.Records.stored {s t : State} (h : s.Records t) (core : Nat) (c : Core) : s.Stored (t.setCore core c) core :=
  ⟨fun n hn => by rw [State.core_setCore_other t hn, State.core_of_cores h.cores]; exact ⟨rfl, rfl⟩, h.clusters, h.mem⟩

theorem State.Stored.then {s t u : State} {core : Nat} (h : s.Stored t core) (k : t.SameStores u) : s.Stored u core :=
  ⟨fun n hn => ⟨(k.core n).1.trans (h.other n hn).1, (k.core n).2.1.trans (h.other n hn).2⟩, k.clusters.trans h.clusters,
    fun ha b hb => (congrArg (Memory.read · b) k.mem).trans (h.mem ha b hb)⟩

/-- What the accepted store of bytes in a scratchpad leaves there (R237, R360, R365). -/
theorem State.spadStore_ok {s : State} {core off : Nat} {v : List Byte}
    (h : (partSectors off v.length).all (sramSound (s.core core).spad (s.core core).badSpad) = true) :
    ((s.spadStore core off v).core core).spad = (s.core core).spad.writeN off v ∧
      ((s.spadStore core off v).core core).acc = (s.core core).acc ∧
      ((s.spadStore core off v).core core).packed = dropAll (s.core core).packed (slotsOf off v.length) ∧
      s.Stored (s.spadStore core off v) core := by
  unfold State.spadStore
  dsimp only
  rw [if_neg (by simp [h]), State.core_setCore_same]
  exact ⟨rfl, rfl, rfl, (s.records_sramFetched 2 core _ _ _).stored core _⟩

/-- A write to a scratchpad that is accepted. -/
theorem State.spadWrite_ok {s : State} {core off : Nat} {v : List Byte}
    (h : (partSectors off v.length).all (sramSound (s.core core).spad (s.core core).badSpad) = true) :
    ((s.spadWrite core off v).core core).spad = (s.core core).spad.writeN off v ∧
      ((s.spadWrite core off v).core core).acc = (s.core core).acc ∧
      s.Stored (s.spadWrite core off v) core := by
  obtain ⟨hs, ha, _, ho⟩ := State.spadStore_ok h
  have ht := (s.spadStore core off v).sameStores_tellWaiters core off v.length none
  exact ⟨(ht.core core).1.trans hs, (ht.core core).2.1.trans ha, ho.then ht⟩

/-- A store of bytes in a scratchpad that is not accepted leaves every core, and the memories outside the ring of the records. -/
theorem State.spadStore_refused {s : State} {core off : Nat} {v : List Byte}
    (h : (partSectors off v.length).all (sramSound (s.core core).spad (s.core core).badSpad) = false) :
    s.Records (s.spadStore core off v) := by
  unfold State.spadStore
  dsimp only
  rw [if_pos ⟨flaws_ne_nil h, h⟩]
  exact s.records_machineCheck _ _ _ _ _ _

/-- What a write to an accumulator store that is accepted leaves. -/
theorem State.accWrite_ok {s : State} {core off : Nat} {v : List Byte}
    (h : (partSectors off v.length).all (sramSound (s.core core).acc (s.core core).badAcc) = true) :
    ((s.accWrite core off v).core core).acc = (s.core core).acc.writeN off v ∧
      ((s.accWrite core off v).core core).spad = (s.core core).spad ∧ s.Stored (s.accWrite core off v) core := by
  unfold State.accWrite
  dsimp only
  rw [if_neg (by simp [h]), State.core_setCore_same]
  exact ⟨rfl, rfl, (s.records_sramFetched 2 core _ _ _).stored core _⟩

theorem State.accWrite_refused {s : State} {core off : Nat} {v : List Byte}
    (h : (partSectors off v.length).all (sramSound (s.core core).acc (s.core core).badAcc) = false) :
    s.Records (s.accWrite core off v) := by
  unfold State.accWrite
  dsimp only
  rw [if_pos ⟨flaws_ne_nil h, h⟩]
  exact s.records_machineCheck _ _ _ _ _ _

/-- A write leaves the bytes outside it, whether it is accepted or not. -/
theorem State.spadWrite_outside (s : State) (core off : Nat) (v : List Byte) :
    (∀ b, b < off ∨ off + v.length ≤ b → ((s.spadWrite core off v).core core).spad.read b = (s.core core).spad.read b) ∧
      ((s.spadWrite core off v).core core).acc = (s.core core).acc ∧ s.Stored (s.spadWrite core off v) core := by
  cases h : (partSectors off v.length).all (sramSound (s.core core).spad (s.core core).badSpad) with
  | true =>
    obtain ⟨hs, ha, ho⟩ := State.spadWrite_ok h
    exact ⟨fun b hb => by rw [hs, Memory.read_writeN_outside v _ off b hb], ha, ho⟩
  | false =>
    have hr := State.spadStore_refused h
    have ht := (s.spadStore core off v).sameStores_tellWaiters core off v.length none
    have hc := fun n => State.core_of_cores hr.cores n
    refine ⟨fun b _ => ?_, (ht.core core).2.1.trans (by rw [hc]), State.Stored.then ⟨fun n _ => ?_, hr.clusters, hr.mem⟩ ht⟩
    · show ((s.spadWrite core off v).core core).spad.read b = _
      rw [show ((s.spadWrite core off v).core core).spad = _ from (ht.core core).1, hc]
    · rw [hc]; exact ⟨rfl, rfl⟩

theorem State.accWrite_outside (s : State) (core off : Nat) (v : List Byte) :
    (∀ b, b < off ∨ off + v.length ≤ b → ((s.accWrite core off v).core core).acc.read b = (s.core core).acc.read b) ∧
      ((s.accWrite core off v).core core).spad = (s.core core).spad ∧ s.Stored (s.accWrite core off v) core := by
  cases h : (partSectors off v.length).all (sramSound (s.core core).acc (s.core core).badAcc) with
  | true =>
    obtain ⟨ha, hs, ho⟩ := State.accWrite_ok h
    exact ⟨fun b hb => by rw [ha, Memory.read_writeN_outside v _ off b hb], hs, ho⟩
  | false =>
    have hr := State.accWrite_refused h
    have hc := fun n => State.core_of_cores hr.cores n
    exact ⟨fun b _ => by rw [hc], by rw [hc], fun n _ => by rw [hc]; exact ⟨rfl, rfl⟩, hr.clusters, hr.mem⟩

/-- The bytes of a packed block, word 0 cleared (R365), have the block's length. -/
theorem length_clearedWord {v : List Byte} (h : 4 ≤ v.length) : (leBytes 4 0 ++ v.drop 4).length = v.length := by
  rw [List.length_append, length_leBytes, List.length_drop]
  omega

/-- A packed block in a scratchpad (R365). -/
theorem State.spadPacked_ok {s : State} {core off : Nat} {v : List Byte} (hl : 4 ≤ v.length)
    (h : (partSectors off v.length).all (sramSound (s.core core).spad (s.core core).badSpad) = true) :
    ((s.spadPacked core off v).core core).spad.readN off v.length = leBytes 4 0 ++ v.drop 4 ∧
      off / 256 ∈ ((s.spadPacked core off v).core core).packed := by
  rw [← length_clearedWord hl] at h ⊢
  obtain ⟨hs, _⟩ := State.spadWrite_ok h
  unfold State.spadPacked
  rw [State.core_modCore_same]
  refine ⟨?_, mem_addOnce _ _⟩
  dsimp only
  rw [hs, Memory.readN_writeN]

/-- A write to a weight buffer changes its cluster only. -/
theorem State.wbWrite_cluster (s : State) (cl off : Nat) (v : List Byte) (packed : Bool) :
    ((s.wbWrite cl off v packed).cluster cl).wb =
      (s.cluster cl).wb.writeN off (if packed then leBytes 4 0 ++ v.drop 4 else v) ∧
      ∀ n, n ≠ cl → (s.wbWrite cl off v packed).cluster n = s.cluster n := by
  unfold State.wbWrite
  exact ⟨by rw [State.cluster_modCluster_same], fun n hn => State.cluster_modCluster_other s hn _⟩

/-- A packed block in a weight buffer (R365). -/
theorem State.wbWrite_packed {s : State} {cl off : Nat} {v : List Byte} (hl : 4 ≤ v.length) :
    ((s.wbWrite cl off v true).cluster cl).wb.readN off v.length = leBytes 4 0 ++ v.drop 4 ∧
      off / 256 ∈ ((s.wbWrite cl off v true).cluster cl).wbPacked := by
  refine ⟨?_, ?_⟩
  · rw [(s.wbWrite_cluster cl off v true).1, if_pos rfl, ← length_clearedWord hl, Memory.readN_writeN]
  · unfold State.wbWrite
    rw [State.cluster_modCluster_same]
    exact mem_addOnce _ _


/-! ## Writes to device memory -/

theorem State.records_freshChecks (s : State) (a n : Nat) : s.Records (s.freshChecks a n) := by
  unfold State.freshChecks
  split
  · exact .refl s
  · exact .ofSlices s _

theorem State.freshChecks_clean {s : State} (h : s.slices.bad = []) (a n : Nat) : s.freshChecks a n = s := if_pos h

theorem State.fetchedOf_clean {s : State} (h : s.slices.bad = []) (ks : List Nat) : s.fetchedOf ks = s := if_pos h

/-- Sectors of device memory without flaws are sound. -/
theorem State.all_sectorSound_clean {s : State} (h : s.slices.bad = []) (ks : List Nat) : ks.all s.sectorSound = true := by
  rw [List.all_eq_true]
  intro k _
  unfold State.sectorSound
  rw [h]
  rfl

theorem State.mergeable_iff (s : State) (a n : Nat) : s.mergeable a n = (partSectors a n).all s.sectorSound := by
  unfold State.mergeable
  by_cases h : s.slices.bad = []
  · rw [State.all_sectorSound_clean h, Bool.or_true]
  · simp [h]

/-- A store that meets no sector that it cannot merge is applied. -/
theorem State.devWrite_ok {s : State} {a : Nat} {v : List Byte} (h : (partSectors a v.length).all s.sectorSound = true) :
    ∃ t u, s.devWrite false a v = some t ∧ s.Records u ∧ t = { u with mem := u.mem.writeN a v } := by
  refine ⟨_, (s.fetchedOf (partSectors a v.length)).freshChecks a v.length, ?_,
    (s.records_fetchedOf _).trans (State.records_freshChecks _ _ _), rfl⟩
  unfold State.devWrite
  rw [State.mergeable_iff, h]
  rfl

theorem State.devWrite_refused {s : State} {a : Nat} {v : List Byte} (h : (partSectors a v.length).all s.sectorSound = false)
    (cpg : Bool) : s.devWrite cpg a v = none := by
  unfold State.devWrite
  rw [State.mergeable_iff, h]
  rfl

/-- Where no sector is flawed, a store is applied as it stands, or as a page with C = 1 stores it. -/
theorem State.devWrite_clean {s : State} (h : s.slices.bad = []) (cpg : Bool) (a : Nat) (v : List Byte) :
    s.devWrite cpg a v = if cpg then s.writeMarked a v else some { s with mem := s.mem.writeN a v } := by
  unfold State.devWrite
  rw [State.mergeable_iff, State.all_sectorSound_clean h, State.fetchedOf_clean h, State.freshChecks_clean h]
  rfl

/-! ## Pages with C = 1 (R366) -/

/-- The memory in which the slot of a store holds its bytes as they are seen. -/
def State.seenSlot (s : State) (a : Nat) (v : List Byte) : Memory :=
  (s.mem.writeN (a / 256 * 256) (s.devRead true (a / 256 * 256) 4)).writeN a v

theorem State.length_devRead (s : State) (cpg : Bool) (a n : Nat) : (s.devRead cpg a n).length = n := by
  unfold State.devRead
  rw [List.length_map, upto_eq_range', List.length_range']

theorem State.getD_devRead (s : State) (cpg : Bool) (a : Nat) {i n : Nat} (h : i < n) :
    (s.devRead cpg a n).getD i 0 = s.devByte cpg (a + i) := by
  unfold State.devRead
  rw [upto_eq_range']
  simp [List.getD, h]

/-- Bytes above word 0 of a slot are seen as they are stored. -/
theorem State.devByte_above {s : State} {x : Nat} (h : ¬x % 256 < 4) (cpg : Bool) : s.devByte cpg x = s.mem.read x := by
  unfold State.devByte
  simp [h]

section
variable {s : State} {a : Nat} {v : List Byte}

/-- The stored bytes. -/
theorem State.read_seenSlot_inside {i : Nat} (h : i < v.length) : (s.seenSlot a v).read (a + i) = v.getD i 0 :=
  Memory.read_writeN_inside _ a v h

/-- The other bytes of the slot. -/
theorem State.read_seenSlot_slot {x : Nat} (hx : x / 256 = a / 256) (h : x < a ∨ a + v.length ≤ x) :
    (s.seenSlot a v).read x = s.devByte true x := by
  unfold State.seenSlot
  rw [Memory.read_writeN_outside _ _ _ _ h]
  by_cases h4 : x % 256 < 4
  · have hx' : x = a / 256 * 256 + x % 256 := by omega
    rw [hx', Memory.read_writeN_inside _ _ _ (by rwa [State.length_devRead]), State.getD_devRead _ _ _ h4]
  · rw [State.devByte_above h4, Memory.read_writeN_outside _ _ _ _ (by rw [State.length_devRead]; omega)]

/-- The bytes of other slots. -/
theorem State.read_seenSlot_other (hv : a % 256 + v.length ≤ 256) {x : Nat} (hx : x / 256 ≠ a / 256) :
    (s.seenSlot a v).read x = s.mem.read x := by
  unfold State.seenSlot
  rw [Memory.read_writeN_outside _ _ _ _ (by omega), Memory.read_writeN_outside _ _ _ _ (by rw [State.length_devRead]; omega)]

/-- A store that does not put the marker into word 0. -/
theorem State.writeMarked_plain (h : (s.seenSlot a v).lane (a / 256 * 256) ≠ s.mgmt.marker) :
    s.writeMarked a v = some { s with
      mem := s.seenSlot a v, slices := { s.slices with exceptions := s.slices.exceptions.filter (fun k => k != a / 256) } } :=
  if_neg h

/-- A store that puts the marker into word 0, with room to list it. -/
theorem State.writeMarked_listed (h : (s.seenSlot a v).lane (a / 256 * 256) = s.mgmt.marker)
    (hr : ¬(!s.listedAt a && decide (exceptionRoom ≤
      (s.slices.exceptions.filter (fun k => s.sliceOf (256 * k) == s.sliceOf a)).length)) = true) :
    s.writeMarked a v = some { s with
      mem := (s.seenSlot a v).writeN (a / 256 * 256) (leBytes 4 (~~~s.mgmt.marker).toNat)
      slices := { s.slices with exceptions := addOnce s.slices.exceptions (a / 256) } } := by
  rw [← h]
  exact (if_pos h).trans (if_neg hr)

/-- A store that puts the marker into word 0, without room to list it. -/
theorem State.writeMarked_full (h : (s.seenSlot a v).lane (a / 256 * 256) = s.mgmt.marker)
    (hr : (!s.listedAt a && decide (exceptionRoom ≤
      (s.slices.exceptions.filter (fun k => s.sliceOf (256 * k) == s.sliceOf a)).length)) = true) : s.writeMarked a v = none :=
  (if_pos h).trans (if_pos hr)

end

/-- A slot that neither holds nor lists the marker is seen as it is stored. -/
theorem State.devByte_plain {s : State} {x : Nat} (hm : s.mem.lane (x / 256 * 256) ≠ s.mgmt.marker)
    (he : s.slices.exceptions.contains (x / 256) = false) : s.devByte true x = s.mem.read x := by
  have hp : s.packedAt true x = false := by
    unfold State.packedAt State.word0
    simpa [BitVec.toNat_inj] using hm
  have hl : s.listedAt x = false := by
    unfold State.listedAt
    rw [he, Bool.false_and]
  unfold State.devByte
  simp only [hp, hl, Bool.false_eq_true, if_false, ite_self]

/-- No word is its complement. -/
theorem not_ne_self (m : Lane) : ~~~m ≠ m := by
  intro h
  have := congrArg (fun w : Lane => w.getLsbD 0) h
  simp at this

/-- Word 0 of a slot that stores the marker inverted, and is listed, is seen as the marker. -/
theorem State.devByte_listed {s : State} {x : Nat} (hm : s.mem.lane (x / 256 * 256) = ~~~s.mgmt.marker)
    (he : s.slices.exceptions.contains (x / 256) = true) (h4 : x % 256 < 4) :
    s.devByte true x = BitVec.ofNat 8 (s.mgmt.marker.toNat / 256 ^ (x % 256)) := by
  have hp : s.packedAt true x = false := by
    unfold State.packedAt State.word0
    rw [hm, Bool.true_and, beq_eq_false_iff_ne, Ne, BitVec.toNat_inj]
    exact not_ne_self s.mgmt.marker
  have hl : s.listedAt x = true := by
    unfold State.listedAt State.word0
    rw [he, hm]
    simp
  unfold State.devByte
  simp only [hp, hl, h4, decide_true, Bool.and_self, Bool.false_eq_true, if_false, if_true]
  rw [show x % 4 = x % 256 by omega]

/-- A slot whose bytes, and whose place in the list, are the same is seen the same. -/
theorem State.devByte_congr {s t : State} {x : Nat} (hm : ∀ y, y / 256 = x / 256 → t.mem.read y = s.mem.read y)
    (he : t.slices.exceptions.contains (x / 256) = s.slices.exceptions.contains (x / 256)) (hk : t.mgmt.marker = s.mgmt.marker) :
    t.devByte true x = s.devByte true x := by
  have hw : t.word0 x = s.word0 x := by
    unfold State.word0
    rw [Memory.lane_congr fun y h1 h2 => hm y (by omega)]
  unfold State.devByte State.packedAt State.listedAt
  rw [hw, he, hk, hm x rfl]

/-- What a store to a slot of a page with C = 1 leaves, when the slot shows the seen bytes and the others are left. -/
theorem State.seen_of_slot {s t : State} {a : Nat} {v : List Byte} (hv : a % 256 + v.length ≤ 256)
    (hs : ∀ x, x / 256 = a / 256 → t.devByte true x = (s.seenSlot a v).read x)
    (ho : ∀ x, x / 256 ≠ a / 256 → t.devByte true x = s.devByte true x) :
    t.devRead true a v.length = v ∧ ∀ b, b < a ∨ a + v.length ≤ b → t.devByte true b = s.devByte true b := by
  refine ⟨List.ext_getElem (by rw [State.length_devRead]) fun i h1 h2 => ?_, fun b hb => ?_⟩
  · have := State.getD_devRead t true a h2
    rw [hs _ (by omega), State.read_seenSlot_inside h2] at this
    simpa [List.getD, h1, h2] using this
  · by_cases hx : b / 256 = a / 256
    · rw [hs b hx, State.read_seenSlot_slot hx hb]
    · exact ho b hx

theorem contains_filter_ne (l : List Nat) {a b : Nat} (h : b ≠ a) : (l.filter (fun k => k != a)).contains b = l.contains b := by
  rw [Bool.eq_iff_iff]
  simp [h]

/-- A store within one slot of a page with C = 1 that is accepted, by what it puts into word 0. -/
theorem State.writeMarked_cases {s t : State} {a : Nat} {v : List Byte} (ht : s.writeMarked a v = some t) :
    ((s.seenSlot a v).lane (a / 256 * 256) = s.mgmt.marker ∧ t = { s with
      mem := (s.seenSlot a v).writeN (a / 256 * 256) (leBytes 4 (~~~s.mgmt.marker).toNat)
      slices := { s.slices with exceptions := addOnce s.slices.exceptions (a / 256) } }) ∨
    ((s.seenSlot a v).lane (a / 256 * 256) ≠ s.mgmt.marker ∧ t = { s with
      mem := s.seenSlot a v, slices := { s.slices with exceptions := s.slices.exceptions.filter (fun k => k != a / 256) } }) := by
  by_cases hm : (s.seenSlot a v).lane (a / 256 * 256) = s.mgmt.marker
  · by_cases hr : (!s.listedAt a && decide (exceptionRoom ≤
        (s.slices.exceptions.filter (fun k => s.sliceOf (256 * k) == s.sliceOf a)).length)) = true
    · rw [State.writeMarked_full hm hr] at ht
      cases ht
    · rw [State.writeMarked_listed hm hr, Option.some.injEq] at ht
      exact .inl ⟨hm, ht.symm⟩
  · rw [State.writeMarked_plain hm, Option.some.injEq] at ht
    exact .inr ⟨hm, ht.symm⟩

/-- The marker is not stored raw, and nothing changes but memory and the list. -/
theorem State.writeMarked_stored {s t : State} {a : Nat} {v : List Byte} (ht : s.writeMarked a v = some t) :
    t.mem.lane (a / 256 * 256) ≠ s.mgmt.marker ∧
      t = { s with mem := t.mem, slices := { s.slices with exceptions := t.slices.exceptions } } := by
  obtain ⟨_, rfl⟩ | ⟨hm, rfl⟩ := State.writeMarked_cases ht
  · refine ⟨?_, rfl⟩
    rw [Memory.lane_writeN_same]
    exact not_ne_self _
  · exact ⟨hm, rfl⟩

/-- What a reader sees of a store within one slot of a page with C = 1 (R366). -/
theorem State.writeMarked_seen {s t : State} {a : Nat} {v : List Byte} (hv : a % 256 + v.length ≤ 256)
    (ht : s.writeMarked a v = some t) :
    t.devRead true a v.length = v ∧ ∀ b, b < a ∨ a + v.length ≤ b → t.devByte true b = s.devByte true b := by
  obtain ⟨hm, rfl⟩ | ⟨hm, rfl⟩ := State.writeMarked_cases ht
  · have hout : ∀ x, ¬(x / 256 = a / 256 ∧ x % 256 < 4) →
        ((s.seenSlot a v).writeN (a / 256 * 256) (leBytes 4 (~~~s.mgmt.marker).toNat)).read x = (s.seenSlot a v).read x :=
      fun x hx => Memory.read_writeN_outside _ _ _ _ (by rw [length_leBytes]; omega)
    refine State.seen_of_slot hv (fun x hx => ?_) (fun x hx => State.devByte_congr (fun y hy => ?_) ?_ rfl)
    · by_cases h4 : x % 256 < 4
      · have hx' : x = a / 256 * 256 + x % 256 := by omega
        rw [State.devByte_listed (by rw [hx]; exact Memory.lane_writeN_same _ _ _) (by rw [contains_addOnce, hx]; simp) h4]
        conv_rhs => rw [hx']
        exact (Memory.read_of_lane hm h4).symm
      · rw [State.devByte_above h4]
        exact hout x fun h => h4 h.2
    · rw [← State.read_seenSlot_other (s := s) hv (hy.symm ▸ hx : y / 256 ≠ a / 256)]
      exact hout y fun h => hx (hy.symm.trans h.1)
    · rw [contains_addOnce]
      simp [hx]
  · refine State.seen_of_slot hv (fun x hx => ?_) (fun x hx => ?_)
    · exact State.devByte_plain (by rw [hx]; exact hm) (by rw [hx]; simp)
    · exact State.devByte_congr (fun y hy => State.read_seenSlot_other hv (hy.symm ▸ hx)) (contains_filter_ne _ hx) rfl

/-- A store to a page with C = 1 is refused only with the list full. -/
theorem State.writeMarked_none {s : State} {a : Nat} {v : List Byte} (h : s.writeMarked a v = none) :
    exceptionRoom ≤ (s.slices.exceptions.filter (fun k => s.sliceOf (256 * k) == s.sliceOf a)).length := by
  by_cases hm : (s.seenSlot a v).lane (a / 256 * 256) = s.mgmt.marker
  · by_cases hr : (!s.listedAt a && decide (exceptionRoom ≤
        (s.slices.exceptions.filter (fun k => s.sliceOf (256 * k) == s.sliceOf a)).length)) = true
    · rw [Bool.and_eq_true, decide_eq_true_eq] at hr
      exact hr.2
    · rw [State.writeMarked_listed hm hr] at h
      cases h
  · rw [State.writeMarked_plain hm] at h
    cases h

/-- A packed block in a slot of device memory, where no sector is flawed (R366). -/
theorem State.devWritePacked_clean {s : State} (h : s.slices.bad = []) (a : Nat) (v : List Byte) :
    s.devWritePacked false a v = { s with mem := s.mem.writeN a v } ∧
      s.devWritePacked true a v = { s with
        mem := (s.mem.writeN a v).writeN a (leBytes 4 s.mgmt.marker.toNat)
        slices := { s.slices with exceptions := s.slices.exceptions.filter (fun k => k != a / 256) } } := by
  unfold State.devWritePacked
  rw [State.freshChecks_clean h]
  exact ⟨rfl, rfl⟩

/-- What a reader sees of a packed block in a page with C = 1. -/
theorem State.devWritePacked_seen {s : State} (h : s.slices.bad = []) {a : Nat} {v : List Byte} (ha : a % 256 = 0)
    (hl : 4 ≤ v.length) :
    let t := s.devWritePacked true a v
    t.packedAt true a = true ∧ t.devByte true a = 0 ∧ t.mem.readN (a + 4) (v.length - 4) = v.drop 4 ∧
      (∀ b, b < a ∨ a + v.length ≤ b → t.mem.read b = s.mem.read b) ∧ ¬a / 256 ∈ t.slices.exceptions := by
  intro t
  have ht : t = _ := (State.devWritePacked_clean h a v).2
  have hlane := Memory.lane_writeN_same (s.mem.writeN a v) a s.mgmt.marker
  have hp : t.packedAt true a = true := by
    rw [ht]
    unfold State.packedAt State.word0
    simp only [show a / 256 * 256 = a by omega, hlane, beq_self_eq_true, Bool.and_self]
  refine ⟨hp, ?_, ?_, fun b hb => ?_, ?_⟩
  · unfold State.devByte
    simp only [show a % 256 < 4 by omega, hp, decide_true, Bool.and_self, if_true]
  · have hread : t.mem.readN (a + 4) (v.length - 4) = (s.mem.writeN a v).readN (a + 4) (v.length - 4) := by
      rw [ht]
      exact Memory.readN_congr fun b h1 h2 => Memory.read_writeN_outside _ _ _ _ (by rw [length_leBytes]; omega)
    have hsplit := Memory.readN_add (s.mem.writeN a v) a 4 (v.length - 4)
    rw [show 4 + (v.length - 4) = v.length by omega, Memory.readN_writeN] at hsplit
    rw [hread]
    conv_rhs => rw [hsplit]
    exact (List.drop_left' (Memory.length_readN _ _ _)).symm
  · rw [ht]
    show ((s.mem.writeN a v).writeN a _).read b = _
    rw [Memory.read_writeN_outside _ _ _ _ (by rw [length_leBytes]; omega), Memory.read_writeN_outside _ _ _ _ hb]
  · rw [ht]
    simp

/-- Settles O51: a write that is accepted leaves its bytes, and one that is not leaves a record. -/
theorem memoryWrites : Obligations.MemoryWrites := by
  unfold Obligations.MemoryWrites
  intro s core a v spadBad accBad devBad out ring kept
  have hsp : spadBad = false → (partSectors a v.length).all (sramSound (s.core core).spad (s.core core).badSpad) = true :=
    fun h => by simpa [spadBad] using h
  refine ⟨fun h => ?_, fun h => ?_, fun h n b => ?_, fun h n b => ?_, ?_, fun hl ha _ => ⟨?_, fun h => ?_⟩, fun h => ?_,
    fun h cpg => ?_, fun h => ⟨?_, fun hv _ => ⟨fun t ht => ?_, fun hn => ?_⟩, fun ha hl => ?_⟩⟩
  · intro t
    obtain ⟨hs, ha, ho⟩ := State.spadWrite_ok (hsp h)
    refine ⟨by rw [hs, Memory.readN_writeN], (s.spadWrite_outside core a v).1, fun n hn => (ho.other n hn).1, fun n => ?_,
      ho.clusters, ho.mem⟩
    by_cases hn : n = core
    · rw [hn]; exact ha
    · exact (ho.other n hn).2
  · intro t
    obtain ⟨ha, hs, ho⟩ := State.accWrite_ok (s := s) (core := core) (off := a) (v := v) (by simpa [accBad] using h)
    refine ⟨by rw [ha, Memory.readN_writeN], (s.accWrite_outside core a v).1, fun n hn => (ho.other n hn).2, fun n => ?_,
      ho.clusters, ho.mem⟩
    by_cases hn : n = core
    · rw [hn]; exact hs
    · exact (ho.other n hn).1
  · have hr := State.spadStore_refused (s := s) (core := core) (off := a) (v := v) (by simpa [spadBad] using h)
    have ht := (s.spadStore core a v).sameStores_tellWaiters core a v.length none
    rw [show ((s.spadWrite core a v).core n).spad = _ from (ht.core n).1, State.core_of_cores hr.cores]
  · have hr := State.accWrite_refused (s := s) (core := core) (off := a) (v := v) (by simpa [accBad] using h)
    rw [State.core_of_cores hr.cores]
  · intro t
    obtain ⟨hw, ho⟩ := s.wbWrite_cluster core a v false
    refine ⟨by rw [hw]; exact Memory.readN_writeN v _ a, fun b hb => ?_, ho, rfl, rfl⟩
    rw [hw]
    exact Memory.read_writeN_outside v _ a b hb
  · exact State.wbWrite_packed hl
  · exact State.spadPacked_ok hl (hsp h)
  · obtain ⟨t, u, ht, hr, rfl⟩ := State.devWrite_ok (s := s) (a := a) (v := v) (by simpa [devBad] using h)
    refine ⟨_, ht, Memory.readN_writeN v u.mem a, hr.cores, hr.clusters, fun h32 b hb hring => ?_⟩
    exact (Memory.read_writeN_outside v u.mem a b hb).trans (hr.mem h32 b hring)
  · exact State.devWrite_refused (by simpa [devBad] using h) cpg
  · exact State.devWrite_clean h false a v
  · have hw : s.writeMarked a v = some t := (State.devWrite_clean h true a v).symm.trans ht
    obtain ⟨hread, hother⟩ := State.writeMarked_seen hv hw
    exact ⟨hread, hother, State.writeMarked_stored hw⟩
  · exact State.writeMarked_none ((State.devWrite_clean h true a v).symm.trans hn)
  · exact ⟨by rw [(State.devWritePacked_clean h a v).1], State.devWritePacked_seen h ha hl⟩

end Sys2Proof.Machine
end

section
/-! PROOF. The direct accesses perform, and change only what they store to (O50). -/

namespace Sys2Proof.Machine

/-! ## The conversions of lines (R124) -/

theorem getD_lanesOfBytes {j n : Nat} (h : j < n) (bs : List Byte) :
    (lanesOfBytes n bs).getD j 0 = BitVec.ofNat 32 (leNat ((bs.drop (4 * j)).take 4)) := by
  induction n generalizing bs j with
  | zero => omega
  | succ n ih =>
    cases j with
    | zero => rfl
    | succ j => rw [lanesOfBytes, List.getD_cons_succ, ih (by omega), List.drop_drop, Nat.mul_succ, Nat.add_comm 4]

/-- Elements of one size, one after another. -/
theorem take_drop_flatMap {α β : Type} {f : α → List β} {m : Nat} (hf : ∀ a, (f a).length = m) {j : Nat} {v : List α}
    (h : j < v.length) (d : α) : ((v.flatMap f).drop (m * j)).take m = f (v.getD j d) := by
  induction v generalizing j with
  | nil => exact absurd h (Nat.not_lt_zero j)
  | cons a v ih =>
    rw [List.flatMap_cons]
    cases j with
    | zero => rw [Nat.mul_zero, List.drop_zero, List.take_append_of_le_length (hf a).ge, List.take_of_length_le (hf a).le]; rfl
    | succ j =>
      rw [Nat.mul_succ, Nat.add_comm, ← List.drop_drop, List.drop_left' (hf a), List.getD_cons_succ]
      exact ih (Nat.lt_of_succ_lt_succ h)

theorem getD_lanes (f : Nat → Lane) {j : Nat} (hj : j < 64) : (lanes f).getD j 0 = f j := laneAt_lanes f hj

theorem signed_byte (b : Byte) : signed 8 b.toNat = b.toInt := by
  unfold signed
  rw [BitVec.toInt_eq_toNat_cond]
  have := b.isLt
  split <;> split <;> omega

/-- A signed byte of an integer that is saturated to it. -/
theorem byte_of_clamp (x : Int) : BitVec.ofNat 8 (clamp (-128) 127 x % 256).toNat = BitVec.ofInt 8 (max (-128) (min 127 x)) := by
  rw [clamp_eq (by decide), min_comm x]
  apply BitVec.eq_of_toNat_eq
  rw [BitVec.toNat_ofNat, BitVec.toNat_ofInt]
  omega

/-- What a load of a line delivers. -/
theorem cvLoad_lane (bs : List Byte) {j : Nat} (hj : j < 64) :
    (cvLoad .none bs).getD j 0 = BitVec.ofNat 32 (leNat ((bs.drop (4 * j)).take 4)) ∧
      (cvLoad .bf16 bs).getD j 0 = BitVec.ofNat 32 (bf16.convert fp32 .rne 0 (leNat ((bs.drop (2 * j)).take 2))) ∧
      (cvLoad .f16 bs).getD j 0 = BitVec.ofNat 32 (fp16.convert fp32 .rne 0 (leNat ((bs.drop (2 * j)).take 2))) ∧
      (cvLoad .i8 bs).getD j 0 = (bs.getD j 0).signExtend 32 := by
  refine ⟨getD_lanesOfBytes hj bs, getD_lanes _ hj, getD_lanes _ hj, (getD_lanes _ hj).trans ?_⟩
  rw [signed_byte]
  rfl

/-- What `ldb` delivers in every lane. -/
theorem cvLoadOne_lane (bs : List Byte) {j : Nat} (hj : j < 64) :
    (cvLoadOne .none bs).getD j 0 = BitVec.ofNat 32 (leNat bs) ∧
      (cvLoadOne .bf16 bs).getD j 0 = BitVec.ofNat 32 (bf16.convert fp32 .rne 0 (leNat bs)) ∧
      (cvLoadOne .f16 bs).getD j 0 = BitVec.ofNat 32 (fp16.convert fp32 .rne 0 (leNat bs)) :=
  ⟨getD_lanes _ hj, getD_lanes _ hj, getD_lanes _ hj⟩

/-- What a store of a line writes for a lane. -/
theorem cvStore_lane {v : List Lane} {j : Nat} (hj : j < v.length) :
    ((cvStore .none v).drop (4 * j)).take 4 = leBytes 4 (v.getD j 0).toNat ∧
      ((cvStore .bf16 v).drop (2 * j)).take 2 = leBytes 2 (fp32.convert bf16 .rne 0 (v.getD j 0).toNat) ∧
      ((cvStore .f16 v).drop (2 * j)).take 2 = leBytes 2 (fp32.convert fp16 .rne 0 (v.getD j 0).toNat) ∧
      (cvStore .i8 v).getD j 0 = BitVec.ofInt 8 (max (-128) (min 127 (v.getD j 0).toInt)) := by
  refine ⟨take_drop_flatMap (fun _ => length_leBytes 4 _) hj 0, take_drop_flatMap (fun _ => length_leBytes 2 _) hj 0,
    take_drop_flatMap (fun _ => length_leBytes 2 _) hj 0, ?_⟩
  have hbyte : ((cvStore .i8 v).drop (1 * j)).take 1 = leBytes 1 (clamp (-128) 127 (signed 32 (v.getD j 0).toNat) % 256).toNat :=
    take_drop_flatMap (fun _ => length_leBytes 1 _) hj 0
  have hget := congrArg (fun l : List Byte => l.getD 0 0) hbyte
  rw [← byte_of_clamp, ← signed_toNat]
  simpa [List.getD, leBytes, List.getElem?_take, List.getElem?_drop] using hget


/-! ## One direct access that is due (R235) -/

/-- The state without the direct accesses of a core that are due. -/
def State.dueTaken (s : State) (core : Nat) : State :=
  s.modCore core (fun k => { k with direct := k.direct.filter (fun b => !(b.due ≤ s.cyc core)) })

theorem State.dueTaken_core (s : State) (core n : Nat) : ((s.dueTaken core).core n).spad = (s.core n).spad ∧
    ((s.dueTaken core).core n).acc = (s.core n).acc :=
  have h := (s.sameStores_modCore core (f := fun k => { k with direct := k.direct.filter (fun b => !(b.due ≤ s.cyc core)) })
    fun _ => ⟨rfl, rfl, rfl⟩).core n
  ⟨h.1, h.2.1⟩

theorem State.dueTaken_mgmt (s : State) (core : Nat) : (s.dueTaken core).mgmt = s.mgmt := rfl

section
variable {s : State} {core : Nat} {a : Acc} (h : (s.core core).direct.filter (fun b => b.due ≤ s.cyc core) = [a])
include h

/-- A read. -/
theorem exec_directAccess_read (hr : a.kind.reads = true) :
    exec (.directAccessPerform core) s = .next (s.directRead (s.dueTaken core) core a) := by
  show execDirectAccessPerform core s = _
  unfold execDirectAccessPerform
  simp only [h, List.foldl_cons, List.foldl_nil, List.filter_cons, hr, Bool.not_true, Bool.false_eq_true, if_false, List.filter_nil,
    List.foldr_nil]
  rfl

/-- A write. -/
theorem exec_directAccess_write (hr : a.kind.reads = false) :
    exec (.directAccessPerform core) s = .next ((s.dueTaken core).directWrite core a) := by
  have hread : s.directRead (s.dueTaken core) core a = s.dueTaken core := by
    unfold State.directRead
    cases hk : a.kind <;> simp_all [AccKind.reads]
  show execDirectAccessPerform core s = _
  unfold execDirectAccessPerform
  simp only [h, List.foldl_cons, List.foldl_nil, List.filter_cons, hr, Bool.not_false, if_true, List.filter_nil, List.foldr_cons,
    List.foldr_nil, insertAcc]
  exact congrArg (fun t => Host.Outcome.next (State.directWrite t core a)) hread

end

section
variable {s : State} {core c off : Nat} {a : Acc} (hp : a.place = .spad c off)
include hp

/-- A store into a scratchpad. -/
theorem State.directWrite_store {v : List Byte} (hk : a.kind = .store v) : s.directWrite core a = s.spadWrite c off v := by
  unfold State.directWrite
  simp only [hk, hp]

/-- An atomic at a scratchpad that writes. -/
theorem State.directWrite_atom {v : List Byte} {old : Word} {d : Reg}
    (hu : a.kind.update ((s.core c).spad.readN off a.kind.width) = some (some v, old)) (hd : a.kind.dest = some d) :
    s.directWrite core a = (s.spadWrite c off v).modCtx core (fun x => x.putReg d old) := by
  unfold State.directWrite
  cases hk : a.kind <;> simp only [hk, AccKind.dest, reduceCtorEq] at hd
  all_goals
    simp only [hk] at hu
    simp only [hp, State.placeBytes, hu, AccKind.dest, hd, Option.map_some, Option.getD_some]

end


/-- The lanes that a line load delivers from a scratchpad: those of a packed slot, or its bytes, converted. -/
theorem State.lineLanes_spad_eq (s : State) (core c off : Nat) (dst : LineDst) (one : Bool) (cv : Cv) :
    s.lineLanes core (.spad c off) one cv = if cv = .pk then lanesOfBytes 64 ((s.core c).slotBytes off)
      else cvLanes one cv ((s.core c).spad.readN off (AccKind.lineLoad dst one cv).width) := by
  by_cases h : cv = .pk
  · rw [if_pos h, h]; rfl
  · rw [if_neg h, State.lineLanes_spad s core c off dst one h]

theorem lineLatency_spad (c off : Nat) (cv : Cv) : lineLatency (.spad c off) cv true = if cv = .pk then 14 else 12 := by
  unfold lineLatency
  simp

section
variable {s u : State} {core : Nat} {a : Acc}

/-- A line load to an LQ entry. -/
theorem State.directRead_lq {q : BitVec 3} {id : Nat} {one : Bool} {cv : Cv} (hk : a.kind = .lineLoad (.lq q id) one cv) :
    s.directRead u core a = (u.placeFetched s core a.place cv a.kind.width).modCtx core (fun x => { x with
      fills := x.fills ++ [{
        due := a.issued + lineLatency a.place cv true, q := q, id := id, lanes := s.lineLanes core a.place one cv
        bad := if s.lineSound core a.place cv a.kind.width then none
          else some (s.lineTrap core a.place cv a.kind.width a.addr) }] }) := by
  unfold State.directRead
  simp only [hk]
  rfl

/-- A line load to a grid line, with data that match their check. -/
theorem State.directRead_line {l : Line} {one : Bool} {cv : Cv} (hk : a.kind = .lineLoad (.line l) one cv)
    (hs : s.lineSound core a.place cv a.kind.width = true) :
    s.directRead u core a = (u.placeFetched s core a.place cv a.kind.width).modCtx core (fun x => { x with
      pend := x.pend ++ [{
        due := a.issued + lineLatency a.place cv false, issued := a.issued, st := .l, mask := 0
        dst := .line l (BitVec.allOnes 64) (s.lineLanes core a.place one cv), captured := x.captures }] }) := by
  rw [hk] at hs
  unfold State.directRead
  simp only [hk, hs, if_true]
  rfl

/-- A line load to a grid line, with data that do not. -/
theorem State.directRead_gridFail {l : Line} {one : Bool} {cv : Cv} (hk : a.kind = .lineLoad (.line l) one cv)
    (hs : s.lineSound core a.place cv a.kind.width = false) :
    s.directRead u core a = (u.placeFetched s core a.place cv a.kind.width).modCtx core (fun x =>
      x.gridFail a.id (s.lineTrap core a.place cv a.kind.width a.addr)) := by
  rw [hk] at hs
  unfold State.directRead
  simp only [hk, hs, Bool.false_eq_true, if_false]

end

/-! ## Accesses to a scratchpad -/

section
variable {s : State} {core : Nat} {a : Acc} (h : (s.core core).direct.filter (fun b => b.due ≤ s.cyc core) = [a])
  {c off : Nat} (hp : a.place = .spad c off)
include h hp

/-- A load (R86). -/
theorem exec_directAccess_load {sz : Sz} {sx : Bool} {d : Reg} (hk : a.kind = .load sz sx d) :
    exec (.directAccessPerform core) s = .next (((s.dueTaken core).spadFetched c off (szBytes sz)).modCtx core (fun x =>
      x.putReg d (extend sz sx ((s.core c).spad.readN off (szBytes sz))))) := by
  rw [exec_directAccess_read h (by rw [hk]; rfl)]
  unfold State.directRead
  simp only [hk, hp]
  rfl

theorem exec_directAccess_store {v : List Byte} (hk : a.kind = .store v) :
    exec (.directAccessPerform core) s = .next ((s.dueTaken core).spadWrite c off v) := by
  rw [exec_directAccess_write h (by rw [hk]; rfl), State.directWrite_store hp hk]

/-- An atomic that writes (R90, R91). -/
theorem exec_directAccess_atom {v : List Byte} {old : Word} {d : Reg}
    (hu : a.kind.update ((s.core c).spad.readN off a.kind.width) = some (some v, old)) (hd : a.kind.dest = some d)
    (hr : a.kind.reads = false) :
    exec (.directAccessPerform core) s =
      .next (((s.dueTaken core).spadWrite c off v).modCtx core (fun x => x.putReg d old)) := by
  rw [exec_directAccess_write h hr, State.directWrite_atom hp (by rwa [(s.dueTaken_core core c).1]) hd]

/-- An atomic that writes nothing: a compare that fails (R91). -/
theorem exec_directAccess_atom_keeps {old : Word} {d : Reg}
    (hu : a.kind.update ((s.core c).spad.readN off a.kind.width) = some (none, old)) (hd : a.kind.dest = some d)
    (hr : a.kind.reads = false) :
    exec (.directAccessPerform core) s =
      .next (((s.dueTaken core).spadFetched c off a.kind.width).modCtx core (fun x => x.putReg d old)) := by
  rw [exec_directAccess_write h hr]
  rw [← (s.dueTaken_core core c).1] at hu
  unfold State.directWrite
  cases hk : a.kind <;> simp only [hk, AccKind.dest, reduceCtorEq] at hd
  all_goals
    simp only [hk] at hu
    simp only [hp, State.placeBytes, hu, AccKind.dest, hd, Option.map_none, Option.getD_none]
    rfl

/-- What an access that writes leaves: the other bytes of the scratchpad, and the other memories. -/
theorem directAccess_frame {v : List Byte} {t : State}
    (hv : a.kind = .store v ∨ ∃ old, a.kind.isAtom = true ∧
      a.kind.update ((s.core c).spad.readN off a.kind.width) = some (some v, old))
    (ht : exec (.directAccessPerform core) s = .next t) :
    ((s.dueTaken core).spadWrite c off v).SameStores t := by
  obtain hk | ⟨old, hatom, hu⟩ := hv
  · rw [exec_directAccess_store h hp hk, Host.Outcome.next.injEq] at ht
    exact ht ▸ .refl _
  · rw [exec_directAccess_write h (by cases hk : a.kind <;> simp_all [AccKind.isAtom, AccKind.reads]),
      Host.Outcome.next.injEq] at ht
    cases hd : a.kind.dest with
    | some d =>
      rw [State.directWrite_atom hp (by rwa [(s.dueTaken_core core c).1]) hd] at ht
      exact ht ▸ State.sameStores_modCtx _ _ _
    | none =>
      rw [← (s.dueTaken_core core c).1] at hu
      unfold State.directWrite at ht
      cases hk : a.kind <;> simp only [hk, AccKind.dest, AccKind.isAtom, reduceCtorEq, Bool.false_eq_true] at hd hatom
      simp only [hk] at hu
      simp only [hk, hp, State.placeBytes, hu, AccKind.dest, Option.map_some, Option.getD_some] at ht
      exact ht ▸ .refl _

end

/-- What a write to a scratchpad leaves of every memory. -/
theorem State.spadWrite_frame (s : State) (c off : Nat) (v : List Byte) {t : State} (ht : (s.spadWrite c off v).SameStores t) :
    (∀ b, b < off ∨ off + v.length ≤ b → (t.core c).spad.read b = (s.core c).spad.read b) ∧
      (∀ n, n ≠ c → (t.core n).spad = (s.core n).spad) ∧ (∀ n, (t.core n).acc = (s.core n).acc) ∧ t.clusters = s.clusters ∧
      (s.mgmt.mcwptr % 32 = 0 → ∀ b, b < bits s.mgmt.mcbase 0 42 ∨ bits s.mgmt.mcbase 0 42 + 65536 ≤ b →
        t.mem.read b = s.mem.read b) := by
  obtain ⟨hb, ha, hs⟩ := s.spadWrite_outside c off v
  have ho := hs.then ht
  refine ⟨fun b hout => ?_, fun n hn => (ho.other n hn).1, fun n => ?_, ho.clusters, ho.mem⟩
  · rw [(ht.core c).1, hb b hout]
  · by_cases hn : n = c
    · rw [hn]; exact ((ht.core c).2.1).trans ha
    · exact (ho.other n hn).2

theorem State.accWrite_frame (s : State) (core off : Nat) (v : List Byte) :
    (∀ b, b < off ∨ off + v.length ≤ b → ((s.accWrite core off v).core core).acc.read b = (s.core core).acc.read b) ∧
      (∀ n, n ≠ core → ((s.accWrite core off v).core n).acc = (s.core n).acc) ∧
      (∀ n, ((s.accWrite core off v).core n).spad = (s.core n).spad) ∧ (s.accWrite core off v).clusters = s.clusters ∧
      (s.mgmt.mcwptr % 32 = 0 → ∀ b, b < bits s.mgmt.mcbase 0 42 ∨ bits s.mgmt.mcbase 0 42 + 65536 ≤ b →
        (s.accWrite core off v).mem.read b = s.mem.read b) := by
  obtain ⟨hb, hsp, ho⟩ := s.accWrite_outside core off v
  refine ⟨hb, fun n hn => (ho.other n hn).2, fun n => ?_, ho.clusters, ho.mem⟩
  by_cases hn : n = core
  · rw [hn]; exact hsp
  · exact (ho.other n hn).1

/-- A write of the access that was due, against the state before the step. -/
theorem dueTaken_spadWrite_frame {s t : State} {core c off : Nat} {v : List Byte}
    (ht : ((s.dueTaken core).spadWrite c off v).SameStores t) :
    (∀ b, b < off ∨ off + v.length ≤ b → (t.core c).spad.read b = (s.core c).spad.read b) ∧
      (∀ n, n ≠ c → (t.core n).spad = (s.core n).spad) ∧ (∀ n, (t.core n).acc = (s.core n).acc) ∧ t.clusters = s.clusters ∧
      (s.mgmt.mcwptr % 32 = 0 → ∀ b, b < bits s.mgmt.mcbase 0 42 ∨ bits s.mgmt.mcbase 0 42 + 65536 ≤ b →
        t.mem.read b = s.mem.read b) := by
  obtain ⟨hb, hs, ha, hc, hm⟩ := State.spadWrite_frame _ c off v ht
  exact ⟨fun b hout => by rw [hb b hout, (s.dueTaken_core core c).1], fun n hn => by rw [hs n hn, (s.dueTaken_core core n).1],
    fun n => by rw [ha n, (s.dueTaken_core core n).2], hc, hm⟩

theorem dueTaken_accWrite_frame {s : State} {core off : Nat} {v : List Byte} :
    let t := (s.dueTaken core).accWrite core off v
    (∀ b, b < off ∨ off + v.length ≤ b → (t.core core).acc.read b = (s.core core).acc.read b) ∧
      (∀ n, n ≠ core → (t.core n).acc = (s.core n).acc) ∧ (∀ n, (t.core n).spad = (s.core n).spad) ∧ t.clusters = s.clusters ∧
      (s.mgmt.mcwptr % 32 = 0 → ∀ b, b < bits s.mgmt.mcbase 0 42 ∨ bits s.mgmt.mcbase 0 42 + 65536 ≤ b →
        t.mem.read b = s.mem.read b) := by
  obtain ⟨hb, ha, hs, hc, hm⟩ := (s.dueTaken core).accWrite_frame core off v
  exact ⟨fun b hout => by rw [hb b hout, (s.dueTaken_core core core).2], fun n hn => by rw [ha n hn, (s.dueTaken_core core n).2],
    fun n => by rw [hs n, (s.dueTaken_core core n).1], hc, hm⟩

/-- `sta` writes the accumulator store (R127). -/
theorem exec_directAccess_accStore {s : State} {core off : Nat} {a : Acc} {v : List Byte}
    (h : (s.core core).direct.filter (fun b => b.due ≤ s.cyc core) = [a]) (hp : a.place = .acc off) (hk : a.kind = .store v) :
    exec (.directAccessPerform core) s = .next ((s.dueTaken core).accWrite core off v) := by
  rw [exec_directAccess_write h (by rw [hk]; rfl)]
  unfold State.directWrite
  simp only [hk, hp]

/-- The atomics of C name a register and read nothing ahead of the writes of their cycle. -/
theorem AccKind.atom_dest {k : AccKind} {n : Nat} {d : Reg} (h : (∃ w op b, k = .amo w op b d ∧ n = if w then 4 else 8) ∨
    ∃ w b e, k = .cas w b e d ∧ n = if w then 4 else 8) : k.dest = some d ∧ k.reads = false ∧ n = k.width := by
  obtain ⟨w, op, b, rfl, rfl⟩ | ⟨w, b, e, rfl, rfl⟩ := h <;> exact ⟨rfl, rfl, rfl⟩

/-- Settles O50: a read or a write of the one access that is due, by its place and kind. -/
theorem directAccesses : Obligations.DirectAccesses := by
  unfold Obligations.DirectAccesses
  refine ⟨fun s core a h => ?_, fun bs v j hj => ?_⟩
  · intro u put ring
    refine ⟨fun c off hp => ?_, fun off hp => ?_⟩
    · intro rd
      refine ⟨fun sz sx d hk => exec_directAccess_load h hp hk, fun v hk => exec_directAccess_store h hp hk,
        fun n d old hn => ?_, fun dst one cv hk => ?_, fun v t hv ht => ?_⟩
      · obtain ⟨hd, hr, rfl⟩ := AccKind.atom_dest hn
        exact ⟨fun v hu => exec_directAccess_atom h hp hu hd hr, fun hu => exec_directAccess_atom_keeps h hp hu hd hr⟩
      · have hread := exec_directAccess_read h (by rw [hk]; rfl)
        refine ⟨s.lineTrap core a.place cv a.kind.width a.addr, by rw [hp]; rfl, by rw [hp]; rfl, fun q id hdst => ?_,
          fun l hdst => ?_⟩
        · rw [hdst] at hk
          rw [hread, State.directRead_lq hk, hp, lineLatency_spad, State.lineLanes_spad_eq s core c off (.lq q id), ← hk]
          rfl
        · rw [hdst] at hk
          refine ⟨fun hs => ?_, fun hs => ?_⟩
          · rw [hread, State.directRead_line hk (by rwa [hp]), hp, State.lineLanes_spad_eq s core c off (.line l), ← hk]
            rfl
          · rw [hread, State.directRead_gridFail hk (by rwa [hp]), hp]
            rfl
      · exact dueTaken_spadWrite_frame (directAccess_frame h hp hv ht)
    · intro v t
      have hkind : ∀ dst, (AccKind.lineLoad dst false .none).width = 256 := fun _ => rfl
      refine ⟨fun q id hk hs => ?_, fun l hk hs => ?_, fun w t hk ht => ?_⟩
      · rw [exec_directAccess_read h (by rw [hk]; rfl), State.directRead_lq hk, hp, hk, hkind]
        simp only [State.lineSound, hs, if_true]
        rfl
      · rw [exec_directAccess_read h (by rw [hk]; rfl), State.directRead_line hk (by rw [hp, hk]; exact hs), hp, hk, hkind]
        rfl
      · rw [exec_directAccess_accStore h hp hk, Host.Outcome.next.injEq] at ht
        subst ht
        exact ⟨rfl, dueTaken_accWrite_frame⟩
  · exact ⟨cvLoad_lane bs hj, cvLoadOne_lane bs hj, fun hv => cvStore_lane (hv ▸ hj)⟩

end Sys2Proof.Machine
end

section
/-! PROOF. What mzero, mma, mmas and drain compute, and their frames (O45). -/

namespace Sys2Proof.Machine

/-! ## Pieces of a list, and numbers of a run of bytes -/

theorem upto_zero_eq_range (n : Nat) : upto 0 n = List.range n := by
  rw [upto_eq_range', List.range_eq_range']

theorem ceilDiv_of_pos {a n : Nat} (hn : 0 < n) (ha : 0 < a) : ceilDiv a n = ceilDiv (a - n) n + 1 := by
  unfold ceilDiv
  by_cases h : n ≤ a
  · rw [show a + n - 1 = (a - n + n - 1) + n by omega, Nat.add_div_right _ hn]
  · rw [show a - n + n - 1 = n - 1 by omega, Nat.div_eq_of_lt (by omega : n - 1 < n), Nat.div_eq_iff hn]
    omega

theorem ceilDiv_mul (k : Nat) {n : Nat} (hn : 0 < n) : ceilDiv (k * n) n = k := by
  unfold ceilDiv
  rw [Nat.div_eq_iff hn]
  have := Nat.mul_comm k n
  omega

theorem piecesGo_eq {α : Type} {n : Nat} (hn : 0 < n) : ∀ (f : Nat) (l : List α), l.length ≤ f →
    piecesGo n f l = (List.range (ceilDiv l.length n)).map (fun g => (l.drop (n * g)).take n)
  | 0, l, h => by
    rw [List.length_eq_zero_iff.1 (Nat.le_zero.1 h)]
    have h0 : ceilDiv 0 n = 0 := Nat.div_eq_of_lt (by omega)
    simp [piecesGo, h0]
  | f + 1, [], _ => by
    have h0 : ceilDiv 0 n = 0 := Nat.div_eq_of_lt (by omega)
    simp [piecesGo, h0]
  | f + 1, a :: l, h => by
    have hlen : ((a :: l).drop n).length = (a :: l).length - n := List.length_drop
    have hf : ((a :: l).drop n).length ≤ f := by
      rw [hlen]
      simp only [List.length_cons] at h ⊢
      omega
    rw [piecesGo, piecesGo_eq hn f _ hf, ceilDiv_of_pos hn (by simp : 0 < (a :: l).length), List.range_succ_eq_map, hlen]
    simp only [List.map_cons, List.map_map, Nat.mul_zero, List.drop_zero, List.drop_drop]
    refine congrArg _ (List.map_congr_left fun g _ => ?_)
    simp only [Function.comp_apply, Nat.mul_succ, Nat.add_comm]

/-- The pieces of a list, one by one. -/
theorem pieces_eq {α : Type} {n : Nat} (hn : 0 < n) (l : List α) :
    pieces n l = (upto 0 (ceilDiv l.length n)).map (fun g => (l.drop (n * g)).take n) := by
  rw [upto_zero_eq_range]
  exact piecesGo_eq hn _ l (Nat.le_refl _)

/-- Part of a run of bytes. -/
theorem Memory.take_drop_readN (m : Memory) (a : Nat) {n i k : Nat} (h : i + k ≤ n) :
    ((m.readN a n).drop i).take k = m.readN (a + i) k := by
  obtain ⟨j, rfl⟩ : ∃ j, n = i + (k + j) := ⟨n - i - k, by omega⟩
  rw [Memory.readN_add, List.drop_left' (Memory.length_readN _ _ _), Memory.readN_add,
    List.take_left' (Memory.length_readN _ _ _)]

/-- The numbers of a run of bytes of a memory. -/
theorem numbers_readN (m : Memory) (a : Nat) {w : Nat} (hw : 0 < w) (k : Nat) :
    numbers w (m.readN a (k * w)) = (upto 0 k).map (fun j => leNat (m.readN (a + j * w) w)) := by
  unfold numbers
  rw [pieces_eq hw, List.map_map, Memory.length_readN, ceilDiv_mul k hw]
  refine List.map_congr_left fun j hj => ?_
  rw [upto_eq_range', List.mem_range'_1] at hj
  have hle : j * w + w ≤ k * w := by
    rw [← Nat.succ_mul]
    exact Nat.mul_le_mul_right w (by omega)
  rw [Function.comp_apply, Nat.mul_comm w j, Memory.take_drop_readN m a hle]

theorem getD_map_upto {α : Type} (f : Nat → α) {j n : Nat} (h : j < n) (d : α) : ((upto 0 n).map f).getD j d = f j := by
  rw [List.getD_eq_getElem?_getD, getElem?_map_upto f h]
  rfl

theorem length_map_upto {α : Type} (f : Nat → α) (n : Nat) : ((upto 0 n).map f).length = n := by
  rw [List.length_map, upto_eq_range', List.length_range']

/-- Two lists of one length, element by element. -/
theorem zip_map_upto {α β : Type} (f : Nat → α) (g : Nat → β) (n : Nat) :
    List.zip ((upto 0 n).map f) ((upto 0 n).map g) = (upto 0 n).map (fun j => (f j, g j)) := List.zip_map'

theorem zip_upto_map {β : Type} (g : Nat → β) (n : Nat) :
    List.zip (upto 0 n) ((upto 0 n).map g) = (upto 0 n).map (fun j => (j, g j)) := by
  have := zip_map_upto id g n
  rwa [List.map_id] at this

theorem zipWith_map_upto {α β γ : Type} (op : α → β → γ) (f : Nat → α) (g : Nat → β) (n : Nat) :
    List.zipWith op ((upto 0 n).map f) ((upto 0 n).map g) = (upto 0 n).map (fun j => op (f j) (g j)) := by
  rw [List.zipWith_map, List.zipWith_self]

/-! ## Rows written one after another -/

/-- A memory after rows of bytes have been written at a pitch. -/
def Memory.writeRows (m : Memory) (base pitch : Nat) (row : Nat → List Byte) (done : Nat) : Memory :=
  (upto 0 done).foldl (fun m r => m.writeN (base + r * pitch) (row r)) m

theorem Memory.writeRows_succ (m : Memory) (base pitch : Nat) (row : Nat → List Byte) (done : Nat) :
    m.writeRows base pitch row (done + 1) = (m.writeRows base pitch row done).writeN (base + done * pitch) (row done) := by
  unfold Memory.writeRows
  rw [upto_succ, List.foldl_append, Nat.zero_add]
  rfl

/-- A byte outside the rows. -/
theorem Memory.read_writeRows_outside {m : Memory} {base pitch : Nat} {row : Nat → List Byte} {done b : Nat}
    (h : ∀ r, r < done → b < base + r * pitch ∨ base + r * pitch + (row r).length ≤ b) :
    (m.writeRows base pitch row done).read b = m.read b := by
  induction done with
  | zero => rfl
  | succ done ih =>
    rw [Memory.writeRows_succ, Memory.read_writeN_outside _ _ _ _ (h done (Nat.lt_succ_self _))]
    exact ih fun r hr => h r (Nat.lt_succ_of_lt hr)

/-- Rows at a pitch that holds them do not overlap. -/
theorem row_disjoint {base pitch i r n l x : Nat} (hi : i < r) (hl : l ≤ pitch) (hx : x + n ≤ l) :
    base + i * pitch + x + n ≤ base + r * pitch := by
  have : (i + 1) * pitch ≤ r * pitch := Nat.mul_le_mul_right pitch hi
  rw [Nat.succ_mul] at this
  omega

/-- A run of bytes within one of the rows. -/
theorem Memory.readN_writeRows {m : Memory} {base pitch : Nat} {row : Nat → List Byte} {done i x n : Nat} (hi : i < done)
    (hp : ∀ r, r < done → (row r).length ≤ pitch) (hx : x + n ≤ (row i).length) :
    (m.writeRows base pitch row done).readN (base + i * pitch + x) n = ((row i).drop x).take n := by
  induction done with
  | zero => omega
  | succ done ih =>
    rw [Memory.writeRows_succ]
    by_cases h : i = done
    · subst h
      rw [← Memory.take_drop_readN _ _ hx, Memory.readN_writeN]
    · have hid : i < done := by omega
      rw [← ih hid fun r hr => hp r (Nat.lt_succ_of_lt hr)]
      refine Memory.readN_congr fun b _ hb => Memory.read_writeN_outside _ _ _ _ (.inl ?_)
      have := row_disjoint (base := base) hid (hp i (by omega)) hx
      omega

/-- A byte within one of the rows. -/
theorem Memory.read_writeRows {m : Memory} {base pitch : Nat} {row : Nat → List Byte} {done i b : Nat} (hi : i < done)
    (hp : ∀ r, r < done → (row r).length ≤ pitch) (h1 : base + i * pitch ≤ b) (h2 : b < base + i * pitch + (row i).length) :
    (m.writeRows base pitch row done).read b = (row i).getD (b - (base + i * pitch)) 0 := by
  have hx : b - (base + i * pitch) + 1 ≤ (row i).length := by omega
  have h := Memory.readN_writeRows (m := m) (base := base) hi hp hx
  rw [Nat.add_sub_cancel' h1] at h
  have hget := congrArg (fun l : List Byte => l.getD 0 0) h
  simpa [Memory.readN, List.getD, List.getElem?_take, List.getElem?_drop] using hget


/-! ## Work that changes one accumulator store -/

/-- The accumulator store of a core, without flaws, is `m`, and everything else of the memories and of the other cores is as it
was. -/
structure State.AccOnly (s u : State) (core : Nat) (m : Memory) : Prop where
  acc : (u.core core).acc = m
  spad : (u.core core).spad = (s.core core).spad
  badAcc : (u.core core).badAcc = []
  other : ∀ n, n ≠ core → u.core n = s.core n
  mem : u.mem = s.mem
  clusters : u.clusters = s.clusters

/-- A write to an accumulator store without flaws. -/
theorem State.accWrite_clean {s : State} {core : Nat} (h : (s.core core).badAcc = []) (off : Nat) (v : List Byte) :
    s.accWrite core off v = s.setCore core { s.core core with
      acc := (s.core core).acc.writeN off v, badAcc := [], dirtyAcc := addAll (s.core core).dirtyAcc (pagesOf off v.length) } := by
  unfold State.accWrite State.sramFetched dropFlaws
  simp only [h, ne_eq, not_true, false_and, if_false, if_true]

theorem State.AccOnly.write {s u : State} {core : Nat} {m : Memory} (h : s.AccOnly u core m) (off : Nat) (v : List Byte) :
    s.AccOnly (u.accWrite core off v) core (m.writeN off v) := by
  rw [State.accWrite_clean h.badAcc]
  refine ⟨?_, ?_, ?_, fun n hn => ?_, h.mem, h.clusters⟩
  · rw [State.core_setCore_same, ← h.acc]
  · rw [State.core_setCore_same]; exact h.spad
  · rw [State.core_setCore_same]
  · rw [State.core_setCore_other u hn]; exact h.other n hn

/-- Rows written to an accumulator store. -/
theorem State.accOnly_rows {s : State} {core : Nat} (h : (s.core core).badAcc = []) (base pitch : Nat) (row : Nat → List Byte)
    (done : Nat) : s.AccOnly ((upto 0 done).foldl (fun u r => u.accWrite core (base + r * pitch) (row r)) s) core
      ((s.core core).acc.writeRows base pitch row done) := by
  induction done with
  | zero => exact ⟨rfl, rfl, h, fun _ _ => rfl, rfl, rfl⟩
  | succ done ih =>
    rw [upto_succ, List.foldl_append, Memory.writeRows_succ, Nat.zero_add]
    exact ih.write _ _

/-- A change of the core's context is passed over. -/
theorem State.AccOnly.modCtx {s u : State} {core : Nat} {m : Memory} (h : s.AccOnly u core m) (f : Ctx → Ctx) :
    s.AccOnly (u.modCtx core f) core m := by
  refine ⟨?_, ?_, ?_, fun n hn => ?_, h.mem, h.clusters⟩
  · rw [State.core_modCtx_same]; exact h.acc
  · rw [State.core_modCtx_same]; exact h.spad
  · rw [State.core_modCtx_same]; exact h.badAcc
  · rw [State.core_modCtx_other u hn]; exact h.other n hn

/-! ## `mzero` (R180) -/

theorem State.accOnly_mzero {s : State} {k : Cmd} (h : (s.core k.core).badAcc = []) :
    s.AccOnly (s.mzero k) k.core ((s.core k.core).acc.writeRows (k.tile k.t2).base (k.tile k.t2).pitch
      (fun _ => List.replicate (k.tile k.t2).rowBytes 0) (k.tile k.t2).rows) :=
  State.accOnly_rows h _ _ _ _

/-- Rows of zeros read zero, overlapping or not. -/
theorem Memory.read_zeroRows {m : Memory} {base pitch n rows a : Nat}
    (h : ∃ r, r < rows ∧ base + r * pitch ≤ a ∧ a < base + r * pitch + n) :
    (m.writeRows base pitch (fun _ => List.replicate n 0) rows).read a = 0 := by
  induction rows with
  | zero => obtain ⟨r, hr, _⟩ := h; omega
  | succ rows ih =>
    rw [Memory.writeRows_succ, Memory.read_writeN, List.length_replicate]
    split
    next hin => simp [List.getD, show a - (base + rows * pitch) < n by omega]
    next hout =>
      obtain ⟨r, hr, h1, h2⟩ := h
      refine ih ⟨r, ?_, h1, h2⟩
      by_contra hge
      exact hout ((show r = rows by omega) ▸ ⟨h1, h2⟩)

/-- `mzero` (R180). -/
theorem arrayResults_mzero (s : State) (k : Cmd) (a : Nat) :
    let t := k.tile k.t2
    let u := s.mzero k
    (s.core k.core).badAcc = [] →
    let inside := ∃ r, r < t.rows ∧ t.base + r * t.pitch ≤ a ∧ a < t.base + r * t.pitch + t.rowBytes
    (inside → (u.core k.core).acc.read a = 0) ∧ (¬ inside → (u.core k.core).acc.read a = (s.core k.core).acc.read a) ∧
      (∀ n, n ≠ k.core → u.core n = s.core n) ∧ (u.core k.core).spad = (s.core k.core).spad ∧ u.mem = s.mem ∧
      u.clusters = s.clusters := by
  intro t u hb inside
  have h := State.accOnly_mzero hb
  refine ⟨fun hin => ?_, fun hout => ?_, h.other, h.spad, h.mem, h.clusters⟩
  · rw [h.acc]
    exact Memory.read_zeroRows hin
  · rw [h.acc]
    refine Memory.read_writeRows_outside fun r hr => ?_
    rw [List.length_replicate]
    by_contra hnot
    rw [not_or, Nat.not_lt, Nat.not_le] at hnot
    exact hout ⟨r, hr, hnot⟩

/-! ## `mma` (R177, R207 to R209) -/

theorem fmtBytes_pos {n : Nat} (h : n < 12) : 0 < fmtBytes n := by
  interval_cases n <;> decide

/-- Bytes of which no slot is packed are read as they stand (R365). -/
theorem expandN_nil (m : Memory) (off n : Nat) : expandN m [] off n = m.readN off n := by
  unfold expandN
  simp

/-- A row of A, on operands that are not packed. -/
theorem State.aRows_getD {s : State} {k : Cmd} (hp : (s.core k.core).packed = []) (hf : (k.tile k.t1).fmt < 12) {m : Nat}
    (hm : m < (k.tile k.t1).rows) :
    (s.aRows k).getD m [] = (upto 0 k.kk).map (fun j => leNat ((s.core k.core).spad.readN
      ((k.tile k.t1).at_ m k.acol + j * fmtBytes (k.tile k.t1).fmt) (fmtBytes (k.tile k.t1).fmt))) := by
  unfold State.aRows
  simp only [hp, expandN_nil]
  rw [getD_map_upto _ hm, numbers_readN _ _ (fmtBytes_pos hf)]

/-- The columns of B, on operands that are not packed. -/
theorem State.bCols_eq {s : State} {k : Cmd} (hp : (s.cluster (clusterOf k.core)).wbPacked = []) (hf : k.bfmt < 12) :
    s.bCols k = (upto 0 k.nn).map (fun n => (upto 0 k.kk).map (fun j => leNat ((s.cluster (clusterOf k.core)).wb.readN
      (k.wbofs + j * k.bpitch + n * fmtBytes k.bfmt) (fmtBytes k.bfmt)))) := by
  unfold State.bCols
  simp only [hp, expandN_nil]
  refine List.map_congr_left fun n hn => ?_
  rw [upto_eq_range', List.mem_range'_1] at hn
  rw [List.map_map]
  refine List.map_congr_left fun j _ => ?_
  rw [Function.comp_apply, numbers_readN _ _ (fmtBytes_pos hf), getD_map_upto _ (by omega)]

/-- The cells of a row of the accumulator tile. -/
theorem State.cCells_eq (s : State) (core : Nat) (t : Tile) (m n : Nat) :
    s.cCells core t m n = (upto 0 n).map (fun j => leNat ((s.core core).acc.readN (t.base + m * t.pitch + 4 * j) 4)) := by
  unfold State.cCells
  rw [Nat.mul_comm 4 n, numbers_readN _ _ (by decide)]
  simp only [Nat.mul_comm 4]

/-- Cell n of row m after an `mma`. -/
def State.cellAfter (s : State) (k : Cmd) (m n : Nat) : Nat :=
  s.mmaCell k m n (leNat ((s.core k.core).acc.readN ((k.tile k.t2).base + m * (k.tile k.t2).pitch + 4 * n) 4))
    ((s.aRows k).getD m []) ((upto 0 k.kk).map (fun j => leNat ((s.cluster (clusterOf k.core)).wb.readN
      (k.wbofs + j * k.bpitch + n * fmtBytes k.bfmt) (fmtBytes k.bfmt))))

/-- The bytes of row m after an `mma`. -/
def State.rowAfter (s : State) (k : Cmd) (m : Nat) : List Byte := ((upto 0 k.nn).map (s.cellAfter k m)).flatMap (leBytes 4)

/-- What an `mma` does to the accumulator store. -/
theorem State.accOnly_mma {s : State} {k : Cmd} (hb : (s.core k.core).badAcc = [])
    (hp : (s.cluster (clusterOf k.core)).wbPacked = []) (hf : k.bfmt < 12) (done : Nat) :
    s.AccOnly (s.mma k done) k.core
      ((s.core k.core).acc.writeRows (k.tile k.t2).base (k.tile k.t2).pitch (s.rowAfter k) done) := by
  have hrow : ∀ m, ((List.zip (s.cCells k.core (k.tile k.t2) m k.nn) (List.zip (upto 0 k.nn) (s.bCols k))).map
      (fun c => s.mmaCell k m c.2.1 c.1 ((s.aRows k).getD m []) c.2.2)) = (upto 0 k.nn).map (s.cellAfter k m) := by
    intro m
    rw [State.cCells_eq, State.bCols_eq hp hf, zip_upto_map, zip_map_upto, List.map_map]
    rfl
  have hrows := State.accOnly_rows hb (k.tile k.t2).base (k.tile k.t2).pitch (s.rowAfter k) done
  unfold State.mma
  simp only [hrow, zip_upto_map, List.foldl_map]
  split
  · exact State.AccOnly.modCtx hrows _
  · exact hrows


/-! ## The sums of an `mma` -/

/-- The sum of a dense product, group by group (R207). -/
theorem dotDense_map (c : Nat) (f g : Nat → FV) (n : Nat) :
    dotDense c ((upto 0 n).map f) ((upto 0 n).map g) = (upto 0 (ceilDiv n 8)).foldl (fun x i =>
      accumulate x (FV.sum .rne ((((upto 0 n).map (fun j => FV.mul (f j) (g j))).drop (8 * i)).take 8))) c := by
  unfold dotDense
  rw [zipWith_map_upto, pieces_eq (by decide), List.foldl_map, length_map_upto]

/-- A fold that counts its elements. -/
theorem foldl_counted {α β : Type} (step : β → α → Nat → β) (F : Nat → α) (c : β) (n : Nat) :
    ((upto 0 n).map F).foldl (fun (r : β × Nat) a => (step r.1 a r.2, r.2 + 1)) (c, 0) =
      ((upto 0 n).foldl (fun x i => step x (F i) i) c, n) := by
  induction n with
  | zero => rfl
  | succ n ih =>
    rw [upto_succ, List.map_append, List.foldl_append, ih, List.foldl_append, Nat.zero_add]
    rfl

/-- The sum of an FP8 product, block by block (R208). -/
theorem dotBlocks_map (c : Nat) (f g : Nat → FV) (sa sb : Nat → Nat) (n : Nat) :
    dotBlocks c ((upto 0 n).map f) ((upto 0 n).map g) sa sb = (upto 0 (ceilDiv n 32)).foldl (fun x i =>
      accumulate x (scaleSum (FV.sum .rne ((((upto 0 n).map (fun j => FV.mul (f j) (g j))).drop (32 * i)).take 32))
        (sa i) (sb i))) c := by
  unfold dotBlocks
  rw [zipWith_map_upto, pieces_eq (by decide),
    foldl_counted (fun x g i => accumulate x (scaleSum (FV.sum .rne g) (sa i) (sb i))), length_map_upto]

/-- A residue cell fits in its four bytes. -/
theorem residueAdd_lt (cell : Nat) (v : Int) : residueAdd cell v < 2 ^ 32 := by
  unfold residueAdd
  dsimp only
  omega

/-- The bytes of a row are its cells'. -/
theorem State.length_rowAfter (s : State) (k : Cmd) (m : Nat) : (s.rowAfter k m).length = 4 * k.nn := by
  unfold State.rowAfter
  rw [List.length_flatMap, List.map_map, upto_zero_eq_range]
  simp [Function.comp_def, length_leBytes, Nat.mul_comm]

section
variable {s : State} {k : Cmd} (hb : (s.core k.core).badAcc = []) (hp : (s.cluster (clusterOf k.core)).wbPacked = [])
  (hf : k.bfmt < 12)
include hb hp hf

/-- A cell of the rows done. -/
theorem State.mma_cell {done m n : Nat} (hpitch : 4 * k.nn ≤ (k.tile k.t2).pitch) (hm : m < done) (hn : n < k.nn) :
    leNat (((s.mma k done).core k.core).acc.readN ((k.tile k.t2).base + m * (k.tile k.t2).pitch + 4 * n) 4) =
      s.cellAfter k m n % 2 ^ 32 := by
  rw [(State.accOnly_mma hb hp hf done).acc, Memory.readN_writeRows hm (fun r _ => by rwa [State.length_rowAfter])
    (by rw [State.length_rowAfter]; omega)]
  unfold State.rowAfter
  rw [take_drop_flatMap (fun _ => length_leBytes 4 _) (by rwa [length_map_upto]) 0, getD_map_upto _ hn, leNat_leBytes]
  rfl

/-- The bytes outside the rows done. -/
theorem State.mma_outside {done b : Nat} (h : ∀ r, r < done → b < (k.tile k.t2).base + r * (k.tile k.t2).pitch ∨
    (k.tile k.t2).base + r * (k.tile k.t2).pitch + 4 * k.nn ≤ b) :
    ((s.mma k done).core k.core).acc.read b = (s.core k.core).acc.read b := by
  rw [(State.accOnly_mma hb hp hf done).acc]
  exact Memory.read_writeRows_outside fun r hr => by rw [State.length_rowAfter]; exact h r hr

end

/-- The scales of an `mma` (R175, R178). -/
theorem State.scales_mma (s : State) (k : Cmd) (m n g : Nat) :
    (k.afmt = 3 ∨ k.afmt = 4 → s.aScale k m g = 127) ∧ (k.bfmt = 3 ∨ k.bfmt = 4 → s.bScale k n g = 127) ∧
      (k.bfmt = 5 ∨ k.bfmt = 6 → s.bScale k n g =
        ((s.cluster (clusterOf k.core)).wb.read (k.bsc + n * (k.kk / 32) + g)).toNat) ∧
      (k.afmt = 5 ∨ k.afmt = 6 → (k.scn ≤ m * (k.kk / 32) + g → s.aScale k m g = 0xFF) ∧
        ∀ d off, m * (k.kk / 32) + g < k.scn → spadAt k.core (windowBase + k.asc) = some (d, off) →
          s.aScale k m g = ((s.core d).spad.read (off + (m * (k.kk / 32) + g))).toNat) := by
  refine ⟨fun h => if_neg (by omega), fun h => if_neg (by omega), fun h => if_pos h, fun h => ⟨fun hn => ?_, fun d off hn hs => ?_⟩⟩
  · exact (if_pos h).trans (if_neg (by omega))
  · refine ((if_pos h).trans (if_pos hn)).trans ?_
    rw [hs]

section
variable {s : State} {k : Cmd} {m n : Nat} (hp : (s.core k.core).packed = []) (hf : (k.tile k.t1).fmt < 12)
  (hm : m < (k.tile k.t1).rows)
include hp hf hm

/-- A cell of a BF16 or FP16 product (R207). -/
theorem State.cellAfter_dense (h : k.afmt = 1 ∨ k.afmt = 2) :
    let A := fun (j : Nat) => leNat ((s.core k.core).spad.readN
      ((k.tile k.t1).at_ m k.acol + j * fmtBytes (k.tile k.t1).fmt) (fmtBytes (k.tile k.t1).fmt))
    let B := fun (j : Nat) => leNat ((s.cluster (clusterOf k.core)).wb.readN
      (k.wbofs + j * k.bpitch + n * fmtBytes k.bfmt) (fmtBytes k.bfmt))
    s.cellAfter k m n = (upto 0 (ceilDiv k.kk 8)).foldl (fun x i => accumulate x (FV.sum .rne
      ((((upto 0 k.kk).map (fun j => FV.mul ((elemFmt k.afmt).val (A j)) ((elemFmt k.bfmt).val (B j)))).drop (8 * i)).take 8)))
      (leNat ((s.core k.core).acc.readN ((k.tile k.t2).base + m * (k.tile k.t2).pitch + 4 * n) 4)) := by
  intro A B
  unfold State.cellAfter State.mmaCell
  rw [if_neg (by omega), if_pos h, State.aRows_getD hp hf hm, List.map_map, List.map_map]
  exact dotDense_map _ _ _ _

/-- A cell of an FP8 product (R208). -/
theorem State.cellAfter_blocks (h3 : 3 ≤ k.afmt) (h6 : k.afmt ≤ 6) :
    let A := fun (j : Nat) => leNat ((s.core k.core).spad.readN
      ((k.tile k.t1).at_ m k.acol + j * fmtBytes (k.tile k.t1).fmt) (fmtBytes (k.tile k.t1).fmt))
    let B := fun (j : Nat) => leNat ((s.cluster (clusterOf k.core)).wb.readN
      (k.wbofs + j * k.bpitch + n * fmtBytes k.bfmt) (fmtBytes k.bfmt))
    s.cellAfter k m n = (upto 0 (ceilDiv k.kk 32)).foldl (fun x i => accumulate x (scaleSum (FV.sum .rne
      ((((upto 0 k.kk).map (fun j => FV.mul ((elemFmt k.afmt).val (A j)) ((elemFmt k.bfmt).val (B j)))).drop (32 * i)).take 32))
      (s.aScale k m i) (s.bScale k n i)))
      (leNat ((s.core k.core).acc.readN ((k.tile k.t2).base + m * (k.tile k.t2).pitch + 4 * n) 4)) := by
  intro A B
  unfold State.cellAfter State.mmaCell
  rw [if_neg (by omega), if_neg (by omega), State.aRows_getD hp hf hm, List.map_map, List.map_map]
  exact dotBlocks_map _ _ _ _ _ _

/-- A cell of an INT8 product (R209). -/
theorem State.cellAfter_int (h : k.afmt = 7) :
    let A := fun (j : Nat) => leNat ((s.core k.core).spad.readN
      ((k.tile k.t1).at_ m k.acol + j * fmtBytes (k.tile k.t1).fmt) (fmtBytes (k.tile k.t1).fmt))
    let B := fun (j : Nat) => leNat ((s.cluster (clusterOf k.core)).wb.readN
      (k.wbofs + j * k.bpitch + n * fmtBytes k.bfmt) (fmtBytes k.bfmt))
    s.cellAfter k m n = residueAdd
      (leNat ((s.core k.core).acc.readN ((k.tile k.t2).base + m * (k.tile k.t2).pitch + 4 * n) 4))
      (((upto 0 k.kk).map (fun j => signed 8 (A j) * signed 8 (B j))).foldl (· + ·) 0) := by
  intro A B
  unfold State.cellAfter State.mmaCell dotInt
  rw [if_pos h, State.aRows_getD hp hf hm, zipWith_map_upto]

end

/-- `mma` (R177, R178, R207 to R209). -/
theorem arrayResults_mma (s : State) (k : Cmd) (done m n : Nat) :
    let a := k.tile k.t1
    let t := k.tile k.t2
    let c := s.core k.core
    let q := s.cluster (clusterOf k.core)
    let w := fmtBytes a.fmt
    let v := fmtBytes k.bfmt
    let u := s.mma k done
    let A := fun (j : Nat) => leNat (c.spad.readN (a.at_ m k.acol + j * w) w)
    let B := fun (j : Nat) => leNat (q.wb.readN (k.wbofs + j * k.bpitch + n * v) v)
    let cell := fun (x : State) => leNat ((x.core k.core).acc.readN (t.base + m * t.pitch + 4 * n) 4)
    let prods := (upto 0 k.kk).map (fun j => FV.mul ((elemFmt k.afmt).val (A j)) ((elemFmt k.bfmt).val (B j)))
    let sum := fun (g size : Nat) => FV.sum .rne ((prods.drop (size * g)).take size)
    let add := fun (x : Nat) (v : FV) => fp32.ofVal .rne 0 (FV.add .rne (fp32.val x) (fp32.val (fp32.ofVal .rne 0 v)))
    let total := ((upto 0 k.kk).map (fun j => signed 8 (A j) * signed 8 (B j))).foldl (· + ·) 0
    c.packed = [] → q.wbPacked = [] → c.badAcc = [] → a.fmt < 12 → k.bfmt < 12 → done ≤ a.rows → 4 * k.nn ≤ t.pitch →
    (m < done → n < k.nn →
      (k.afmt = 1 ∨ k.afmt = 2 →
        cell u = (upto 0 (ceilDiv k.kk 8)).foldl (fun x g => add x (sum g 8)) (cell s) % 2 ^ 32) ∧
        (3 ≤ k.afmt → k.afmt ≤ 6 → cell u = (upto 0 (ceilDiv k.kk 32)).foldl (fun x g =>
          add x (scaleSum (sum g 32) (s.aScale k m g) (s.bScale k n g))) (cell s) % 2 ^ 32) ∧
        (k.afmt = 7 → cell u = ((((cell s / 65536 % 512 : Nat) : Int) + total) % 257).toNat * 65536 +
          ((((cell s / 256 % 256 : Nat) : Int) + total) % 256).toNat * 256 + ((((cell s % 256 : Nat) : Int) + total) % 255).toNat)) ∧
      (∀ g, (k.afmt = 3 ∨ k.afmt = 4 → s.aScale k m g = 127) ∧ (k.bfmt = 3 ∨ k.bfmt = 4 → s.bScale k n g = 127) ∧
        (k.bfmt = 5 ∨ k.bfmt = 6 → s.bScale k n g = (q.wb.read (k.bsc + n * (k.kk / 32) + g)).toNat) ∧
        (k.afmt = 5 ∨ k.afmt = 6 → (k.scn ≤ m * (k.kk / 32) + g → s.aScale k m g = 0xFF) ∧
          ∀ d off, m * (k.kk / 32) + g < k.scn → spadAt k.core (windowBase + k.asc) = some (d, off) →
            s.aScale k m g = ((s.core d).spad.read (off + (m * (k.kk / 32) + g))).toNat)) ∧
      (∀ b, (∀ r, r < done → b < t.base + r * t.pitch ∨ t.base + r * t.pitch + 4 * k.nn ≤ b) →
        (u.core k.core).acc.read b = c.acc.read b) ∧
      (∀ x, x ≠ k.core → u.core x = s.core x) ∧ (u.core k.core).spad = c.spad ∧ u.mem = s.mem ∧ u.clusters = s.clusters := by
  intro a t c q w v u A B cell prods sum add total hp hq hb ha hf hd hpitch
  have h := State.accOnly_mma (s := s) hb hq hf done
  refine ⟨fun hm hn => ⟨fun h12 => ?_, fun h3 h6 => ?_, fun h7 => ?_⟩, s.scales_mma k m n, fun b hout => State.mma_outside hb hq hf hout,
    h.other, h.spad, h.mem, h.clusters⟩
  · refine (State.mma_cell hb hq hf hpitch hm hn).trans ?_
    rw [State.cellAfter_dense hp ha (Nat.lt_of_lt_of_le hm hd) h12]
    rfl
  · refine (State.mma_cell hb hq hf hpitch hm hn).trans ?_
    rw [State.cellAfter_blocks hp ha (Nat.lt_of_lt_of_le hm hd) h3 h6]
    rfl
  · refine (State.mma_cell hb hq hf hpitch hm hn).trans ?_
    rw [State.cellAfter_int hp ha (Nat.lt_of_lt_of_le hm hd) h7, Nat.mod_eq_of_lt (residueAdd_lt _ _)]
    rfl


/-! ## `mmas` (R179, R219) -/

theorem Memory.toNat_lane (m : Memory) (a : Nat) : (m.lane a).toNat = leNat (m.readN a 4) := by
  have h : leNat (m.readN a 4) < 2 ^ 32 := by simpa using leNat_lt (m.readN a 4)
  unfold Memory.lane
  rw [BitVec.toNat_ofNat, Nat.mod_eq_of_lt h]

/-- A fold of pairs, part by part. -/
theorem foldl_pair {α β γ : Type} (f : β → α → β) (g : γ → α → γ) (l : List α) (c : β × γ) :
    l.foldl (fun c a => (f c.1 a, g c.2 a)) c = (l.foldl f c.1, l.foldl g c.2) := by
  induction l generalizing c with
  | nil => rfl
  | cons a l ih => exact ih _

/-- One part of a packed element accumulates its products, in groups of 8 (R219). -/
def partSum (terms : Cx × Cx → List FV) (pairs : List (Cx × Cx)) (c : Nat) : Nat :=
  (upto 0 (ceilDiv pairs.length 8)).foldl (fun x n => accumulate x (FV.sum .rne (((pairs.drop (8 * n)).take 8).flatMap terms))) c

theorem binSum_eq (j : Nat) (c : Nat × Nat) (pairs : List (Cx × Cx)) :
    binSum j c pairs = (partSum (fun p => (binTerms j p.1 p.2).1) pairs c.1, partSum (fun p => (binTerms j p.1 p.2).2) pairs c.2) := by
  unfold binSum partSum
  rw [pieces_eq (by decide), List.foldl_map]
  simp only [List.flatMap_map]
  rw [← foldl_pair]

/-- An element of a row after an `mmas`. -/
def State.binAfter (s : State) (k : Cmd) (r col : Nat) : Nat × Nat :=
  let h := k.wbsz / 2
  let acc := (s.core k.core).acc
  binSum (col % h) ((acc.lane ((k.tile k.t2).at_ r col)).toNat, (acc.lane ((k.tile k.t2).at_ r col + 4)).toNat)
    (s.binPairs k r (col / h) (col % h))

/-- The bytes of an element. -/
def binBytes (v : Nat × Nat) : List Byte := leBytes 4 v.1 ++ leBytes 4 v.2

theorem length_binBytes (v : Nat × Nat) : (binBytes v).length = 8 := by
  unfold binBytes
  rw [List.length_append, length_leBytes, length_leBytes]

theorem State.binRow_eq (s : State) (k : Cmd) (r : Nat) :
    s.binRow k r = (upto 0 (k.tile k.t2).cols).flatMap (fun col => binBytes (s.binAfter k r col)) := rfl

theorem State.length_binRow (s : State) (k : Cmd) (r : Nat) : (s.binRow k r).length = 8 * (k.tile k.t2).cols := by
  rw [State.binRow_eq, List.length_flatMap, upto_zero_eq_range]
  simp [length_binBytes, Nat.mul_comm]

theorem getD_upto {j n : Nat} (h : j < n) : (upto 0 n).getD j 0 = j := by
  have := getD_map_upto id h 0
  rwa [List.map_id] at this

/-- A part of an element of a row. -/
theorem State.take_drop_binRow {s : State} {k : Cmd} {r col : Nat} (h : col < (k.tile k.t2).cols) :
    ((s.binRow k r).drop (8 * col)).take 4 = leBytes 4 (s.binAfter k r col).1 ∧
      ((s.binRow k r).drop (8 * col + 4)).take 4 = leBytes 4 (s.binAfter k r col).2 := by
  have hlen : col < (upto 0 (k.tile k.t2).cols).length := by rwa [upto_eq_range', List.length_range']
  have h8 : ((s.binRow k r).drop (8 * col)).take 8 = binBytes (s.binAfter k r col) := by
    rw [State.binRow_eq, take_drop_flatMap (fun _ => length_binBytes _) hlen 0, getD_upto h]
  constructor
  · have := congrArg (List.take 4) h8
    rwa [List.take_take, binBytes, List.take_left' (length_leBytes 4 _)] at this
  · have := congrArg (List.drop 4) h8
    rwa [List.drop_take, List.drop_drop, binBytes, List.drop_left' (length_leBytes 4 _)] at this

theorem State.accOnly_mmas {s : State} {k : Cmd} (hb : (s.core k.core).badAcc = []) (done : Nat) :
    s.AccOnly (s.mmas k done) k.core
      ((s.core k.core).acc.writeRows (k.tile k.t2).base (k.tile k.t2).pitch (s.binRow k) done) :=
  State.accOnly_rows hb _ _ _ _

section
variable {s : State} {k : Cmd} {done r col : Nat} (hb : (s.core k.core).badAcc = [])
  (hpitch : 8 * (k.tile k.t2).cols ≤ (k.tile k.t2).pitch) (hr : r < done) (hc : col < (k.tile k.t2).cols)
include hb hpitch hr hc

/-- A part of an element of the rows done. -/
theorem State.mmas_part {i v : Nat} (hi : i ≤ 1) (hv : ((s.binRow k r).drop (8 * col + 4 * i)).take 4 = leBytes 4 v) :
    leNat (((s.mmas k done).core k.core).acc.readN ((k.tile k.t2).base + r * (k.tile k.t2).pitch + 8 * col + 4 * i) 4) =
      v % 2 ^ 32 := by
  rw [(State.accOnly_mmas hb done).acc, Nat.add_assoc _ (8 * col),
    Memory.readN_writeRows hr (fun r _ => by rwa [State.length_binRow]) (by rw [State.length_binRow]; omega), hv, leNat_leBytes]
  rfl

/-- An element of the rows done: each part by its terms. -/
theorem State.mmas_element (hf : (k.tile k.t2).fmt = 10) :
    let h := k.wbsz / 2
    let part := fun (x : State) (i : Nat) => leNat ((x.core k.core).acc.readN
      ((k.tile k.t2).base + r * (k.tile k.t2).pitch + 8 * col + 4 * i) 4)
    part (s.mmas k done) 0 =
        partSum (fun p => (binTerms (col % h) p.1 p.2).1) (s.binPairs k r (col / h) (col % h)) (part s 0) % 2 ^ 32 ∧
      part (s.mmas k done) 1 =
        partSum (fun p => (binTerms (col % h) p.1 p.2).2) (s.binPairs k r (col / h) (col % h)) (part s 1) % 2 ^ 32 := by
  intro h part
  have hat : (k.tile k.t2).at_ r col = (k.tile k.t2).base + r * (k.tile k.t2).pitch + 8 * col := by
    unfold Tile.at_
    rw [hf, Nat.mul_comm 8 col]
    rfl
  have hafter : s.binAfter k r col = binSum (col % h) (part s 0, part s 1) (s.binPairs k r (col / h) (col % h)) := by
    unfold State.binAfter
    simp only [Memory.toNat_lane, hat]
    rfl
  obtain ⟨h0, h1⟩ := State.take_drop_binRow (s := s) (r := r) hc
  rw [hafter, binSum_eq] at h0 h1
  exact ⟨State.mmas_part hb hpitch hr hc (by decide) h0, State.mmas_part hb hpitch hr hc (by decide) h1⟩

end

/-- `mmas` (R179, R219). -/
theorem arrayResults_mmas (s : State) (k : Cmd) (done r col : Nat) :
    let a := k.tile k.t1
    let g := k.tile k.t3
    let t := k.tile k.t2
    let c := s.core k.core
    let h := k.wbsz / 2
    let blk := col / h
    let j := col % h
    let u := s.mmas k done
    let cb := fun (v : Nat) => (bf16.val (v % 65536), bf16.val (v / 65536))
    let X := fun (x : Tile) (row col : Nat) => cb (leNat (c.spad.readN (x.at_ row col) 4))
    let W := fun (p q : Nat) => cb (leNat ((s.cluster (clusterOf k.core)).wb.readN (k.wbofs + (p * k.qq + q) * 2 * k.wbsz + 4 * j) 4))
    let conj := fun (v : FV × FV) => if j = 0 then v else (v.1, v.2.negate)
    let pairs := match k.mode with
      | 0 => (upto 0 k.qq).map (fun q => (W blk q, X a r (q * h + j)))
      | 1 => (upto 0 k.pp).map (fun p => (conj (W p blk), X a r (p * h + j)))
      | _ => (upto 0 a.rows).map (fun i => (X g i (r * h + j), conj (X a i (blk * h + j))))
    let re := fun (p : (FV × FV) × (FV × FV)) =>
      if j = 0 then [FV.mul p.1.1 p.2.1] else [FV.mul p.1.1 p.2.1, (FV.mul p.1.2 p.2.2).negate]
    let im := fun (p : (FV × FV) × (FV × FV)) =>
      if j = 0 then [FV.mul p.1.2 p.2.2] else [FV.mul p.1.1 p.2.2, FV.mul p.1.2 p.2.1]
    let add := fun (x : Nat) (v : FV) => fp32.ofVal .rne 0 (FV.add .rne (fp32.val x) (fp32.val (fp32.ofVal .rne 0 v)))
    let part := fun (x : State) (i : Nat) => leNat ((x.core k.core).acc.readN (t.base + r * t.pitch + 8 * col + 4 * i) 4)
    let go := fun (terms : (FV × FV) × (FV × FV) → List FV) (i : Nat) =>
      (upto 0 (ceilDiv pairs.length 8)).foldl (fun x n => add x (FV.sum .rne (((pairs.drop (8 * n)).take 8).flatMap terms))) (part s i) %
        2 ^ 32
    c.packed = [] → (s.cluster (clusterOf k.core)).wbPacked = [] → c.badAcc = [] → t.fmt = 10 → 8 * t.cols ≤ t.pitch →
    (r < done → col < t.cols → part u 0 = go re 0 ∧ part u 1 = go im 1) ∧
      (∀ b, (∀ i, i < done → b < t.base + i * t.pitch ∨ t.base + i * t.pitch + 8 * t.cols ≤ b) →
        (u.core k.core).acc.read b = c.acc.read b) ∧
      (∀ x, x ≠ k.core → u.core x = s.core x) ∧ (u.core k.core).spad = c.spad ∧ u.mem = s.mem ∧ u.clusters = s.clusters := by
  intro a g t c h blk j u cb X W conj pairs re im add part go hp hq hb hf hpitch
  have hacc := State.accOnly_mmas hb done
  have hpairs : s.binPairs k r blk j = pairs := by
    unfold State.binPairs State.weightOf State.binOf
    simp only [show (s.core k.core).packed = [] from hp, hq, expandN_nil]
    rfl
  have hre : (fun p : Cx × Cx => (binTerms j p.1 p.2).1) = re := by
    funext p
    exact apply_ite Prod.fst _ _ _
  have him : (fun p : Cx × Cx => (binTerms j p.1 p.2).2) = im := by
    funext p
    exact apply_ite Prod.snd _ _ _
  refine ⟨fun hr hc => ?_, fun b hout => ?_, hacc.other, hacc.spad, hacc.mem, hacc.clusters⟩
  · obtain ⟨e0, e1⟩ := State.mmas_element hb hpitch hr hc hf
    refine ⟨e0.trans ?_, e1.trans ?_⟩
    · show partSum _ (s.binPairs k r blk j) (part s 0) % _ = _
      rw [hpairs]
      exact congrArg (fun f => partSum f pairs (part s 0) % 2 ^ 32) hre
    · show partSum _ (s.binPairs k r blk j) (part s 1) % _ = _
      rw [hpairs]
      exact congrArg (fun f => partSum f pairs (part s 1) % 2 ^ 32) him
  · rw [hacc.acc]
    exact Memory.read_writeRows_outside fun i hi => by rw [State.length_binRow]; exact hout i hi


/-! ## Work that changes the accumulator store and the scratchpad of one core -/

/-- The two stores of a core, without flaws, are as given, and the other memories are as they were. -/
structure State.CoreOnly (s u : State) (core : Nat) (acc spad : Memory) : Prop where
  acc : (u.core core).acc = acc
  spad : (u.core core).spad = spad
  badAcc : (u.core core).badAcc = []
  badSpad : (u.core core).badSpad = []
  other : ∀ n, n ≠ core → (u.core n).spad = (s.core n).spad ∧ (u.core n).acc = (s.core n).acc
  mem : u.mem = s.mem
  clusters : u.clusters = s.clusters

section
variable {s u : State} {core : Nat} {acc spad : Memory} (h : s.CoreOnly u core acc spad)
include h

theorem State.CoreOnly.accWrite (off : Nat) (v : List Byte) : s.CoreOnly (u.accWrite core off v) core (acc.writeN off v) spad := by
  rw [State.accWrite_clean h.badAcc]
  refine ⟨?_, ?_, ?_, ?_, fun n hn => ?_, h.mem, h.clusters⟩
  · rw [State.core_setCore_same, ← h.acc]
  · rw [State.core_setCore_same]; exact h.spad
  · rw [State.core_setCore_same]
  · rw [State.core_setCore_same]; exact h.badSpad
  · rw [State.core_setCore_other u hn]; exact h.other n hn

/-- A change that leaves the stores of every core and their flaws. -/
theorem State.CoreOnly.then {w : State} (hw : u.SameStores w)
    (hb : (w.core core).badAcc = (u.core core).badAcc ∧ (w.core core).badSpad = (u.core core).badSpad) :
    s.CoreOnly w core acc spad :=
  ⟨(hw.core core).2.1.trans h.acc, (hw.core core).1.trans h.spad, hb.1.trans h.badAcc, hb.2.trans h.badSpad,
    fun n hn => ⟨(hw.core n).1.trans (h.other n hn).1, (hw.core n).2.1.trans (h.other n hn).2⟩, hw.mem.trans h.mem,
    hw.clusters.trans h.clusters⟩

theorem State.CoreOnly.modCtx (f : Ctx → Ctx) : s.CoreOnly (u.modCtx core f) core acc spad :=
  h.then (u.sameStores_modCtx core f) (by rw [State.core_modCtx_same]; exact ⟨rfl, rfl⟩)

theorem State.CoreOnly.spadStore (off : Nat) (v : List Byte) :
    s.CoreOnly (u.spadStore core off v) core acc (spad.writeN off v) := by
  unfold State.spadStore State.sramFetched dropFlaws
  simp only [h.badSpad, ne_eq, not_true, false_and, if_false, if_true]
  refine ⟨?_, ?_, ?_, ?_, fun n hn => ?_, h.mem, h.clusters⟩
  · rw [State.core_setCore_same]; exact h.acc
  · rw [State.core_setCore_same, ← h.spad]
  · rw [State.core_setCore_same]; exact h.badAcc
  · rw [State.core_setCore_same]
  · rw [State.core_setCore_other u hn]; exact h.other n hn

end

/-- What tells the waiting contexts of a write leaves the flaws. -/
theorem State.bad_tellWaiters (s : State) (core off n : Nat) (pair : Option (Nat × Nat)) (c : Nat) :
    ((s.tellWaiters core off n pair).core c).badAcc = (s.core c).badAcc ∧
      ((s.tellWaiters core off n pair).core c).badSpad = (s.core c).badSpad := by
  refine List.foldlRecOn (motive := fun (t : State) => (t.core c).badAcc = (s.core c).badAcc ∧ (t.core c).badSpad = (s.core c).badSpad) _ _
    ⟨rfl, rfl⟩ fun t ht k _ => ?_
  dsimp only at ht ⊢
  by_cases hk : c = k
  · subst hk
    rw [State.core_modCore_same]
    exact ht
  · rw [State.core_modCore_other t hk]
    exact ht

theorem State.CoreOnly.spadWrite {s u : State} {core : Nat} {acc spad : Memory} (h : s.CoreOnly u core acc spad) (off : Nat)
    (v : List Byte) : s.CoreOnly (u.spadWrite core off v) core acc (spad.writeN off v) :=
  (h.spadStore off v).then (State.sameStores_tellWaiters _ _ _ _ _) (State.bad_tellWaiters _ _ _ _ _ _)

theorem State.CoreOnly.refl {s : State} {core : Nat} (ha : (s.core core).badAcc = []) (hs : (s.core core).badSpad = []) :
    s.CoreOnly s core (s.core core).acc (s.core core).spad :=
  ⟨rfl, rfl, ha, hs, fun _ _ => ⟨rfl, rfl⟩, rfl, rfl⟩

/-! ## `drain` (R181, R206, R210, R213) -/

/-- Cell e of row i of the accumulator tile. -/
def State.drainCell (s : State) (k : Cmd) (i e : Nat) : Nat :=
  leNat ((s.core k.core).acc.readN ((k.tile k.t2).base + i * (k.tile k.t2).pitch + 4 * e) 4)

/-- A part of the tile as a value, scaled. -/
def State.drainVal (s : State) (k : Cmd) (i e : Nat) : FV :=
  (if (k.tile k.t2).fmt = 11 then FV.num (recombine (s.drainCell k i e) < 0) (recombine (s.drainCell k i e)).natAbs 0
    else fp32.val (s.drainCell k i e)).scale k.oexp

/-- The output of a part. -/
def State.drainOut (s : State) (k : Cmd) (i e : Nat) : Nat :=
  (k.drainPart (i * ((k.tile k.t2).rowBytes / 4) + e) 127 (s.drainVal k i e)).1

/-- The bytes of a row of the output. -/
def State.drainBytes (s : State) (k : Cmd) (i : Nat) : List Byte :=
  ((upto 0 ((k.tile k.t2).rowBytes / 4)).map (s.drainOut k i)).flatMap (leBytes k.partBytes)

theorem State.length_drainBytes (s : State) (k : Cmd) (i : Nat) : (s.drainBytes k i).length = (k.tile k.t2).rowBytes / 4 * k.partBytes := by
  unfold State.drainBytes
  rw [List.length_flatMap, List.map_map, upto_zero_eq_range]
  simp [Function.comp_def, length_leBytes]

section
variable {s : State} {k : Cmd} (h4 : (k.tile k.t2).rowBytes % 4 = 0)
include h4

theorem State.drainParts_scaled (i : Nat) : (s.drainParts k i).map (FV.scale k.oexp) =
    (upto 0 ((k.tile k.t2).rowBytes / 4)).map (s.drainVal k i) := by
  have hn : (k.tile k.t2).rowBytes = (k.tile k.t2).rowBytes / 4 * 4 := by omega
  unfold State.drainParts
  dsimp only
  rw [hn, numbers_readN _ _ (by decide), List.map_map, List.map_map, ← hn]
  refine List.map_congr_left fun e _ => ?_
  simp only [Function.comp_apply, Nat.mul_comm e 4]
  rfl

/-- A row of a `drain` without scales. -/
theorem State.drainRow_bytes (hs : k.outScaled = false) (i : Nat) : (s.drainRow k i).1 = s.drainBytes k i := by
  unfold State.drainRow State.drainBytes
  simp only [State.drainParts_scaled h4, hs, Bool.false_eq_true, if_false, length_map_upto, zip_upto_map, List.map_map,
    List.flatMap_map]
  rfl

end

/-- Rows of zeros, when the accumulator tile is cleared. -/
def State.drainedAcc (s : State) (k : Cmd) (done : Nat) : Memory :=
  if bitAt k.w0 34 then (s.core k.core).acc.writeRows (k.tile k.t2).base (k.tile k.t2).pitch
    (fun _ => List.replicate (k.tile k.t2).rowBytes 0) done
  else (s.core k.core).acc

section
variable {s : State} {k : Cmd} (h4 : (k.tile k.t2).rowBytes % 4 = 0) (hs : k.outScaled = false) (hc : k.cmp = false)
  (hba : (s.core k.core).badAcc = []) (hbs : (s.core k.core).badSpad = [])
include h4 hs hc

/-- One row of a `drain`. -/
theorem State.drainStep_eq (p : State × Nat) (i : Nat) : (s.drainStep k p i).1 =
    State.spadWrite (if bitAt k.w0 34 then p.1.accWrite k.core ((k.tile k.t2).base + i * (k.tile k.t2).pitch)
      (List.replicate (k.tile k.t2).rowBytes 0) else p.1) k.core ((k.tile k.t1).base + i * (k.tile k.t1).pitch) (s.drainBytes k i) := by
  unfold State.drainStep State.drainWrite
  simp only [hs, hc, Bool.false_eq_true, if_false, State.drainRow_bytes h4 hs]

include hba hbs

theorem State.coreOnly_drainRows (done : Nat) : s.CoreOnly ((upto 0 done).foldl (s.drainStep k) (s, 0)).1 k.core
    (s.drainedAcc k done) ((s.core k.core).spad.writeRows (k.tile k.t1).base (k.tile k.t1).pitch (s.drainBytes k) done) := by
  induction done with
  | zero =>
    have h0 : s.drainedAcc k 0 = (s.core k.core).acc := ite_self _
    rw [h0]
    exact .refl hba hbs
  | succ done ih =>
    rw [upto_succ, List.foldl_append, Memory.writeRows_succ, Nat.zero_add]
    show s.CoreOnly (s.drainStep k _ done).1 _ _ _
    rw [State.drainStep_eq h4 hs hc]
    refine State.CoreOnly.spadWrite ?_ _ _
    unfold State.drainedAcc at ih ⊢
    by_cases hclr : bitAt k.w0 34 = true
    · rw [if_pos hclr] at ih ⊢
      rw [if_pos hclr, Memory.writeRows_succ]
      exact ih.accWrite _ _
    · rw [if_neg hclr] at ih ⊢
      rw [if_neg hclr]
      exact ih

theorem State.coreOnly_drain (done : Nat) : s.CoreOnly (s.drain k done) k.core (s.drainedAcc k done)
    ((s.core k.core).spad.writeRows (k.tile k.t1).base (k.tile k.t1).pitch (s.drainBytes k) done) := by
  unfold State.drain
  exact (State.coreOnly_drainRows h4 hs hc hba hbs done).modCtx _

end

/-- The channels of an integer in an empty cell (R199). -/
theorem residueAdd_zero (x : Int) : residueAdd 0 x = (x % 257).toNat * 65536 + (x % 256).toNat * 256 + (x % 255).toNat := by
  unfold residueAdd
  simp

/-- The fields of a residue cell. -/
theorem residue_fields {a b c : Nat} (ha : a < 255) (hb : b < 256) (hc : c < 257) :
    (c * 65536 + b * 256 + a) % 256 % 255 = a ∧ (c * 65536 + b * 256 + a) / 256 % 256 = b ∧
      (c * 65536 + b * 256 + a) / 65536 % 512 % 257 = c := by
  refine ⟨?_, ?_, ?_⟩
  · rw [show (c * 65536 + b * 256 + a) % 256 = a by omega, Nat.mod_eq_of_lt ha]
  · rw [show (c * 65536 + b * 256 + a) / 256 = c * 256 + b by omega]
    omega
  · rw [show (c * 65536 + b * 256 + a) / 65536 = c by omega]
    omega

/-- The Chinese remainder theorem for the three channels: their weighted sum is the integer, modulo their product. -/
theorem residue_sum (x : Int) : ((x % 255) * 65792 * 128 + (x % 256) * 65535 * 255 + (x % 257) * 65280 * 129) % 16776960 =
    x % 16776960 := by
  have h : (x % 255) * 65792 * 128 + (x % 256) * 65535 * 255 + (x % 257) * 65280 * 129 =
      x + 16776960 * (2 * x - (128 * (x / 255) + 255 * (x / 256) + 129 * (x / 257))) := by
    rw [Int.emod_def, Int.emod_def, Int.emod_def]
    ring
  rw [h, Int.add_mul_emod_self_left]

/-- The weighted sum of the channels as a natural number. -/
theorem residue_sum_toNat (x : Int) :
    ((x % 255).toNat * 65792 * 128 + (x % 256).toNat * 65535 * 255 + (x % 257).toNat * 65280 * 129) % 16776960 =
      (x % 16776960).toNat := by
  have h255 : ((x % 255).toNat : Int) = x % 255 := Int.toNat_of_nonneg (Int.emod_nonneg x (by decide))
  have h256 : ((x % 256).toNat : Int) = x % 256 := Int.toNat_of_nonneg (Int.emod_nonneg x (by decide))
  have h257 : ((x % 257).toNat : Int) = x % 257 := Int.toNat_of_nonneg (Int.emod_nonneg x (by decide))
  have h := residue_sum x
  rw [← h255, ← h256, ← h257] at h
  generalize (x % 255).toNat = a at h ⊢
  generalize (x % 256).toNat = b at h ⊢
  generalize (x % 257).toNat = c at h ⊢
  omega

/-- A residue below the product of the channels as the signed integer of their range. -/
theorem centred_residue {x : Int} (h1 : -8388480 ≤ x) (h2 : x < 8388480) :
    (if 8388480 ≤ (x % 16776960).toNat then ((x % 16776960).toNat : Int) - 16776960 else (x % 16776960).toNat) = x := by
  split <;> omega

/-- The residue channels of an integer within their range give it back (R199, R210). -/
theorem recombine_residueAdd {x : Int} (h1 : -8388480 ≤ x) (h2 : x < 8388480) : recombine (residueAdd 0 x) = x := by
  obtain ⟨ha, hb, hc⟩ := residue_fields (a := (x % 255).toNat) (b := (x % 256).toNat) (c := (x % 257).toNat) (by omega) (by omega)
    (by omega)
  unfold recombine
  rw [residueAdd_zero, ha, hb, hc]
  simp only [residue_sum_toNat]
  exact centred_residue h1 h2

/-- A part in a floating-point format (R213). -/
theorem State.drainOut_float {s : State} {k : Cmd} {i e : Nat} (h : k.ofmt = 0 ∨ k.ofmt = 1 ∨ k.ofmt = 2 ∨ k.ofmt = 9) :
    s.drainOut k i e = (elemFmt k.ofmt).ofVal k.ornd (k.random (i * ((k.tile k.t2).rowBytes / 4) + e)) (s.drainVal k i e) := by
  unfold State.drainOut Cmd.drainPart
  obtain h | h | h | h := h <;> rw [h] <;> rfl

/-- A part in INT32 (R213). -/
theorem State.drainOut_int {s : State} {k : Cmd} {i e : Nat} (h : k.ofmt = 8) {neg : Bool} {m : Nat} {x : Int}
    (hv : s.drainVal k i e = .num neg m x) :
    s.drainOut k i e = (max (-2 ^ 31) (min (2 ^ 31 - 1)
      (roundInt k.ornd (k.random (i * ((k.tile k.t2).rowBytes / 4) + e)) neg m x)) % 2 ^ 32).toNat := by
  unfold State.drainOut Cmd.drainPart
  rw [h, hv]
  simp only [roundInt32]
  rw [clamp_eq (by decide), min_comm]

/-- `drain` (R181, R206, R210, R213). -/
theorem arrayResults_drain (s : State) (k : Cmd) (done i e : Nat) :
    let o := k.tile k.t1
    let t := k.tile k.t2
    let c := s.core k.core
    let u := s.drain k done
    let parts := t.rowBytes / 4
    let size := if k.ofmt = 9 then 2 else fmtBytes k.ofmt
    let cell := leNat (c.acc.readN (t.base + i * t.pitch + 4 * e) 4)
    let v := (if t.fmt = 11 then FV.num (recombine cell < 0) (recombine cell).natAbs 0 else fp32.val cell).scale k.oexp
    let rnd := if k.ornd = .sr then random16 k.seed k.srseq (i * parts + e) else 0
    let out := leNat ((u.core k.core).spad.readN (o.base + i * o.pitch + e * size) size)
    c.badAcc = [] → c.badSpad = [] → k.cmp = false → t.rowBytes % 4 = 0 → t.rowBytes ≤ t.pitch → parts * size ≤ o.pitch →
    (k.ofmt = 0 ∨ k.ofmt = 1 ∨ k.ofmt = 2 ∨ k.ofmt = 8 ∨ k.ofmt = 9) →
    (i < done → e < parts →
      (k.ofmt ≠ 8 → out = (elemFmt k.ofmt).ofVal k.ornd rnd v % 256 ^ size) ∧
        (k.ofmt = 8 → ∀ neg m x, v = .num neg m x →
          out = (max (-2 ^ 31) (min (2 ^ 31 - 1) (roundInt k.ornd rnd neg m x)) % 2 ^ 32).toNat)) ∧
      (∀ b, i < done → t.base + i * t.pitch ≤ b → b < t.base + i * t.pitch + t.rowBytes →
        (u.core k.core).acc.read b = if bitAt k.w0 34 then 0 else c.acc.read b) ∧
      (∀ b, (∀ r, r < done → b < o.base + r * o.pitch ∨ o.base + r * o.pitch + parts * size ≤ b) →
        (u.core k.core).spad.read b = c.spad.read b) ∧
      (∀ n, n ≠ k.core → (u.core n).spad = (s.core n).spad ∧ (u.core n).acc = (s.core n).acc) ∧ u.mem = s.mem ∧
      u.clusters = s.clusters ∧
      (∀ x : Int, -8388480 ≤ x → x < 8388480 → recombine (residueAdd 0 x) = x) := by
  intro o t c u parts size cell v rnd out hba hbs hc h4 htp hop hofmt
  have hs : k.outScaled = false := by
    unfold Cmd.outScaled
    simp only [Bool.or_eq_false_iff, beq_eq_false_iff_ne]
    omega
  have h := State.coreOnly_drain h4 hs hc hba hbs done
  have hlen : ∀ r, (s.drainBytes k r).length = parts * size := fun r => s.length_drainBytes k r
  have hout : i < done → e < parts → out = s.drainOut k i e % 256 ^ size := by
    intro hi he
    have hle : e * size + size ≤ parts * size := by
      rw [← Nat.succ_mul]
      exact Nat.mul_le_mul_right size he
    show leNat ((u.core k.core).spad.readN _ _) = _
    rw [h.spad, Memory.readN_writeRows hi (fun r _ => by rw [hlen]; exact hop) (by rw [hlen]; exact hle), Nat.mul_comm e size]
    unfold State.drainBytes
    rw [show k.partBytes = size from rfl, take_drop_flatMap (fun _ => length_leBytes _ _) (by rwa [length_map_upto]) 0, getD_map_upto _ he]
    exact leNat_leBytes _ _
  refine ⟨fun hi he => ⟨fun h8 => ?_, fun h8 neg m x hv => ?_⟩, fun b hi h1 h2 => ?_, fun b hb => ?_, h.other, h.mem, h.clusters,
    fun x => recombine_residueAdd⟩
  · rw [hout hi he, State.drainOut_float (by omega)]
    rfl
  · have hsize : size = 4 := by
      show (if k.ofmt = 9 then 2 else fmtBytes k.ofmt) = 4
      rw [h8]; rfl
    rw [hout hi he, State.drainOut_int h8 hv, hsize, Nat.mod_eq_of_lt (by omega)]
    rfl
  · rw [h.acc]
    unfold State.drainedAcc
    by_cases hclr : bitAt k.w0 34 = true
    · rw [if_pos hclr, if_pos hclr]
      exact Memory.read_zeroRows ⟨i, hi, h1, h2⟩
    · rw [if_neg hclr, if_neg hclr]
  · rw [h.spad]
    exact Memory.read_writeRows_outside fun r hr => by rw [hlen]; exact hb r hr

/-- Settles O45: each command writes rows that do not overlap, and a cell is the sum, or the part, of its place in its row. -/
theorem arrayResults : Obligations.ArrayResults := by
  unfold Obligations.ArrayResults
  exact ⟨arrayResults_mzero, arrayResults_mma, arrayResults_mmas, arrayResults_drain⟩

end Sys2Proof.Machine
end

section
/-! PROOF. The transforms, fwd and inv, and what the copy engine moves (O46). -/

namespace Sys2Proof.Machine

/-! ## Numbers in reverse bit order (R216) -/

theorem bitRev_lt (n v : Nat) : bitRev n v < 2 ^ n := by
  induction n generalizing v with
  | zero => exact Nat.one_pos
  | succ n ih =>
    have h := ih (v / 2)
    rw [bitRev, Nat.pow_succ]
    obtain hv | hv := Nat.mod_two_eq_zero_or_one v <;> rw [hv] <;> omega

/-- A number of the first half has an even place. -/
theorem bitRev_even {n v : Nat} (h : v < 2 ^ n) : bitRev (n + 1) v = 2 * bitRev n v := by
  induction n generalizing v with
  | zero =>
    obtain rfl : v = 0 := by omega
    rfl
  | succ n ih =>
    rw [Nat.pow_succ] at h
    rw [bitRev, ih (by omega : v / 2 < 2 ^ n), bitRev, Nat.pow_succ]
    obtain hv | hv := Nat.mod_two_eq_zero_or_one v <;> rw [hv] <;> omega

/-- One of the second half has an odd place. -/
theorem bitRev_odd {n v : Nat} (h : v < 2 ^ n) : bitRev (n + 1) (2 ^ n + v) = 2 * bitRev n v + 1 := by
  induction n generalizing v with
  | zero =>
    obtain rfl : v = 0 := by omega
    rfl
  | succ n ih =>
    rw [Nat.pow_succ] at h ⊢
    have hhalf : (2 ^ n * 2 + v) / 2 = 2 ^ n + v / 2 := by omega
    have hlow : (2 ^ n * 2 + v) % 2 = v % 2 := by omega
    rw [bitRev, hhalf, hlow, ih (by omega : v / 2 < 2 ^ n), bitRev, Nat.pow_succ]
    obtain hv | hv := Nat.mod_two_eq_zero_or_one v <;> rw [hv] <;> omega

/-! ## Pieces of lists one after another -/

theorem pieces_cons {α : Type} {n : Nat} (hn : 0 < n) {g : List α} (hg : g.length = n) (l : List α) :
    pieces n (g ++ l) = g :: pieces n l := by
  have hlen : (g ++ l).length = n + l.length := by rw [List.length_append, hg]
  rw [pieces_eq hn, pieces_eq hn, upto_zero_eq_range, upto_zero_eq_range, hlen, ceilDiv_of_pos hn (by omega), List.range_succ_eq_map,
    Nat.add_sub_cancel_left]
  simp only [List.map_cons, List.map_map, Nat.mul_zero, List.drop_zero, List.take_left' hg]
  refine congrArg _ (List.map_congr_left fun i _ => ?_)
  rw [Function.comp_apply, Nat.mul_succ, Nat.add_comm, ← List.drop_drop, List.drop_left' hg]

theorem pieces_nil {α : Type} (n : Nat) : pieces n ([] : List α) = [] := rfl

/-- A list of whole pieces before another. -/
theorem pieces_append {α : Type} {n : Nat} (hn : 0 < n) {q : Nat} {l : List α} (hl : l.length = q * n) (r : List α) :
    pieces n (l ++ r) = pieces n l ++ pieces n r := by
  induction q generalizing l with
  | zero =>
    obtain rfl : l = [] := List.length_eq_zero_iff.1 (by omega)
    rfl
  | succ q ih =>
    rw [Nat.succ_mul] at hl
    have hg : (l.take n).length = n := by rw [List.length_take]; omega
    have hd : (l.drop n).length = q * n := by rw [List.length_drop]; omega
    have hsplit := List.take_append_drop n l
    rw [← hsplit, List.append_assoc, pieces_cons hn hg, ih hd, pieces_cons hn hg, List.cons_append]

/-- What a map of pieces of one size to pieces of that size does to the length. -/
theorem length_flatMap_pieces {α β : Type} {n : Nat} (hn : 0 < n) {f : List α → List β} (hf : ∀ g, g.length = n → (f g).length = n)
    {q : Nat} {l : List α} (hl : l.length = q * n) : ((pieces n l).flatMap f).length = l.length := by
  induction q generalizing l with
  | zero =>
    obtain rfl : l = [] := List.length_eq_zero_iff.1 (by omega)
    rfl
  | succ q ih =>
    rw [Nat.succ_mul] at hl
    have hg : (l.take n).length = n := by rw [List.length_take]; omega
    have hd : (l.drop n).length = q * n := by rw [List.length_drop]; omega
    have hsplit := List.take_append_drop n l
    rw [← hsplit, pieces_cons hn hg, List.flatMap_cons, List.length_append, List.length_append, ih hd, hf _ hg, hg]

/-! ## Stages (R216) -/

theorem length_butterfly (inverse : Bool) {m : Nat} (hm : m % 2 = 0) {g : List Cx} (hg : g.length = m) :
    (butterfly inverse m g).length = m := by
  unfold butterfly
  simp only [List.length_append, List.length_zipWith, List.length_map, List.length_zip, List.length_take, List.length_drop,
    upto_eq_range', List.length_range', hg]
  omega

/-- The groups of a stage of a list of whole groups. -/
theorem stage_groups {l n m q : Nat} (h : 2 * l = q * (m * 2 ^ (n + 1))) :
    l = q * 2 ^ n * m ∧ 2 * l = q * (2 * m * 2 ^ n) := by
  have h2 : q * (m * 2 ^ (n + 1)) = 2 * (q * 2 ^ n * m) := by ring
  have h3 : q * (2 * m * 2 ^ n) = 2 * (q * 2 ^ n * m) := by ring
  omega

theorem length_stages (inverse : Bool) {n m q : Nat} (hm : 0 < m) (he : m % 2 = 0) {l : List Cx}
    (hl : 2 * l.length = q * (m * 2 ^ n)) : (stages inverse n m l).length = l.length := by
  induction n generalizing m l with
  | zero => rfl
  | succ n ih =>
    obtain ⟨h1, h2⟩ := stage_groups hl
    have hlen := length_flatMap_pieces hm (fun g => length_butterfly inverse he (g := g)) h1
    rw [stages, ih (by omega) (by omega) (by rwa [hlen]), hlen]

/-- The stages of two lists of whole groups, one after another. -/
theorem stages_append (inverse : Bool) {n m q : Nat} (hm : 0 < m) (he : m % 2 = 0) {l : List Cx}
    (hl : 2 * l.length = q * (m * 2 ^ n)) (r : List Cx) :
    stages inverse n m (l ++ r) = stages inverse n m l ++ stages inverse n m r := by
  induction n generalizing m l r with
  | zero => rfl
  | succ n ih =>
    obtain ⟨h1, h2⟩ := stage_groups hl
    have hlen := length_flatMap_pieces hm (fun g => length_butterfly inverse he (g := g)) h1
    rw [stages, pieces_append hm h1, List.flatMap_append, ih (by omega) (by omega) (by rwa [hlen])]
    rfl

/-- The last stage. -/
theorem stages_last (inverse : Bool) (n m : Nat) (z : List Cx) :
    stages inverse (n + 1) m z = (pieces (m * 2 ^ n) (stages inverse n m z)).flatMap (butterfly inverse (m * 2 ^ n)) := by
  induction n generalizing m z with
  | zero => rw [Nat.pow_zero, Nat.mul_one]; rfl
  | succ n ih =>
    rw [stages, ih, show 2 * m * 2 ^ n = m * 2 ^ (n + 1) by ring]
    rfl

/-! ## Transforms -/

/-- An element of a list of values, +0 beyond its end. -/
def cxAt (z : List Cx) (n : Nat) : Cx := z.getD n (.num false 0 0, .num false 0 0)

/-- The values of even number, or those of odd number. -/
def halfOf (z : List Cx) (lg odd : Nat) : List Cx := (upto 0 (2 ^ lg)).map (fun n => cxAt z (2 * n + odd))

theorem transform_eq (inverse : Bool) (lg : Nat) (z : List Cx) :
    transform inverse lg z = stages inverse lg 2 ((upto 0 (2 ^ lg)).map (fun n => cxAt z (bitRev lg n))) := rfl

theorem length_transform (inverse : Bool) (lg : Nat) (z : List Cx) : (transform inverse lg z).length = 2 ^ lg := by
  have hl : 2 * ((upto 0 (2 ^ lg)).map (fun n => cxAt z (bitRev lg n))).length = 1 * (2 * 2 ^ lg) := by
    rw [length_map_upto]; omega
  rw [transform_eq, length_stages inverse (by decide) (by decide) hl, length_map_upto]

/-- The transform of the half: its values in their reverse order. -/
theorem transform_halfOf (inverse : Bool) (lg odd : Nat) (z : List Cx) : transform inverse lg (halfOf z lg odd) =
    stages inverse lg 2 ((upto 0 (2 ^ lg)).map (fun n => cxAt z (2 * bitRev lg n + odd))) := by
  rw [transform_eq]
  refine congrArg _ (List.map_congr_left fun n _ => ?_)
  exact getD_map_upto (fun n => cxAt z (2 * n + odd)) (bitRev_lt lg n) _

theorem upto_append (lo n k : Nat) : upto lo (n + k) = upto lo n ++ upto (lo + n) k := by
  simp only [upto_eq_range', ← List.range'_append, Nat.one_mul]

theorem map_upto_shift {α : Type} (f : Nat → α) (lo n : Nat) : (upto lo n).map f = (upto 0 n).map (fun i => f (lo + i)) := by
  rw [upto_eq_range', List.range'_eq_map_range, List.map_map, upto_zero_eq_range]
  rfl

/-- The values in reverse order: those of even number before those of odd number. -/
theorem reversed_halves (lg : Nat) (z : List Cx) : (upto 0 (2 ^ (lg + 1))).map (fun n => cxAt z (bitRev (lg + 1) n)) =
    (upto 0 (2 ^ lg)).map (fun n => cxAt z (2 * bitRev lg n + 0)) ++
      (upto 0 (2 ^ lg)).map (fun n => cxAt z (2 * bitRev lg n + 1)) := by
  rw [Nat.pow_succ, Nat.mul_two, upto_append, List.map_append, map_upto_shift _ (0 + 2 ^ lg)]
  refine congrArg₂ _ (List.map_congr_left fun n hn => ?_) (List.map_congr_left fun n hn => ?_)
  all_goals
    rw [upto_eq_range', List.mem_range'_1] at hn
  · rw [bitRev_even (by omega)]
    rfl
  · rw [Nat.zero_add, bitRev_odd (by omega)]

/-- A transform is one stage over the transforms of its halves (R216). -/
theorem transform_succ (inverse : Bool) (lg : Nat) (z : List Cx) : transform inverse (lg + 1) z =
    butterfly inverse (2 ^ (lg + 1)) (transform inverse lg (halfOf z lg 0) ++ transform inverse lg (halfOf z lg 1)) := by
  have hm : 2 * 2 ^ lg = 2 ^ (lg + 1) := (Nat.pow_succ').symm
  have hlen : (transform inverse lg (halfOf z lg 0) ++ transform inverse lg (halfOf z lg 1)).length = 2 ^ (lg + 1) := by
    rw [List.length_append, length_transform, length_transform]
    omega
  have hhalf : 2 * ((upto 0 (2 ^ lg)).map (fun n => cxAt z (2 * bitRev lg n + 0))).length = 1 * (2 * 2 ^ lg) := by
    rw [length_map_upto]; omega
  rw [transform_eq, reversed_halves, stages_last, stages_append inverse (by decide) (by decide) hhalf, ← transform_halfOf,
    ← transform_halfOf, hm]
  have hone := pieces_cons (Nat.two_pow_pos (lg + 1)) hlen []
  rw [List.append_nil, pieces_nil] at hone
  rw [hone, List.flatMap_cons, List.flatMap_nil, List.append_nil]

theorem getD_zipWith {α β γ : Type} (f : α → β → γ) {l : List α} {r : List β} {i : Nat} (h1 : i < l.length) (h2 : i < r.length)
    (a : α) (b : β) (c : γ) : (List.zipWith f l r).getD i c = f (l.getD i a) (r.getD i b) := by
  simp [List.getD, h1, h2]

/-- The two outputs of a butterfly. -/
theorem butterfly_getD (inverse : Bool) {h i : Nat} {e o : List Cx} (he : e.length = h) (ho : o.length = h) (hi : i < h) :
    cxAt (butterfly inverse (2 * h) (e ++ o)) i = cxAdd (cxAt e i) (cxMul (twiddle inverse (2 * h) i) (cxAt o i)) ∧
      cxAt (butterfly inverse (2 * h) (e ++ o)) (i + h) =
        cxAdd (cxAt e i) (cxNeg (cxMul (twiddle inverse (2 * h) i) (cxAt o i))) := by
  have ht : ∀ d, ((List.zip (upto 0 h) o).map (fun p => cxMul (twiddle inverse (2 * h) p.1) p.2)).getD i d =
      cxMul (twiddle inverse (2 * h) i) (cxAt o i) := by
    intro d
    rw [List.map_zip_eq_zipWith]
    have := getD_zipWith (fun n v => cxMul (twiddle inverse (2 * h) n) v) (l := upto 0 h) (r := o) (i := i)
      (by rwa [upto_eq_range', List.length_range']) (by rwa [ho]) 0 (.num false 0 0, .num false 0 0) d
    rw [getD_upto hi] at this
    exact this
  have hlen : ((List.zip (upto 0 h) o).map (fun p => cxMul (twiddle inverse (2 * h) p.1) p.2)).length = h := by
    rw [List.length_map, List.length_zip, upto_eq_range', List.length_range', ho, Nat.min_self]
  unfold butterfly cxAt
  rw [Nat.mul_div_cancel_left h (by decide), List.take_left' he, List.drop_left' he]
  dsimp only
  constructor
  · rw [List.getD_append _ _ _ _ (by rw [List.length_zipWith, he, hlen]; omega),
      getD_zipWith cxAdd (by omega) (by omega) (.num false 0 0, .num false 0 0) (.num false 0 0, .num false 0 0), ht]
    rfl
  · rw [List.getD_append_right _ _ _ _ (by rw [List.length_zipWith, he, hlen]; omega), List.length_zipWith, he, hlen, Nat.min_self,
      Nat.add_sub_cancel, getD_zipWith (fun a b => cxAdd a (cxNeg b)) (by omega) (by omega) (.num false 0 0, .num false 0 0)
        (.num false 0 0, .num false 0 0), ht]
    rfl


/-! ## Work that changes the scratchpad of one core -/

/-- The scratchpad of a core, without flaws, is as given, and the other memories are as they were. -/
structure State.SpadOnly (s u : State) (core : Nat) (spad : Memory) : Prop where
  spad : (u.core core).spad = spad
  badSpad : (u.core core).badSpad = []
  other : ∀ n, n ≠ core → (u.core n).spad = (s.core n).spad
  acc : ∀ n, (u.core n).acc = (s.core n).acc
  mem : u.mem = s.mem
  clusters : u.clusters = s.clusters

theorem State.SpadOnly.refl {s : State} {core : Nat} (h : (s.core core).badSpad = []) : s.SpadOnly s core (s.core core).spad :=
  ⟨rfl, h, fun _ _ => rfl, fun _ => rfl, rfl, rfl⟩

/-- A change that leaves the stores of every core and the flaws of this one. -/
theorem State.SpadOnly.then {s u w : State} {core : Nat} {spad : Memory} (h : s.SpadOnly u core spad) (hw : u.SameStores w)
    (hb : (w.core core).badSpad = (u.core core).badSpad) : s.SpadOnly w core spad :=
  ⟨(hw.core core).1.trans h.spad, hb.trans h.badSpad, fun n hn => (hw.core n).1.trans (h.other n hn),
    fun n => (hw.core n).2.1.trans (h.acc n), hw.mem.trans h.mem, hw.clusters.trans h.clusters⟩

theorem State.badSpad_modCtx (s : State) (n : Nat) (f : Ctx → Ctx) (c : Nat) :
    ((s.modCtx n f).core c).badSpad = (s.core c).badSpad := by
  by_cases h : c = n
  · rw [h, State.core_modCtx_same]
  · rw [State.core_modCtx_other s h]

theorem State.SpadOnly.modCtx {s u : State} {core : Nat} {spad : Memory} (h : s.SpadOnly u core spad) (n : Nat) (f : Ctx → Ctx) :
    s.SpadOnly (u.modCtx n f) core spad :=
  h.then (u.sameStores_modCtx n f) (u.badSpad_modCtx n f core)

theorem State.SpadOnly.spadWrite {s u : State} {core : Nat} {spad : Memory} (h : s.SpadOnly u core spad) (off : Nat)
    (v : List Byte) : s.SpadOnly (u.spadWrite core off v) core (spad.writeN off v) := by
  refine State.SpadOnly.then ?_ (State.sameStores_tellWaiters _ _ _ _ _) (State.bad_tellWaiters _ _ _ _ _ _).2
  unfold State.spadStore State.sramFetched dropFlaws
  simp only [h.badSpad, ne_eq, not_true, false_and, if_false, if_true]
  refine ⟨?_, ?_, fun n hn => ?_, fun n => ?_, h.mem, h.clusters⟩
  · rw [State.core_setCore_same, ← h.spad]
  · rw [State.core_setCore_same]
  · rw [State.core_setCore_other u hn]; exact h.other n hn
  · by_cases hn : n = core
    · rw [hn, State.core_setCore_same]; exact h.acc core
    · rw [State.core_setCore_other u hn]; exact h.acc n

/-! ## Rows written to a tile -/

theorem map_getD_upto {α : Type} (l : List α) (d : α) : (upto 0 l.length).map (fun n => l.getD n d) = l := by
  rw [upto_zero_eq_range]
  exact List.ext_getElem (by simp) fun i h1 h2 => by simp [List.getD, h2]

theorem State.spadOnly_writeRows {s : State} {k : Cmd} (h : (s.core k.core).badSpad = []) (rows : List (List Byte)) :
    s.SpadOnly (s.writeRows k rows) k.core ((s.core k.core).spad.writeRows (k.tile k.t2).base (k.tile k.t2).pitch
      (fun r => rows.getD r []) rows.length) := by
  have hzip : List.zip (upto 0 rows.length) rows = (upto 0 rows.length).map (fun r => (r, rows.getD r [])) := by
    conv_lhs => rw [← map_getD_upto rows []]
    rw [length_map_upto, zip_upto_map]
  unfold State.writeRows
  dsimp only
  rw [hzip, List.foldl_map]
  generalize rows.length = done
  induction done with
  | zero => exact .refl h
  | succ done ih =>
    rw [upto_succ, List.foldl_append, Memory.writeRows_succ, Nat.zero_add]
    exact ih.spadWrite _ _

/-- Rows leave the bytes outside them, and the other memories. -/
theorem State.writeRows_frame {s : State} {k : Cmd} (h : (s.core k.core).badSpad = []) (rows : List (List Byte)) :
    let d := k.tile k.t2
    let v := s.writeRows k rows
    (∀ b, (∀ n, n < rows.length → b < d.base + n * d.pitch ∨ d.base + n * d.pitch + (rows.getD n []).length ≤ b) →
      (v.core k.core).spad.read b = (s.core k.core).spad.read b) ∧
      (∀ n, n ≠ k.core → (v.core n).spad = (s.core n).spad) ∧ (∀ n, (v.core n).acc = (s.core n).acc) ∧ v.mem = s.mem ∧
      v.clusters = s.clusters := by
  intro d v
  have hw := State.spadOnly_writeRows h rows
  refine ⟨fun b hb => ?_, hw.other, hw.acc, hw.mem, hw.clusters⟩
  rw [hw.spad]
  exact Memory.read_writeRows_outside hb

/-- A run of bytes within a row, when the rows have one length that the pitch holds. -/
theorem State.readN_writeRows {s : State} {k : Cmd} (h : (s.core k.core).badSpad = []) (row : Nat → List Byte) {done r x n l : Nat}
    (hl : ∀ r, (row r).length = l) (hp : l ≤ (k.tile k.t2).pitch) (hr : r < done) (hx : x + n ≤ l) :
    ((s.writeRows k ((upto 0 done).map row)).core k.core).spad.readN
      ((k.tile k.t2).base + r * (k.tile k.t2).pitch + x) n = ((row r).drop x).take n := by
  have hget : ∀ r, r < done → ((upto 0 done).map row).getD r [] = row r := fun r hr => getD_map_upto row hr []
  rw [(State.spadOnly_writeRows h _).spad, length_map_upto,
    Memory.readN_writeRows hr (fun r hr => by rw [hget r hr, hl]; exact hp) (by rw [hget r hr, hl]; exact hx), hget r hr]

/-! ## Blocks of a row -/

theorem take_drop_map_upto {α : Type} (f : Nat → α) {a k n : Nat} (h : a + k ≤ n) :
    (((upto 0 n).map f).drop a).take k = (upto 0 k).map (fun i => f (a + i)) := by
  obtain ⟨j, rfl⟩ : ∃ j, n = a + (k + j) := ⟨n - a - k, by omega⟩
  rw [upto_append, List.map_append, List.drop_left' (length_map_upto f a), upto_append, List.map_append,
    List.take_left' (by rw [List.length_map, upto_eq_range', List.length_range']), map_upto_shift, Nat.zero_add]

/-- The blocks of a list of whole blocks. -/
theorem pieces_map_upto {α : Type} (f : Nat → α) {n q : Nat} (hn : 0 < n) :
    pieces n ((upto 0 (q * n)).map f) = (upto 0 q).map (fun g => (upto 0 n).map (fun i => f (g * n + i))) := by
  rw [pieces_eq hn, length_map_upto, ceilDiv_mul q hn]
  refine List.map_congr_left fun g hg => ?_
  rw [upto_eq_range', List.mem_range'_1] at hg
  have hle : g * n + n ≤ q * n := by
    rw [← Nat.succ_mul]
    exact Nat.mul_le_mul_right n (by omega)
  rw [Nat.mul_comm n g, take_drop_map_upto f hle]

/-- The bytes of a row: its blocks of numbers, one after another. -/
def blockBytes (w : Nat) (F : Nat → List Nat) (q : Nat) : List Byte := (upto 0 q).flatMap (fun g => (F g).flatMap (leBytes w))

section
variable {w h : Nat} {F : Nat → List Nat} (hF : ∀ g, (F g).length = h)
include hF

theorem length_block (g : Nat) : ((F g).flatMap (leBytes w)).length = w * h := by
  rw [List.length_flatMap]
  simp [length_leBytes, hF, Nat.mul_comm]

theorem length_blockBytes (q : Nat) : (blockBytes w F q).length = q * (w * h) := by
  unfold blockBytes
  rw [List.length_flatMap]
  simp [length_block hF, upto_eq_range']

/-- A number of a block of a row. -/
theorem take_drop_blockBytes {q g i : Nat} (hg : g < q) (hi : i < h) :
    ((blockBytes w F q).drop (w * (g * h + i))).take w = leBytes w ((F g).getD i 0) := by
  have hblock : ((blockBytes w F q).drop (w * h * g)).take (w * h) = (F g).flatMap (leBytes w) := by
    unfold blockBytes
    rw [take_drop_flatMap (fun g => length_block hF g) (by rwa [upto_eq_range', List.length_range']) 0, getD_upto hg]
  have hel := take_drop_flatMap (fun v => length_leBytes w v) (v := F g) (j := i) (by rwa [hF]) 0
  have hle : w * i + w ≤ w * h := by
    rw [← Nat.mul_succ]
    exact Nat.mul_le_mul_left w hi
  rw [← hblock, List.drop_take, List.drop_drop, List.take_take, Nat.min_eq_left (by omega)] at hel
  rw [← hel, show w * (g * h + i) = w * h * g + w * i by ring]

end

/-! ## `fwd` (R216) -/

/-- The halves of a block. -/
theorem two_pow_halves {lg : Nat} (h : 1 ≤ lg) : 2 ^ lg = 2 * 2 ^ (lg - 1) := by
  rw [← Nat.pow_succ', Nat.succ_eq_add_one, Nat.sub_add_cancel h]

theorem two_pow_half {lg : Nat} (h : 1 ≤ lg) : 2 ^ lg / 2 = 2 ^ (lg - 1) := by
  rw [two_pow_halves h, Nat.mul_div_cancel_left _ (by decide)]

/-- A BF16 pattern of a magnitude up to infinity fits in 16 bits. -/
theorem bf16_sign_lt (neg : Bool) {m : Nat} (h : m ≤ 32640) : bf16.sign neg m < 65536 := by
  have hsign : bf16.sign neg m = (if neg then 32768 else 0) + m := rfl
  rw [hsign]
  split <;> omega

/-- A number rounded to BF16 fits in 16 bits. -/
theorem bf16_ofVal_lt (v : FV) : bf16.ofVal .rne 0 v < 65536 := by
  cases v with
  | nan => decide
  | inf neg => exact bf16_sign_lt neg (by decide)
  | num neg m e =>
    show bf16.round .rne 0 neg m e false < 65536
    unfold Fmt.round
    by_cases hz : m = 0 ∧ (!false) = true
    · rw [if_pos hz]
      exact bf16_sign_lt neg (by decide)
    · rw [if_neg hz]
      dsimp only
      generalize bf16.roundMag _ _ _ _ _ _ = g
      by_cases hg : bf16.top ≤ g
      · rw [if_pos hg]
        exact bf16_sign_lt neg (by decide)
      · rw [if_neg hg]
        exact bf16_sign_lt neg (Nat.le_of_lt (Nat.not_le.1 hg))

theorem cb16Of_lt (v : Cx) : cb16Of v < 2 ^ 32 := by
  have h1 := bf16_ofVal_lt v.1
  have h2 := bf16_ofVal_lt v.2
  unfold cb16Of
  omega

/-- An element of the packed spectrum: the first holds the first and the last bin (R216). -/
theorem fwdBlock_getD {lg i : Nat} (x : List FV) (hi : i < 2 ^ (lg - 1)) :
    let y := transform false lg (x.map (fun v => (v, zeroFv)))
    (fwdBlock lg x).getD i 0 = cb16Of (if i = 0 then ((cxAt y 0).1, (cxAt y (2 ^ (lg - 1))).1) else cxAt y i) := by
  intro y
  cases i with
  | zero => rfl
  | succ i =>
    rw [if_neg (Nat.succ_ne_zero i)]
    show ((upto 1 (2 ^ (lg - 1) - 1)).map (fun k => cb16Of (cxAt y k))).getD i 0 = _
    rw [map_upto_shift, getD_map_upto _ (by omega), Nat.add_comm 1 i]

theorem length_fwdBlock (lg : Nat) (x : List FV) : (fwdBlock lg x).length = 2 ^ (lg - 1) := by
  have := Nat.two_pow_pos (lg - 1)
  unfold fwdBlock
  simp only [List.length_cons, List.length_map, upto_eq_range', List.length_range']
  omega

/-- The elements of a row of TS. -/
theorem State.tileRow_eq {s : State} {core r : Nat} {t : Tile} (hf : t.fmt < 12) : s.tileRow core t r = (upto 0 t.cols).map
    (fun n => leNat ((s.core core).spad.readN (t.base + r * t.pitch + n * fmtBytes t.fmt) (fmtBytes t.fmt))) := by
  unfold State.tileRow Tile.rowBytes
  exact numbers_readN _ _ (fmtBytes_pos hf) _

/-- Element n of row r of TS. -/
def State.elemAt (s : State) (k : Cmd) (r n : Nat) : Nat :=
  leNat ((s.core k.core).spad.readN ((k.tile k.t1).base + r * (k.tile k.t1).pitch + n * fmtBytes (k.tile k.t1).fmt)
    (fmtBytes (k.tile k.t1).fmt))

/-- The spectrum of a block. -/
def State.fwdOf (s : State) (k : Cmd) (lg r g : Nat) : List Nat :=
  fwdBlock lg ((upto 0 (2 ^ lg)).map (fun n => (elemFmt (k.tile k.t1).fmt).val (s.elemAt k r (g * 2 ^ lg + n))))

section
variable {s : State} {k : Cmd} {lg q : Nat} (hbsz : (k.tile k.t1).bsz = 2 ^ lg) (hf : (k.tile k.t1).fmt < 10)
  (hcols : (k.tile k.t1).cols = q * 2 ^ lg)
include hbsz hf hcols

/-- The rows of a `fwd`. -/
theorem State.fwdRows_eq : s.fwdRows k = (upto 0 (k.tile k.t1).rows).map (fun r => blockBytes 4 (s.fwdOf k lg r) q) := by
  unfold State.fwdRows
  dsimp only
  refine List.map_congr_left fun r _ => ?_
  rw [State.tileRow_eq (by omega), hbsz, List.map_map, hcols, pieces_map_upto _ (Nat.two_pow_pos lg), List.flatMap_map, log2,
    Nat.log2_two_pow]
  rfl

/-- What `fwd` leaves in TD. -/
theorem State.fwd_element (hb : (s.core k.core).badSpad = []) {done r g i : Nat} (hdone : done ≤ (k.tile k.t1).rows) (hr : r < done)
    (hlg : 1 ≤ lg) (hp : 2 * (k.tile k.t1).cols ≤ (k.tile k.t2).pitch) (hg : g < q) (hi : i < 2 ^ (lg - 1)) :
    leNat (((s.writeRows k ((s.fwdRows k).take done)).core k.core).spad.readN
      ((k.tile k.t2).base + r * (k.tile k.t2).pitch + 4 * (g * 2 ^ (lg - 1) + i)) 4) = (s.fwdOf k lg r g).getD i 0 := by
  have hF : ∀ r g, (s.fwdOf k lg r g).length = 2 ^ (lg - 1) := fun r g => length_fwdBlock lg _
  have hpow := two_pow_halves hlg
  have hlen : ∀ r, (blockBytes 4 (s.fwdOf k lg r) q).length = 2 * (k.tile k.t1).cols := fun r => by
    rw [length_blockBytes (hF r), hcols, hpow]; ring
  have htake : (s.fwdRows k).take done = (upto 0 done).map (fun r => blockBytes 4 (s.fwdOf k lg r) q) := by
    rw [State.fwdRows_eq hbsz hf hcols]
    have := take_drop_map_upto (fun r => blockBytes 4 (s.fwdOf k lg r) q) (a := 0) (k := done) (n := (k.tile k.t1).rows) (by omega)
    simpa using this
  have hin : 4 * (g * 2 ^ (lg - 1) + i) + 4 ≤ 2 * (k.tile k.t1).cols := by
    have : (g + 1) * 2 ^ (lg - 1) ≤ q * 2 ^ (lg - 1) := Nat.mul_le_mul_right _ hg
    rw [Nat.succ_mul] at this
    rw [hcols, hpow, show q * (2 * 2 ^ (lg - 1)) = 2 * (q * 2 ^ (lg - 1)) by ring]
    omega
  rw [htake, State.readN_writeRows hb _ hlen hp hr hin, take_drop_blockBytes (hF r) hg hi, leNat_leBytes]
  refine Nat.mod_eq_of_lt ?_
  unfold State.fwdOf
  rw [fwdBlock_getD _ hi]
  exact cb16Of_lt _

end


/-! ## `inv` (R217) -/

/-- The values of a block of bins. -/
def State.invOf (s : State) (k : Cmd) (lg r g : Nat) : List Nat :=
  invBlock lg ((upto 0 (2 ^ (lg - 1))).map (fun n => cb16Val (s.elemAt k r (g * 2 ^ (lg - 1) + n))))

theorem length_invBlock (lg : Nat) (e : List Cx) : (invBlock lg e).length = 2 ^ lg := by
  unfold invBlock
  rw [List.length_map, length_transform]

theorem invBlock_getD {lg i : Nat} (e : List Cx) (hi : i < 2 ^ lg) :
    (invBlock lg e).getD i 0 = bf16.ofVal .rne 0 ((cxAt (transform true lg (unfoldBlock lg e)) i).1.scale (-(lg : Int))) := by
  have hlen : i < (transform true lg (unfoldBlock lg e)).length := by rwa [length_transform]
  unfold invBlock cxAt
  simp [List.getD, hlen]

/-- The unfolded spectrum of a block of bins, bin by bin. -/
theorem unfoldBlock_map {lg : Nat} (hlg : 1 ≤ lg) (el : Nat → Cx) :
    unfoldBlock lg ((upto 0 (2 ^ (lg - 1))).map el) = (upto 0 (2 ^ lg)).map (fun n =>
      if n = 0 then ((el 0).1, zeroFv) else if n = 2 ^ lg / 2 then ((el 0).2, zeroFv)
      else if n < 2 ^ lg / 2 then el n else ((el (2 ^ lg - n)).1, (el (2 ^ lg - n)).2.negate)) := by
  have hpow := two_pow_halves hlg
  have hhalf := two_pow_half hlg
  have hpos := Nat.two_pow_pos (lg - 1)
  unfold unfoldBlock
  rw [hhalf]
  refine List.map_congr_left fun n hn => ?_
  rw [upto_eq_range', List.mem_range'_1] at hn
  dsimp only
  rw [getD_map_upto el hpos]
  by_cases h0 : n = 0
  · rw [if_pos h0, if_pos h0]
  · rw [if_neg h0, if_neg h0]
    by_cases hh : n = 2 ^ (lg - 1)
    · rw [if_pos hh, if_pos hh]
    · rw [if_neg hh, if_neg hh]
      by_cases hl : n < 2 ^ (lg - 1)
      · rw [if_pos hl, if_pos hl, getD_map_upto el hl]
      · rw [if_neg hl, if_neg hl, getD_map_upto el (by omega)]

section
variable {s : State} {k : Cmd} {lg q : Nat} (hbsz : (k.tile k.t1).bsz = 2 ^ lg) (hlg : 1 ≤ lg) (hf : (k.tile k.t1).fmt = 9)
  (hcols : (k.tile k.t1).cols = q * 2 ^ (lg - 1))
include hbsz hlg hf hcols

/-- The rows of an `inv` on whole blocks. -/
theorem State.invRows_eq : s.invRows k = (upto 0 (k.tile k.t1).rows).map (fun r => blockBytes 2 (s.invOf k lg r) q) := by
  have hhalf := two_pow_half hlg
  unfold State.invRows
  dsimp only
  refine List.map_congr_left fun r _ => ?_
  rw [State.tileRow_eq (by omega), hbsz, hhalf, List.map_map, hcols, pieces_map_upto _ (Nat.two_pow_pos (lg - 1)), List.flatMap_map,
    log2, Nat.log2_two_pow]
  simp only [length_map_upto, Nat.lt_irrefl, if_false]
  rfl

/-- What `inv` leaves in TD. -/
theorem State.inv_element (hb : (s.core k.core).badSpad = []) {done r g i : Nat} (hdone : done ≤ (k.tile k.t1).rows) (hr : r < done)
    (hp : 4 * (k.tile k.t1).cols ≤ (k.tile k.t2).pitch) (hg : g < q) (hi : i < 2 ^ lg) :
    leNat (((s.writeRows k ((s.invRows k).take done)).core k.core).spad.readN
      ((k.tile k.t2).base + r * (k.tile k.t2).pitch + 2 * (g * 2 ^ lg + i)) 2) = (s.invOf k lg r g).getD i 0 := by
  have hF : ∀ r g, (s.invOf k lg r g).length = 2 ^ lg := fun r g => length_invBlock lg _
  have hpow := two_pow_halves hlg
  have hrow : 4 * (k.tile k.t1).cols = 2 * (q * 2 ^ lg) := by rw [hcols, hpow]; ring
  have hlen : ∀ r, (blockBytes 2 (s.invOf k lg r) q).length = 4 * (k.tile k.t1).cols := fun r => by
    rw [length_blockBytes (hF r), hrow]; ring
  have htake : (s.invRows k).take done = (upto 0 done).map (fun r => blockBytes 2 (s.invOf k lg r) q) := by
    rw [State.invRows_eq hbsz hlg hf hcols]
    have := take_drop_map_upto (fun r => blockBytes 2 (s.invOf k lg r) q) (a := 0) (k := done) (n := (k.tile k.t1).rows) (by omega)
    simpa using this
  have hin : 2 * (g * 2 ^ lg + i) + 2 ≤ 4 * (k.tile k.t1).cols := by
    have : (g + 1) * 2 ^ lg ≤ q * 2 ^ lg := Nat.mul_le_mul_right _ hg
    rw [Nat.succ_mul] at this
    omega
  rw [htake, State.readN_writeRows hb _ hlen hp hr hin, take_drop_blockBytes (hF r) hg hi, leNat_leBytes]
  refine Nat.mod_eq_of_lt ?_
  unfold State.invOf
  rw [invBlock_getD _ hi]
  exact bf16_ofVal_lt _

end

/-- The transforms, `fwd` and `inv` (R215 to R217). -/
theorem transformResults (s : State) (k : Cmd) (done r blk i lg : Nat) (inverse : Bool) (z : List (FV × FV)) :
    let t := k.tile k.t1
    let d := k.tile k.t2
    let c := s.core k.core
    let w := fmtBytes t.fmt
    let zero := FV.num false 0 0
    let at_ := fun (z : List (FV × FV)) (n : Nat) => z.getD n (zero, zero)
    let rne := fun (v : FV) => fp32.val (fp32.ofVal .rne 0 v)
    let half := fun (odd : Nat) => transform inverse lg ((upto 0 (2 ^ lg)).map (fun n => at_ z (2 * n + odd)))
    let cx := fun (v : FV × FV) => bf16.ofVal .rne 0 v.1 + 65536 * bf16.ofVal .rne 0 v.2
    let x := fun (n : Nat) => leNat (c.spad.readN (t.base + r * t.pitch + n * w) w)
    let f := s.writeRows k ((s.fwdRows k).take done)
    let g := s.writeRows k ((s.invRows k).take done)
    (transform inverse 0 z = [at_ z 0]) ∧
      (z.length = 2 ^ (lg + 1) → i < 2 ^ lg →
        let e := at_ (half 0) i
        let o := at_ (half 1) i
        let tw := twiddle inverse (2 ^ (lg + 1)) i
        let p : FV × FV := (rne (FV.sum .rne [FV.mul tw.1 o.1, (FV.mul tw.2 o.2).negate]),
          rne (FV.sum .rne [FV.mul tw.1 o.2, FV.mul tw.2 o.1]))
        at_ (transform inverse (lg + 1) z) i = (rne (FV.add .rne e.1 p.1), rne (FV.add .rne e.2 p.2)) ∧
          at_ (transform inverse (lg + 1) z) (i + 2 ^ lg) =
            (rne (FV.add .rne e.1 p.1.negate), rne (FV.add .rne e.2 p.2.negate))) ∧
      (c.badSpad = [] → done ≤ t.rows → r < done → 1 ≤ lg → t.bsz = 2 ^ lg → t.fmt < 10 → t.cols % t.bsz = 0 → 2 * t.cols ≤ d.pitch →
        (blk + 1) * t.bsz ≤ t.cols → i < t.bsz / 2 →
        let y := transform false lg ((upto 0 t.bsz).map (fun n => ((elemFmt t.fmt).val (x (blk * t.bsz + n)), zero)))
        leNat ((f.core k.core).spad.readN (d.base + r * d.pitch + 4 * (blk * (t.bsz / 2) + i)) 4) =
          cx (if i = 0 then ((at_ y 0).1, (at_ y (t.bsz / 2)).1) else at_ y i)) ∧
      (c.badSpad = [] → done ≤ t.rows → r < done → 1 ≤ lg → t.bsz = 2 ^ lg → t.fmt = 9 → t.cols % (t.bsz / 2) = 0 → 4 * t.cols ≤ d.pitch →
        (blk + 1) * (t.bsz / 2) ≤ t.cols → i < t.bsz →
        let el := fun (n : Nat) => (bf16.val (x (blk * (t.bsz / 2) + n) % 65536), bf16.val (x (blk * (t.bsz / 2) + n) / 65536))
        let y := transform true lg ((upto 0 t.bsz).map (fun n =>
          if n = 0 then ((el 0).1, zero) else if n = t.bsz / 2 then ((el 0).2, zero)
          else if n < t.bsz / 2 then el n else ((el (t.bsz - n)).1, (el (t.bsz - n)).2.negate)))
        leNat ((g.core k.core).spad.readN (d.base + r * d.pitch + 2 * (blk * t.bsz + i)) 2) =
          bf16.ofVal .rne 0 ((at_ y i).1.scale (-(lg : Int)))) ∧
      (c.badSpad = [] → ∀ rows : List (List Byte), let v := s.writeRows k rows
        (∀ b, (∀ n, n < rows.length → b < d.base + n * d.pitch ∨ d.base + n * d.pitch + (rows.getD n []).length ≤ b) →
          (v.core k.core).spad.read b = c.spad.read b) ∧
          (∀ n, n ≠ k.core → (v.core n).spad = (s.core n).spad) ∧ (∀ n, (v.core n).acc = (s.core n).acc) ∧ v.mem = s.mem ∧
          v.clusters = s.clusters) := by
  intro t d c w zero at_ rne half cx x f g
  refine ⟨rfl, fun _ hi => ?_, fun hb hdone hr hlg hbsz hf hcols hp hblk hi => ?_, fun hb hdone hr hlg hbsz hf hcols hp hblk hi => ?_,
    fun hb rows => State.writeRows_frame hb rows⟩
  · intro e o tw p
    have hbf := butterfly_getD inverse (length_transform inverse lg (halfOf z lg 0)) (length_transform inverse lg (halfOf z lg 1)) hi
    rw [← Nat.pow_succ', ← transform_succ] at hbf
    exact hbf
  · intro y
    have hhalf : t.bsz / 2 = 2 ^ (lg - 1) := by rw [hbsz, two_pow_half hlg]
    have hq : t.cols = t.cols / 2 ^ lg * 2 ^ lg := by
      rw [hbsz] at hcols
      exact (Nat.div_mul_cancel (Nat.dvd_of_mod_eq_zero hcols)).symm
    have hg : blk < t.cols / 2 ^ lg := by
      rw [hbsz, hq] at hblk
      exact Nat.le_of_mul_le_mul_right hblk (Nat.two_pow_pos lg)
    rw [hhalf] at hi ⊢
    refine (State.fwd_element hbsz hf hq hb hdone hr hlg hp hg hi).trans ?_
    have hy : transform false lg (((upto 0 (2 ^ lg)).map (fun n =>
        (elemFmt (k.tile k.t1).fmt).val (s.elemAt k r (blk * 2 ^ lg + n)))).map (fun v => (v, zeroFv))) = y := by
      rw [List.map_map]
      show _ = transform false lg ((upto 0 t.bsz).map (fun n => ((elemFmt t.fmt).val (x (blk * t.bsz + n)), zero)))
      rw [hbsz]
      rfl
    unfold State.fwdOf
    rw [fwdBlock_getD _ hi, hy]
    rfl
  · intro el y
    have hhalf : t.bsz / 2 = 2 ^ (lg - 1) := by rw [hbsz, two_pow_half hlg]
    have hq : t.cols = t.cols / 2 ^ (lg - 1) * 2 ^ (lg - 1) := by
      rw [hhalf] at hcols
      exact (Nat.div_mul_cancel (Nat.dvd_of_mod_eq_zero hcols)).symm
    have hg : blk < t.cols / 2 ^ (lg - 1) := by
      rw [hhalf, hq] at hblk
      exact Nat.le_of_mul_le_mul_right hblk (Nat.two_pow_pos (lg - 1))
    have hy : transform true lg (unfoldBlock lg ((upto 0 (2 ^ (lg - 1))).map (fun n =>
        cb16Val (s.elemAt k r (blk * 2 ^ (lg - 1) + n))))) = y := by
      rw [unfoldBlock_map hlg]
      show _ = transform true lg ((upto 0 t.bsz).map (fun n => _))
      rw [hbsz]
      simp only [el, hhalf]
      rfl
    rw [hbsz] at hi ⊢
    refine (State.inv_element hbsz hlg hf hq hb hdone hr hp hg hi).trans ?_
    unfold State.invOf
    rw [invBlock_getD _ hi, hy]
    rfl


/-! ## The copy engine reads (R182 to R184, R365) -/

theorem Cmd.indexed_iff (k : Cmd) : k.indexed = true ↔ k.op = some .gath ∨ k.op = some .scat := by
  unfold Cmd.indexed
  rw [Bool.or_eq_true, beq_iff_eq, beq_iff_eq]

/-- What the engine reads of a scratchpad: a packed slot that it may take whole, or a sector. -/
theorem State.readElem_spad {s : State} {k : Cmd} {va left c off : Nat} {whole pk : Bool} (h : spadAt k.core va = some (c, off))
    (hpk : (whole && va % 256 == 0 && decide (8 ≤ left) && (s.core c).packed.contains (off / 256)) = pk)
    (hs : (s.core c).spadSound off (if pk then 32 * (packSectors ((s.core c).spad.readN off 8) + 1) else 32) = true) :
    s.readElem k va left whole = .ok (s.spadFetched c off (if pk then 32 * (packSectors ((s.core c).spad.readN off 8) + 1) else 32)) pk
      ((s.core c).spad.readN off (if pk then 32 * (packSectors ((s.core c).spad.readN off 8) + 1) else 32)) := by
  unfold State.readElem
  simp only [h, hpk, hs, if_true]

/-- A packed slot counts eight sectors of its row, and other bytes those that they fill. -/
theorem elemSpan_sectors (pk : Bool) (bs : List Byte) : elemSpan (pk, bs) / 32 = if pk then 8 else bs.length / 32 := by
  cases pk <;> simp [elemSpan]

/-- The state after the read of an index, at the first sector of a row. -/
def State.indexRead (t : State) (k : Cmd) : State :=
  if k.indexed && k.sect == 0 then t.spadFetched k.core (k.indexAt k.row) 4 else t

section
variable {s : State} {k : Cmd} {budget idx : Nat} (hi : s.currentIndex k = .inr idx)
include hi

/-- A row that is not skipped reads on. -/
theorem State.moveOn_read {t : State} {pk : Bool} {bs : List Byte} (hskip : (k.indexed && idx == skipIndex) = false)
    (hn : k.sect < k.rowb / 32)
    (hread : s.readElem k (k.rowFrom k.row idx + 32 * k.sect) (k.rowb / 32 - k.sect)
      (!(k.red && k.op == some .scat) && (k.rowTo k.row idx + 32 * k.sect) % 256 == 0) = .ok t pk bs)
    (hb : bs.length / 32 ≤ budget) :
    (s.moveOn k budget).1 = (t.indexRead k).modCopy k (fun o => { o with
      idx := idx, sect := o.sect + elemSpan (pk, bs) / 32, buf := o.buf ++ [(pk, bs)] }) := by
  unfold State.moveOn
  simp only [hi, hskip, hn, hread, Bool.false_eq_true, false_and, if_false, if_true, Nat.not_lt.mpr hb]
  rfl

/-- A skipped row of a `scat` writes nothing. -/
theorem State.moveOn_skipScat (hskip : (k.indexed && idx == skipIndex) = true) (hop : k.op = some .scat) :
    s.moveOn k budget = ((s.indexRead k).nextRow k none none, budget) := by
  unfold State.moveOn
  simp only [hi, hskip, hop, and_self, if_true]
  rfl

/-- A skipped row of a `gath` writes zeros. -/
theorem State.moveOn_skipGath (hskip : (k.indexed && idx == skipIndex) = true) (hop : k.op = some .gath) :
    let w := s.writeRow k (List.replicate (k.rowb / 32) (false, List.replicate 32 0)) idx
    (s.moveOn k budget).1 = if w.2 then w.1.indexRead k else w.1 := by
  unfold State.moveOn
  simp only [hi, hskip, hop, true_and, Option.some.injEq, reduceCtorEq, if_false, if_true]
  rfl

end

/-- The index of a row at its first sector (R184). -/
theorem State.currentIndex_first {s : State} {k : Cmd} (hx : k.indexed = true) (h0 : k.sect = 0)
    (hs : (s.core k.core).spadSound (k.indexAt k.row) 4 = true)
    (h : s.indexFault k (s.rowIndex k k.row) = none ∨ s.rowIndex k k.row = skipIndex) :
    s.currentIndex k = .inr (s.rowIndex k k.row) := by
  unfold State.currentIndex
  simp only [hx, h0, hs, Bool.not_true, Bool.false_eq_true, if_false, ne_eq, not_true]
  by_cases hskip : s.rowIndex k k.row = skipIndex
  · rw [if_pos hskip]
  · rw [if_neg hskip, h.resolve_right hskip]

/-- A row whose index points outside the range fails (R194). -/
theorem State.moveOn_indexFault {s : State} {k : Cmd} {budget : Nat} {f : Cause} (hx : k.indexed = true) (h0 : k.sect = 0)
    (hs : (s.core k.core).spadSound (k.indexAt k.row) 4 = true) (hskip : s.rowIndex k k.row ≠ skipIndex)
    (hf : s.indexFault k (s.rowIndex k k.row) = some f) : s.moveOn k budget = (s.failCopy k f, 0) := by
  have hcur : s.currentIndex k = .inl (f, none) := by
    unfold State.currentIndex
    simp only [hx, h0, hs, Bool.not_true, Bool.false_eq_true, if_false, ne_eq, not_true, hskip, hf]
  unfold State.moveOn
  rw [hcur]

/-! ## The copy engine writes (R183, R185) -/

theorem Memory.writeN_append (m : Memory) (a : Nat) (v w : List Byte) :
    m.writeN a (v ++ w) = (m.writeN a v).writeN (a + v.length) w := by
  induction v generalizing m a with
  | nil => rfl
  | cons b v ih => rw [List.cons_append, Memory.writeN, ih, List.length_cons, Memory.writeN, Nat.add_right_comm, Nat.add_assoc]

/-- Elements of raw sectors. -/
def rawSectors (es : List (Bool × List Byte)) : Prop := ∀ e ∈ es, e.1 = false ∧ e.2.length = 32

theorem rawSectors_cons {e : Bool × List Byte} {es : List (Bool × List Byte)} (h : rawSectors (e :: es)) :
    (e.1 = false ∧ e.2.length = 32) ∧ rawSectors es :=
  ⟨h e List.mem_cons_self, fun x hx => h x (List.mem_cons_of_mem e hx)⟩

theorem length_rawSectors {es : List (Bool × List Byte)} (h : rawSectors es) : (es.flatMap (·.2)).length = 32 * es.length := by
  induction es with
  | nil => rfl
  | cons e es ih =>
    obtain ⟨⟨_, hl⟩, hes⟩ := rawSectors_cons h
    rw [List.flatMap_cons, List.length_append, ih hes, hl, List.length_cons]
    omega

/-- The pieces of a row of sectors in a scratchpad. -/
def spadPieces (c : Nat) : Nat → Nat → List (Bool × List Byte) → List Piece
  | _, _, [] => []
  | va, off, e :: es =>
    { va := va, place := .spad c off, lease := none, packed := e.1, bytes := e.2 } :: spadPieces c (va + 32) (off + 32) es

/-- A row that lies in a scratchpad is placed there. -/
theorem State.placeRow_spad {s : State} {k : Cmd} {c : Nat} {es : List (Bool × List Byte)} (he : rawSectors es) {first : Bool}
    {va off : Nat} (h : ∀ i, i < es.length → spadAt k.core (va + 32 * i) = some (c, off + 32 * i)) :
    s.placeRow k first va es = .ok s (spadPieces c va off es) := by
  induction es generalizing first va off with
  | nil => rfl
  | cons e es ih =>
    obtain ⟨⟨hraw, hlen⟩, hes⟩ := rawSectors_cons he
    have hspan : elemSpan e = 32 := by
      unfold elemSpan
      rw [hraw, hlen]
      rfl
    have h0 := h 0 (Nat.succ_pos _)
    rw [Nat.mul_zero, Nat.add_zero, Nat.add_zero] at h0
    have hrest := ih hes (first := false) (va := va + 32) (off := off + 32) fun i hi => by
      have := h (i + 1) (Nat.succ_lt_succ hi)
      rwa [show va + 32 * (i + 1) = va + 32 + 32 * i by omega, show off + 32 * (i + 1) = off + 32 + 32 * i by omega] at this
    unfold State.placeRow
    simp only [h0, hspan, hrest]
    rfl

/-- The pieces are written. -/
theorem State.SpadOnly.writePieces {s u : State} {k : Cmd} {c : Nat} {spad : Memory} (h : s.SpadOnly u c spad)
    {es : List (Bool × List Byte)} (he : rawSectors es) (va off : Nat) :
    s.SpadOnly ((spadPieces c va off es).foldl (fun u p => u.writePiece k p) u) c (spad.writeN off (es.flatMap (·.2))) := by
  induction es generalizing u spad va off with
  | nil => exact h
  | cons e es ih =>
    obtain ⟨⟨hraw, hlen⟩, hes⟩ := rawSectors_cons he
    rw [List.flatMap_cons, Memory.writeN_append, hlen]
    refine ih ?_ hes (va + 32) (off + 32)
    show s.SpadOnly (if e.1 = true then u.spadPacked c off e.2 else u.spadWrite c off e.2) c _
    rw [hraw]
    exact h.spadWrite off e.2

theorem State.SpadOnly.nextRow {s u : State} {core : Nat} {spad : Memory} (h : s.SpadOnly u core spad) (k : Cmd)
    (read write : Option Nat) : s.SpadOnly (u.nextRow k read write) core spad := by
  unfold State.nextRow State.modCopy
  exact h.modCtx _ _

/-- A row of sectors goes to a scratchpad. -/
theorem State.writeRow_spad {s : State} {k : Cmd} {c off idx : Nat} {es : List (Bool × List Byte)} (he : rawSectors es)
    (hop : k.op ≠ some .wfill) (hp : ∀ i, i < es.length → spadAt k.core (k.rowTo k.row idx + 32 * i) = some (c, off + 32 * i))
    (hb : (s.core c).badSpad = []) :
    (s.writeRow k es idx).2 = true ∧ s.SpadOnly (s.writeRow k es idx).1 c ((s.core c).spad.writeN off (es.flatMap (·.2))) := by
  unfold State.writeRow
  simp only [hop, if_false, State.placeRow_spad he hp]
  exact ⟨trivial, ((State.SpadOnly.refl hb).writePieces he _ off).nextRow k _ _⟩

/-- The weight buffer of a cluster is as given, and the other memories are as they were. -/
structure State.WbOnly (s u : State) (q : Nat) (wb : Memory) : Prop where
  wb : (u.cluster q).wb = wb
  other : ∀ x, x ≠ q → u.cluster x = s.cluster x
  core : ∀ x, (u.core x).spad = (s.core x).spad ∧ (u.core x).acc = (s.core x).acc
  mem : u.mem = s.mem

/-- A row of sectors goes to the weight buffer (R185). -/
theorem State.WbOnly.fillRow {s u : State} {k : Cmd} {wb : Memory} (h : s.WbOnly u (clusterOf k.core) wb)
    {es : List (Bool × List Byte)} (he : rawSectors es) (off : Nat) :
    s.WbOnly (u.fillRow k off es) (clusterOf k.core) (wb.writeN off (es.flatMap (·.2))) := by
  induction es generalizing u wb off with
  | nil => exact h
  | cons e es ih =>
    obtain ⟨⟨hraw, hlen⟩, hes⟩ := rawSectors_cons he
    have hspan : elemSpan e = 32 := by
      unfold elemSpan
      rw [hraw, hlen]
      rfl
    rw [State.fillRow, hspan, List.flatMap_cons, Memory.writeN_append, hlen, hraw]
    refine ih ?_ hes (off + 32)
    obtain ⟨hw, ho⟩ := u.wbWrite_cluster (clusterOf k.core) off e.2 false
    exact ⟨by rw [hw, h.wb]; rfl, fun x hx => (ho x hx).trans (h.other x hx), h.core, h.mem⟩

theorem State.writeRow_wfill {s : State} {k : Cmd} {idx : Nat} {es : List (Bool × List Byte)} (he : rawSectors es)
    (hop : k.op = some .wfill) :
    s.WbOnly (s.writeRow k es idx).1 (clusterOf k.core)
      ((s.cluster (clusterOf k.core)).wb.writeN (bits k.w2 0 23 + k.row * k.rowb) (es.flatMap (·.2))) := by
  have hto : k.rowTo k.row idx = bits k.w2 0 23 + k.row * k.rowb := by
    unfold Cmd.rowTo
    rw [hop]
  have hfill := State.WbOnly.fillRow (s := s) (u := s) (k := k) ⟨rfl, fun _ _ => rfl, fun _ => ⟨rfl, rfl⟩, rfl⟩ he
    (bits k.w2 0 23 + k.row * k.rowb)
  have hsame := (s.fillRow k (bits k.w2 0 23 + k.row * k.rowb) es).sameStores_modCtx k.core
  unfold State.writeRow
  simp only [hop, if_true, hto]
  exact ⟨hfill.wb, hfill.other, fun x => ⟨((hsame _).core x).1.trans (hfill.core x).1, ((hsame _).core x).2.1.trans (hfill.core x).2⟩,
    hfill.mem⟩

/-! ## The write queues of the slices (R368) -/

/-- The bytes that an entry of a write queue puts at its addresses. -/
def SliceEntry.spread (e : SliceEntry) : List (Nat × Byte) := (upto e.pa e.bytes.length).zip e.bytes

/-- The bytes that a write queue puts at their addresses, in order. -/
def State.queued (s : State) (sl : Nat) : List (Nat × Byte) := (s.slices.queues.get sl []).flatMap SliceEntry.spread

theorem zip_upto_append (pa : Nat) (v w : List Byte) :
    (upto pa (v ++ w).length).zip (v ++ w) = (upto pa v.length).zip v ++ (upto (pa + v.length) w.length).zip w := by
  rw [List.length_append, upto_append, List.zip_append (by rw [upto_eq_range', List.length_range'])]

/-- An entry joins the end of the queue of its slice. -/
theorem State.queued_queueWrite (s : State) (k : Cmd) (va pa : Nat) (l : Option Lease) (pk : Bool) (bs : List Byte) :
    (s.queueWrite k va pa l pk bs).queued (s.sliceOf pa) = s.queued (s.sliceOf pa) ++ (upto pa bs.length).zip bs := by
  unfold State.queued State.queueWrite
  dsimp only
  rw [Store.get_put_same]
  cases hq : (s.slices.queues.get (s.sliceOf pa) []).getLast? with
  | none =>
    rw [List.getLast?_eq_none_iff.1 hq]
    exact List.append_nil _
  | some o =>
    obtain ⟨init, hinit⟩ := List.getLast?_eq_some_iff.1 hq
    dsimp only
    split
    next hjoin =>
      simp only [Bool.and_eq_true, beq_iff_eq] at hjoin
      rw [hinit, List.dropLast_concat, List.flatMap_append, List.flatMap_append, List.append_assoc]
      refine congrArg _ ?_
      simp only [List.flatMap_cons, List.flatMap_nil, List.append_nil, SliceEntry.spread]
      rw [zip_upto_append, hjoin.2]
    · rw [List.flatMap_append]
      refine congrArg _ ?_
      simp only [List.flatMap_cons, List.flatMap_nil, List.append_nil, SliceEntry.spread]

theorem State.queued_queueWrite_other (s : State) (k : Cmd) (va pa : Nat) (l : Option Lease) (pk : Bool) (bs : List Byte) {sl : Nat}
    (h : sl ≠ s.sliceOf pa) : (s.queueWrite k va pa l pk bs).queued sl = s.queued sl := by
  unfold State.queued State.queueWrite
  dsimp only
  rw [Store.get_put_other _ h]

/-! ## Reductions at their slice (R184, R242) -/

theorem State.devRead_plain (s : State) (a n : Nat) : s.devRead false a n = s.mem.readN a n := by
  rw [Memory.readN_eq_map]
  rfl

/-- Lanes added one after another. -/
def State.addLanes (s : State) (core : Nat) (ty : LaneTy) (pa : Nat) (el : Nat → Lane) (q : Nat) : State :=
  (upto 0 q).foldl (fun t i =>
    (t.devWrite false (pa + 4 * i) (leBytes 4 (laneSum ty (t.mem.lane (pa + 4 * i)) (el i)).toNat)).getD
      ((t.machineCheck 0 (t.refusedKind (pa + 4 * i) 4) (t.sliceOf (pa + 4 * i)) (t.ownerOf (pa + 4 * i)) (pa + 4 * i) 0).postedFail
        core (pa + 4 * i))) s

theorem State.reduceAt_eq (s : State) (core : Nat) (ty : LaneTy) (pa : Nat) {bs : List Byte} (h : bs.length % 4 = 0) :
    s.reduceAt core ty false pa bs =
      s.addLanes core ty pa (fun j => BitVec.ofNat 32 (leNat ((bs.drop (4 * j)).take 4))) (bs.length / 4) := by
  have hq : ceilDiv bs.length 4 = bs.length / 4 := by unfold ceilDiv; omega
  unfold State.reduceAt State.addLanes
  rw [pieces_eq (by decide), hq, zip_upto_map, List.foldl_map]
  simp only [State.devRead_plain]
  rfl

/-- What the added lanes leave, where no sector is flawed. -/
theorem State.addLanes_clean {s : State} (h : s.slices.bad = []) (core : Nat) (ty : LaneTy) (pa : Nat) (el : Nat → Lane) (q : Nat) :
    (s.addLanes core ty pa el q).slices.bad = [] ∧
      (∀ j, j < q → (s.addLanes core ty pa el q).mem.lane (pa + 4 * j) = laneSum ty (s.mem.lane (pa + 4 * j)) (el j)) ∧
      ∀ b, b < pa ∨ pa + 4 * q ≤ b → (s.addLanes core ty pa el q).mem.read b = s.mem.read b := by
  induction q with
  | zero => exact ⟨h, fun j hj => absurd hj (Nat.not_lt_zero j), fun _ _ => rfl⟩
  | succ q ih =>
    obtain ⟨hbad, hlane, hout⟩ := ih
    have hstep : s.addLanes core ty pa el (q + 1) = { s.addLanes core ty pa el q with
        mem := (s.addLanes core ty pa el q).mem.writeN (pa + 4 * q)
          (leBytes 4 (laneSum ty ((s.addLanes core ty pa el q).mem.lane (pa + 4 * q)) (el q)).toNat) } := by
      conv_lhs => unfold State.addLanes
      rw [upto_succ, List.foldl_append, Nat.zero_add]
      show Option.getD (State.devWrite (s.addLanes core ty pa el q) _ _ _) _ = _
      rw [State.devWrite_clean hbad]
      rfl
    have hold : (s.addLanes core ty pa el q).mem.lane (pa + 4 * q) = s.mem.lane (pa + 4 * q) :=
      Memory.lane_congr fun b h1 _ => hout b (.inr h1)
    rw [hstep]
    refine ⟨hbad, fun j hj => ?_, fun b hb => ?_⟩
    · dsimp only
      by_cases hjq : j = q
      · rw [hjq, Memory.lane_writeN_same, hold]
      · rw [← hlane j (by omega)]
        exact Memory.lane_congr fun b _ h2 => Memory.read_writeN_outside _ _ _ _ (.inl (by omega))
    · dsimp only
      rw [Memory.read_writeN_outside _ _ _ _ (by rw [length_leBytes]; omega), hout b (by omega)]


theorem gath_ne_skip {k : Cmd} {index : Nat} (h : k.op = some .gath ∨ k.op = some .scat → index ≠ 0xFFFFFFFF) :
    (k.indexed && (if k.op = some .gath ∨ k.op = some .scat then index else 0) == skipIndex) = false := by
  by_cases hx : k.op = some .gath ∨ k.op = some .scat
  · rw [if_pos hx, Bool.and_eq_false_iff]
    exact .inr (beq_eq_false_iff_ne.2 (h hx))
  · rw [Bool.and_eq_false_iff]
    exact .inl (Bool.eq_false_iff.2 fun hi => hx (k.indexed_iff.1 hi))

/-- What the copy engine moves (R182 to R185, R242, R365, R367, R368). -/
theorem copyResults (s : State) (k : Cmd) (c off idx budget : Nat) (es : List (Bool × List Byte)) :
    let n := k.rowb / 32
    let index := ((s.core k.core).spad.lane (k.indexAt k.row)).toNat
    let idx' := if k.op = some .gath ∨ k.op = some .scat then index else 0
    let src := (if k.op = some .gath then wrapAddr k.src (idx' * k.rowb) else k.srcRow k.row) + 32 * k.sect
    let whole := !(k.red && k.op == some .scat) && (k.rowTo k.row idx' + 32 * k.sect) % 256 == 0 && src % 256 == 0 && 8 ≤ n - k.sect &&
      (s.core c).packed.contains (off / 256)
    let read := fun (t : State) => t.spadFetched k.core (k.indexAt k.row) 4
    let took := fun (t : State) (pk : Bool) (bs : List Byte) => (if k.indexed && k.sect == 0 then read t else t).modCopy k (fun o => { o with
      idx := idx', sect := o.sect + (if pk then 8 else bs.length / 32), buf := o.buf ++ [(pk, bs)] })
    let flat := fun (u : State) (sl : Nat) =>
      (u.slices.queues.get sl []).flatMap (fun e => (upto e.pa e.bytes.length).zip e.bytes)
    (s.currentIndex k = .inr idx' → k.sect < n → spadAt k.core src = some (c, off) →
      (k.op = some .gath ∨ k.op = some .scat → index ≠ 0xFFFFFFFF) →
      (whole = false → 1 ≤ budget → (s.core c).spadSound off 32 = true →
        (s.moveOn k budget).1 = took (s.spadFetched c off 32) false ((s.core c).spad.readN off 32)) ∧
        (whole = true →
          let m := packSectors ((s.core c).spad.readN off 8) + 1
          m ≤ budget → (s.core c).spadSound off (32 * m) = true →
          (s.moveOn k budget).1 = took (s.spadFetched c off (32 * m)) true ((s.core c).spad.readN off (32 * m)))) ∧
      (k.sect = 0 → (k.op = some .gath ∨ k.op = some .scat) → (s.core k.core).spadSound (k.indexAt k.row) 4 = true →
        (s.indexFault k index = none ∨ index = 0xFFFFFFFF → s.currentIndex k = .inr index) ∧
          (index = 0xFFFFFFFF → k.op = some .gath →
            let w := s.writeRow k (List.replicate n (false, List.replicate 32 0)) index
            (s.moveOn k budget).1 = if w.2 then read w.1 else w.1) ∧
          (index = 0xFFFFFFFF → k.op = some .scat → s.moveOn k budget = ((read s).nextRow k none none, budget)) ∧
          (∀ f, index ≠ 0xFFFFFFFF → s.indexFault k index = some f → s.moveOn k budget = (s.failCopy k f, 0))) ∧
      ((∀ e ∈ es, e.1 = false ∧ e.2.length = 32) →
        (k.op ≠ some .wfill → (∀ i, i < es.length → spadAt k.core (k.rowTo k.row idx + 32 * i) = some (c, off + 32 * i)) →
          (s.core c).badSpad = [] →
          let u := (s.writeRow k es idx).1
          (s.writeRow k es idx).2 = true ∧ (u.core c).spad.readN off (32 * es.length) = es.flatMap (·.2) ∧
            (∀ b, b < off ∨ off + 32 * es.length ≤ b → (u.core c).spad.read b = (s.core c).spad.read b) ∧
            (∀ x, x ≠ c → (u.core x).spad = (s.core x).spad) ∧ (∀ x, (u.core x).acc = (s.core x).acc) ∧ u.mem = s.mem ∧
            u.clusters = s.clusters) ∧
          (k.op = some .wfill →
            let q := clusterOf k.core
            let o := bits k.w2 0 23 + k.row * k.rowb
            let u := (s.writeRow k es idx).1
            (u.cluster q).wb.readN o (32 * es.length) = es.flatMap (·.2) ∧
              (∀ b, b < o ∨ o + 32 * es.length ≤ b → (u.cluster q).wb.read b = (s.cluster q).wb.read b) ∧
              (∀ x, x ≠ q → u.cluster x = s.cluster x) ∧ (∀ x, (u.core x).spad = (s.core x).spad ∧ (u.core x).acc = (s.core x).acc) ∧
              u.mem = s.mem)) ∧
      (∀ va pa l pk bs, let u := s.queueWrite k va pa l pk bs
        flat u (s.sliceOf pa) = flat s (s.sliceOf pa) ++ (upto pa bs.length).zip bs ∧ (∀ sl, sl ≠ s.sliceOf pa → flat u sl = flat s sl) ∧
          u.mem = s.mem ∧ u.cores = s.cores ∧ u.clusters = s.clusters) ∧
      (∀ pa ty bs j, s.slices.bad = [] → bs.length % 4 = 0 → j < bs.length / 4 →
        let u := s.reduceAt k.core ty false pa bs
        u.mem.lane (pa + 4 * j) = laneSum ty (s.mem.lane (pa + 4 * j)) (BitVec.ofNat 32 (leNat ((bs.drop (4 * j)).take 4))) ∧
          (∀ b, b < pa ∨ pa + bs.length ≤ b → u.mem.read b = s.mem.read b)) := by
  intro n index idx' src whole read took flat
  refine ⟨fun hi hn hp hne => ⟨fun hw hb hs => ?_, fun hw => ?_⟩, fun h0 hop hs => ⟨?_, ?_, ?_, ?_⟩,
    fun he => ⟨fun hop hp hb => ?_, fun hop => ?_⟩, fun va pa l pk bs => ?_, fun pa ty bs j hbad h4 hj => ?_⟩
  · have hread := State.readElem_spad hp hw hs
    rw [if_neg Bool.false_ne_true] at hread
    rw [State.moveOn_read hi (gath_ne_skip hne) hn hread (by rw [Memory.length_readN]; exact hb)]
    simp only [elemSpan_sectors]
    rfl
  · intro m hb hs
    have hread := State.readElem_spad hp hw hs
    rw [if_pos rfl] at hread
    rw [State.moveOn_read hi (gath_ne_skip hne) hn hread
      (by rw [Memory.length_readN, Nat.mul_div_cancel_left _ (by decide)]; exact hb)]
    simp only [elemSpan_sectors]
    rfl
  · exact State.currentIndex_first (k.indexed_iff.2 hop) h0 hs
  · intro hskip hg w
    have hx := k.indexed_iff.2 hop
    have hread : ∀ t : State, t.indexRead k = read t := fun t => if_pos (by rw [hx, h0]; rfl)
    rw [State.moveOn_skipGath (State.currentIndex_first hx h0 hs (.inr hskip)) (by rw [hx]; exact beq_iff_eq.2 hskip) hg, hread]
    rfl
  · intro hskip hg
    have hx := k.indexed_iff.2 hop
    have hread : ∀ t : State, t.indexRead k = read t := fun t => if_pos (by rw [hx, h0]; rfl)
    rw [State.moveOn_skipScat (State.currentIndex_first hx h0 hs (.inr hskip)) (by rw [hx]; exact beq_iff_eq.2 hskip) hg, hread]
  · intro f hne hf
    exact State.moveOn_indexFault (k.indexed_iff.2 hop) h0 hs hne hf
  · intro u
    obtain ⟨hdone, h⟩ := State.writeRow_spad he hop hp hb
    rw [← length_rawSectors he]
    refine ⟨hdone, by rw [h.spad, Memory.readN_writeN], fun b hout => ?_, h.other, h.acc, h.mem, h.clusters⟩
    rw [h.spad]
    exact Memory.read_writeN_outside _ _ _ _ hout
  · intro q o u
    have h := State.writeRow_wfill (s := s) (idx := idx) he hop
    rw [← length_rawSectors he]
    refine ⟨by rw [h.wb, Memory.readN_writeN], fun b hout => ?_, h.other, h.core, h.mem⟩
    rw [h.wb]
    exact Memory.read_writeN_outside _ _ _ _ hout
  · exact ⟨s.queued_queueWrite k va pa l pk bs, fun sl hsl => s.queued_queueWrite_other k va pa l pk bs hsl, rfl, rfl, rfl⟩
  · intro u
    obtain ⟨_, hlane, hout⟩ := State.addLanes_clean hbad k.core ty pa
      (fun j => BitVec.ofNat 32 (leNat ((bs.drop (4 * j)).take 4))) (bs.length / 4)
    rw [← State.reduceAt_eq s k.core ty pa h4] at hlane hout
    exact ⟨hlane j hj, fun b hb => hout b (by omega)⟩

/-- Settles O46: the transforms as butterflies over their halves, and the copy engine's rows element by element. -/
theorem transformAndCopyResults : Obligations.TransformAndCopyResults := by
  unfold Obligations.TransformAndCopyResults
  exact ⟨transformResults, copyResults⟩

end Sys2Proof.Machine
end
